-- ==== Sys2Proof/Word.lean ====
section
/-! DEFINITION. The word types of the GX9: the widths that R4 (instruction words), R56 (integers)
and R70 (A34) name. Only names for widths stand here. -/

namespace Sys2Proof

/-- A byte of memory (R5). -/
abbrev Byte := BitVec 8

/-- A 32-bit word: an instruction word (R4), a scalar, a lane of a vector register (R56). -/
abbrev Word := BitVec 32

/-- A 64-bit value: a scalar pair (R10), a mask register (R91), a code reference (R158). -/
abbrev Dword := BitVec 64

/-- An A34 accumulator element (R70). -/
abbrev A34 := BitVec 34

end Sys2Proof
end

