-- ==== Sys2Proof/Config.lean ====
section
/-! DEFINITION. What the manual leaves open or an implementation fixes: constants with no body, so
that no proof can see what they are. Each is named in a row of notes/assumptions. -/

namespace Sys2Proof.Config

/-- The free values of R9: the value of draw `n` of the model's own counter (assumption 1). Used for
`FSIN` and `FCOS` of a finite operand above 2^20 in magnitude (R77) and for every other value that
assumption 1 lists. -/
opaque freeValue : Nat → BitVec 32

/-- The fixed hash that maps a line of a die to one of the 16 slices of its L2 (R189). -/
opaque l2Slice : Nat → BitVec 4

/-- The set of its slice that a line of a die falls into, which the manual does not give (R191; assumption 55). -/
opaque l2Set : Nat → Nat

/-- The part's second-tier capacity and every other outside fact come in through events; the one
private fact of a part is its attestation key: the signature over a byte string (R296, R366). -/
opaque signature : List (BitVec 8) → BitVec 1056

/-- The first 32 bytes of the digest of the device's SPDM identity certificate chain (R296). -/
opaque deviceDigest : BitVec 256

/-- The bytes with which the device answers an SPDM 1.3 request (R13): the standard's message for
that request, with the part's own identity in it. -/
opaque spdmAnswer : List Nat → List Nat

/-- The bytes of the stop record that Headland writes in an orderly stop, before their signature (R336). -/
opaque stopRecord : Nat → List (BitVec 8)

/-- The reference at which Headland's cores of a role start: 0 the pair, 1 the monitor. -/
opaque headlandStart : Nat → BitVec 64

/-- The CORE field that `WARPID` shows on each service core, which has no local number (R299). -/
opaque serviceCore : Nat → BitVec 6

end Sys2Proof.Config
end

