-- ==== Sys2Proof/Machine/Float.lean ====
section
/-! DEFINITION. Arithmetic of R55 to R79: formats, exact values, the one `Round` of R62, and the exact
operations. A finite value is a sign, a natural number and a power of two; a result that is not such a
value (a quotient, a root, a function of R77) carries a sticky one below more bits than any rounding sees. -/

namespace Sys2Proof.Machine

/-- The five flags: NV, DZ, OF, UF, NX from bit 4 down, as in `WSTAT` bits 7:3 (R64). -/
abbrev Flags := BitVec 5

def flagNV : Flags := 16
def flagDZ : Flags := 8
def flagOF : Flags := 4
def flagUF : Flags := 2
def flagNX : Flags := 1

/-- A flag if `b` holds. -/
def flagIf (b : Bool) (f : Flags) : Flags := if b then f else 0

/-- A floating-point format (R57, R70): bits of precision, exponents of the smallest and of the largest
normal number, and whether it has subnormals. -/
structure Fmt where
  prec : Nat
  emin : Int
  emax : Int
  sub : Bool
  deriving DecidableEq, Repr

def binary32 : Fmt := ⟨24, -126, 127, true⟩
def binary16 : Fmt := ⟨11, -14, 15, true⟩
def bfloat16 : Fmt := ⟨8, -126, 127, true⟩
def a34 : Fmt := ⟨24, -510, 511, false⟩

/-- Bits of the exponent field. -/
def Fmt.ebits (f : Fmt) : Nat := Nat.log2 (f.emax.toNat + 1) + 1

/-- The exponent of the unit of the smallest binade. -/
def Fmt.qmin (f : Fmt) : Int := f.emin - (f.prec - 1 : Nat)

/-- A finite exact value: (-1)^neg * man * 2^exp. -/
structure Dy where
  neg : Bool
  man : Nat
  exp : Int
  deriving DecidableEq, Repr

/-- A value of a format, or an exact result. -/
inductive Fp where
  | nan (signalling : Bool)
  | inf (neg : Bool)
  | fin (x : Dy)
  deriving DecidableEq, Repr

/-- `2^k` for a non-negative `k`, else 1. -/
def pow2 (k : Int) : Nat := 2 ^ k.toNat

/-- ⌊log2⌋ of a nonzero finite value. -/
def Dy.log (x : Dy) : Int := (Nat.log2 x.man : Int) + x.exp

/-- Whether the magnitude is rounded up: by mode, sign, parity, discarded part and half unit (R61; modes 5 to 7: assumption 59). -/
def roundsUp (mode : Nat) (neg odd : Bool) (rem half : Nat) : Bool :=
  match mode with
  | 0 => decide (half < rem) || (decide (rem = half) && odd)
  | 1 => false
  | 2 => neg && decide (0 < rem)
  | 3 => !neg && decide (0 < rem)
  | _ => decide (half ≤ rem)

/-- A value rounded to a multiple of 2^q: the multiple, and whether it is inexact. -/
def roundAt (mode : Nat) (x : Dy) (q : Int) : Nat × Bool :=
  if q ≤ x.exp then (x.man * pow2 (x.exp - q), false)
  else
    let k := pow2 (q - x.exp)
    let n := x.man / k
    let rem := x.man % k
    ((if roundsUp mode x.neg (n % 2 == 1) (2 * rem) k then n + 1 else n), decide (rem ≠ 0))

/-- The bits of sign, then the rest, of a format. -/
def Fmt.bits (f : Fmt) (neg : Bool) (rest : Nat) : Nat :=
  (if neg then 2 ^ (f.ebits + f.prec - 1) else 0) + rest

def Fmt.infBits (f : Fmt) : Nat := (2 ^ f.ebits - 1) * 2 ^ (f.prec - 1)
def Fmt.nanBits (f : Fmt) : Nat := f.infBits + 2 ^ (f.prec - 2)
def Fmt.maxBits (f : Fmt) : Nat := f.infBits - 1

/-- Result of overflow (R62). -/
def overflowBits (f : Fmt) (mode : Nat) (neg : Bool) : Nat :=
  let toInf := match mode with
    | 1 => false
    | 2 => neg
    | 3 => !neg
    | _ => true
  f.bits neg (if toInf then f.infBits else f.maxBits)

/-- `Round(x, fmt, mode)` of a finite value (R62, R71). -/
def roundDy (f : Fmt) (mode : Nat) (x : Dy) : Nat × Flags :=
  if x.man = 0 then (f.bits x.neg 0, 0)
  else
    let q := x.log - (f.prec - 1 : Nat)
    let y := (roundAt mode x q).1
    let ylog := (Nat.log2 y : Int) + q
    if f.emax < ylog then (overflowBits f mode x.neg, flagOF ||| flagNX)
    else if !f.sub && decide (ylog < f.emin) then (f.bits x.neg 0, flagUF ||| flagNX)
    else
      let q' := if q < f.qmin then f.qmin else q
      let r := roundAt mode x q'
      (f.bits x.neg ((q' - f.qmin).toNat * 2 ^ (f.prec - 1) + r.1),
        flagIf r.2 flagNX ||| flagIf (r.2 && decide (ylog < f.emin)) flagUF)

/-- `Round` of an exact result: a NaN result is the default NaN (R59), and raises nothing here. -/
def roundFp (f : Fmt) (mode : Nat) : Fp → Nat × Flags
  | .nan _ => (f.nanBits, 0)
  | .inf neg => (f.bits neg f.infBits, 0)
  | .fin x => roundDy f mode x

/-- The value that bits of a format hold (R57, R70). -/
def unpack (f : Fmt) (w : Nat) : Fp :=
  let frac := w % 2 ^ (f.prec - 1)
  let e := w / 2 ^ (f.prec - 1) % 2 ^ f.ebits
  let neg := decide (w / 2 ^ (f.ebits + f.prec - 1) % 2 = 1)
  if e = 2 ^ f.ebits - 1 then
    if frac = 0 then .inf neg else .nan (f.sub && decide (frac < 2 ^ (f.prec - 2)))
  else if e = 0 then .fin ⟨neg, if f.sub then frac else 0, f.qmin⟩
  else .fin ⟨neg, frac + 2 ^ (f.prec - 1), f.qmin + (e - 1 : Nat)⟩

def Fp.isNan : Fp → Bool
  | .nan _ => true
  | _ => false

def Fp.isSnan : Fp → Bool
  | .nan s => s
  | _ => false

def Fp.negate : Fp → Fp
  | .nan s => .nan s
  | .inf n => .inf (!n)
  | .fin x => .fin { x with neg := !x.neg }

def Fp.isZero : Fp → Bool
  | .fin x => x.man == 0
  | _ => false

/-- Signed value of a finite number in units of 2^q, for `q` at most its exponent. -/
def Dy.units (x : Dy) (q : Int) : Int :=
  let v : Int := x.man * pow2 (x.exp - q)
  if x.neg then -v else v

/-- The exact sum of two finite values; a zero sum of values of opposite sign takes its sign from the
mode (R62). -/
def addDy (mode : Nat) (x y : Dy) : Dy :=
  let q := min x.exp y.exp
  let v := x.units q + y.units q
  if v = 0 then ⟨if x.neg = y.neg then x.neg else mode == 2, 0, q⟩
  else ⟨decide (v < 0), v.natAbs, q⟩

def mulDy (x y : Dy) : Dy := ⟨x.neg != y.neg, x.man * y.man, x.exp + y.exp⟩

/-- Flags of signalling operands (R59). -/
def snanFlags (l : List Fp) : Flags := flagIf (l.any Fp.isSnan) flagNV

/-- Exact sum with the special cases of R94. -/
def addFp (mode : Nat) (a b : Fp) : Fp × Flags :=
  match a, b with
  | .nan _, _ => (.nan false, 0)
  | _, .nan _ => (.nan false, 0)
  | .inf x, .inf y => if x = y then (.inf x, 0) else (.nan false, flagNV)
  | .inf x, .fin _ => (.inf x, 0)
  | .fin _, .inf y => (.inf y, 0)
  | .fin x, .fin y => (.fin (addDy mode x y), 0)

/-- Exact product with the special cases of R94. -/
def mulFp (a b : Fp) : Fp × Flags :=
  match a, b with
  | .inf x, .inf y => (.inf (x != y), 0)
  | .inf x, .fin y => if y.man = 0 then (.nan false, flagNV) else (.inf (x != y.neg), 0)
  | .fin x, .inf y => if x.man = 0 then (.nan false, flagNV) else (.inf (x.neg != y), 0)
  | .fin x, .fin y => (.fin (mulDy x y), 0)
  | _, _ => (.nan false, 0)

/-- A rounded sum in a format. -/
def fadd (f : Fmt) (mode : Nat) (a b : Nat) : Nat × Flags :=
  let x := unpack f a
  let y := unpack f b
  let s := addFp mode x y
  let r := roundFp f mode s.1
  (r.1, r.2 ||| s.2 ||| snanFlags [x, y])

/-- The operand with its sign inverted. -/
def fneg (f : Fmt) (a : Nat) : Nat := Nat.xor a (2 ^ (f.ebits + f.prec - 1))

def fsub (f : Fmt) (mode : Nat) (a b : Nat) : Nat × Flags := fadd f mode a (fneg f b)

def fmul (f : Fmt) (mode : Nat) (a b : Nat) : Nat × Flags :=
  let x := unpack f a
  let y := unpack f b
  let s := mulFp x y
  let r := roundFp f mode s.1
  (r.1, r.2 ||| s.2 ||| snanFlags [x, y])

/-- `±(a × b) ± c`, rounded once (R78, R94). -/
def ffma (f : Fmt) (mode : Nat) (negProd negC : Bool) (a b c : Nat) : Nat × Flags :=
  let x := unpack f a
  let y := unpack f b
  let z := if negC then (unpack f c).negate else unpack f c
  let m := mulFp x y
  let m' := if negProd then m.1.negate else m.1
  let s := addFp mode m' z
  let r := roundFp f mode s.1
  (r.1, r.2 ||| m.2 ||| s.2 ||| snanFlags [x, y, z])

/-- `a < b` for values that are no NaN, with -0 = +0. -/
def ltFp (a b : Fp) : Bool :=
  match a, b with
  | .inf x, .inf y => x && !y
  | .inf x, .fin _ => x
  | .fin _, .inf y => !y
  | .fin x, .fin y => decide (x.units (min x.exp y.exp) < y.units (min x.exp y.exp))
  | _, _ => false

def eqFp (a b : Fp) : Bool :=
  match a, b with
  | .inf x, .inf y => x == y
  | .fin x, .fin y => decide (x.units (min x.exp y.exp) = y.units (min x.exp y.exp))
  | _, _ => false

def Fp.isNeg : Fp → Bool
  | .nan _ => false
  | .inf n => n
  | .fin x => x.neg

/-- FMIN and FMAX (R95): -0 is less than +0. -/
def fminmax (f : Fmt) (max : Bool) (a b : Nat) : Nat × Flags :=
  let x := unpack f a
  let y := unpack f b
  let fl := snanFlags [x, y]
  match x.isNan, y.isNan with
  | true, true => (f.nanBits, fl)
  | true, false => (b, fl)
  | false, true => (a, fl)
  | false, false =>
    let less := ltFp x y || (eqFp x y && x.isNeg && !y.isNeg)
    (if less != max then a else b, fl)

/-- The class word of R96. -/
def fclass (f : Fmt) (a : Nat) : Nat :=
  match unpack f a with
  | .nan s => if s then 256 else 512
  | .inf n => if n then 1 else 128
  | .fin x =>
    if x.man = 0 then (if x.neg then 8 else 16)
    else if x.man < 2 ^ (f.prec - 1) then (if x.neg then 4 else 32)
    else (if x.neg then 2 else 64)

/-- A value rounded to an integral value under `mode`; NX only if `nx` (R94). -/
def fintegral (f : Fmt) (mode : Nat) (nx : Bool) (a : Nat) : Nat × Flags :=
  match unpack f a with
  | .nan s => (f.nanBits, flagIf s flagNV)
  | .inf _ => (a, 0)
  | .fin x =>
    let r := roundAt mode x 0
    ((roundDy f 0 ⟨x.neg, r.1, 0⟩).1, flagIf (nx && r.2) flagNX)

/-- `a × 2^n` (R94). Past 1,000 in magnitude `n` changes no result, so it is clamped there. -/
def fscale (f : Fmt) (mode : Nat) (a : Nat) (n : Int) : Nat × Flags :=
  match unpack f a with
  | .nan s => (f.nanBits, flagIf s flagNV)
  | .inf _ => (a, 0)
  | .fin x => if x.man = 0 then (a, 0) else roundDy f mode { x with exp := x.exp + max (-1000) (min 1000 n) }

/-- A conversion between formats (R72). -/
def fconv (src dst : Fmt) (mode : Nat) (a : Nat) : Nat × Flags :=
  let x := unpack src a
  let r := roundFp dst mode x
  (r.1, r.2 ||| snanFlags [x])

/-- A float to an integer in `[lo, hi]` (R72). -/
def ftoint (mode : Nat) (lo hi : Int) (x : Fp) : Int × Flags :=
  match x with
  | .nan _ => (0, flagNV)
  | .inf n => (if n then lo else hi, flagNV)
  | .fin x =>
    let r := roundAt mode x 0
    let v : Int := if x.neg then -(r.1 : Int) else r.1
    if v < lo then (lo, flagNV) else if hi < v then (hi, flagNV) else (v, flagIf r.2 flagNX)

/-- An integer to a float (R72). -/
def intToF (f : Fmt) (mode : Nat) (v : Int) : Nat × Flags := roundDy f mode ⟨decide (v < 0), v.natAbs, 0⟩

/-! ### Special functions (R77, R97) -/

/-- A value with a sticky one below it: `m * 2^e` and a little more. -/
def sticky (neg : Bool) (m : Nat) (e : Int) : Dy := ⟨neg, 2 * m + 1, e - 1⟩

/-- A quotient of naturals to `k` binary places, sticky unless exact. -/
def quotDy (neg : Bool) (a b k : Nat) (e : Int) : Dy :=
  let t := a * 2 ^ k
  if t % b = 0 then ⟨neg, t / b, e - k⟩ else sticky neg (t / b) (e - k)

/-- Integer square root of `n`, bit by bit from bit `i` down. -/
def isqrt (n : Nat) : Nat → Nat → Nat
  | 0, r => r
  | i + 1, r => isqrt n i (if (r + 2 ^ i) * (r + 2 ^ i) ≤ n then r + 2 ^ i else r)

/-- Binary places of the fixed-point functions. -/
def fxBits : Nat := 400

/-- π / 2 and ln 2 in fixed point. -/
def halfPi : Nat := 4056188623365485619431135675650447259580575800089632601795595518807615452686995249372761680463408407713783389863663788118
def ln2 : Nat := 1789879222497203190815761498240779176894896805856420935579692301363062920687047601279850318367644315849030039181347319086

/-- Fixed-point Taylor sum of `exp y` for `0 ≤ y < 1`, from term `k` on. -/
def expSum (y : Nat) : Nat → Nat → Nat → Nat
  | 0, _, _ => 0
  | n + 1, k, t => t + expSum y n (k + 1) (t * y / 2 ^ fxBits / (k + 1))

/-- `2^f` in fixed point for a fraction `f` in fixed point. -/
def exp2Frac (f : Nat) : Nat := expSum (f * ln2 / 2 ^ fxBits) 110 0 (2 ^ fxBits)

/-- Alternating Taylor sum with the squares of `y`: terms `t`, dividing by (k+1)(k+2). -/
def trigSum (y2 : Nat) : Nat → Nat → Int → Int
  | 0, _, _ => 0
  | n + 1, k, t => t + trigSum y2 n (k + 2) (-(t * y2 / 2 ^ fxBits / ((k + 1) * (k + 2))))

/-- sin and cos in fixed point, of an angle in `[0, π/2)`. -/
def sinFx (r : Nat) : Int := trigSum (r * r / 2 ^ fxBits) 80 1 r
def cosFx (r : Nat) : Int := trigSum (r * r / 2 ^ fxBits) 80 0 (2 ^ fxBits : Nat)

/-- The sine of `n π/2 + r` in fixed point. -/
def sinQuad (n r : Nat) : Int :=
  match n % 4 with
  | 0 => sinFx r
  | 1 => cosFx r
  | 2 => -(sinFx r)
  | _ => -(cosFx r)

/-- Sum of `z^(2k+1) / (2k+1)` in fixed point. -/
def atanhSum (z2 : Nat) : Nat → Nat → Nat → Nat
  | 0, _, _ => 0
  | n + 1, k, t => t / k + atanhSum z2 n (k + 2) (t * z2 / 2 ^ fxBits)

/-- ln of `m / 2^b` for a value in `[1, 2)`, in fixed point. -/
def lnFx (m b : Nat) : Nat :=
  let z := (m - 2 ^ b) * 2 ^ fxBits / (m + 2 ^ b)
  2 * atanhSum (z * z / 2 ^ fxBits) 130 1 z

/-- A fixed-point value as a finite value with a sticky one. -/
def fxDy (neg : Bool) (v : Nat) (e : Int) : Dy := sticky neg v (e - fxBits)

/-- The value in fixed point, for an exponent of at least -400. -/
def Dy.toFx (x : Dy) : Nat := x.man * pow2 (x.exp + fxBits)

/-- The special functions of R97. -/
inductive Spec where
  | rcp
  | rsq
  | sqrt
  | exp2
  | log2
  | sin
  | cos
  | tanh
  deriving DecidableEq, Repr

/-- A finite value a little nearer to zero than `x`. -/
def below (x : Dy) : Dy := ⟨x.neg, x.man * 2 ^ 200 - 1, x.exp - 200⟩

/-- The exact result at a nonzero finite operand, or a value that every rounding to binary32 treats as it.
`FRSQ`, `FSQRT` and `FLOG2` are asked for positive operands only. -/
def specFin (g : Spec) (x : Dy) : Dy :=
  match g with
  | .rcp => quotDy x.neg 1 x.man 200 (-x.exp)
  | .sqrt =>
    let odd := x.exp % 2 == 1
    let m := (if odd then 2 * x.man else x.man) * 2 ^ 200
    let e := (if odd then x.exp - 1 else x.exp) / 2 - 100
    let r := isqrt m 130 0
    if r * r = m then ⟨false, r, e⟩ else sticky false r e
  | .rsq =>
    let odd := x.exp % 2 == 1
    let m := if odd then 2 * x.man else x.man
    let e := (if odd then x.exp - 1 else x.exp) / 2
    let t := 2 ^ 300 / m
    let r := isqrt t 152 0
    if r * r * m = 2 ^ 300 then ⟨false, r, -e - 150⟩ else sticky false r (-e - 150)
  | .exp2 =>
    if 10 ≤ x.log then (if x.neg then ⟨false, 1, -1000⟩ else ⟨false, 1, 1000⟩)
    else
      let v : Int := if x.neg then -(x.toFx : Int) else x.toFx
      let i := v / (2 ^ fxBits : Nat)
      let f := (v % (2 ^ fxBits : Nat)).toNat
      if f = 0 then ⟨false, 1, i⟩ else fxDy false (exp2Frac f) i
  | .log2 =>
    let b := Nat.log2 x.man
    let i := x.log
    if x.man = 2 ^ b then ⟨decide (i < 0), i.natAbs, 0⟩
    else
      let l : Int := i * (2 ^ fxBits : Nat) + (lnFx x.man b * 2 ^ fxBits / ln2 : Nat)
      fxDy (decide (l < 0)) l.natAbs 0
  | .sin =>
    if x.log < -30 then below x
    else
      let s := sinQuad (x.toFx / halfPi) (x.toFx % halfPi)
      fxDy (x.neg != decide (s < 0)) s.natAbs 0
  | .cos =>
    let s := sinQuad (x.toFx / halfPi + 1) (x.toFx % halfPi)
    fxDy (decide (s < 0)) s.natAbs 0
  | .tanh =>
    if x.log < -30 then below x
    else if 4 ≤ x.log then ⟨x.neg, 2 ^ 100 - 1, -100⟩
    else
      let t := 2 * x.toFx * 2 ^ fxBits / ln2
      let i := t / 2 ^ fxBits
      let f := t % 2 ^ fxBits
      let e := 2 ^ (2 * fxBits) / exp2Frac f / 2 ^ i
      quotDy x.neg (2 ^ fxBits - e) (2 ^ fxBits + e) 200 0

/-- `FSIN` or `FCOS` of a finite operand above 2^20 in magnitude (R77). -/
def specOpen (g : Spec) (a : Word) : Bool :=
  match g, unpack binary32 a.toNat with
  | .sin, .fin x => ltFp (.fin ⟨false, 1, 20⟩) (.fin ⟨false, x.man, x.exp⟩)
  | .cos, .fin x => ltFp (.fin ⟨false, 1, 20⟩) (.fin ⟨false, x.man, x.exp⟩)
  | _, _ => false

/-- The open value of R77: a free word brought into [-1, 1] by clearing the top exponent bit when its
magnitude exceeds one. -/
def openUnit (w : Word) : Word :=
  let m := w &&& 0x7FFFFFFF#32
  if 0x3F800000#32 < m then w &&& 0xBFFFFFFF#32 &&& 0xBF7FFFFF#32 else w

/-- Flags of the open value (R77). -/
def openFlags (w : Word) : Flags :=
  let m := w &&& 0x7FFFFFFF#32
  flagNX ||| flagIf (m != 0#32 && decide (m.toNat < 0x00800000)) flagUF

/-- A special function (R97): the special operands, else `Round(f(x), binary32, RNE)`. `FSIN` and `FTANH` of -0 are -0
(assumption 61). -/
def special (g : Spec) (a : Word) : Word × Flags :=
  let one (n : Nat × Flags) : Word × Flags := (BitVec.ofNat 32 n.1, n.2)
  let nan : Word := BitVec.ofNat 32 binary32.nanBits
  let inf (n : Bool) : Word := BitVec.ofNat 32 (binary32.bits n binary32.infBits)
  match unpack binary32 a.toNat with
  | .nan s => (nan, flagIf s flagNV)
  | .inf n =>
    match g with
    | .rcp => (BitVec.ofNat 32 (binary32.bits n 0), 0)
    | .rsq => if n then (nan, flagNV) else (0, 0)
    | .sqrt => if n then (nan, flagNV) else (a, 0)
    | .exp2 => if n then (0, 0) else (a, 0)
    | .log2 => if n then (nan, flagNV) else (a, 0)
    | .sin => (nan, flagNV)
    | .cos => (nan, flagNV)
    | .tanh => (BitVec.ofNat 32 (binary32.bits n 0x3F800000), 0)
  | .fin x =>
    if x.man = 0 then
      match g with
      | .rcp => (inf x.neg, flagDZ)
      | .rsq => (inf x.neg, flagDZ)
      | .sqrt => (a, 0)
      | .exp2 => (0x3F800000, 0)
      | .log2 => (inf true, flagDZ)
      | .sin => (a, 0)
      | .cos => (0x3F800000, 0)
      | .tanh => (a, 0)
    else
      match g with
      | .rsq => if x.neg then (nan, flagNV) else one (roundDy binary32 0 (specFin g x))
      | .sqrt => if x.neg then (nan, flagNV) else one (roundDy binary32 0 (specFin g x))
      | .log2 => if x.neg then (nan, flagNV) else one (roundDy binary32 0 (specFin g x))
      | _ => one (roundDy binary32 0 (specFin g x))

end Sys2Proof.Machine
end

