-- ==== Sys2Proof/Syntax.lean ====
section
/-! DEFINITION. The instructions: one constructor per row of the table of operations and events.
A row with an encoding takes the fields that its encoding shows, at their exact widths, and before
them the prefix word that may stand in front of it (R44, R46): the prefix is no row of its own.
A row without an encoding is a step of an engine, of the service firmware, of the hardware's error
logic or of the outside world; its arguments say which unit acts and what comes from outside. -/

namespace Sys2Proof

/-- Who reaches the package in an access from outside: the host, a peer, the physical function, or a configuration access to a
second-tier port; or the oldest access that waits at a home and may go on (R25, R262, R292, R370). -/
inductive Agent where
  | host
  | peer
  | physical
  | tierPort
  | queued
  deriving DecidableEq, Repr

/-- An access from outside: whose it is, and whether it writes (R262, R292). -/
structure OutsideAccess where
  agent : Agent
  write : Bool
  deriving DecidableEq, Repr

/-- The results that a service writes: scalars by number, lanes of vector registers by their place in the allocation, and masks
(R170). -/
structure ServiceResults where
  scalars : List (Nat × BitVec 32)
  vectors : List (Nat × BitVec 32)
  masks : List (Nat × BitVec 64)
  deriving DecidableEq, Repr

/-- A prefix word (R44). Bits 1:0 are not held: they must be zero. -/
structure Prefix where
  /-- mask register; 0 gives `EXEC` only -/
  k : BitVec 3
  /-- true: zero the destination of inactive lanes; false: merge -/
  z : Bool
  /-- rounding: 0 RNE, 1 RTZ, 2 RDN, 3 RUP, 4 RNA, 7 dynamic -/
  rnd : BitVec 3
  /-- the fourth operand field -/
  c : BitVec 7
  /-- high bits of the four fields -/
  dh : Bool
  ah : Bool
  bh : Bool
  ch : Bool
  /-- queue bits of `a`, `b` and `c` -/
  aq : Bool
  bq : Bool
  cq : Bool
  /-- scope: 0 `.blk`, 1 `.clu`, 2 `.dev`, 3 `.sys` -/
  scope : BitVec 2
  deriving DecidableEq, Repr

/-- The instructions of the GX9 (R51) and the steps of its other agents. -/
inductive Instr where
  /-- CLAUSE: A clause header whose waits, queue pops and counter limits are met is checked whole and issued, setting its flags A and B for its long-latency words (R38) -/
  | clause (w : BitVec 12) (a b : BitVec 4) (l : BitVec 5)
  /-- IADD: Adds two vector registers lane by lane modulo 2^32 (R83) -/
  | iadd (p : Option Prefix) (d a b : BitVec 7)
  /-- ISUB: Subtracts two vector registers lane by lane modulo 2^32 (R83) -/
  | isub (p : Option Prefix) (d a b : BitVec 7)
  /-- IMUL: Writes the low 32 bits of the lane product (R83) -/
  | imul (p : Option Prefix) (d a b : BitVec 7)
  /-- IMULH: Writes the high 32 bits of the signed lane product (R83) -/
  | imulh (p : Option Prefix) (d a b : BitVec 7)
  /-- UMULH: Writes the high 32 bits of the unsigned lane product (R83) -/
  | umulh (p : Option Prefix) (d a b : BitVec 7)
  /-- IMIN: Writes the signed minimum per lane (R83) -/
  | imin (p : Option Prefix) (d a b : BitVec 7)
  /-- IMAX: Writes the signed maximum per lane (R83) -/
  | imax (p : Option Prefix) (d a b : BitVec 7)
  /-- UMIN: Writes the unsigned minimum per lane (R83) -/
  | umin (p : Option Prefix) (d a b : BitVec 7)
  /-- UMAX: Writes the unsigned maximum per lane (R83) -/
  | umax (p : Option Prefix) (d a b : BitVec 7)
  /-- IABS: Writes the absolute value per lane, wrapping at the most negative value (R83) -/
  | iabs (p : Option Prefix) (d a : BitVec 7)
  /-- INEG: Writes the negation per lane modulo 2^32 (R83) -/
  | ineg (p : Option Prefix) (d a : BitVec 7)
  /-- IADDS: Adds with signed saturation per lane (R83) -/
  | iadds (p : Option Prefix) (d a b : BitVec 7)
  /-- ISUBS: Subtracts with signed saturation per lane (R83) -/
  | isubs (p : Option Prefix) (d a b : BitVec 7)
  /-- UADDS: Adds with unsigned saturation per lane (R83) -/
  | uadds (p : Option Prefix) (d a b : BitVec 7)
  /-- USUBS: Subtracts with unsigned saturation per lane (R83) -/
  | usubs (p : Option Prefix) (d a b : BitVec 7)
  /-- IMAD: Writes the low 32 bits of a times b plus the addend per lane (R83) -/
  | imad (p : Option Prefix) (d a b : BitVec 7)
  /-- AND: Bitwise AND per lane (R85) -/
  | and (p : Option Prefix) (d a b : BitVec 7)
  /-- OR: Bitwise OR per lane (R85) -/
  | or (p : Option Prefix) (d a b : BitVec 7)
  /-- XOR: Bitwise XOR per lane (R85) -/
  | xor (p : Option Prefix) (d a b : BitVec 7)
  /-- ANDN: Writes a AND NOT b per lane (R85) -/
  | andn (p : Option Prefix) (d a b : BitVec 7)
  /-- NOT: Bitwise complement per lane (R85) -/
  | not (p : Option Prefix) (d a : BitVec 7)
  /-- SHL: Shifts left by the lane count, giving 0 for counts of 32 or more (R84) -/
  | shl (p : Option Prefix) (d a b : BitVec 7)
  /-- SHR: Shifts right logically by the lane count (R84) -/
  | shr (p : Option Prefix) (d a b : BitVec 7)
  /-- SRA: Shifts right arithmetically by the lane count (R84) -/
  | sra (p : Option Prefix) (d a b : BitVec 7)
  /-- ROL: Rotates left by the count modulo 32 (R84) -/
  | rol (p : Option Prefix) (d a b : BitVec 7)
  /-- POPC: Counts one bits per lane (R85) -/
  | popc (p : Option Prefix) (d a : BitVec 7)
  /-- CLZ: Counts leading zeros per lane (R85) -/
  | clz (p : Option Prefix) (d a : BitVec 7)
  /-- BREV: Reverses the bits of each lane (R85) -/
  | brev (p : Option Prefix) (d a : BitVec 7)
  /-- BFE: Extracts an unsigned bit field whose position and length come from b (R85) -/
  | bfe (p : Option Prefix) (d a b : BitVec 7)
  /-- BFI: Inserts the low bits of a into the addend at the position and length from b (R85) -/
  | bfi (p : Option Prefix) (d a b : BitVec 7)
  /-- MOV: Copies a vector register per lane (R85) -/
  | mov (p : Option Prefix) (d a : BitVec 7)
  /-- SEL: Writes every EXEC lane with a where the prefix mask is set and b elsewhere (R86) -/
  | sel (p : Option Prefix) (d a b : BitVec 7)
  /-- IADDI: Adds a sign-extended imm7 per lane (R87) -/
  | iaddi (p : Option Prefix) (d a i : BitVec 7)
  /-- SHLI: Shifts left by an unsigned imm7 (R87) -/
  | shli (p : Option Prefix) (d a i : BitVec 7)
  /-- SHRI: Shifts right logically by an unsigned imm7 (R87) -/
  | shri (p : Option Prefix) (d a i : BitVec 7)
  /-- SRAI: Shifts right arithmetically by an unsigned imm7 (R87) -/
  | srai (p : Option Prefix) (d a i : BitVec 7)
  /-- ANDI: ANDs with a sign-extended imm7 (R87) -/
  | andi (p : Option Prefix) (d a i : BitVec 7)
  /-- ORI: ORs with a sign-extended imm7 (R87) -/
  | ori (p : Option Prefix) (d a i : BitVec 7)
  /-- XORI: XORs with a sign-extended imm7 (R87) -/
  | xori (p : Option Prefix) (d a i : BitVec 7)
  /-- ROLI: Rotates left by an unsigned imm7 modulo 32 (R87) -/
  | roli (p : Option Prefix) (d a i : BitVec 7)
  /-- IMULI: Multiplies by a sign-extended imm7, keeping the low 32 bits (R87) -/
  | imuli (p : Option Prefix) (d a i : BitVec 7)
  /-- MOVI: Writes a sign-extended imm14 to every lane (R88) -/
  | movi (p : Option Prefix) (d : BitVec 7) (i : BitVec 14)
  /-- MOVHI: Shifts each lane left by 14 and ORs in an unsigned imm14 (R88) -/
  | movhi (p : Option Prefix) (d : BitVec 7) (i : BitVec 14)
  /-- SMOVI: Writes a sign-extended imm14 to a scalar (R88) -/
  | smovi (p : Option Prefix) (d : BitVec 7) (i : BitVec 14)
  /-- SMOVHI: Shifts a scalar left by 14 and ORs in an unsigned imm14 (R88) -/
  | smovhi (p : Option Prefix) (d : BitVec 7) (i : BitVec 14)
  /-- LANEID: Writes each lane's number into the lane (R88) -/
  | laneid (p : Option Prefix) (d : BitVec 7)
  /-- ICMP_EQ: Sets, ANDs or ORs a mask with integer equality per active lane (R89) -/
  | icmpEq (p : Option Prefix) (c : BitVec 2) (d : BitVec 3) (a b : BitVec 7)
  /-- ICMP_NE: Combines a mask with integer inequality per active lane (R89) -/
  | icmpNe (p : Option Prefix) (c : BitVec 2) (d : BitVec 3) (a b : BitVec 7)
  /-- ICMP_LT: Combines a mask with signed less-than per active lane (R89) -/
  | icmpLt (p : Option Prefix) (c : BitVec 2) (d : BitVec 3) (a b : BitVec 7)
  /-- ICMP_LE: Combines a mask with signed less-or-equal per active lane (R89) -/
  | icmpLe (p : Option Prefix) (c : BitVec 2) (d : BitVec 3) (a b : BitVec 7)
  /-- ICMP_GT: Combines a mask with signed greater-than per active lane (R89) -/
  | icmpGt (p : Option Prefix) (c : BitVec 2) (d : BitVec 3) (a b : BitVec 7)
  /-- ICMP_GE: Combines a mask with signed greater-or-equal per active lane (R89) -/
  | icmpGe (p : Option Prefix) (c : BitVec 2) (d : BitVec 3) (a b : BitVec 7)
  /-- ICMP_LTU: Combines a mask with unsigned less-than per active lane (R89) -/
  | icmpLtu (p : Option Prefix) (c : BitVec 2) (d : BitVec 3) (a b : BitVec 7)
  /-- ICMP_LEU: Combines a mask with unsigned less-or-equal per active lane (R89) -/
  | icmpLeu (p : Option Prefix) (c : BitVec 2) (d : BitVec 3) (a b : BitVec 7)
  /-- ICMP_GTU: Combines a mask with unsigned greater-than per active lane (R89) -/
  | icmpGtu (p : Option Prefix) (c : BitVec 2) (d : BitVec 3) (a b : BitVec 7)
  /-- ICMP_GEU: Combines a mask with unsigned greater-or-equal per active lane (R89) -/
  | icmpGeu (p : Option Prefix) (c : BitVec 2) (d : BitVec 3) (a b : BitVec 7)
  /-- FCMP_EQ: Combines a mask with binary32 equality, raising NV for a signalling NaN (R90) -/
  | fcmpEq (p : Option Prefix) (c : BitVec 2) (d : BitVec 3) (a b : BitVec 7)
  /-- FCMP_NE: Combines a mask with binary32 inequality, true when unordered (R90) -/
  | fcmpNe (p : Option Prefix) (c : BitVec 2) (d : BitVec 3) (a b : BitVec 7)
  /-- FCMP_LT: Combines a mask with binary32 less-than, signalling on any NaN (R90) -/
  | fcmpLt (p : Option Prefix) (c : BitVec 2) (d : BitVec 3) (a b : BitVec 7)
  /-- FCMP_LE: Combines a mask with binary32 less-or-equal, signalling on any NaN (R90) -/
  | fcmpLe (p : Option Prefix) (c : BitVec 2) (d : BitVec 3) (a b : BitVec 7)
  /-- FCMP_GT: Combines a mask with binary32 greater-than, signalling on any NaN (R90) -/
  | fcmpGt (p : Option Prefix) (c : BitVec 2) (d : BitVec 3) (a b : BitVec 7)
  /-- FCMP_GE: Combines a mask with binary32 greater-or-equal, signalling on any NaN (R90) -/
  | fcmpGe (p : Option Prefix) (c : BitVec 2) (d : BitVec 3) (a b : BitVec 7)
  /-- FCMP_ORD: Combines a mask with the test that neither operand is a NaN (R90) -/
  | fcmpOrd (p : Option Prefix) (c : BitVec 2) (d : BitVec 3) (a b : BitVec 7)
  /-- FCMP_UNO: Combines a mask with the test that an operand is a NaN (R90) -/
  | fcmpUno (p : Option Prefix) (c : BitVec 2) (d : BitVec 3) (a b : BitVec 7)
  /-- KAND: ANDs two masks on the lanes of EXEC (R92) -/
  | kand (p : Option Prefix) (d a b : BitVec 3)
  /-- KOR: ORs two masks on the lanes of EXEC (R92) -/
  | kor (p : Option Prefix) (d a b : BitVec 3)
  /-- KXOR: XORs two masks on the lanes of EXEC (R92) -/
  | kxor (p : Option Prefix) (d a b : BitVec 3)
  /-- KANDN: Writes mask a AND NOT mask b on the lanes of EXEC (R92) -/
  | kandn (p : Option Prefix) (d a b : BitVec 3)
  /-- KNOT: Complements a mask on the lanes of EXEC (R92) -/
  | knot (p : Option Prefix) (d a : BitVec 3)
  /-- KMOV: Copies a mask on the lanes of EXEC (R92) -/
  | kmov (p : Option Prefix) (d a : BitVec 3)
  /-- KTOS: Copies all 64 bits of a mask into a scalar pair (R92) -/
  | ktos (p : Option Prefix) (d : BitVec 7) (a : BitVec 3)
  /-- STOK: Copies a scalar pair into a mask on the lanes of EXEC (R92) -/
  | stok (p : Option Prefix) (d : BitVec 3) (a : BitVec 7)
  /-- KPOPC: Counts the set bits of a mask AND EXEC into a scalar (R92) -/
  | kpopc (p : Option Prefix) (d : BitVec 7) (a : BitVec 3)
  /-- KFFS: Writes the lowest set lane of a mask AND EXEC, or all ones (R92) -/
  | kffs (p : Option Prefix) (d : BitVec 7) (a : BitVec 3)
  /-- XRD: Reads the fragment's EXEC into a scalar pair (R92) -/
  | xrd (p : Option Prefix) (d : BitVec 7)
  /-- XWR: Sets the fragment's EXEC to a scalar pair ANDed with the lanes it owns (R93) -/
  | xwr (p : Option Prefix) (a : BitVec 7)
  /-- KSET: Sets mask bits for lanes between two scalar bounds on the lanes of EXEC (R92) -/
  | kset (p : Option Prefix) (d : BitVec 3) (a b : BitVec 7)
  /-- FADD: Adds binary32 values with one rounding per lane (R94) -/
  | fadd (p : Option Prefix) (d a b : BitVec 7)
  /-- FSUB: Subtracts binary32 values with one rounding per lane (R94) -/
  | fsub (p : Option Prefix) (d a b : BitVec 7)
  /-- FMUL: Multiplies binary32 values with one rounding per lane (R94) -/
  | fmul (p : Option Prefix) (d a b : BitVec 7)
  /-- FFMA: Computes a times b plus c with a single rounding (R78) -/
  | ffma (p : Option Prefix) (d a b : BitVec 7)
  /-- FMIN: Returns the smaller binary32 operand with the NaN rules of R95 (R95) -/
  | fmin (p : Option Prefix) (d a b : BitVec 7)
  /-- FMAX: Returns the larger binary32 operand with the NaN rules of R95 (R95) -/
  | fmax (p : Option Prefix) (d a b : BitVec 7)
  /-- FABS: Clears the sign bit without flags (R94) -/
  | fabs (p : Option Prefix) (d a : BitVec 7)
  /-- FNEG: Inverts the sign bit without flags (R94) -/
  | fneg (p : Option Prefix) (d a : BitVec 7)
  /-- FFMS: Computes a times b minus c with a single rounding (R78) -/
  | ffms (p : Option Prefix) (d a b : BitVec 7)
  /-- FNFMA: Computes minus a times b plus c with a single rounding (R78) -/
  | fnfma (p : Option Prefix) (d a b : BitVec 7)
  /-- FCLASS: Writes a one-hot class word for the binary32 operand (R96) -/
  | fclass (p : Option Prefix) (d a : BitVec 7)
  /-- FFLOOR: Rounds to an integral value toward minus infinity (R94) -/
  | ffloor (p : Option Prefix) (d a : BitVec 7)
  /-- FCEIL: Rounds to an integral value toward plus infinity (R94) -/
  | fceil (p : Option Prefix) (d a : BitVec 7)
  /-- FTRUNC: Rounds to an integral value toward zero (R94) -/
  | ftrunc (p : Option Prefix) (d a : BitVec 7)
  /-- FRINT: Rounds to an integral value under the effective mode (R94) -/
  | frint (p : Option Prefix) (d a : BitVec 7)
  /-- FSCALE: Multiplies a by 2 to the signed integer in b with one rounding (R94) -/
  | fscale (p : Option Prefix) (d a b : BitVec 7)
  /-- FRCP: Starts a correctly rounded reciprocal, delivered under flag A (R97) -/
  | frcp (p : Option Prefix) (d a : BitVec 7)
  /-- FRSQ: Starts a correctly rounded reciprocal square root (R97) -/
  | frsq (p : Option Prefix) (d a : BitVec 7)
  /-- FSQRT: Starts a correctly rounded square root (R97) -/
  | fsqrt (p : Option Prefix) (d a : BitVec 7)
  /-- FEXP2: Starts a correctly rounded base-2 exponential (R97) -/
  | fexp2 (p : Option Prefix) (d a : BitVec 7)
  /-- FLOG2: Starts a correctly rounded base-2 logarithm (R97) -/
  | flog2 (p : Option Prefix) (d a : BitVec 7)
  /-- FSIN: Starts a sine, correctly rounded up to 2^20 and open in [-1, 1] above (R77) -/
  | fsin (p : Option Prefix) (d a : BitVec 7)
  /-- FCOS: Starts a cosine, correctly rounded up to 2^20 and open in [-1, 1] above (R77) -/
  | fcos (p : Option Prefix) (d a : BitVec 7)
  /-- FTANH: Starts a correctly rounded hyperbolic tangent (R97) -/
  | ftanh (p : Option Prefix) (d a : BitVec 7)
  /-- SPECIAL_FUNCTION_RESULT: A special function's result arrives in its register, merges its flags and clears its flag A (R97) -/
  | specialFunctionResult (w op : Nat)
  /-- CVTFI: Converts binary32 to int32 under the effective mode (R98) -/
  | cvtfi (p : Option Prefix) (d a : BitVec 7)
  /-- CVTFU: Converts binary32 to uint32 under the effective mode (R98) -/
  | cvtfu (p : Option Prefix) (d a : BitVec 7)
  /-- CVTIF: Converts int32 to binary32 under the effective mode (R98) -/
  | cvtif (p : Option Prefix) (d a : BitVec 7)
  /-- CVTUF: Converts uint32 to binary32 under the effective mode (R98) -/
  | cvtuf (p : Option Prefix) (d a : BitVec 7)
  /-- CVTFH: Converts binary32 to binary16 in bits 15:0 (R98) -/
  | cvtfh (p : Option Prefix) (d a : BitVec 7)
  /-- CVTHF: Converts binary16 to binary32 exactly (R98) -/
  | cvthf (p : Option Prefix) (d a : BitVec 7)
  /-- CVTFB: Converts binary32 to bfloat16 in bits 15:0 (R98) -/
  | cvtfb (p : Option Prefix) (d a : BitVec 7)
  /-- CVTBF: Converts bfloat16 to binary32 exactly (R98) -/
  | cvtbf (p : Option Prefix) (d a : BitVec 7)
  /-- QEXP: Chooses each block's shared exponent and writes quantisation words (R101) -/
  | qexp (p : Option Prefix) (d a b : BitVec 7)
  /-- QMAN: Quantises binary32 values to block-FP mantissas (R101) -/
  | qman (p : Option Prefix) (d a b : BitVec 7)
  /-- DQ: Dequantises mantissas to binary32 exactly (R101) -/
  | dq (p : Option Prefix) (d a b : BitVec 7)
  /-- PACKM: Packs lane mantissas densely into a bit string across lanes (R102) -/
  | packm (p : Option Prefix) (d a b : BitVec 7)
  /-- UNPKM: Unpacks and sign-extends one mantissa per lane from a packed string (R102) -/
  | unpkm (p : Option Prefix) (d a b : BitVec 7)
  /-- HADD2: Adds two binary16 halves per lane (R103) -/
  | hadd2 (p : Option Prefix) (d a b : BitVec 7)
  /-- HSUB2: Subtracts two binary16 halves per lane (R103) -/
  | hsub2 (p : Option Prefix) (d a b : BitVec 7)
  /-- HMUL2: Multiplies two binary16 halves per lane (R103) -/
  | hmul2 (p : Option Prefix) (d a b : BitVec 7)
  /-- HFMA2: Fused multiply-add on two binary16 halves per lane (R103) -/
  | hfma2 (p : Option Prefix) (d a b : BitVec 7)
  /-- HMIN2: Minimum of two binary16 halves per lane (R103) -/
  | hmin2 (p : Option Prefix) (d a b : BitVec 7)
  /-- HMAX2: Maximum of two binary16 halves per lane (R103) -/
  | hmax2 (p : Option Prefix) (d a b : BitVec 7)
  /-- BADD2: Adds two bfloat16 halves per lane (R103) -/
  | badd2 (p : Option Prefix) (d a b : BitVec 7)
  /-- BSUB2: Subtracts two bfloat16 halves per lane (R103) -/
  | bsub2 (p : Option Prefix) (d a b : BitVec 7)
  /-- BMUL2: Multiplies two bfloat16 halves per lane (R103) -/
  | bmul2 (p : Option Prefix) (d a b : BitVec 7)
  /-- BFMA2: Fused multiply-add on two bfloat16 halves per lane (R103) -/
  | bfma2 (p : Option Prefix) (d a b : BitVec 7)
  /-- BMIN2: Minimum of two bfloat16 halves per lane (R103) -/
  | bmin2 (p : Option Prefix) (d a b : BitVec 7)
  /-- BMAX2: Maximum of two bfloat16 halves per lane (R103) -/
  | bmax2 (p : Option Prefix) (d a b : BitVec 7)
  /-- SHFL: Reads a source lane chosen per lane by a vector index (R104) -/
  | shfl (p : Option Prefix) (d a b : BitVec 7)
  /-- SHFLX: Reads the lane given by XOR with a scalar (R104) -/
  | shflx (p : Option Prefix) (d a b : BitVec 7)
  /-- SHFLU: Reads the lane a scalar distance below, or itself (R104) -/
  | shflu (p : Option Prefix) (d a b : BitVec 7)
  /-- SHFLD: Reads the lane a scalar distance above, or itself (R104) -/
  | shfld (p : Option Prefix) (d a b : BitVec 7)
  /-- NBL: Starts a read of the lower neighbour lane, lane 0 taking the left edge latch (R106) -/
  | nbl (p : Option Prefix) (d a : BitVec 7)
  /-- NBR: Starts a read of the upper neighbour lane, the last lane taking the right edge latch (R106) -/
  | nbr (p : Option Prefix) (d a : BitVec 7)
  /-- NBX: Swaps lane pairs and writes the source into the neighbouring warps' edge latches (R106) -/
  | nbx (p : Option Prefix) (d a : BitVec 7)
  /-- NEIGHBOUR_LATCH_COMPLETE: A neighbour operation's latch reads and writes complete, its result is written and its flag A clears (R106) -/
  | neighbourLatchComplete (w op : Nat)
  /-- BLUT: Replaces each byte by a table byte indexed by its low nibble (R108) -/
  | blut (p : Option Prefix) (d a b : BitVec 7)
  /-- BLUTH: Replaces each byte by a table byte indexed by its high nibble (R108) -/
  | bluth (p : Option Prefix) (d a b : BitVec 7)
  /-- BPRM: Permutes bytes of a register pair under a selector (R108) -/
  | bprm (p : Option Prefix) (d a b : BitVec 7)
  /-- VREDADD: Reduces lanes to a scalar integer sum (R109) -/
  | vredadd (p : Option Prefix) (d a : BitVec 7)
  /-- VREDMIN: Reduces lanes to a scalar signed minimum (R109) -/
  | vredmin (p : Option Prefix) (d a : BitVec 7)
  /-- VREDMAX: Reduces lanes to a scalar signed maximum (R109) -/
  | vredmax (p : Option Prefix) (d a : BitVec 7)
  /-- VREDFADD: Sums binary32 lanes in a fixed pairwise tree into a scalar (R109) -/
  | vredfadd (p : Option Prefix) (d a : BitVec 7)
  /-- VSCAN: Writes the inclusive integer prefix sum per lane (R109) -/
  | vscan (p : Option Prefix) (d a : BitVec 7)
  /-- VBCAST: Broadcasts the lane named by a scalar (R104) -/
  | vbcast (p : Option Prefix) (d a b : BitVec 7)
  /-- SADD: Adds two scalars (R110) -/
  | sadd (p : Option Prefix) (d a b : BitVec 7)
  /-- SSUB: Subtracts two scalars (R110) -/
  | ssub (p : Option Prefix) (d a b : BitVec 7)
  /-- SMUL: Multiplies two scalars, keeping the low 32 bits (R110) -/
  | smul (p : Option Prefix) (d a b : BitVec 7)
  /-- SAND: ANDs two scalars (R110) -/
  | sand (p : Option Prefix) (d a b : BitVec 7)
  /-- SOR: ORs two scalars (R110) -/
  | sor (p : Option Prefix) (d a b : BitVec 7)
  /-- SXOR: XORs two scalars (R110) -/
  | sxor (p : Option Prefix) (d a b : BitVec 7)
  /-- SSHL: Shifts a scalar left (R110) -/
  | sshl (p : Option Prefix) (d a b : BitVec 7)
  /-- SSHR: Shifts a scalar right logically (R110) -/
  | sshr (p : Option Prefix) (d a b : BitVec 7)
  /-- SSRA: Shifts a scalar right arithmetically (R110) -/
  | ssra (p : Option Prefix) (d a b : BitVec 7)
  /-- SMIN: Signed minimum of two scalars (R110) -/
  | smin (p : Option Prefix) (d a b : BitVec 7)
  /-- SMAX: Signed maximum of two scalars (R110) -/
  | smax (p : Option Prefix) (d a b : BitVec 7)
  /-- SMOV: Copies a scalar (R110) -/
  | smov (p : Option Prefix) (d a : BitVec 7)
  /-- SSLT: Writes 1 if a is less than b as signed values (R110) -/
  | sslt (p : Option Prefix) (d a b : BitVec 7)
  /-- SSLTU: Writes 1 if a is less than b as unsigned values (R110) -/
  | ssltu (p : Option Prefix) (d a b : BitVec 7)
  /-- SSEQ: Writes 1 if two scalars are equal (R110) -/
  | sseq (p : Option Prefix) (d a b : BitVec 7)
  /-- S2V: Broadcasts a scalar into a vector register under the lane masks (R110) -/
  | s2v (p : Option Prefix) (d a : BitVec 7)
  /-- SADDI: Adds a sign-extended imm7 to a scalar (R111) -/
  | saddi (p : Option Prefix) (d a i : BitVec 7)
  /-- SSHLI: Shifts a scalar left by an immediate (R111) -/
  | sshli (p : Option Prefix) (d a i : BitVec 7)
  /-- SSHRI: Shifts a scalar right by an immediate (R111) -/
  | sshri (p : Option Prefix) (d a i : BitVec 7)
  /-- SANDI: ANDs a scalar with a sign-extended imm7 (R111) -/
  | sandi (p : Option Prefix) (d a i : BitVec 7)
  /-- SORI: ORs a scalar with a sign-extended imm7 (R111) -/
  | sori (p : Option Prefix) (d a i : BitVec 7)
  /-- SADDI64: Adds a sign-extended imm7 to a 64-bit scalar pair (R111) -/
  | saddi64 (p : Option Prefix) (d a i : BitVec 7)
  /-- SADD64: Adds two 64-bit scalar pairs (R111) -/
  | sadd64 (p : Option Prefix) (d a b : BitVec 7)
  /-- SSUB64: Subtracts two 64-bit scalar pairs (R111) -/
  | ssub64 (p : Option Prefix) (d a b : BitVec 7)
  /-- SMOV64: Copies a 64-bit scalar pair (R111) -/
  | smov64 (p : Option Prefix) (d a : BitVec 7)
  /-- SSHLI64: Shifts a 64-bit scalar pair left by an immediate (R111) -/
  | sshli64 (p : Option Prefix) (d a i : BitVec 7)
  /-- LDB: Loads a sign-extended byte per active lane (R207) -/
  | ldb (p : Option Prefix) (d a b : BitVec 7)
  /-- LDBU: Loads a zero-extended byte per active lane (R207) -/
  | ldbu (p : Option Prefix) (d a b : BitVec 7)
  /-- LDH: Loads a sign-extended halfword per active lane (R207) -/
  | ldh (p : Option Prefix) (d a b : BitVec 7)
  /-- LDHU: Loads a zero-extended halfword per active lane (R207) -/
  | ldhu (p : Option Prefix) (d a b : BitVec 7)
  /-- LDW: Loads a word per active lane (R207) -/
  | ldw (p : Option Prefix) (d a b : BitVec 7)
  /-- LDD: Loads a doubleword into a register pair per active lane (R207) -/
  | ldd (p : Option Prefix) (d a b : BitVec 7)
  /-- LDQ: Loads 16 bytes into a register quad per active lane (R207) -/
  | ldq (p : Option Prefix) (d a b : BitVec 7)
  /-- LDACQ: Loads an aligned word with acquire, holding later memory words at issue (R209) -/
  | ldacq (p : Option Prefix) (d a b : BitVec 7)
  /-- STB: Stores the low byte per active lane (R207) -/
  | stb (p : Option Prefix) (d a b : BitVec 7)
  /-- STH: Stores the low halfword per active lane (R207) -/
  | sth (p : Option Prefix) (d a b : BitVec 7)
  /-- STW: Stores a word per active lane (R207) -/
  | stw (p : Option Prefix) (d a b : BitVec 7)
  /-- STD: Stores a doubleword per active lane, or makes page-table stores through a T leaf (R207) -/
  | std (p : Option Prefix) (d a b : BitVec 7)
  /-- STQ: Stores 16 bytes per active lane (R207) -/
  | stq (p : Option Prefix) (d a b : BitVec 7)
  /-- STREL: Stores an aligned word as a release after every earlier access is performed at its scope (R209) -/
  | strel (p : Option Prefix) (d a b : BitVec 7)
  /-- SLDW: Loads an aligned word into a scalar once per issue (R210) -/
  | sldw (p : Option Prefix) (d a i : BitVec 7)
  /-- SLDD: Loads an aligned doubleword into a scalar pair (R210) -/
  | sldd (p : Option Prefix) (d a i : BitVec 7)
  /-- SSTW: Stores a scalar word (R210) -/
  | sstw (p : Option Prefix) (d a i : BitVec 7)
  /-- SSTD: Stores a scalar pair, going to the admission checker through a T leaf (R210) -/
  | sstd (p : Option Prefix) (d a i : BitVec 7)
  /-- SLDACQ: Loads a scalar word with acquire (R210) -/
  | sldacq (p : Option Prefix) (d a i : BitVec 7)
  /-- SSTREL: Stores a scalar word with release (R210) -/
  | sstrel (p : Option Prefix) (d a i : BitVec 7)
  /-- TLD: Checks and locks a tile, then loads it atomically into lanes 0 to ROWS (R212) -/
  | tld (p : Option Prefix) (d a b : BitVec 7)
  /-- TST: Checks and locks a tile, then stores it atomically from lanes 0 to ROWS (R212) -/
  | tst (p : Option Prefix) (d a b : BitVec 7)
  /-- TLDA: Loads a tile atomically with acquire (R212) -/
  | tlda (p : Option Prefix) (d a b : BitVec 7)
  /-- TSTR: Stores a tile atomically with release (R212) -/
  | tstr (p : Option Prefix) (d a b : BitVec 7)
  /-- TILE_LOCK_ACQUIRE: A tile gains the next lock entry in ascending key order once its line is free (R199) -/
  | tileLockAcquire (w op : Nat)
  /-- TILE_LOCK_RETRY: A tile that gains no lock entry for 1,024 cycles releases its locks and starts again at its old age (R199) -/
  | tileLockRetry (w op : Nat)
  /-- AADD: Atomically adds per lane and returns the old value (R214) -/
  | aadd (p : Option Prefix) (d a b : BitVec 7)
  /-- AMIN: Atomic signed minimum returning the old value (R214) -/
  | amin (p : Option Prefix) (d a b : BitVec 7)
  /-- AMAX: Atomic signed maximum returning the old value (R214) -/
  | amax (p : Option Prefix) (d a b : BitVec 7)
  /-- AUMIN: Atomic unsigned minimum returning the old value (R214) -/
  | aumin (p : Option Prefix) (d a b : BitVec 7)
  /-- AUMAX: Atomic unsigned maximum returning the old value (R214) -/
  | aumax (p : Option Prefix) (d a b : BitVec 7)
  /-- AAND: Atomic AND returning the old value (R214) -/
  | aand (p : Option Prefix) (d a b : BitVec 7)
  /-- AOR: Atomic OR returning the old value (R214) -/
  | aor (p : Option Prefix) (d a b : BitVec 7)
  /-- AXOR: Atomic XOR returning the old value (R214) -/
  | axor (p : Option Prefix) (d a b : BitVec 7)
  /-- AXCHG: Atomic exchange returning the old value (R214) -/
  | axchg (p : Option Prefix) (d a b : BitVec 7)
  /-- ACAS: Atomic 32-bit compare-and-swap with the new value from prefix field c (R214) -/
  | acas (p : Option Prefix) (d a b : BitVec 7)
  /-- AFADD: Atomic binary32 add returning the old value (R214) -/
  | afadd (p : Option Prefix) (d a b : BitVec 7)
  /-- AADD64: Atomic 64-bit add returning the old value (R214) -/
  | aadd64 (p : Option Prefix) (d a b : BitVec 7)
  /-- ACAS64: Atomic 64-bit compare-and-swap with the new value from prefix field c (R214) -/
  | acas64 (p : Option Prefix) (d a b : BitVec 7)
  /-- REDADD: Reduction add with no return (R214) -/
  | redadd (p : Option Prefix) (d a b : BitVec 7)
  /-- REDMIN: Reduction signed minimum with no return (R214) -/
  | redmin (p : Option Prefix) (d a b : BitVec 7)
  /-- REDMAX: Reduction signed maximum with no return (R214) -/
  | redmax (p : Option Prefix) (d a b : BitVec 7)
  /-- REDUMIN: Reduction unsigned minimum with no return (R214) -/
  | redumin (p : Option Prefix) (d a b : BitVec 7)
  /-- REDUMAX: Reduction unsigned maximum with no return (R214) -/
  | redumax (p : Option Prefix) (d a b : BitVec 7)
  /-- REDAND: Reduction AND with no return (R214) -/
  | redand (p : Option Prefix) (d a b : BitVec 7)
  /-- REDOR: Reduction OR with no return (R214) -/
  | redor (p : Option Prefix) (d a b : BitVec 7)
  /-- REDXOR: Reduction XOR with no return (R214) -/
  | redxor (p : Option Prefix) (d a b : BitVec 7)
  /-- REDFADD: Reduction binary32 add with no return (R214) -/
  | redfadd (p : Option Prefix) (d a b : BitVec 7)
  /-- REDADD64: Reduction 64-bit add with no return (R214) -/
  | redadd64 (p : Option Prefix) (d a b : BitVec 7)
  /-- FENCE: Waits for the warp's earlier accesses to complete at its scope, holds later memory words, and returns and clears the fence record (R216) -/
  | fence (p : Option Prefix) (d : BitVec 7)
  /-- MON: Arms the warp's single monitor on an aligned 8-byte location (R218) -/
  | mon (p : Option Prefix) (a : BitVec 7)
  /-- MWAIT: Parks the fragment until the monitored value reaches a bound or a cycle timeout passes (R219) -/
  | mwait (p : Option Prefix) (d a b : BitVec 7)
  /-- LEASE: Requests exclusive use of a 128-byte line, parking until it is free or refusing it (R220) -/
  | lease (p : Option Prefix) (d a b : BitVec 7)
  /-- LREL: Ends the warp's lease (R220) -/
  | lrel (p : Option Prefix)
  /-- STASHMAP: Maps or unmaps a stash region of the block (R221) -/
  | stashmap (p : Option Prefix) (a b : BitVec 7)
  /-- STASHWB: Writes back the dirty stash lines of a range (R222) -/
  | stashwb (p : Option Prefix) (a b : BitVec 7)
  /-- STASHINV: Drops the stash lines of a range without write-back (R222) -/
  | stashinv (p : Option Prefix) (a b : BitVec 7)
  /-- PREF: Prefetches each active lane's line into L1, stash or home L2, skipping failing lanes (R223) -/
  | pref (p : Option Prefix) (d : BitVec 1) (a b : BitVec 7)
  /-- MZERO: Checks and counts a memory-side zero-fill of whole 64 KiB frames (R239) -/
  | mzero (p : Option Prefix) (a b : BitVec 7)
  /-- MCOPY: Checks and counts a memory-side copy of whole 64 KiB frames (R239) -/
  | mcopy (p : Option Prefix) (d a b : BitVec 7)
  /-- MINV: Checks and counts a write-back and drop of every cached copy of whole frames (R239) -/
  | minv (p : Option Prefix) (a b : BitVec 7)
  /-- GATH: Checks a descriptor and counts a gather of indexed table elements into a stash buffer (R237) -/
  | gath (p : Option Prefix) (a : BitVec 7)
  /-- SCAT: Checks a descriptor and counts a scatter of buffer elements to indexed table elements (R237) -/
  | scat (p : Option Prefix) (a : BitVec 7)
  /-- STRM: Starts an affine stream that fills an operand queue (R241) -/
  | strm (p : Option Prefix) (a : BitVec 7)
  /-- QSTOP: Stops a queue's stream and discards its entries (R243) -/
  | qstop (p : Option Prefix) (a : BitVec 3)
  /-- QSTAT: Writes a queue's status word (R243) -/
  | qstat (p : Option Prefix) (d : BitVec 7) (a : BitVec 3)
  /-- SENDM: Sends a vector as one entry to q7 of each named warp of the block (R244) -/
  | sendm (p : Option Prefix) (a b : BitVec 7)
  /-- QPOP: Pops one queue entry into a vector register (R243) -/
  | qpop (p : Option Prefix) (d : BitVec 7) (a : BitVec 3)
  /-- CWAIT: Issues only when a counter is at most n and acquires the retired operations of its class (R247) -/
  | cwait (p : Option Prefix) (a : BitVec 2) (i : BitVec 7)
  /-- CRD: Reads a counter into a scalar (R246) -/
  | crd (p : Option Prefix) (d : BitVec 7) (a : BitVec 2)
  /-- MMA: Checks the format block and operands and queues a matrix multiply-accumulate into an accumulator tile (R121) -/
  | mma (p : Option Prefix) (sp z nb na : BitVec 1) (t : BitVec 4) (a b : BitVec 7)
  /-- ACCZ: Queues zeroing of the active rows of a tile (R130) -/
  | accz (p : Option Prefix) (d : BitVec 4)
  /-- ACCRD: Queues conversion of tile rows out into a vector run (R130) -/
  | accrd (p : Option Prefix) (d : BitVec 7) (a : BitVec 4) (b : BitVec 2)
  /-- ACCWR: Queues exact conversion of a vector run into tile rows (R130) -/
  | accwr (p : Option Prefix) (d : BitVec 4) (a : BitVec 7) (b : BitVec 2)
  /-- ACCADD: Queues addition of a vector run into tile rows in A34 (R130) -/
  | accadd (p : Option Prefix) (d : BitVec 4) (a : BitVec 7) (b : BitVec 2)
  /-- MSTATRD: Reads MSTAT after every earlier matrix operation of the warp has completed (R130) -/
  | mstatrd (p : Option Prefix) (d : BitVec 7)
  /-- MCTX: Copies or exchanges active rows between two tiles (R130) -/
  | mctx (p : Option Prefix) (d a : BitVec 4) (b : BitVec 1)
  /-- MATRIX_ENGINE_ENTRY: The matrix engine takes the next entry of a context queue, alternating between contexts (R126) -/
  | matrixEngineEntry (core : Nat)
  /-- MATRIX_OP_COMPLETE: A matrix operation completes, writes its rows and MSTAT flags, and frees its queue entry (R126) -/
  | matrixOpComplete (core ctx : Nat)
  /-- BR: Moves the fragment, continues, or splits it under R133 according to the masked condition (R164) -/
  | br (n : BitVec 1) (m : BitVec 3) (o : BitVec 21)
  /-- CALL: Moves the whole fragment to a label and writes the link pair (R167) -/
  | call (o : BitVec 21)
  /-- RCV: Names the reconvergence offset of the branch that ends its clause (R166) -/
  | rcv (o : BitVec 21)
  /-- BRX: Moves the fragment to a word offset held in a scalar (R168) -/
  | brx (p : Option Prefix) (a : BitVec 7)
  /-- CALLX: Moves the fragment to a scalar offset and writes the link (R168) -/
  | callx (p : Option Prefix) (a : BitVec 7)
  /-- RET: Returns through the link pair within the current overlay (R168) -/
  | ret (p : Option Prefix)
  /-- EXIT: Ends the fragment; the warp ends and leaves its barriers when its last entry is free and its operations are done (R171) -/
  | exit (p : Option Prefix)
  /-- YIELD: Moves to the next clause and makes the fragment not ready for 256 cycles (R172) -/
  | yield (p : Option Prefix)
  /-- YIELD_WAKE: After 256 cycles a yielded fragment becomes ready anew (R172) -/
  | yieldWake (w e : Nat)
  /-- NOP: Has no effect (R168) -/
  | nop (p : Option Prefix)
  /-- WINB: Sets the warp's window base from the next clause (R169) -/
  | winb (p : Option Prefix) (a : BitVec 7)
  /-- WINA: Adds a signed value to the warp's window base from the next clause (R169) -/
  | wina (p : Option Prefix) (a : BitVec 7)
  /-- SYSCALL: Parks its fragment after draining the warp's accesses and sends a service request to Headland (R170) -/
  | syscall (p : Option Prefix) (a : BitVec 7)
  /-- SYSCALL_REPLY: Headland writes the service results and resumes the fragment at the next clause (R170) -/
  | syscallReply (w e : Nat) (results : ServiceResults)
  /-- TRAP: Raises software trap with a scalar code (R168) -/
  | trap (p : Option Prefix) (a : BitVec 7)
  /-- BKPT: Raises breakpoint (R168) -/
  | bkpt (p : Option Prefix)
  /-- BARW: Parks the fragment at a warp barrier and fuses all fragments when every entry waits there (R176) -/
  | barw
  /-- BARB: Arrives at a block barrier and waits for its phase to flip (R174) -/
  | barb (i : BitVec 4)
  /-- BARC: Arrives at a cluster barrier and waits for its phase to flip (R174) -/
  | barc (i : BitVec 3)
  /-- BARG: Arrives at a grid barrier and waits for its phase to flip (R174) -/
  | barg (i : BitVec 2)
  /-- ARRB: Arrives at a block barrier without waiting and returns the phase bit (R173) -/
  | arrb (d : BitVec 7) (i : BitVec 4)
  /-- ARRC: Arrives at a cluster barrier without waiting and returns the phase bit (R173) -/
  | arrc (d : BitVec 7) (i : BitVec 3)
  /-- ARRG: Arrives at a grid barrier without waiting and returns the phase bit (R173) -/
  | arrg (d : BitVec 7) (i : BitVec 2)
  /-- WBARB: Waits until a block barrier's phase differs from a scalar bit (R173) -/
  | wbarb (a : BitVec 7) (i : BitVec 4)
  /-- WBARC: Waits until a cluster barrier's phase differs from a scalar bit (R173) -/
  | wbarc (a : BitVec 7) (i : BitVec 3)
  /-- WBARG: Waits until a grid barrier's phase differs from a scalar bit (R173) -/
  | wbarg (a : BitVec 7) (i : BitVec 2)
  /-- BARRIER_TIMEOUT: A member waiting BARLIM makes every waiting member take barrier timeout and resets the count (R155) -/
  | barrierTimeout (lvl key n : Nat)
  /-- OVLD: Finds or allocates slots for an overlay, starts its load and returns a code reference (R178) -/
  | ovld (p : Option Prefix) (d a : BitVec 7)
  /-- OVCALL: Resolves a code reference and calls it, writing the link (R177) -/
  | ovcall (p : Option Prefix) (a : BitVec 7)
  /-- OVJMP: Resolves a code reference and jumps to it (R177) -/
  | ovjmp (p : Option Prefix) (a : BitVec 7)
  /-- OVRET: Resolves the link pair in any overlay (R177) -/
  | ovret (p : Option Prefix)
  /-- OVEVICT: Frees the slots of a current, unpinned overlay (R177) -/
  | ovevict (p : Option Prefix) (a : BitVec 7)
  /-- OVQ: Writes the status of a code reference without starting a load (R179) -/
  | ovq (p : Option Prefix) (d a : BitVec 7)
  /-- DEMAND_RELOAD_RETRY: A parked demand reload tries to allocate again when a pin in the mask falls to zero (R162) -/
  | demandReloadRetry (w e : Nat)
  /-- SLOT_LOAD_COMPLETE: An overlay load ends READY or FAILED and wakes its parked fragments as LEAFs in the slot (R160) -/
  | slotLoadComplete (core slot : Nat)
  /-- SLOT_ERROR: An uncorrectable error in a READY slot makes it POISON and starts a reload in place (R160) -/
  | slotError (core slot : Nat)
  /-- SLOT_RELOAD_COMPLETE: A reload in place returns a POISON slot to READY, or to FAILED on poison in the frame (R160) -/
  | slotReloadComplete (core slot : Nat)
  /-- CSRRD: Reads a special register into a scalar or pair (R301) -/
  | csrrd (p : Option Prefix) (d : BitVec 7) (i : BitVec 14)
  /-- CSRWR: Writes a special register that has no behaviour of its own under its access codes (R301) -/
  | csrwr (p : Option Prefix) (d : BitVec 7) (i : BitVec 14)
  /-- WSTAT_WRITE: A write to WSTAT waits for flag merges, clears REFSUM bits and sets RM unless the value is 5 to 7 (R65) -/
  | wstatWrite (w : Nat) (v : BitVec 32)
  /-- MSTAT_WRITE: A write to MSTAT sets TRAPEN for later MMA.SP words and clears W1C flags (R124) -/
  | mstatWrite (w : Nat) (v : BitVec 32)
  /-- VLOG_CLEAR: A write of 1 to bit 63 of a VLOG entry clears its V bit for the whole tenant (R298) -/
  | vlogClear (t n : Nat)
  /-- SVST_WRITE: A write to SVST sets the hold mask of pending causes (R304) -/
  | svstWrite (core : Nat) (v : BitVec 32)
  /-- SHELF_WRITE: A write to SHPC, SHCAUSE or SHVAL changes the top trap shelf, or is ignored with none in use (R304) -/
  | shelfWrite (core reg : Nat) (v : BitVec 64)
  /-- SVPEND_CLEAR: A W1C write clears pending cause bits, bit 0 staying set while messages remain (R305) -/
  | svpendClear (core : Nat) (v : BitVec 32)
  /-- SVMSG_POP: A read of SVMSG pops the oldest message as an acquire, or returns all ones (R305) -/
  | svmsgPop (core d : Nat)
  /-- FSTO_WRITE: A write of FSTO sets the forced-save timeout, ignoring values outside 5 to 1,000 (R148) -/
  | fstoWrite (v : BitVec 32)
  /-- AUDFRAC_WRITE: A write of AUDFRAC sets the Burin audit fraction, saturating at 64 (R327) -/
  | audfracWrite (v : BitVec 32)
  /-- RETYPE: Checks and changes a frame's type at its home, zero-filling as R284 states, and writes a status (R302) -/
  | retype (p : Option Prefix) (d a b : BitVec 7)
  /-- FRQ: Reads a frame's type entry whole under the type lock (R303) -/
  | frq (p : Option Prefix) (d a : BitVec 7)
  /-- ERET: Pops the top trap shelf, restoring hold mask and privilege, and resumes (R304) -/
  | eret (p : Option Prefix)
  /-- WFI: Parks the fragment until some SVPEND bit is set (R305) -/
  | wfi (p : Option Prefix)
  /-- WFI_WAKE: A parked WFI continues when an SVPEND bit becomes set (R305) -/
  | wfiWake (core : Nat)
  /-- IPI: Queues a message for a service core, holding the pipe while its queue is full (R305) -/
  | ipi (p : Option Prefix) (a b : BitVec 7)
  /-- IPI_DELIVER: A held message enters the target's queue when room frees and sets SVPEND bit 0 (R305) -/
  | ipiDeliver (core : Nat)
  /-- SERVICE_INTERRUPT: A pending SVPEND bit whose hold bit is clear is taken between clauses, pushing a shelf (R305) -/
  | serviceInterrupt (core : Nat)
  /-- CTXSV: Writes the image of a halted block into CONTEXT frames (R306) -/
  | ctxsv (p : Option Prefix) (a b : BitVec 7)
  /-- CTXLD: Checks and loads a block image onto a core as SAVED, or returns a failure code (R307) -/
  | ctxld (p : Option Prefix) (d a b : BitVec 7)
  /-- WLATCH: Starts a change of a core's world latch (R308) -/
  | wlatch (p : Option Prefix) (a b : BitVec 7)
  /-- KEYREV: Revokes an ACTIVE key slot in the flush or drop form (R309) -/
  | keyrev (p : Option Prefix) (a b : BitVec 7)
  /-- WARP_PROMOTION: A warp that has had a ready clause for 64 cycles is promoted in its pipe's choice (R137) -/
  | warpPromotion (w : Nat)
  /-- LOAD_RETURN: A load's data returns into its registers, merging flags and clearing its flag when all are written (R204) -/
  | loadReturn (w op u : Nat)
  /-- STORE_PERFORM: A store is performed at its home, owning stash or memory-side engine, or is refused, lost or meets poison, and becomes complete (R259) -/
  | storePerform (w op u : Nat)
  /-- ATOMIC_PERFORM: An atomic or reduction lane performs its indivisible read-modify-write and returns the old value (R214) -/
  | atomicPerform (w op u : Nat)
  /-- FENCE_COMPLETE: A fence's waits are met, its status is written and the held memory words may issue (R216) -/
  | fenceComplete (w op : Nat)
  /-- MWAIT_REREAD: A waiting MWAIT re-reads its location on a performed write or after 2,048 cycles and ends if satisfied (R219) -/
  | mwaitReread (w e : Nat)
  /-- MWAIT_TIMEOUT: An MWAIT whose cycle timeout passes ends with the last value read (R219) -/
  | mwaitTimeout (w e : Nat)
  /-- LEASE_GRANT: A parked lease request is granted once the line is free of leases and tile locks (R220) -/
  | leaseGrant (w e : Nat)
  /-- LEASE_EXPIRY: A lease ends at expiry and waiting accesses proceed oldest first (R196) -/
  | leaseExpiry (w : Nat)
  /-- SENDM_ACCEPT: A named warp's q7 accepts a SENDM entry once it holds fewer than 16 entries (R244) -/
  | sendmAccept (w op target : Nat)
  /-- COUNTED_OP_COMPLETE: A counted operation completes and, once older ones of its class have retired, leaves its counter (R224) -/
  | countedOpComplete (w op : Nat)
  /-- RING_NOTIFY: A performed store to NOTIFY makes the copy engine read it with acquire and resume taking entries (R228) -/
  | ringNotify (blk : Nat)
  /-- RING_ENTRY_TAKE: The copy engine reads and checks an entry, writes HEAD with release and starts the copy (R230) -/
  | ringEntryTake (blk : Nat)
  /-- RING_COPY_COMPLETE: A ring copy finishes and writes its stamp with release, or stops the ring with code 5 (R231) -/
  | ringCopyComplete (blk c : Nat)
  /-- STREAM_ENTRY_PRODUCE: The address engine reads elements and appends a queue entry while the queue holds fewer than 16 (R241) -/
  | streamEntryProduce (w q : Nat)
  /-- DOORBELL_WRITE: A host write of a queue number to a tenant's doorbell register sets its kick bit (R142) -/
  | doorbellWrite (t q : Nat)
  /-- TIDEMARK_SCAN: Tidemark exchanges bitmap words to zero and serves each kicked queue up to its TAIL (R143) -/
  | tidemarkScan (die : Nat)
  /-- COMMAND_LAUNCH: Tidemark checks and accepts a LAUNCH entry, journalling ACCEPT (R140) -/
  | commandLaunch (die : Nat)
  /-- COMMAND_MARK: Tidemark checks and accepts a MARK entry, completing it when its predecessors have (R140) -/
  | commandMark (die : Nat)
  /-- JOURNAL_TRUNCATE: Between steps and after a FENCE at .sys, Tidemark stores COUNT = 0 (R144) -/
  | journalTruncate (t : Nat)
  /-- TASK_DISPATCH: A queue head whose predecessors have completed is dispatched in priority order (R145) -/
  | taskDispatch (t : Nat)
  /-- BLOCK_PLACE: A block is placed where its registers, stash and matrix context fit, journalled as PLACE (R20) -/
  | blockPlace (t task core ctx : Nat)
  /-- DONE_EVENT_POST: A cluster group posts a DONE event of exited blocks when the ring has room (R342) -/
  | doneEventPost (die : Nat)
  /-- TASK_COMPLETE: When every block has exited, regions are cleaned, COMPLETE is journalled and the stamp is written (R146) -/
  | taskComplete (t task : Nat)
  /-- QUANTUM_END: At a quantum end the group updates the pass and chooses the runnable tenant with the least pass, halting the outgoing tenant (R149) -/
  | quantumEnd (g used : Nat)
  /-- FORCED_SAVE_TIMEOUT: A warp not halted when the forced-save timeout expires is stopped between clauses with its full split table (R152) -/
  | forcedSaveTimeout (blk : Nat)
  /-- BLOCK_SAVE: Once every warp has halted and drained, the block's registers, stash, bank and queues are saved to its image area (R320) -/
  | blockSave (blk : Nat)
  /-- BLOCK_RESTORE: A saved block is restored in its cluster group when its tenant is chosen again (R152) -/
  | blockRestore (blk core ctx : Nat)
  /-- WORLD_LATCH_DRAINED: A draining core whose blocks are saved and accesses performed clears its state and latches the new world (R286) -/
  | worldLatchDrained (core : Nat)
  /-- SCHED_RECORD_WRITE: A hypervisor write of a scheduling record is rejected for QUANTUM 0 or takes effect with its effective quantum (R148) -/
  | schedRecordWrite (t : Nat) (v : BitVec 128)
  /-- MEMORY_RECORD_WRITE: A hypervisor write of a tenant's memory record sets ROOT, LEASELIM and WAYMASK (R191) -/
  | memoryRecordWrite (t : Nat) (v : BitVec 128)
  /-- ISOLATION_RECORD_WRITE: A hypervisor write of an isolation record sets WORLD and SLOTMASK, rejected if WORLD changes while frames are owned (R270) -/
  | isolationRecordWrite (t : Nat) (v : BitVec 64)
  /-- QUEUE_TABLE_WRITE: The hypervisor sets a tenant's queue table address (R139) -/
  | queueTableWrite (t addr : Nat)
  /-- HOST_REGION_ADD: The hypervisor gives host frames to a tenant, creating their type entries (R291) -/
  | hostRegionAdd (t i first len type : Nat) (grant : BitVec 64)
  /-- HOST_REGION_REMOVE: A request to remove a host ownership region is rejected while any frame has a nonzero count (R291) -/
  | hostRegionRemove (t i : Nat)
  /-- TENANT_CREATE: Headland allocates and links the three frames of a new tenant's table window (R272) -/
  | tenantCreate (t root l1 l0 : Nat) (journal : Nat × Nat) (dbell : Nat)
  /-- WORLD_CREATE: The leader creates a protected world with a roster and a key slot (R271) -/
  | worldCreate (world : Nat) (roster : BitVec 64) (slot t : Nat)
  /-- ROSTER_WRITE: The leader changes a world's roster of reachable peers (R271) -/
  | rosterWrite (world : Nat) (roster : BitVec 64)
  /-- ADMISSION_CHECK: A page-table store whose earlier stores to the frame are done is checked and committed or refused (R278) -/
  | admissionCheck (n : Nat)
  /-- ADMISSION_RETIRE: Once every derived copy is dropped and accesses through the old entry are done, old targets lose a count and the store is acknowledged (R280) -/
  | admissionRetire (n : Nat)
  /-- KEY_SLOT_ASSIGN: The leader assigns an EMPTY key slot to a tenant, making it ACTIVE (R290) -/
  | keySlotAssign (slot t : Nat)
  /-- KEY_SLOT_FLUSHED: A FLUSHING slot whose dirty lines are written back becomes REVOKED and signals completion (R290) -/
  | keySlotFlushed (slot : Nat)
  /-- KEY_DESTROY: A REVOKED slot named by no frame has its key destroyed and becomes EMPTY (R290) -/
  | keyDestroy (slot : Nat)
  /-- LINK_REKEY: Headland installs fresh link keys at training and before a counter reaches 2^48 (R288) -/
  | linkRekey (link : Nat)
  /-- FLIT_AUTH_FAIL: A flit group failing authentication is discarded and replayed, the link dying after 16 failures (R288) -/
  | flitAuthFail (link : Nat)
  /-- HOST_ACCESS: A host CXL access is performed, poisoned or dropped for protected frames and counted (R292) -/
  | hostAccess (access : OutsideAccess) (pa size : Nat) (v : BitVec 64)
  /-- JTAG_ACCESS: A debug access reaches world-0 cores and frames only, otherwise reading zero and setting DBGDENY (R293) -/
  | jtagAccess (die : Nat) (write : Bool) (warp : Option Nat) (place : Nat) (v : BitVec 32)
  /-- DEBUG_CONTINUE: A debugger continues a held warp at the clause after its BKPT (R316) -/
  | debugContinue (w : Nat)
  /-- TRACE_RECORD: A trace record is emitted, or dropped and counted if its world is not 0 (R294) -/
  | traceRecord (die world : Nat) (v : BitVec 64)
  /-- ERASURE_REQUEST: The hypervisor requests a tenant's erasure and the leader stops its work (R295) -/
  | erasureRequest (t : Nat) (nonce : BitVec 256)
  /-- ERASURE_STEP_COMPLETE: A completed erasure step lets the next one begin, or a failure leaves the request pending (R295) -/
  | erasureStepComplete (t : Nat) (ok : Bool)
  /-- TRAP_RECORD_WRITE: Once a trapped warp has drained and the trap ring has room, its record is written and Headland is signalled (R315) -/
  | trapRecordWrite (w e : Nat)
  /-- BLOCK_KILL: Headland kills a block, which stops, drains, writes back its stash and leaves its barriers (R317) -/
  | blockKill (blk : Nat)
  /-- BLOCK_ROLLBACK: Headland rolls an eligible block back to its checkpoint by applying its undo log (R324) -/
  | blockRollback (blk : Nat)
  /-- CORRECTABLE_ERROR: A correctable error is corrected with no visible effect and counted (R311) -/
  | correctableError (t : Nat)
  /-- CLEAN_LINE_ERROR: An uncorrectable error in a clean L1, stash or L2 line drops it for refetch (R311) -/
  | cleanLineError (blk unit : Nat)
  /-- STATE_ERROR: An uncorrectable error in registers, dirty stash, tile rows, latches or queues makes the consumer take poison consumed (R311) -/
  | stateError (w e kind at_ : Nat)
  /-- MEMORY_LINE_ERROR: An uncorrectable error in a dirty L2, HBM or second-tier line poisons it at its home (R311) -/
  | memoryLineError (pa : Nat)
  /-- TYPE_ENTRY_ERROR: An uncorrectable type entry error is repaired from its second copy (R311) -/
  | typeEntryError (frame : Nat)
  /-- JOURNAL_RECORD_ERROR: An uncorrectable journal record error is repaired from its second copy (R311) -/
  | journalRecordError (t n : Nat)
  /-- CORE_FAIL: An error in warp tables or pipeline fails a core, whose blocks are rolled back or killed and which is quarantined (R326) -/
  | coreFail (core : Nat)
  /-- SCHEDULER_REBUILD: An illegal scheduler state makes the group halt warps and rebuild its state from the warp tables (R329) -/
  | schedulerRebuild (g : Nat)
  /-- HEADLAND_ERROR: The monitor core takes a Headland fault, freezes queues, reloads the instance and re-adopts tenants (R332) -/
  | headlandError (die : Nat)
  /-- HEADLAND_HEARTBEAT: Every 100 µs each Headland instance sends a heartbeat (R331) -/
  | headlandHeartbeat (die : Nat)
  /-- LEADER_LAPSE: After 1 ms without leader heartbeats the lowest live instance becomes leader (R331) -/
  | leaderLapse
  /-- TIDEMARK_ERROR_STOP: The active Tidemark core stops on an uncorrectable error and stores the error value to HEARTBEAT (R343) -/
  | tidemarkErrorStop (die : Nat)
  /-- TIDEMARK_TAKEOVER: On a lapse or error stop the standby takes over, replays the journal and rescans every queue (R333) -/
  | tidemarkTakeover (die : Nat)
  /-- TIDEMARK_RESTART: Headland reloads a stopped Tidemark core's slot and restarts it as standby once HEARTBEAT bit 63 is clear (R343) -/
  | tidemarkRestart (die : Nat)
  /-- AUDIT_REPLAY: After a selected block exits, Burin replays it on another core into a shadow (R327) -/
  | auditReplay (die n core : Nat)
  /-- AUDIT_END: An audit ends by match, by mismatch that quarantines both cores and fails the task, or as unauditable (R328) -/
  | auditEnd (die n index : Nat)
  /-- LANE_LOSS: A Strandline port fails and its link begins retraining to a smaller width (R334) -/
  | laneLoss (port : Nat)
  /-- LINK_RETRAIN_COMPLETE: A retrained link is rekeyed and resends unacknowledged packets, then the waiting ones (R339) -/
  | linkRetrainComplete (link : Nat) (ok : Bool)
  /-- PACKET_SEND: A packet takes the next sequence number at the port, enters the replay buffer and is sent (R337) -/
  | packetSend (link dir : Nat)
  /-- PACKET_RECEIVE: The receiver accepts an in-sequence packet and performs it, discarding duplicates and gaps (R338) -/
  | packetReceive (link dir : Nat)
  /-- ACK_SEND: The receiver sends a cumulative acknowledgement at least once per µs or every 64 packets (R338) -/
  | ackSend (link dir : Nat)
  /-- ACK_RECEIVE: An acknowledgement frees acknowledged packets from the replay buffer, completing their stores (R338) -/
  | ackReceive (link dir : Nat)
  /-- LINK_RECORD_WRITE: Headland writes a link's port mask, peer node and window, taking effect between trainings (R361) -/
  | linkRecordWrite (link : Nat) (mask : BitVec 72) (node window : Nat)
  /-- DROOP_DETECT: An island detects a supply droop and stretches its clock (R335) -/
  | droopDetect (i : Nat)
  /-- DROOP_STEP_DOWN: A droop lasting over 2 µs steps the island clock down by eighths to no less than half (R335) -/
  | droopStepDown (i : Nat)
  /-- DROOP_RECOVER: After the supply holds within 5% for 100 µs the clock returns to nominal (R335) -/
  | droopRecover (i : Nat)
  /-- ORDERLY_STOP: A deep or long droop stops issue, writes a stop record, drops links and resets the package (R336) -/
  | orderlyStop (i : Nat) (recorded : Bool)
  /-- ISLAND_CAP: Headland caps an island's clock to hold the package power limit (R363) -/
  | islandCap (i k : Nat)
  /-- ISLAND_UNCAP: Headland lifts an island's cap (R363) -/
  | islandUncap (i : Nat)
  /-- POWER_LIMIT_WRITE: The hypervisor sets the package power limit (R363) -/
  | powerLimitWrite (watts : Nat)
  /-- RESET: A reset wipes all state inside the package, frees every frame and empties every key slot (R364) -/
  | reset
  /-- LIFECYCLE_CHANGE: A signed SPDM command moves the part between life-cycle states, with a full wipe (R364) -/
  | lifecycleChange (dest : Nat) (signed : Bool)
  /-- POWER_UP: Power-up starts bring-up with the service island's signature check (R365) -/
  | powerUp (pinLow : Bool)
  /-- BRINGUP_STEP_COMPLETE: A completed bring-up step starts the next, or a failure stops bring-up and reports its number (R365) -/
  | bringupStepComplete (ok : Bool) (windows tiers : List Nat) (images : List (Nat × List (BitVec 8)))
  /-- TRANSPORT_FLAG_SET: An SPDM vendor command sets the transport flag for the next power-up (R366) -/
  | transportFlagSet
  /-- SELF_TEST_COMPLETE: The extended self-test ends, writes its signed report, clears the flag and releases passing units from quarantine (R366) -/
  | selfTestComplete (results : List Nat)
  /-- PMON_SELECT_WRITE: The hypervisor selects the events each PMON counts for a tenant (R367) -/
  | pmonSelectWrite (t : Nat) (v : BitVec 32)
  /-- HISTOGRAM_CONTROL_WRITE: A write sets a histogram monitor's enable, island, tenant filter and source (R368) -/
  | histogramControlWrite (die n : Nat) (v : BitVec 32)
  /-- HISTOGRAM_CLEAR: A write of CLR zeroes the bins and resets MIN and MAX (R369) -/
  | histogramClear (die n : Nat)
  /-- HISTOGRAM_SAMPLE: An enabled monitor puts a sample into its bin and updates MIN and MAX (R368) -/
  | histogramSample (die n src isl t : Nat) (v : BitVec 32)
  /-- UNSUPPORTED_REQUEST: A request for an absent feature of a standard receives that standard's unsupported-request response (R14) -/
  | unsupportedRequest (port code : Nat)
  /-- TIDEMARK_STANDBY_ERROR: An uncorrectable error taken by the standby Tidemark core makes Headland restart it as standby while the active core serves on (R343) -/
  | tidemarkStandbyError (die : Nat)
  /-- MONITOR_CORE_FAILURE: A failing Headland monitor core is restarted by the pair, and a second failure within 1 s takes the die out of service and kills its tenants' blocks with cause 20 (R332) -/
  | monitorCoreFailure (die : Nat) (again : Bool)
  /-- SPDM_REQUEST: An SPDM 1.3 request over DOE for identity or attestation is answered by the device, signed with its attestation key (R13) -/
  | spdmRequest (request : List Nat)
  deriving DecidableEq, Repr

end Sys2Proof
end

