-- ==== Sys2Proof/Machine/Shape.lean ====
section
/-! DEFINITION. The static rules of one instruction word: what each operand field names (R32, R33),
which fields of the prefix the word accepts (R46, R48, R81, R119, R130, R202, R243, R246, R297) and
the field rules of steps 1 and 2 of R49 that one word and its prefix decide. Rules of a whole clause
(R42, R47, R166, R173, R226) stand with the clause. -/

namespace Sys2Proof.Machine

/-- Why step 2 of R49 refuses a word. -/
inductive Why where
  /-- the prefix names rounding 5 or 6 (R44) -/
  | prefixRounding
  /-- a prefix field that the word does not use is not neutral (R46, R81) -/
  | prefixField
  /-- a queue bit on a field that is no vector source (R46) -/
  | queueBit
  /-- two queue operands of one word name one queue (R46) -/
  | queueTwice
  /-- a queue field that names q6, or has bits 6:3 set, or a high bit (R32) -/
  | queueField
  /-- a scalar number at or above 192 (R32) -/
  | scalarRange
  /-- a pair, quad or longer run that starts at no multiple of its length (R32, R33) -/
  | misalignedRun
  /-- a compare whose destination is k0 (R52) -/
  | compareK0
  /-- combine mode 3 of a compare (R52) -/
  | combine3
  /-- `ACAS` or `ACAS64` without a prefix (R48) -/
  | needsPrefix
  /-- a queue number that the word does not take (R243) -/
  | queueNumber
  /-- a conversion code that the word does not take (R129) -/
  | conversion
  /-- flag A or B of a clause header is 12, 13 or 14 (R37) -/
  | headerFlag
  /-- an unlisted special register (R298) -/
  | unlistedCsr
  deriving DecidableEq, Repr

/-- The breach lies in the prefix word itself, and its fault is reported at that word (assumption 7). -/
def whyAtPrefix : Why → Bool
  | .prefixRounding => true
  | .prefixField => true
  | .queueBit => true
  | _ => false

/-- What an operand field names (R32, R33), with the field's value. -/
inductive Opd where
  /-- the field names no register: it is absent, or a mask, a tile, an immediate; no high bit -/
  | none
  /-- the field is zero and its high bit is accepted and unused (`QSTOP`, R243) -/
  | unusedHigh
  /-- one vector register that is no queue operand -/
  | vec (n : BitVec 7)
  /-- one vector register that is read as a source, so that a queue bit is accepted (R46) -/
  | vecq (n : BitVec 7)
  /-- a pair of vector registers -/
  | vecPair (n : BitVec 7)
  /-- a quad of vector registers -/
  | vecQuad (n : BitVec 7)
  /-- a run of `c` vector registers that may start anywhere (R129) -/
  | run (n : BitVec 7) (c : Nat)
  /-- a scalar -/
  | sca (n : BitVec 7)
  /-- a scalar pair -/
  | pair (n : BitVec 7)
  /-- four scalars at a multiple of 4 -/
  | quad (n : BitVec 7)
  /-- eight scalars at a multiple of 8 (R236) -/
  | oct (n : BitVec 7)
  /-- the scalar or pair that a special register of number `r` moves through (R298) -/
  | csr (n : BitVec 7) (r : BitVec 14)
  deriving DecidableEq, Repr

/-- The fourth operand (R48). -/
inductive Fourth where
  | none
  /-- the addend: prefix field `c` if a prefix is present, else the register of field `d` -/
  | addend (d : BitVec 7)
  /-- the new value of `ACAS` (1 register) or `ACAS64` (a pair): only from `c` -/
  | newValue (count : Nat)
  /-- the format block of `MMA`: four scalars at `c`, `s120` without a prefix -/
  | block
  deriving DecidableEq, Repr

/-- The operand form of a word and the prefix features that it accepts. -/
structure Form where
  p : Option Prefix
  d : Opd
  a : Opd
  b : Opd
  c : Fourth
  /-- the mask field is accepted -/
  masks : Bool
  /-- the zero bit is accepted -/
  zeroes : Bool
  /-- the word is a rounding form (R81) -/
  rounds : Bool
  /-- the scope field is accepted (R202) -/
  scopes : Bool
  deriving DecidableEq, Repr

/-- A word or step without register operands and without a prefix. -/
def noForm : Option Form := none

/-- The special registers of R298 that exist, and whether they have 64 bits. -/
def csrWide (r : BitVec 14) : Option Bool :=
  let n := r.toNat
  if n ≤ 2 then some false
  else if n = 0x10 ∨ n = 0x11 then some false
  else if 0x20 ≤ n ∧ n ≤ 0x28 then some false
  else if 0x40 ≤ n ∧ n ≤ 0x4F then some true
  else if 0x60 ≤ n ∧ n ≤ 0x67 then some true
  else if n = 0x800 ∨ n = 0x802 then some false
  else if n = 0x801 ∨ n = 0x803 then some true
  else if 0x804 ≤ n ∧ n ≤ 0x809 then some false
  else if n = 0x810 ∨ n = 0x820 then some false
  else if n = 0x811 then some true
  else none

/-- The special registers marked "service" in R298. -/
def csrService (r : BitVec 14) : Bool := decide (0x800 ≤ r.toNat)

/-- Registers of one row of a tile under a conversion code (R129). -/
def convRegs (b : BitVec 2) : Nat :=
  match b.toNat with
  | 0 => 16
  | 1 => 8
  | 2 => 8
  | _ => 32

/-- The operand form of each word. -/
def form : Instr → Option Form
  | .clause _ _ _ _ => noForm
  | .iadd p d a b => some ⟨p, (.vec d), (.vecq a), (.vecq b), .none, true, true, false, false⟩
  | .isub p d a b => some ⟨p, (.vec d), (.vecq a), (.vecq b), .none, true, true, false, false⟩
  | .imul p d a b => some ⟨p, (.vec d), (.vecq a), (.vecq b), .none, true, true, false, false⟩
  | .imulh p d a b => some ⟨p, (.vec d), (.vecq a), (.vecq b), .none, true, true, false, false⟩
  | .umulh p d a b => some ⟨p, (.vec d), (.vecq a), (.vecq b), .none, true, true, false, false⟩
  | .imin p d a b => some ⟨p, (.vec d), (.vecq a), (.vecq b), .none, true, true, false, false⟩
  | .imax p d a b => some ⟨p, (.vec d), (.vecq a), (.vecq b), .none, true, true, false, false⟩
  | .umin p d a b => some ⟨p, (.vec d), (.vecq a), (.vecq b), .none, true, true, false, false⟩
  | .umax p d a b => some ⟨p, (.vec d), (.vecq a), (.vecq b), .none, true, true, false, false⟩
  | .iabs p d a => some ⟨p, (.vec d), (.vecq a), .none, .none, true, true, false, false⟩
  | .ineg p d a => some ⟨p, (.vec d), (.vecq a), .none, .none, true, true, false, false⟩
  | .iadds p d a b => some ⟨p, (.vec d), (.vecq a), (.vecq b), .none, true, true, false, false⟩
  | .isubs p d a b => some ⟨p, (.vec d), (.vecq a), (.vecq b), .none, true, true, false, false⟩
  | .uadds p d a b => some ⟨p, (.vec d), (.vecq a), (.vecq b), .none, true, true, false, false⟩
  | .usubs p d a b => some ⟨p, (.vec d), (.vecq a), (.vecq b), .none, true, true, false, false⟩
  | .imad p d a b => some ⟨p, (.vec d), (.vecq a), (.vecq b), (.addend d), true, true, false, false⟩
  | .and p d a b => some ⟨p, (.vec d), (.vecq a), (.vecq b), .none, true, true, false, false⟩
  | .or p d a b => some ⟨p, (.vec d), (.vecq a), (.vecq b), .none, true, true, false, false⟩
  | .xor p d a b => some ⟨p, (.vec d), (.vecq a), (.vecq b), .none, true, true, false, false⟩
  | .andn p d a b => some ⟨p, (.vec d), (.vecq a), (.vecq b), .none, true, true, false, false⟩
  | .not p d a => some ⟨p, (.vec d), (.vecq a), .none, .none, true, true, false, false⟩
  | .shl p d a b => some ⟨p, (.vec d), (.vecq a), (.vecq b), .none, true, true, false, false⟩
  | .shr p d a b => some ⟨p, (.vec d), (.vecq a), (.vecq b), .none, true, true, false, false⟩
  | .sra p d a b => some ⟨p, (.vec d), (.vecq a), (.vecq b), .none, true, true, false, false⟩
  | .rol p d a b => some ⟨p, (.vec d), (.vecq a), (.vecq b), .none, true, true, false, false⟩
  | .popc p d a => some ⟨p, (.vec d), (.vecq a), .none, .none, true, true, false, false⟩
  | .clz p d a => some ⟨p, (.vec d), (.vecq a), .none, .none, true, true, false, false⟩
  | .brev p d a => some ⟨p, (.vec d), (.vecq a), .none, .none, true, true, false, false⟩
  | .bfe p d a b => some ⟨p, (.vec d), (.vecq a), (.vecq b), .none, true, true, false, false⟩
  | .bfi p d a b => some ⟨p, (.vec d), (.vecq a), (.vecq b), (.addend d), true, true, false, false⟩
  | .mov p d a => some ⟨p, (.vec d), (.vecq a), .none, .none, true, true, false, false⟩
  | .sel p d a b => some ⟨p, (.vec d), (.vecq a), (.vecq b), .none, true, false, false, false⟩
  | .iaddi p d a _ => some ⟨p, (.vec d), (.vecq a), .none, .none, true, true, false, false⟩
  | .shli p d a _ => some ⟨p, (.vec d), (.vecq a), .none, .none, true, true, false, false⟩
  | .shri p d a _ => some ⟨p, (.vec d), (.vecq a), .none, .none, true, true, false, false⟩
  | .srai p d a _ => some ⟨p, (.vec d), (.vecq a), .none, .none, true, true, false, false⟩
  | .andi p d a _ => some ⟨p, (.vec d), (.vecq a), .none, .none, true, true, false, false⟩
  | .ori p d a _ => some ⟨p, (.vec d), (.vecq a), .none, .none, true, true, false, false⟩
  | .xori p d a _ => some ⟨p, (.vec d), (.vecq a), .none, .none, true, true, false, false⟩
  | .roli p d a _ => some ⟨p, (.vec d), (.vecq a), .none, .none, true, true, false, false⟩
  | .imuli p d a _ => some ⟨p, (.vec d), (.vecq a), .none, .none, true, true, false, false⟩
  | .movi p d _ => some ⟨p, (.vec d), .none, .none, .none, true, true, false, false⟩
  | .movhi p d _ => some ⟨p, (.vec d), .none, .none, .none, true, true, false, false⟩
  | .smovi p d _ => some ⟨p, (.sca d), .none, .none, .none, false, false, false, false⟩
  | .smovhi p d _ => some ⟨p, (.sca d), .none, .none, .none, false, false, false, false⟩
  | .laneid p d => some ⟨p, (.vec d), .none, .none, .none, true, true, false, false⟩
  | .icmpEq p _ _ a b => some ⟨p, .none, (.vecq a), (.vecq b), .none, true, true, false, false⟩
  | .icmpNe p _ _ a b => some ⟨p, .none, (.vecq a), (.vecq b), .none, true, true, false, false⟩
  | .icmpLt p _ _ a b => some ⟨p, .none, (.vecq a), (.vecq b), .none, true, true, false, false⟩
  | .icmpLe p _ _ a b => some ⟨p, .none, (.vecq a), (.vecq b), .none, true, true, false, false⟩
  | .icmpGt p _ _ a b => some ⟨p, .none, (.vecq a), (.vecq b), .none, true, true, false, false⟩
  | .icmpGe p _ _ a b => some ⟨p, .none, (.vecq a), (.vecq b), .none, true, true, false, false⟩
  | .icmpLtu p _ _ a b => some ⟨p, .none, (.vecq a), (.vecq b), .none, true, true, false, false⟩
  | .icmpLeu p _ _ a b => some ⟨p, .none, (.vecq a), (.vecq b), .none, true, true, false, false⟩
  | .icmpGtu p _ _ a b => some ⟨p, .none, (.vecq a), (.vecq b), .none, true, true, false, false⟩
  | .icmpGeu p _ _ a b => some ⟨p, .none, (.vecq a), (.vecq b), .none, true, true, false, false⟩
  | .fcmpEq p _ _ a b => some ⟨p, .none, (.vecq a), (.vecq b), .none, true, true, false, false⟩
  | .fcmpNe p _ _ a b => some ⟨p, .none, (.vecq a), (.vecq b), .none, true, true, false, false⟩
  | .fcmpLt p _ _ a b => some ⟨p, .none, (.vecq a), (.vecq b), .none, true, true, false, false⟩
  | .fcmpLe p _ _ a b => some ⟨p, .none, (.vecq a), (.vecq b), .none, true, true, false, false⟩
  | .fcmpGt p _ _ a b => some ⟨p, .none, (.vecq a), (.vecq b), .none, true, true, false, false⟩
  | .fcmpGe p _ _ a b => some ⟨p, .none, (.vecq a), (.vecq b), .none, true, true, false, false⟩
  | .fcmpOrd p _ _ a b => some ⟨p, .none, (.vecq a), (.vecq b), .none, true, true, false, false⟩
  | .fcmpUno p _ _ a b => some ⟨p, .none, (.vecq a), (.vecq b), .none, true, true, false, false⟩
  | .kand p _ _ _ => some ⟨p, .none, .none, .none, .none, false, false, false, false⟩
  | .kor p _ _ _ => some ⟨p, .none, .none, .none, .none, false, false, false, false⟩
  | .kxor p _ _ _ => some ⟨p, .none, .none, .none, .none, false, false, false, false⟩
  | .kandn p _ _ _ => some ⟨p, .none, .none, .none, .none, false, false, false, false⟩
  | .knot p _ _ => some ⟨p, .none, .none, .none, .none, false, false, false, false⟩
  | .kmov p _ _ => some ⟨p, .none, .none, .none, .none, false, false, false, false⟩
  | .ktos p d _ => some ⟨p, (.pair d), .none, .none, .none, false, false, false, false⟩
  | .stok p _ a => some ⟨p, .none, (.pair a), .none, .none, false, false, false, false⟩
  | .kpopc p d _ => some ⟨p, (.sca d), .none, .none, .none, false, false, false, false⟩
  | .kffs p d _ => some ⟨p, (.sca d), .none, .none, .none, false, false, false, false⟩
  | .xrd p d => some ⟨p, (.pair d), .none, .none, .none, false, false, false, false⟩
  | .xwr p a => some ⟨p, .none, (.pair a), .none, .none, false, false, false, false⟩
  | .kset p _ a b => some ⟨p, .none, (.sca a), (.sca b), .none, false, false, false, false⟩
  | .fadd p d a b => some ⟨p, (.vec d), (.vecq a), (.vecq b), .none, true, true, true, false⟩
  | .fsub p d a b => some ⟨p, (.vec d), (.vecq a), (.vecq b), .none, true, true, true, false⟩
  | .fmul p d a b => some ⟨p, (.vec d), (.vecq a), (.vecq b), .none, true, true, true, false⟩
  | .ffma p d a b => some ⟨p, (.vec d), (.vecq a), (.vecq b), (.addend d), true, true, true, false⟩
  | .fmin p d a b => some ⟨p, (.vec d), (.vecq a), (.vecq b), .none, true, true, false, false⟩
  | .fmax p d a b => some ⟨p, (.vec d), (.vecq a), (.vecq b), .none, true, true, false, false⟩
  | .fabs p d a => some ⟨p, (.vec d), (.vecq a), .none, .none, true, true, false, false⟩
  | .fneg p d a => some ⟨p, (.vec d), (.vecq a), .none, .none, true, true, false, false⟩
  | .ffms p d a b => some ⟨p, (.vec d), (.vecq a), (.vecq b), (.addend d), true, true, true, false⟩
  | .fnfma p d a b => some ⟨p, (.vec d), (.vecq a), (.vecq b), (.addend d), true, true, true, false⟩
  | .fclass p d a => some ⟨p, (.vec d), (.vecq a), .none, .none, true, true, false, false⟩
  | .ffloor p d a => some ⟨p, (.vec d), (.vecq a), .none, .none, true, true, false, false⟩
  | .fceil p d a => some ⟨p, (.vec d), (.vecq a), .none, .none, true, true, false, false⟩
  | .ftrunc p d a => some ⟨p, (.vec d), (.vecq a), .none, .none, true, true, false, false⟩
  | .frint p d a => some ⟨p, (.vec d), (.vecq a), .none, .none, true, true, true, false⟩
  | .fscale p d a b => some ⟨p, (.vec d), (.vecq a), (.vecq b), .none, true, true, true, false⟩
  | .frcp p d a => some ⟨p, (.vec d), (.vecq a), .none, .none, true, true, false, false⟩
  | .frsq p d a => some ⟨p, (.vec d), (.vecq a), .none, .none, true, true, false, false⟩
  | .fsqrt p d a => some ⟨p, (.vec d), (.vecq a), .none, .none, true, true, false, false⟩
  | .fexp2 p d a => some ⟨p, (.vec d), (.vecq a), .none, .none, true, true, false, false⟩
  | .flog2 p d a => some ⟨p, (.vec d), (.vecq a), .none, .none, true, true, false, false⟩
  | .fsin p d a => some ⟨p, (.vec d), (.vecq a), .none, .none, true, true, false, false⟩
  | .fcos p d a => some ⟨p, (.vec d), (.vecq a), .none, .none, true, true, false, false⟩
  | .ftanh p d a => some ⟨p, (.vec d), (.vecq a), .none, .none, true, true, false, false⟩
  | .cvtfi p d a => some ⟨p, (.vec d), (.vecq a), .none, .none, true, true, true, false⟩
  | .cvtfu p d a => some ⟨p, (.vec d), (.vecq a), .none, .none, true, true, true, false⟩
  | .cvtif p d a => some ⟨p, (.vec d), (.vecq a), .none, .none, true, true, true, false⟩
  | .cvtuf p d a => some ⟨p, (.vec d), (.vecq a), .none, .none, true, true, true, false⟩
  | .cvtfh p d a => some ⟨p, (.vec d), (.vecq a), .none, .none, true, true, true, false⟩
  | .cvthf p d a => some ⟨p, (.vec d), (.vecq a), .none, .none, true, true, true, false⟩
  | .cvtfb p d a => some ⟨p, (.vec d), (.vecq a), .none, .none, true, true, true, false⟩
  | .cvtbf p d a => some ⟨p, (.vec d), (.vecq a), .none, .none, true, true, true, false⟩
  | .qexp p d a b => some ⟨p, (.vec d), (.vecq a), (.sca b), .none, true, true, false, false⟩
  | .qman p d a b => some ⟨p, (.vec d), (.vecq a), (.vecq b), .none, true, true, true, false⟩
  | .dq p d a b => some ⟨p, (.vec d), (.vecq a), (.vecq b), .none, true, true, false, false⟩
  | .packm p d a b => some ⟨p, (.vec d), (.vecq a), (.sca b), .none, true, true, false, false⟩
  | .unpkm p d a b => some ⟨p, (.vec d), (.vecq a), (.sca b), .none, true, true, false, false⟩
  | .hadd2 p d a b => some ⟨p, (.vec d), (.vecq a), (.vecq b), .none, true, true, true, false⟩
  | .hsub2 p d a b => some ⟨p, (.vec d), (.vecq a), (.vecq b), .none, true, true, true, false⟩
  | .hmul2 p d a b => some ⟨p, (.vec d), (.vecq a), (.vecq b), .none, true, true, true, false⟩
  | .hfma2 p d a b => some ⟨p, (.vec d), (.vecq a), (.vecq b), (.addend d), true, true, true, false⟩
  | .hmin2 p d a b => some ⟨p, (.vec d), (.vecq a), (.vecq b), .none, true, true, false, false⟩
  | .hmax2 p d a b => some ⟨p, (.vec d), (.vecq a), (.vecq b), .none, true, true, false, false⟩
  | .badd2 p d a b => some ⟨p, (.vec d), (.vecq a), (.vecq b), .none, true, true, true, false⟩
  | .bsub2 p d a b => some ⟨p, (.vec d), (.vecq a), (.vecq b), .none, true, true, true, false⟩
  | .bmul2 p d a b => some ⟨p, (.vec d), (.vecq a), (.vecq b), .none, true, true, true, false⟩
  | .bfma2 p d a b => some ⟨p, (.vec d), (.vecq a), (.vecq b), (.addend d), true, true, true, false⟩
  | .bmin2 p d a b => some ⟨p, (.vec d), (.vecq a), (.vecq b), .none, true, true, false, false⟩
  | .bmax2 p d a b => some ⟨p, (.vec d), (.vecq a), (.vecq b), .none, true, true, false, false⟩
  | .shfl p d a b => some ⟨p, (.vec d), (.vecq a), (.vecq b), .none, true, true, false, false⟩
  | .shflx p d a b => some ⟨p, (.vec d), (.vecq a), (.sca b), .none, true, true, false, false⟩
  | .shflu p d a b => some ⟨p, (.vec d), (.vecq a), (.sca b), .none, true, true, false, false⟩
  | .shfld p d a b => some ⟨p, (.vec d), (.vecq a), (.sca b), .none, true, true, false, false⟩
  | .nbl p d a => some ⟨p, (.vec d), (.vecq a), .none, .none, true, true, false, false⟩
  | .nbr p d a => some ⟨p, (.vec d), (.vecq a), .none, .none, true, true, false, false⟩
  | .nbx p d a => some ⟨p, (.vec d), (.vecq a), .none, .none, true, true, false, false⟩
  | .blut p d a b => some ⟨p, (.vec d), (.vecq a), (.vecQuad b), .none, true, true, false, false⟩
  | .bluth p d a b => some ⟨p, (.vec d), (.vecq a), (.vecQuad b), .none, true, true, false, false⟩
  | .bprm p d a b => some ⟨p, (.vec d), (.vecPair a), (.vecq b), .none, true, true, false, false⟩
  | .vredadd p d a => some ⟨p, (.sca d), (.vecq a), .none, .none, true, true, false, false⟩
  | .vredmin p d a => some ⟨p, (.sca d), (.vecq a), .none, .none, true, true, false, false⟩
  | .vredmax p d a => some ⟨p, (.sca d), (.vecq a), .none, .none, true, true, false, false⟩
  | .vredfadd p d a => some ⟨p, (.sca d), (.vecq a), .none, .none, true, true, true, false⟩
  | .vscan p d a => some ⟨p, (.vec d), (.vecq a), .none, .none, true, true, false, false⟩
  | .vbcast p d a b => some ⟨p, (.vec d), (.vecq a), (.sca b), .none, true, true, false, false⟩
  | .sadd p d a b => some ⟨p, (.sca d), (.sca a), (.sca b), .none, false, false, false, false⟩
  | .ssub p d a b => some ⟨p, (.sca d), (.sca a), (.sca b), .none, false, false, false, false⟩
  | .smul p d a b => some ⟨p, (.sca d), (.sca a), (.sca b), .none, false, false, false, false⟩
  | .sand p d a b => some ⟨p, (.sca d), (.sca a), (.sca b), .none, false, false, false, false⟩
  | .sor p d a b => some ⟨p, (.sca d), (.sca a), (.sca b), .none, false, false, false, false⟩
  | .sxor p d a b => some ⟨p, (.sca d), (.sca a), (.sca b), .none, false, false, false, false⟩
  | .sshl p d a b => some ⟨p, (.sca d), (.sca a), (.sca b), .none, false, false, false, false⟩
  | .sshr p d a b => some ⟨p, (.sca d), (.sca a), (.sca b), .none, false, false, false, false⟩
  | .ssra p d a b => some ⟨p, (.sca d), (.sca a), (.sca b), .none, false, false, false, false⟩
  | .smin p d a b => some ⟨p, (.sca d), (.sca a), (.sca b), .none, false, false, false, false⟩
  | .smax p d a b => some ⟨p, (.sca d), (.sca a), (.sca b), .none, false, false, false, false⟩
  | .smov p d a => some ⟨p, (.sca d), (.sca a), .none, .none, false, false, false, false⟩
  | .sslt p d a b => some ⟨p, (.sca d), (.sca a), (.sca b), .none, false, false, false, false⟩
  | .ssltu p d a b => some ⟨p, (.sca d), (.sca a), (.sca b), .none, false, false, false, false⟩
  | .sseq p d a b => some ⟨p, (.sca d), (.sca a), (.sca b), .none, false, false, false, false⟩
  | .s2v p d a => some ⟨p, (.vec d), (.sca a), .none, .none, true, true, false, false⟩
  | .saddi p d a _ => some ⟨p, (.sca d), (.sca a), .none, .none, false, false, false, false⟩
  | .sshli p d a _ => some ⟨p, (.sca d), (.sca a), .none, .none, false, false, false, false⟩
  | .sshri p d a _ => some ⟨p, (.sca d), (.sca a), .none, .none, false, false, false, false⟩
  | .sandi p d a _ => some ⟨p, (.sca d), (.sca a), .none, .none, false, false, false, false⟩
  | .sori p d a _ => some ⟨p, (.sca d), (.sca a), .none, .none, false, false, false, false⟩
  | .saddi64 p d a _ => some ⟨p, (.pair d), (.pair a), .none, .none, false, false, false, false⟩
  | .sadd64 p d a b => some ⟨p, (.pair d), (.pair a), (.pair b), .none, false, false, false, false⟩
  | .ssub64 p d a b => some ⟨p, (.pair d), (.pair a), (.pair b), .none, false, false, false, false⟩
  | .smov64 p d a => some ⟨p, (.pair d), (.pair a), .none, .none, false, false, false, false⟩
  | .sshli64 p d a _ => some ⟨p, (.pair d), (.pair a), .none, .none, false, false, false, false⟩
  | .ldb p d a b => some ⟨p, (.vec d), (.pair a), (.vecq b), .none, true, true, false, true⟩
  | .ldbu p d a b => some ⟨p, (.vec d), (.pair a), (.vecq b), .none, true, true, false, true⟩
  | .ldh p d a b => some ⟨p, (.vec d), (.pair a), (.vecq b), .none, true, true, false, true⟩
  | .ldhu p d a b => some ⟨p, (.vec d), (.pair a), (.vecq b), .none, true, true, false, true⟩
  | .ldw p d a b => some ⟨p, (.vec d), (.pair a), (.vecq b), .none, true, true, false, true⟩
  | .ldd p d a b => some ⟨p, (.vecPair d), (.pair a), (.vecq b), .none, true, true, false, true⟩
  | .ldq p d a b => some ⟨p, (.vecQuad d), (.pair a), (.vecq b), .none, true, true, false, true⟩
  | .ldacq p d a b => some ⟨p, (.vec d), (.pair a), (.vecq b), .none, true, true, false, true⟩
  | .stb p d a b => some ⟨p, (.vec d), (.pair a), (.vecq b), .none, true, false, false, true⟩
  | .sth p d a b => some ⟨p, (.vec d), (.pair a), (.vecq b), .none, true, false, false, true⟩
  | .stw p d a b => some ⟨p, (.vec d), (.pair a), (.vecq b), .none, true, false, false, true⟩
  | .std p d a b => some ⟨p, (.vecPair d), (.pair a), (.vecq b), .none, true, false, false, true⟩
  | .stq p d a b => some ⟨p, (.vecQuad d), (.pair a), (.vecq b), .none, true, false, false, true⟩
  | .strel p d a b => some ⟨p, (.vec d), (.pair a), (.vecq b), .none, true, false, false, true⟩
  | .sldw p d a _ => some ⟨p, (.sca d), (.pair a), .none, .none, false, false, false, true⟩
  | .sldd p d a _ => some ⟨p, (.pair d), (.pair a), .none, .none, false, false, false, true⟩
  | .sstw p d a _ => some ⟨p, (.sca d), (.pair a), .none, .none, false, false, false, true⟩
  | .sstd p d a _ => some ⟨p, (.pair d), (.pair a), .none, .none, false, false, false, true⟩
  | .sldacq p d a _ => some ⟨p, (.sca d), (.pair a), .none, .none, false, false, false, true⟩
  | .sstrel p d a _ => some ⟨p, (.sca d), (.pair a), .none, .none, false, false, false, true⟩
  | .tld p d a b => some ⟨p, (.vec d), (.pair a), (.sca b), .none, false, false, false, true⟩
  | .tst p d a b => some ⟨p, (.vec d), (.pair a), (.sca b), .none, false, false, false, true⟩
  | .tlda p d a b => some ⟨p, (.vec d), (.pair a), (.sca b), .none, false, false, false, true⟩
  | .tstr p d a b => some ⟨p, (.vec d), (.pair a), (.sca b), .none, false, false, false, true⟩
  | .aadd p d a b => some ⟨p, (.vec d), (.pair a), (.vecq b), .none, true, true, false, true⟩
  | .amin p d a b => some ⟨p, (.vec d), (.pair a), (.vecq b), .none, true, true, false, true⟩
  | .amax p d a b => some ⟨p, (.vec d), (.pair a), (.vecq b), .none, true, true, false, true⟩
  | .aumin p d a b => some ⟨p, (.vec d), (.pair a), (.vecq b), .none, true, true, false, true⟩
  | .aumax p d a b => some ⟨p, (.vec d), (.pair a), (.vecq b), .none, true, true, false, true⟩
  | .aand p d a b => some ⟨p, (.vec d), (.pair a), (.vecq b), .none, true, true, false, true⟩
  | .aor p d a b => some ⟨p, (.vec d), (.pair a), (.vecq b), .none, true, true, false, true⟩
  | .axor p d a b => some ⟨p, (.vec d), (.pair a), (.vecq b), .none, true, true, false, true⟩
  | .axchg p d a b => some ⟨p, (.vec d), (.pair a), (.vecq b), .none, true, true, false, true⟩
  | .acas p d a b => some ⟨p, (.vec d), (.pair a), (.vecq b), (.newValue 1), true, true, false, true⟩
  | .afadd p d a b => some ⟨p, (.vec d), (.pair a), (.vecq b), .none, true, true, true, true⟩
  | .aadd64 p d a b => some ⟨p, (.vecPair d), (.pair a), (.vecq b), .none, true, true, false, true⟩
  | .acas64 p d a b => some ⟨p, (.vecPair d), (.pair a), (.vecq b), (.newValue 2), true, true, false, true⟩
  | .redadd p d a b => some ⟨p, (.vec d), (.pair a), (.vecq b), .none, true, false, false, true⟩
  | .redmin p d a b => some ⟨p, (.vec d), (.pair a), (.vecq b), .none, true, false, false, true⟩
  | .redmax p d a b => some ⟨p, (.vec d), (.pair a), (.vecq b), .none, true, false, false, true⟩
  | .redumin p d a b => some ⟨p, (.vec d), (.pair a), (.vecq b), .none, true, false, false, true⟩
  | .redumax p d a b => some ⟨p, (.vec d), (.pair a), (.vecq b), .none, true, false, false, true⟩
  | .redand p d a b => some ⟨p, (.vec d), (.pair a), (.vecq b), .none, true, false, false, true⟩
  | .redor p d a b => some ⟨p, (.vec d), (.pair a), (.vecq b), .none, true, false, false, true⟩
  | .redxor p d a b => some ⟨p, (.vec d), (.pair a), (.vecq b), .none, true, false, false, true⟩
  | .redfadd p d a b => some ⟨p, (.vec d), (.pair a), (.vecq b), .none, true, false, true, true⟩
  | .redadd64 p d a b => some ⟨p, (.vecPair d), (.pair a), (.vecq b), .none, true, false, false, true⟩
  | .fence p d => some ⟨p, (.sca d), .none, .none, .none, false, false, false, true⟩
  | .mon p a => some ⟨p, .none, (.pair a), .none, .none, false, false, false, false⟩
  | .mwait p d a b => some ⟨p, (.pair d), (.pair a), (.sca b), .none, false, false, false, true⟩
  | .lease p d a b => some ⟨p, (.sca d), (.pair a), (.sca b), .none, false, false, false, false⟩
  | .lrel p => some ⟨p, .none, .none, .none, .none, false, false, false, false⟩
  | .stashmap p a b => some ⟨p, .none, (.pair a), (.sca b), .none, false, false, false, false⟩
  | .stashwb p a b => some ⟨p, .none, (.pair a), (.sca b), .none, false, false, false, false⟩
  | .stashinv p a b => some ⟨p, .none, (.pair a), (.sca b), .none, false, false, false, false⟩
  | .pref p _ a b => some ⟨p, .none, (.pair a), (.vecq b), .none, false, false, false, false⟩
  | .mzero p a b => some ⟨p, .none, (.pair a), (.sca b), .none, false, false, false, false⟩
  | .mcopy p d a b => some ⟨p, (.pair d), (.pair a), (.sca b), .none, false, false, false, false⟩
  | .minv p a b => some ⟨p, .none, (.pair a), (.sca b), .none, false, false, false, false⟩
  | .gath p a => some ⟨p, .none, (.oct a), .none, .none, false, false, false, false⟩
  | .scat p a => some ⟨p, .none, (.oct a), .none, .none, false, false, false, false⟩
  | .strm p a => some ⟨p, .none, (.quad a), .none, .none, false, false, false, false⟩
  | .qstop p _ => some ⟨p, .unusedHigh, .none, .none, .none, false, false, false, false⟩
  | .qstat p d _ => some ⟨p, (.sca d), .none, .none, .none, false, false, false, false⟩
  | .sendm p a b => some ⟨p, .none, (.sca a), (.vec b), .none, false, false, false, false⟩
  | .qpop p d _ => some ⟨p, (.vec d), .none, .none, .none, true, true, false, false⟩
  | .cwait p _ _ => some ⟨p, .none, .none, .none, .none, false, false, false, false⟩
  | .crd p d _ => some ⟨p, (.sca d), .none, .none, .none, false, false, false, false⟩
  | .mma p _ _ _ _ _ a b => some ⟨p, .none, (.vec a), (.vec b), .block, true, false, false, false⟩
  | .accz p _ => some ⟨p, .none, .none, .none, .none, true, false, false, false⟩
  | .accrd p d _ b => some ⟨p, (.run d (convRegs b)), .none, .none, .none, true, true, true, false⟩
  | .accwr p _ a b => some ⟨p, .none, (.run a (convRegs b)), .none, .none, true, false, false, false⟩
  | .accadd p _ a b => some ⟨p, .none, (.run a (convRegs b)), .none, .none, true, false, false, false⟩
  | .mstatrd p d => some ⟨p, (.sca d), .none, .none, .none, true, false, false, false⟩
  | .mctx p _ _ _ => some ⟨p, .none, .none, .none, .none, true, false, false, false⟩
  | .br _ _ _ => some ⟨none, .none, .none, .none, .none, false, false, false, false⟩
  | .call _ => some ⟨none, .none, .none, .none, .none, false, false, false, false⟩
  | .rcv _ => some ⟨none, .none, .none, .none, .none, false, false, false, false⟩
  | .brx p a => some ⟨p, .none, (.sca a), .none, .none, false, false, false, false⟩
  | .callx p a => some ⟨p, .none, (.sca a), .none, .none, false, false, false, false⟩
  | .ret p => some ⟨p, .none, .none, .none, .none, false, false, false, false⟩
  | .exit p => some ⟨p, .none, .none, .none, .none, false, false, false, false⟩
  | .yield p => some ⟨p, .none, .none, .none, .none, false, false, false, false⟩
  | .nop p => some ⟨p, .none, .none, .none, .none, false, false, false, false⟩
  | .winb p a => some ⟨p, .none, (.sca a), .none, .none, false, false, false, false⟩
  | .wina p a => some ⟨p, .none, (.sca a), .none, .none, false, false, false, false⟩
  | .syscall p a => some ⟨p, .none, (.sca a), .none, .none, false, false, false, false⟩
  | .trap p a => some ⟨p, .none, (.sca a), .none, .none, false, false, false, false⟩
  | .bkpt p => some ⟨p, .none, .none, .none, .none, false, false, false, false⟩
  | .barw  => some ⟨none, .none, .none, .none, .none, false, false, false, false⟩
  | .barb _ => some ⟨none, .none, .none, .none, .none, false, false, false, false⟩
  | .barc _ => some ⟨none, .none, .none, .none, .none, false, false, false, false⟩
  | .barg _ => some ⟨none, .none, .none, .none, .none, false, false, false, false⟩
  | .arrb d _ => some ⟨none, (.sca d), .none, .none, .none, false, false, false, false⟩
  | .arrc d _ => some ⟨none, (.sca d), .none, .none, .none, false, false, false, false⟩
  | .arrg d _ => some ⟨none, (.sca d), .none, .none, .none, false, false, false, false⟩
  | .wbarb a _ => some ⟨none, .none, (.sca a), .none, .none, false, false, false, false⟩
  | .wbarc a _ => some ⟨none, .none, (.sca a), .none, .none, false, false, false, false⟩
  | .wbarg a _ => some ⟨none, .none, (.sca a), .none, .none, false, false, false, false⟩
  | .ovld p d a => some ⟨p, (.pair d), (.sca a), .none, .none, false, false, false, false⟩
  | .ovcall p a => some ⟨p, .none, (.pair a), .none, .none, false, false, false, false⟩
  | .ovjmp p a => some ⟨p, .none, (.pair a), .none, .none, false, false, false, false⟩
  | .ovret p => some ⟨p, .none, .none, .none, .none, false, false, false, false⟩
  | .ovevict p a => some ⟨p, .none, (.pair a), .none, .none, false, false, false, false⟩
  | .ovq p d a => some ⟨p, (.sca d), (.pair a), .none, .none, false, false, false, false⟩
  | .csrrd p d i => some ⟨p, (.csr d i), .none, .none, .none, false, false, false, false⟩
  | .csrwr p d i => some ⟨p, (.csr d i), .none, .none, .none, false, false, false, false⟩
  | .retype p d a b => some ⟨p, (.sca d), (.sca a), (.pair b), .none, false, false, false, false⟩
  | .frq p d a => some ⟨p, (.quad d), (.sca a), .none, .none, false, false, false, false⟩
  | .eret p => some ⟨p, .none, .none, .none, .none, false, false, false, false⟩
  | .wfi p => some ⟨p, .none, .none, .none, .none, false, false, false, false⟩
  | .ipi p a b => some ⟨p, .none, (.sca a), (.sca b), .none, false, false, false, false⟩
  | .ctxsv p a b => some ⟨p, .none, (.pair a), (.sca b), .none, false, false, false, false⟩
  | .ctxld p d a b => some ⟨p, (.sca d), (.pair a), (.sca b), .none, false, false, false, false⟩
  | .wlatch p a b => some ⟨p, .none, (.sca a), (.sca b), .none, false, false, false, false⟩
  | .keyrev p a b => some ⟨p, .none, (.sca a), (.sca b), .none, false, false, false, false⟩
  | .specialFunctionResult .. => noForm
  | .neighbourLatchComplete .. => noForm
  | .tileLockAcquire .. => noForm
  | .tileLockRetry .. => noForm
  | .matrixEngineEntry .. => noForm
  | .matrixOpComplete .. => noForm
  | .yieldWake .. => noForm
  | .syscallReply .. => noForm
  | .barrierTimeout .. => noForm
  | .demandReloadRetry .. => noForm
  | .slotLoadComplete .. => noForm
  | .slotError .. => noForm
  | .slotReloadComplete .. => noForm
  | .wstatWrite .. => noForm
  | .mstatWrite .. => noForm
  | .vlogClear .. => noForm
  | .svstWrite .. => noForm
  | .shelfWrite .. => noForm
  | .svpendClear .. => noForm
  | .svmsgPop .. => noForm
  | .fstoWrite .. => noForm
  | .audfracWrite .. => noForm
  | .wfiWake .. => noForm
  | .ipiDeliver .. => noForm
  | .serviceInterrupt .. => noForm
  | .warpPromotion .. => noForm
  | .loadReturn .. => noForm
  | .storePerform .. => noForm
  | .atomicPerform .. => noForm
  | .fenceComplete .. => noForm
  | .mwaitReread .. => noForm
  | .mwaitTimeout .. => noForm
  | .leaseGrant .. => noForm
  | .leaseExpiry .. => noForm
  | .sendmAccept .. => noForm
  | .countedOpComplete .. => noForm
  | .ringNotify .. => noForm
  | .ringEntryTake .. => noForm
  | .ringCopyComplete .. => noForm
  | .streamEntryProduce .. => noForm
  | .doorbellWrite .. => noForm
  | .tidemarkScan .. => noForm
  | .commandLaunch .. => noForm
  | .commandMark .. => noForm
  | .journalTruncate .. => noForm
  | .taskDispatch .. => noForm
  | .blockPlace .. => noForm
  | .doneEventPost .. => noForm
  | .taskComplete .. => noForm
  | .quantumEnd .. => noForm
  | .forcedSaveTimeout .. => noForm
  | .blockSave .. => noForm
  | .blockRestore .. => noForm
  | .worldLatchDrained .. => noForm
  | .schedRecordWrite .. => noForm
  | .memoryRecordWrite .. => noForm
  | .isolationRecordWrite .. => noForm
  | .queueTableWrite .. => noForm
  | .hostRegionAdd .. => noForm
  | .hostRegionRemove .. => noForm
  | .tenantCreate .. => noForm
  | .worldCreate .. => noForm
  | .rosterWrite .. => noForm
  | .admissionCheck .. => noForm
  | .admissionRetire .. => noForm
  | .keySlotAssign .. => noForm
  | .keySlotFlushed .. => noForm
  | .keyDestroy .. => noForm
  | .linkRekey .. => noForm
  | .flitAuthFail .. => noForm
  | .hostAccess .. => noForm
  | .jtagAccess .. => noForm
  | .debugContinue .. => noForm
  | .traceRecord .. => noForm
  | .erasureRequest .. => noForm
  | .erasureStepComplete .. => noForm
  | .trapRecordWrite .. => noForm
  | .blockKill .. => noForm
  | .blockRollback .. => noForm
  | .correctableError .. => noForm
  | .cleanLineError .. => noForm
  | .stateError .. => noForm
  | .memoryLineError .. => noForm
  | .typeEntryError .. => noForm
  | .journalRecordError .. => noForm
  | .coreFail .. => noForm
  | .schedulerRebuild .. => noForm
  | .headlandError .. => noForm
  | .headlandHeartbeat .. => noForm
  | .leaderLapse => noForm
  | .tidemarkErrorStop .. => noForm
  | .tidemarkTakeover .. => noForm
  | .tidemarkRestart .. => noForm
  | .auditReplay .. => noForm
  | .auditEnd .. => noForm
  | .laneLoss .. => noForm
  | .linkRetrainComplete .. => noForm
  | .packetSend .. => noForm
  | .packetReceive .. => noForm
  | .ackSend .. => noForm
  | .ackReceive .. => noForm
  | .linkRecordWrite .. => noForm
  | .droopDetect .. => noForm
  | .droopStepDown .. => noForm
  | .droopRecover .. => noForm
  | .orderlyStop .. => noForm
  | .islandCap .. => noForm
  | .islandUncap .. => noForm
  | .powerLimitWrite .. => noForm
  | .reset => noForm
  | .lifecycleChange .. => noForm
  | .powerUp .. => noForm
  | .bringupStepComplete .. => noForm
  | .transportFlagSet => noForm
  | .selfTestComplete .. => noForm
  | .pmonSelectWrite .. => noForm
  | .histogramControlWrite .. => noForm
  | .histogramClear .. => noForm
  | .histogramSample .. => noForm
  | .unsupportedRequest .. => noForm
  | .tidemarkStandbyError .. => noForm
  | .monitorCoreFailure .. => noForm
  | .spdmRequest .. => noForm

/-- `ok` unless `b` holds. -/
def ifWhy (b : Bool) (w : Why) : Option Why := if b then some w else none

/-- The field rules of a clause header (R37). -/
def headerWhy (a b : BitVec 4) : Option Why :=
  let bad (f : BitVec 4) : Bool := decide (12 ≤ f.toNat) && decide (f.toNat ≤ 14)
  ifWhy (bad a || bad b) .headerFlag

/-- The rules of the `d` field of a compare (R52). -/
def compareWhy (c : BitVec 2) (d : BitVec 3) : Option Why :=
  (ifWhy (d == 0#3) .compareK0).or (ifWhy (c == 3#2) .combine3)

/-- `ACAS` and `ACAS64` take their new value only from a prefix (R48). -/
def needsPrefix (p : Option Prefix) : Option Why := ifWhy p.isNone .needsPrefix

/-- The queue numbers of `QSTAT` and `QPOP` (0 to 5 and 7) and of `QSTOP` (0 to 5) (R243). -/
def queueNumberWhy (a : BitVec 3) (stop : Bool) : Option Why :=
  ifWhy (a == 6#3 || (stop && a == 7#3)) .queueNumber

/-- The rules that hold for one instruction alone. -/
def ownRule : Instr → Option Why
  | .clause _ a b _ => headerWhy a b
  | .icmpEq _ c d _ _ => compareWhy c d
  | .icmpNe _ c d _ _ => compareWhy c d
  | .icmpLt _ c d _ _ => compareWhy c d
  | .icmpLe _ c d _ _ => compareWhy c d
  | .icmpGt _ c d _ _ => compareWhy c d
  | .icmpGe _ c d _ _ => compareWhy c d
  | .icmpLtu _ c d _ _ => compareWhy c d
  | .icmpLeu _ c d _ _ => compareWhy c d
  | .icmpGtu _ c d _ _ => compareWhy c d
  | .icmpGeu _ c d _ _ => compareWhy c d
  | .fcmpEq _ c d _ _ => compareWhy c d
  | .fcmpNe _ c d _ _ => compareWhy c d
  | .fcmpLt _ c d _ _ => compareWhy c d
  | .fcmpLe _ c d _ _ => compareWhy c d
  | .fcmpGt _ c d _ _ => compareWhy c d
  | .fcmpGe _ c d _ _ => compareWhy c d
  | .fcmpOrd _ c d _ _ => compareWhy c d
  | .fcmpUno _ c d _ _ => compareWhy c d
  | .acas p _ _ _ => needsPrefix p
  | .acas64 p _ _ _ => needsPrefix p
  | .qstop _ a => queueNumberWhy a true
  | .qstat _ _ a => queueNumberWhy a false
  | .qpop _ _ a => queueNumberWhy a false
  | .accadd _ _ _ b => ifWhy (b == 3#2) .conversion
  | _ => none

/-- `n + 128 h` (R32). -/
def fieldNumber (n : BitVec 7) (h : Bool) : Nat := n.toNat + 128 * h.toNat

/-- The prefix that a word without one stands for: every field neutral (R44). -/
def neutralPrefix (c : BitVec 7) : Prefix :=
  ⟨0, false, 7, c, false, false, false, false, false, false, false, 2⟩

/-- The neutral value of field `c` (R44, R48). -/
def neutralC : Fourth → BitVec 7
  | .block => 120
  | _ => 0

/-- The prefix in force for a word: its own, or the neutral one. -/
def effPrefix (f : Form) : Prefix := f.p.getD (neutralPrefix (neutralC f.c))

/-- A scalar run of `c` registers from `n` at a multiple of `c` (R32, R33). -/
def scalarWhy (c n : Nat) : Option Why :=
  (ifWhy (decide (192 ≤ n)) .scalarRange).or (ifWhy (decide (n % c ≠ 0)) .misalignedRun)

/-- The rules of a queue field (R32). -/
def queueFieldWhy (n : BitVec 7) (h : Bool) : Option Why :=
  ifWhy (h || decide (8 ≤ n.toNat) || decide (n.toNat = 6)) .queueField

/-- The rules of one operand field with high bit `h` and queue bit `q`; both over a field that the word does not use, and `q` over
a pair, are refused (R46, R81; assumptions 58 and 63). -/
def opdWhy (o : Opd) (h q : Bool) : Option Why :=
  match o with
  | .none => (ifWhy h .prefixField).or (ifWhy q .queueBit)
  | .unusedHigh => ifWhy q .queueBit
  | .vec _ => ifWhy q .queueBit
  | .vecq n => if q then queueFieldWhy n h else none
  | .vecPair n => (ifWhy q .queueBit).or (ifWhy (decide (fieldNumber n h % 2 ≠ 0)) .misalignedRun)
  | .vecQuad n => (ifWhy q .queueBit).or (ifWhy (decide (fieldNumber n h % 4 ≠ 0)) .misalignedRun)
  | .run _ _ => ifWhy q .queueBit
  | .sca n => (ifWhy q .queueBit).or (scalarWhy 1 (fieldNumber n h))
  | .pair n => (ifWhy q .queueBit).or (scalarWhy 2 (fieldNumber n h))
  | .quad n => (ifWhy q .queueBit).or (scalarWhy 4 (fieldNumber n h))
  | .oct n => (ifWhy q .queueBit).or (scalarWhy 8 (fieldNumber n h))
  | .csr n r =>
    (ifWhy q .queueBit).or (match csrWide r with
      | some false => scalarWhy 1 (fieldNumber n h)
      | some true => scalarWhy 2 (fieldNumber n h)
      | none => some .unlistedCsr)

/-- The rules of the fourth operand. -/
def fourthWhy (f : Form) (p : Prefix) : Option Why :=
  match f.c with
  | .none => (ifWhy (p.c != 0#7 || p.ch) .prefixField).or (ifWhy p.cq .queueBit)
  | .addend _ => if p.cq then (if f.p.isSome then queueFieldWhy p.c p.ch else none) else none
  | .newValue n => (ifWhy p.cq .queueBit).or (ifWhy (decide (fieldNumber p.c p.ch % n ≠ 0)) .misalignedRun)
  | .block => (ifWhy p.cq .queueBit).or (scalarWhy 4 (fieldNumber p.c p.ch))

/-- The queues that a word pops, in field order (R47). -/
def queueOpds (f : Form) : List Nat :=
  match f.p with
  | none => []
  | some p =>
    let one (o : Opd) (q : Bool) : List Nat :=
      match o with
      | .vecq n => if q then [n.toNat % 8] else []
      | _ => []
    one f.a p.aq ++ one f.b p.bq ++
      (match f.c with
        | .addend _ => if p.cq then [p.c.toNat % 8] else []
        | _ => [])

/-- The prefix features that a form accepts (R46). -/
def prefixWhy (f : Form) (p : Prefix) : Option Why :=
  (ifWhy (p.rnd == 5#3 || p.rnd == 6#3) .prefixRounding).or <|
  (ifWhy (!f.masks && p.k != 0#3) .prefixField).or <|
  (ifWhy (!f.zeroes && p.z) .prefixField).or <|
  (ifWhy (!f.rounds && p.rnd != 7#3) .prefixField).or <|
  ifWhy (!f.scopes && p.scope != 2#2) .prefixField

/-- What each part of a word with its prefix breaks, part by part. -/
def formWhys (f : Form) : List Why :=
  let p := effPrefix f
  [prefixWhy f p, opdWhy f.d p.dh false, opdWhy f.a p.ah p.aq, opdWhy f.b p.bh p.bq, fourthWhy f p,
    ifWhy (decide (¬ (queueOpds f).Nodup)) .queueTwice].filterMap id

/-- Steps 1 and 2 of R49 for one word with its prefix: the prefix is the lower word, so its breaches come first (R50). -/
def formWhy (f : Form) : Option Why := ((formWhys f).find? whyAtPrefix).or (formWhys f).head?

/-- Majors whose words accept the high bits of a prefix and nothing else of it (R46). -/
def highOnly (major : BitVec 7) : Bool := major == 0x43#7 || major == 0x45#7 || major == 0x50#7

/-- What a prefix breaks whatever the minor of the word of this major after it is (R44, R46). -/
def prefixBreach (p : Prefix) (major : BitVec 7) : Bool :=
  p.rnd == 5#3 || p.rnd == 6#3 ||
    (highOnly major && p != { neutralPrefix 0 with dh := p.dh, ah := p.ah, bh := p.bh })

/-- Why a word is an illegal instruction under step 2 of R49, or none. -/
def illegal (i : Instr) : Option Why :=
  match i with
  | .clause _ a b _ => headerWhy a b
  | i =>
    match form i with
    | none => none
    | some f => (formWhy f).or (ownRule i)

end Sys2Proof.Machine
end

