-- ==== Sys2Proof/Machine/Table.lean ====
section
/-! DEFINITION. Sparse tables by number, and memory as a list of (address, byte) pairs in one canonical
form: addresses strictly rising, and no entry that holds what an unlisted address reads as. -/

namespace Sys2Proof.Machine

/-- A table by number: an unlisted number holds the table's blank value. -/
abbrev Tbl (α : Type) := List (Nat × α)

/-- What the table holds at `k`. -/
def Tbl.get {α : Type} (blank : α) : Tbl α → Nat → α
  | [], _ => blank
  | (j, v) :: t, k => if j = k then v else Tbl.get blank t k

/-- The table with `v` at `k`. -/
def Tbl.set {α : Type} : Tbl α → Nat → α → Tbl α
  | [], k, v => [(k, v)]
  | (j, w) :: t, k, v =>
    if j = k then (k, v) :: t else if k < j then (k, v) :: (j, w) :: t else (j, w) :: Tbl.set t k v

/-- The table with nothing listed at `k`. -/
def Tbl.del {α : Type} (t : Tbl α) (k : Nat) : Tbl α := t.filter fun e => e.1 ≠ k

/-- The numbers listed. -/
def Tbl.keys {α : Type} (t : Tbl α) : List Nat := t.map Prod.fst

/-- Memory: listed bytes by physical address. -/
abbrev Memory := List Host.Cell

/-- What an unlisted address reads as: zero (R364 for HBM; assumption 2 for the other ranges). -/
def Memory.unlisted : Byte := 0

/-- The byte at `a`. -/
def Memory.byte (m : Memory) (a : Nat) : Byte :=
  match m with
  | [] => Memory.unlisted
  | (b, v) :: t => if b = a then v else Memory.byte t a

/-- The canonical form: strictly rising addresses, and no listed byte equal to the unlisted one. -/
def Memory.wf (m : Memory) : Bool :=
  match m with
  | [] => true
  | [(_, v)] => v != Memory.unlisted
  | (a, v) :: (b, w) :: t => decide (a < b) && v != Memory.unlisted && Memory.wf ((b, w) :: t)

/-- Memory without a listed byte at `a`. -/
def Memory.drop (m : Memory) (a : Nat) : Memory :=
  match m with
  | [] => []
  | (b, v) :: t => if b = a then Memory.drop t a else (b, v) :: Memory.drop t a

/-- Memory with the listed byte `v` at `a`, in its place. -/
def Memory.put (m : Memory) (a : Nat) (v : Byte) : Memory :=
  match m with
  | [] => [(a, v)]
  | (b, w) :: t =>
    if b = a then (a, v) :: t else if a < b then (a, v) :: (b, w) :: t else (b, w) :: Memory.put t a v

/-- Memory after the byte `v` is written at `a`. -/
def Memory.write (m : Memory) (a : Nat) (v : Byte) : Memory :=
  if v = Memory.unlisted then Memory.drop m a else Memory.put m a v

/-- Memory after a run of bytes is written from `a` on. -/
def Memory.writes (m : Memory) (a : Nat) : List Byte → Memory
  | [] => m
  | v :: t => Memory.writes (Memory.write m a v) (a + 1) t

/-- The bytes from `a` on. -/
def Memory.reads (m : Memory) (a n : Nat) : List Byte := (List.range n).map fun i => Memory.byte m (a + i)

/-- Memory with the bytes from `a` to `a + n - 1` zero. -/
def Memory.zeroRange (m : Memory) (a n : Nat) : Memory := m.filter fun e => e.1 < a ∨ a + n ≤ e.1

/-- Memory after the bytes from `src` are copied to `dst`, as they stood before. -/
def Memory.copyRange (m : Memory) (dst src n : Nat) : Memory :=
  ((m.filter fun e => src ≤ e.1 ∧ e.1 < src + n).foldl
    (fun acc e => Memory.write acc (dst + (e.1 - src)) e.2) (Memory.zeroRange m dst n))

/-- Little-endian value of a run of bytes (R4). -/
def leNat : List Byte → Nat
  | [] => 0
  | b :: t => b.toNat + 256 * leNat t

/-- The `n` low bytes of a value, low byte first (R4). -/
def leBytes : Nat → Nat → List Byte
  | 0, _ => []
  | n + 1, v => BitVec.ofNat 8 v :: leBytes n (v / 256)

/-- The value of the `n` bytes from `a` on. -/
def Memory.rd (m : Memory) (a n : Nat) : Nat := leNat (Memory.reads m a n)

/-- Memory after the `n` low bytes of `v` are written from `a` on. -/
def Memory.wr (m : Memory) (a n v : Nat) : Memory := Memory.writes m a (leBytes n v)

end Sys2Proof.Machine
end

