-- ==== Sys2Proof/Machine/State.lean ====
section
/-! DEFINITION. The state of a GX9 package: every piece of state that the manual gives the machine, as
plain data. Sparse tables hold what is numbered, and an unlisted number holds the blank value, which is
the value after the reset wipe (R364). Fields marked "model" are the model's own bookkeeping. -/

namespace Sys2Proof.Machine

/-- Why the machine stops. Every fault of the manual is a precise trap, which is taken as a next state;
nothing in the model raises this reason, which stands for a stop the manual does not describe (safe). -/
inductive Fault where
  /-- raised by no meaning: an uncorrectable condition outside the manual; a stop is safe -/
  | outside
  deriving DecidableEq, Repr

/-- Why an instruction has no meaning. -/
inductive Refusal where
  /-- raised by exec's refused arms only: the instruction is not modelled yet; a stop is safe -/
  | notModelled (mnemonic : String)
  deriving DecidableEq, Repr

/-- The two parts (R1, R24). -/
inductive Part where
  | gx9
  | gx9h
  deriving DecidableEq, Repr

/-! ### Split table and fragments (R132 to R135) -/

/-- STATE of a split table entry (R132). -/
inductive EState where
  | free
  | leaf
  | parked
  | arrived
  | join
  deriving DecidableEq, Repr

/-- Why an entry is PARKED, with what its wait needs (R135). -/
inductive Wait where
  | none
  /-- a `SYSCALL` request (R170): `S[a]`, the word, the number of the warp's next operation at issue, and
  whether its record has been written -/
  | syscall (aux : BitVec 32) (ref : BitVec 64) (before : Nat) (sent : Bool)
  /-- a reference that waits for its overlay (R159); `link` is the OFF of the link to write on success, `own` the offset at
  which a fault is reported, and `pop` says that success pops the top shelf (R304) -/
  | reload (ref : BitVec 64) (link : Option (BitVec 64)) (own : BitVec 16) (pop : Bool)
  /-- `MWAIT`: destination pair, threshold, last value read, a timeout of 0, scope (R219) -/
  | mwait (d : Nat) (threshold : BitVec 64) (last : Option (BitVec 64)) (once : Bool) (scope : BitVec 2)
  /-- a barrier wait: level 0 block, 1 cluster, 2 grid; number; the phase that ends when it flips (R173) -/
  | barrier (lvl n : Nat) (phase : Bool)
  /-- `LEASE`: destination, address, physical line, cycles to grant (R220) -/
  | lease (d : Nat) (va : BitVec 64) (line cycles : Nat)
  /-- parked at the `BARW` of a reference (R176) -/
  | barw (ref : BitVec 64)
  /-- `WFI` (R305) -/
  | wfi
  deriving DecidableEq, Repr

/-- One single-copy-atomic unit of an access (R208), or one row piece of a tile (R198). -/
structure MUnit where
  /-- lane, or tile row -/
  lane : Nat
  /-- byte offset within the lane's access -/
  off : Nat
  len : Nat
  va : BitVec 64
  pa : Nat
  /-- S, M and T of the leaf found at issue (R182) -/
  leafS : Bool
  leafM : Bool
  leafT : Bool
  /-- W of that leaf: what a stash fill finds (R193) -/
  leafW : Bool
  /-- served by the stash region that maps the address (R192), in the upper core's stash of a gang -/
  stash : Bool
  up : Bool
  /-- addresses of the entries that its walk read (R185, R280) -/
  via : List Nat
  /-- data: a store's bytes, an atomic's operand, or what a load has read -/
  data : List Byte
  /-- second operand of an atomic: the new value of `ACAS` -/
  data2 : List Byte
  done : Bool
  /-- sent on a Strandline link and not yet acknowledged (R337, R338) -/
  sent : Bool
  deriving DecidableEq, Repr

/-- A split table entry (R132) and the clause that its fragment is dispatching (R37 to R39, R166). -/
structure Entry where
  state : EState
  owned : BitVec 64
  exec : BitVec 64
  pend : BitVec 64
  pendx : BitVec 64
  /-- code reference of the next word: within a clause the next word of it, else the next clause header -/
  pc : BitVec 64
  rcvOff : BitVec 16
  altOff : BitVec 16
  srcv : BitVec 16
  parent : BitVec 4
  ser : BitVec 2
  /-- words of the clause still to dispatch (R37) -/
  left : Nat
  /-- offset of the word in execution: what a trap reports (R314) -/
  here : BitVec 16
  /-- words of the word in execution: 2 with a prefix (model) -/
  size : Nat
  /-- offset named by the `RCV` of the clause (R166) -/
  rcv : Option (BitVec 16)
  /-- window base of the clause (R34) -/
  wb : BitVec 10
  flagA : BitVec 4
  flagB : BitVec 4
  /-- words of class A and of class B of the clause that have not issued yet (R39) -/
  remA : Nat
  remB : Nat
  /-- numbers of unflagged operations that hold the next clause (R39) -/
  holds : List Nat
  wait : Wait
  /-- the `BARW` at which the first path of a serialised entry waits while the pending path runs (R176) -/
  side : Option (BitVec 64)
  /-- after `YIELD`, until 256 cycles have passed (R172) -/
  notReady : Bool
  /-- stamp of when the fragment became ready (R137; model), and whether its next clause has been seen ready since -/
  readyAt : Nat
  isReady : Bool
  /-- the clause is set aside at a word that waits at issue, and its pipe is free (R136; assumption 53) -/
  aside : Bool
  /-- the PC was taken over by fusion, waking, restore or launch, and is still to be resolved (R159) -/
  fresh : Bool
  /-- the translation with which an `MWAIT` reads: that of its issue, until the entries behind it change (R371) -/
  spot : Option MUnit
  deriving DecidableEq, Repr

def Entry.blank : Entry :=
  ⟨.free, 0, 0, 0, 0, 0, 0, 0, 0, 15, 0, 0, 0, 1, none, 0, 15, 15, 0, 0, [], .none, none, false, 0, false, false, false, none⟩

/-! ### Pending long-latency operations (R39, R41, R204, R208) -/

/-- What a read-modify-write computes (R214). -/
inductive Rmw where
  | add
  | smin
  | smax
  | umin
  | umax
  | and
  | or
  | xor
  | xchg
  | cas
  | fadd (rnd : BitVec 3)
  deriving DecidableEq, Repr

/-- A long-latency operation that has issued and is not complete. -/
inductive PKind where
  /-- a vector load: first destination register, registers, bytes of a lane, sign extension -/
  | load (d regs size : Nat) (signed : Bool)
  /-- a scalar load: destination, and whether a pair (R210) -/
  | sload (d : Nat) (two : Bool)
  /-- a store of any form (R207, R210) -/
  | store
  /-- tile load: first register and registers of the run; tile store (R211) -/
  | tload (d regs : Nat)
  | tstore
  /-- an atomic: destination, registers, operation; a reduction (R213) -/
  | atomic (d regs : Nat) (op : Rmw)
  | red (op : Rmw)
  /-- `FENCE`: destination (R216) -/
  | fence (d : Nat)
  /-- a special function: destination and the values and flags of its lanes (R97) -/
  | special (d : Nat)
  /-- `NBL`, `NBR`, `NBX`: 0, 1, 2, with destination (R106) -/
  | neighbour (which d : Nat)
  /-- `SENDM`: warp indices still to accept (R244) -/
  | sendm (targets : List Nat)
  /-- a matrix word in its queue (R126) -/
  | matrix
  /-- `MZERO`, `MCOPY`, `MINV`: the units are the frames acted on; `MCOPY` with its source frames (R238) -/
  | mzero
  | mcopy (src : List MUnit)
  | minv
  /-- `GATH`, `SCAT` with the descriptor of R236: table, list, buffer, count, log size, bound; and its translation at issue:
  the root, and the entries that have changed since (R371) -/
  | gather (scatter : Bool) (table list buf : BitVec 64) (n esz bound : Nat) (root : Nat) (olds : List (Nat × BitVec 64))
  /-- the load of an `OVLD`: first slot, and whether this word began it (R178) -/
  | ovload (slot : Nat) (begins : Bool)
  /-- a read by the `MWAIT` of entry `e` of a location in a peer, which travels as a request (R219, R337) -/
  | monRead (e : Nat)
  /-- a reconvergence point: older accesses are performed before younger ones (R253) -/
  | point
  /-- `CTXSV`: the block being saved (R306) -/
  | ctxsv (blk addr : Nat)
  deriving DecidableEq, Repr

/-- A pending operation. -/
structure PendOp where
  /-- number in the warp's issue order -/
  id : Nat
  /-- stamp of its issue: the age of a tile (R199; model) -/
  age : Nat
  frag : Nat
  kind : PKind
  /-- flag of the clause that covers it: 0 to 11, or 15 for none (R37) -/
  flag : BitVec 4
  /-- counter class, for a counted word (R224) -/
  counter : Option Nat
  scope : BitVec 2
  /-- acquire and release forms (R209) -/
  acq : Bool
  rel : Bool
  /-- code reference of the word, for a trap at it -/
  pc : BitVec 64
  /-- lanes of the fragment at issue, pending ones too: words of fragments with a lane in common are in program order
  (R250; model) -/
  lanes : BitVec 64
  /-- active lanes at issue, and lanes that a zeroing prefix clears (R80) -/
  active : BitVec 64
  zeroed : BitVec 64
  units : List MUnit
  /-- locked lines of a tile, and lines still to lock, by key (R199) -/
  locked : List Nat
  toLock : List Nat
  /-- a tile's request for the next line in a peer (R200): 0 not sent, 1 on its way, 2 at the line's home, 3 granted, with the
  answer on its way -/
  ask : Nat
  /-- values and flags of a special function, or the sent lanes (by lane) -/
  vals : List Word
  flags : BitVec 5
  /-- performed, and waiting only to retire in order (R224) -/
  finished : Bool
  deriving DecidableEq, Repr

/-! ### Per-warp state -/

/-- A fence record (R217). -/
structure FenceRec where
  refused : Bool
  lost : Bool
  replay : Bool
  poison : Bool
  count : Nat
  deriving DecidableEq, Repr

def FenceRec.blank : FenceRec := ⟨false, false, false, false, 0⟩

/-- Life of a warp (R151, R152, R314, R316, R317). -/
inductive WStatus where
  | absent
  | running
  /-- asked to halt (R151) -/
  | halting
  | halted
  /-- stopped between clauses by a forced save or a kill (R152, R317) -/
  | stopped
  /-- has raised a trap and drains (R314 steps 2 and 3) -/
  | trapping
  | trapped
  | exited
  deriving DecidableEq, Repr

/-- A trap that a warp or a service core takes: cause, lane, value, AUX and the faulting word (R313). -/
structure Trap where
  cause : Nat
  frag : Nat
  lane : Nat
  value : BitVec 64
  aux : BitVec 32
  pc : BitVec 64
  deriving DecidableEq, Repr

/-- A stream of R241: descriptor, next element, and how it ended. -/
structure Stream where
  base : BitVec 64
  strides : BitVec 32
  shape : BitVec 32
  /-- number of the warp's next operation at issue: its reads follow the earlier ones (R225, R241) -/
  after : Nat
  /-- entries produced so far -/
  pos : Nat
  /-- producing -/
  active : Bool
  /-- produced every entry -/
  finished : Bool
  /-- stopped by R242 -/
  fault : Bool
  deriving DecidableEq, Repr

def Stream.blank : Stream := ⟨0, 0, 0, 0, 0, false, false, false⟩

/-- The warp's control registers: special registers, monitor and fence records (R64, R123, R169, R217,
R218, R235). -/
structure Ctl where
  wstat : BitVec 32
  mstat : BitVec 32
  swzsel : BitVec 32
  wb : BitVec 10
  fBlk : FenceRec
  fClu : FenceRec
  fDev : FenceRec
  fSys : FenceRec
  /-- armed monitor: its address, translated anew by each read (R218) -/
  mon : Option (BitVec 64)
  deriving DecidableEq, Repr

def Ctl.blank : Ctl :=
  ⟨0, 0, 0, 0, FenceRec.blank, FenceRec.blank, FenceRec.blank, FenceRec.blank, none⟩

/-- One warp, of a block or of a service core. -/
structure Warp where
  status : WStatus
  /-- lanes: 16, 32 or 64; 1 in the scalar profile (R299) -/
  width : Nat
  /-- vector registers allocated (R34) -/
  vregs : Nat
  /-- block of the warp (0 for a service core), and its index in it -/
  blk : Nat
  index : Nat
  /-- package core number and warp slot; UPPER of a gang (R299) -/
  core : Nat
  slot : Nat
  upper : Bool
  ctl : Ctl
  /-- s0 to s191 -/
  scalars : Tbl Word
  /-- physical vector registers: register n, lane l at 64 n + l -/
  vecs : Tbl Word
  /-- k1 to k7 (R91) -/
  masks : Tbl Dword
  /-- operations pending on f0 to f11 (R39) -/
  flags : Tbl Nat
  /-- CG, CO, CF, CM (R224) -/
  counters : Tbl Nat
  /-- entries of q0 to q5 and q7, oldest first, one value per lane (R241, R244) -/
  queues : Tbl (List (List Word))
  streams : Tbl Stream
  edgeL : Tbl Word
  edgeR : Tbl Word
  /-- held lease: physical line and cycles granted (R196) -/
  lease : Option (Nat × Nat)
  /-- the split table, entries 0 to 7 (R132) -/
  split : Tbl Entry
  /-- pending operations in issue order -/
  pend : List PendOp
  /-- number of the next operation (model) -/
  nextOp : Nat
  /-- refusals since the last `FENCE` at .dev or wider: count and first six addresses (R315) -/
  refN : Nat
  refVA : List (BitVec 64)
  /-- promoted in its pipe's choice (R137) -/
  promoted : Bool
  /-- trap taken and not yet recorded (R314) -/
  trap : Option Trap
  /-- undo log: vector registers and latches at their first write in the interval (R323) -/
  vlog : List (Nat × List Word)
  llog : List (Nat × List Word)
  deriving DecidableEq, Repr

def Warp.blank : Warp :=
  ⟨.absent, 0, 0, 0, 0, 0, 0, false, Ctl.blank, [], [], [], [], [], [], [], [], [], none, [], [], 0, 0, [],
    false, none, [], []⟩

/-! ### Blocks and grids -/

/-- Block states in pre-emption (R152). -/
inductive BStatus where
  | absent
  | running
  | halting
  | forced
  | saving
  | saved
  /-- being killed (R317): cause of the record still to be written is held in the grid -/
  | killing
  /-- being rolled back (R324) -/
  | rolling
  | exited
  deriving DecidableEq, Repr

/-- A stash region (R192, R221): units are 128 bytes. -/
structure Region where
  off : Nat
  len : Nat
  base : Nat
  deriving DecidableEq, Repr

/-- A stash line (R193, R234). A clean line's bytes are those of memory; a dirty one holds its own. -/
structure SLine where
  /-- virtual line address, 128-byte aligned -/
  va : Nat
  pa : Nat
  writable : Bool
  dirty : Bool
  data : List Byte
  tag : Nat
  /-- in the stash of the upper core of a gang (R192) -/
  up : Bool
  /-- S and T of the leaf found at fill, and the entries that its walk read (R185, R277, R287) -/
  leafS : Bool
  leafT : Bool
  via : List Nat
  deriving DecidableEq, Repr

/-- A barrier (R153): the members that have arrived, and the phase. -/
structure Barrier where
  arrived : List Nat
  phase : Bool
  deriving DecidableEq, Repr

def Barrier.blank : Barrier := ⟨[], false⟩

/-- A copy under way (R228): the entry's count, its words and, for TILE, its source layout record, as read. -/
structure RingCopy where
  id : Nat
  src : Nat
  dst : Nat
  len : Nat
  ctl : Nat
  stamp : Nat
  layout : List Byte
  deriving DecidableEq, Repr

/-- The copy ring of a block (R227 to R231). -/
structure Ring where
  /-- NOTIFY as last read with acquire; none while no store to it has been read since the region was mapped (R228) -/
  notify : Option Nat
  /-- stopped; `skip` says that HEAD must pass the failing entry (R230) -/
  stopped : Bool
  skip : Bool
  copies : List RingCopy
  /-- NOTIFY has been stored since the engine last read it (R228) -/
  stored : Bool
  deriving DecidableEq, Repr

def Ring.blank : Ring := ⟨none, false, false, [], false⟩

/-- The command of a launch (R140). -/
structure Command where
  kind : Nat
  flags : Nat
  task : Nat
  entry : BitVec 64
  args : BitVec 64
  grid : Nat
  warps : Nat
  width : Nat
  cluster : Nat
  vregs : Nat
  stash : Nat
  ring : Nat
  stampAddr : BitVec 64
  stampVal : BitVec 64
  bmemb : BitVec 32
  pred : List (BitVec 32)
  regions : List (BitVec 64 × Nat)
  deriving DecidableEq, Repr

def Command.blank : Command :=
  ⟨0, 0, 0, 0, 0, 0, 0, 0, 1, 0, 0, 0, 0, 0, 0, [], []⟩

/-- The control part of one warp at a checkpoint (R306, R322), by index. -/
structure CkWarp where
  index : Nat
  scalars : Tbl Word
  masks : Tbl Dword
  ctl : Ctl
  entry : Entry
  deriving DecidableEq, Repr

/-- A checkpoint of a block (R322): the control part of each warp, and the block barriers. -/
structure Checkpoint where
  warps : List CkWarp
  barriers : Tbl Barrier
  deriving DecidableEq, Repr

/-- One block (R140, R152, R192, R227, R322, R323). Blocks are numbered in order of placement. -/
structure Block where
  status : BStatus
  tenant : Nat
  world : Nat
  task : Nat
  /-- linear block index; blocks per cluster -/
  index : Nat
  cmd : Command
  gang : Bool
  /-- package core (the lower one of a gang), block slot of the handle, matrix context (R125, R306) -/
  core : Nat
  slot : Nat
  ctx : Option Nat
  group : Nat
  /-- warps of a resident block, by index -/
  warps : List Nat
  /-- the image of a saved block (R306, R320): the model's form of it -/
  saved : List Warp
  savedRows : Tbl (BitVec 34)
  /-- exited warps, by index (R154) -/
  gone : List Nat
  regions : Tbl Region
  lines : List SLine
  barriers : Tbl Barrier
  ring : Ring
  checkpoint : Option Checkpoint
  /-- undo log of stash lines, by virtual line address, and of tile rows (R323) -/
  slog : List (Nat × List Byte)
  rlog : List (Nat × List (BitVec 34))
  eligible : Bool
  overflow : Bool
  /-- what holds an uncorrectable error (R311): warp index, kind (0 vector register, 1 edge latch, 2 dirty stash line,
  3 matrix tile row, 4 operand queue, 5 scalar register, 6 mask register, 7 memory behind an access) and number; for a row, its key in
  the log -/
  bad : List (Nat × Nat × Nat)
  /-- where a `CTXSV` has written its image (R306; model) -/
  image : Option Nat
  /-- the image area reserved at placement (R320) -/
  area : Option Nat
  /-- Burin's replay of an exited block, which belongs to no grid (R327) -/
  replay : Bool
  deriving DecidableEq, Repr

def Block.blank : Block :=
  ⟨.absent, 0, 0, 0, 0, Command.blank, false, 0, 0, none, 0, [], [], [], [], [], [], [], Ring.blank, none, [], [],
    true, false, [], none, none, false⟩

/-- What a context image records and the bytes of R306 have no place for: the block as it was saved, with its region map, barriers,
stream positions, waits of PARKED entries and the upper bank of a gang (R128, R248, R267, R320), and the residency and tag of each
stash line, which are a record only. `header` is the header of the image that the record belongs to (assumption 13). -/
structure Context where
  header : List Byte
  block : Block
  lines : List SLine
  deriving DecidableEq, Repr

def Context.blank : Context := ⟨[], Block.blank, []⟩

/-- One grid, by tenant and task (R140, R146, R153, R317). -/
structure Grid where
  live : Bool
  cmd : Command
  /-- dispatched: its predecessors have completed (R145) -/
  dispatched : Bool
  /-- blocks placed and blocks exited -/
  placed : Nat
  exited : Nat
  failed : Bool
  firstTrap : List Byte
  /-- cluster barriers: barrier n of cluster c at 8 c + n; grid barriers -/
  cbars : Tbl Barrier
  gbars : Tbl Barrier
  /-- audits still to end (R327) -/
  audits : Nat
  /-- groups that hold a DONE event of the grid (R342) -/
  queue : Nat
  deriving DecidableEq, Repr

def Grid.blank : Grid := ⟨false, Command.blank, false, 0, 0, false, [], [], [], 0, 0⟩

/-! ### Cores -/

/-- State of an instruction-store slot (R160). -/
inductive SState where
  | free
  | loading
  | ready
  | poison
  | failed
  deriving DecidableEq, Repr

/-- One instruction-store slot. The state and code of an overlay stand in its first slot (R160). -/
structure Slot where
  state : SState
  gen : BitVec 16
  /-- first slot and slot count of the overlay that holds this slot; the rest is kept in the first -/
  first : Nat
  count : Nat
  id : Nat
  /-- physical address of each 16 KiB piece of the image, one a slot: the image's name (R159) -/
  image : List Nat
  world : Nat
  sharers : List Nat
  /-- status code under OVQ of a failed load (R179) -/
  code : Nat
  /-- the words of the overlay, header included -/
  words : List Word
  /-- stamp of the slot's own last use: its fill, or the fetch of a clause from it (R162; model) -/
  used : Nat
  /-- loads in flight: the loader's tenant of each (R161) -/
  loads : Nat
  deriving DecidableEq, Repr

def Slot.blank : Slot := ⟨.free, 0, 0, 0, 0, [], 0, [], 0, [], 0, 0⟩

/-- A matrix word in a context's queue (R121, R126, R130). -/
inductive MOp where
  /-- format codes, block length codes, sparse, Z, NB, NA; tile; first registers; exponent addresses -/
  | mma (fmtA fmtB lenA lenB : Nat) (sp z nb na : Bool) (tile regA regB : Nat) (scaleA scaleB : BitVec 64)
  | accz (tile : Nat)
  | accrd (d tile conv : Nat) (rnd : BitVec 3)
  | accwr (tile a conv : Nat)
  | accadd (tile a conv : Nat)
  | mstatrd (d : Nat)
  | mctx (d a : Nat) (swap : Bool)
  deriving DecidableEq, Repr

/-- An entry of a matrix queue: the warp and its operation number. -/
structure MEntry where
  warp : Nat
  op : Nat
  what : MOp
  active : BitVec 64
  /-- the engine has taken it and read its registers (R119) -/
  started : Bool
  /-- rows of A whose metadata has passed the check of `TRAPEN` at issue (R122): the engine uses them -/
  checked : Option (List (List Word))
  /-- the operands as read at entry: rows by lane, the B operand by lane, the exponent bytes -/
  rows : List (List Word)
  cols : List (List Word)
  expA : List Byte
  expB : List Byte
  /-- an exponent fill failed (R115) -/
  spoi : Bool
  deriving DecidableEq, Repr

/-- State of a core's world latch (R286). -/
inductive Latch where
  | latched
  | draining
  | clearing
  deriving DecidableEq, Repr

/-- One tenant core (R17, R125, R126, R160, R286, R326). -/
structure CoreSt where
  latch : Latch
  world : Nat
  target : Nat
  /-- service cores whose `WLATCH`es asked for the change (R308) -/
  askers : List Nat
  slots : Tbl Slot
  /-- accumulator elements: context c, tile t, row i, column j at ((c·16 + t)·64 + i)·16 + j (R125) -/
  acc : Tbl (BitVec 34)
  q0 : List MEntry
  q1 : List MEntry
  /-- context that the engine takes next (R126) -/
  turn : Nat
  failed : Bool
  quarantined : Bool
  /-- failed so that Headland cannot read its register file and stash (R326) -/
  dark : Bool
  /-- a debugger is attached (R316) -/
  debugger : Bool
  deriving DecidableEq, Repr

def CoreSt.blank : CoreSt := ⟨.latched, 0, 0, [], [], [], [], [], 0, false, false, false, false⟩

/-- A trap shelf (R304). -/
structure Shelf where
  pc : BitVec 64
  cause : BitVec 32
  value : BitVec 64
  hold : BitVec 4
  deriving DecidableEq, Repr

/-- One service core (R22, R304, R305, R340, R343). Its registers are those of its one warp. -/
structure SvcCore where
  running : Bool
  /-- a Tidemark core stops on an uncorrectable error (R343) -/
  failing : Bool
  hold : BitVec 4
  priv : Bool
  /-- top shelf first -/
  shelves : List Shelf
  pend : BitVec 4
  msgs : List Word
  /-- messages of senders that find the queue full: sender and message (R305) -/
  held : List (Nat × Word)
  work : Tbl Word
  slots : Tbl Slot
  deriving DecidableEq, Repr

/-- A service core as Headland finds it before it starts it: `SVST` at its reset value (R304). -/
def SvcCore.blank : SvcCore := ⟨false, false, 15, true, [], 0, [], [], [], []⟩

/-! ### Dies, groups, tenants -/

/-- A histogram monitor (R368). -/
structure Hist where
  en : Bool
  isl : BitVec 8
  ten : BitVec 8
  src : BitVec 4
  min : BitVec 32
  max : BitVec 32
  bins : Tbl Word
  deriving DecidableEq, Repr

def Hist.blank : Hist := ⟨false, 0, 255, 0, 0, 0, []⟩

/-- How the replay of an audit stands (R328). -/
inductive Verdict where
  | running
  | ended
  | unauditable
  deriving DecidableEq, Repr

/-- An audit of R327: the block's identity, its launch inputs and its signature; the replay's core. -/
structure Audit where
  tenant : Nat
  task : Nat
  index : Nat
  core : Nat
  /-- the command entry, `s0` to `s5`, and the bytes at ARGS -/
  cmd : Command
  inputs : List Word
  args : List Byte
  sig : BitVec 128
  replay : Option Nat
  /-- 8-byte units that the run changed, with their values before it (R328) -/
  first : List (Nat × Nat)
  /-- Burin's shadow of what the replay writes, by unit, and the replay's signature -/
  shadow : List (Nat × Nat)
  rsig : BitVec 128
  verdict : Verdict
  deriving DecidableEq, Repr

/-- One compute die (R292 to R294, R315, R319, R327, R331, R340 to R345, R368). -/
structure Die where
  traps : List (List Byte)
  fwbase : Nat
  /-- Tidemark control block (R340), and the role recorded as active at HEARTBEAT's home (R344) -/
  tcb : Nat
  active : Nat
  /-- word of the bitmap at which the next scan starts (R143), and the queues it found -/
  scan : Nat
  serve : List (Nat × Nat × Option Nat)
  /-- DONE events held by the groups: grid and blocks (R342) -/
  dones : List (Nat × Nat)
  /-- the grids of the events in the ring, oldest first (model) -/
  posted : List Nat
  /-- the Headland instance: live, its queues frozen, heartbeat seen, monitor failures, in service -/
  live : Bool
  frozen : Bool
  beat : Bool
  monFail : Nat
  out : Bool
  dbgdeny : Bool
  drops : BitVec 32
  hostDrops : BitVec 32
  hists : Tbl Hist
  audits : List Audit
  skipped : Nat
  unauditable : Nat
  deriving DecidableEq, Repr

def Die.blank : Die :=
  ⟨[], 0, 0, 2, 0, [], [], [], true, false, false, 0, false, false, 0, 0, [], [], 0, 0⟩

/-- One cluster group (R147, R149). -/
structure Group where
  pass : Tbl Dword
  running : Option Nat
  /-- the scheduling record in force, by tenant (R147) -/
  recs : Tbl (BitVec 128)
  /-- the slot mask in force, by tenant (R270) -/
  masks : Tbl (BitVec 16)
  deriving DecidableEq, Repr

def Group.blank : Group := ⟨[], none, [], []⟩

/-- A host ownership region (R291). -/
structure HostRegion where
  first : Nat
  len : Nat
  ty : Nat
  grant : BitVec 64
  deriving DecidableEq, Repr

/-- A command accepted and not complete, in queue order (R145). -/
structure TaskEntry where
  queue : Nat
  prio : Nat
  cmd : Command
  deriving DecidableEq, Repr

/-- An erasure under way (R295): the step in progress, the nonce and the counts of the receipt (R296). -/
structure Erasure where
  step : Nat
  nonce : BitVec 256
  world : Nat
  frames : Nat
  pending : Nat
  spaces : Nat
  slots : BitVec 256
  deriving DecidableEq, Repr

/-- One tenant (R139, R142, R144, R145, R147, R191, R269, R282, R295, R367). -/
structure Tenant where
  created : Bool
  modified : Bool
  root : BitVec 32
  leaselim : BitVec 13
  waymask : BitVec 32
  sched : BitVec 128
  world : BitVec 8
  slotmask : BitVec 16
  qtab : Nat
  dbell : Nat
  /-- journal frame (R144, R345), and its copy on another stack (R311) -/
  jframe : Nat
  jcopy : Nat
  /-- queues that stopped at a refused entry (R141), and queues that stopped at a later step of an accepted command, whose
  record the journal did not take (R144) -/
  stopped : List Nat
  halted : List Nat
  /-- MARKs that are pending while HEAD stands at them: the die that read it, its queue and its task (R346) -/
  marks : List (Nat × Nat × Nat)
  /-- accepted tasks in queue order, and the completed table, newest first (R145) -/
  pending : List TaskEntry
  completed : List (Nat × Bool)
  /-- queue that was served last, by PRIO, for rotation (R145) -/
  turn : Tbl Nat
  vlog : Tbl Dword
  pmon : Tbl Dword
  pmsel : BitVec 32
  hosts : Tbl HostRegion
  erasure : Option Erasure
  /-- namespaces on the flash (R295) -/
  spaces : Nat
  /-- kicks of the host that wait at the doorbell line (R142, R196) -/
  bells : List Nat
  deriving DecidableEq, Repr

def Tenant.blank : Tenant :=
  ⟨false, false, 0, 4096, 0xFFFFFFFF, 0, 0, 0xFFFF, 0, 0, 0, 0, [], [], [], [], [], [], [], [], 0, [], none, 0, []⟩

/-- A world (R271). -/
structure World where
  live : Bool
  roster : BitVec 64
  deriving DecidableEq, Repr

def World.blank : World := ⟨false, 0⟩

/-- States of a key slot (R290). -/
inductive KState where
  | empty
  | active
  | flushing
  | revoked
  deriving DecidableEq, Repr

/-- A key slot (R289, R290). -/
structure KeySlot where
  state : KState
  tenant : Nat
  /-- service core that revoked it (R309) -/
  asker : Option Nat
  deriving DecidableEq, Repr

def KeySlot.blank : KeySlot := ⟨.empty, 0, none⟩

/-- An admission in progress (R279): table address, new and old entry, storing tenant, warp and op unit. -/
structure Admission where
  id : Nat
  addr : Nat
  new : BitVec 64
  old : BitVec 64
  tenant : Nat
  warp : Nat
  op : Nat
  unit : Nat
  va : BitVec 64
  /-- committed and in SHOOTDOWN -/
  committed : Bool
  /-- accesses issued before the commit that may use the old entry: warp and operation numbers (R280) -/
  waits : List (Nat × Nat)
  /-- no store, but a move of ROOT: the old root, which still counts its one (R276) -/
  root : Option Nat
  deriving DecidableEq, Repr

/-! ### Links, islands -/

/-- A packet on a Strandline link (R337): its number, the warp, operation and units that it carries. -/
structure Packet where
  seq : Nat
  warp : Nat
  op : Nat
  units : List Nat
  /-- physical address and bytes to write, or a request -/
  writes : List (Nat × List Byte)
  /-- the line that a tile asks for (R200) -/
  lock : Option Nat
  performed : Bool
  /-- block and index of the warp: whose fence records a replay of the packet enters (R217, R334) -/
  blk : Nat
  index : Nat
  /-- it fills a stash line from the peer (R193) -/
  fill : Bool
  deriving DecidableEq, Repr

/-- One direction of a link (R334, R338). -/
structure LinkDir where
  next : Nat
  acked : Nat
  expect : Nat
  /-- sent and not acknowledged -/
  replay : List Packet
  /-- waiting at the port -/
  waiting : List Packet
  /-- sent and not yet received -/
  flying : List Packet
  /-- accepted, and waiting for its lines at the receiver's homes (R199, R338) -/
  held : List Packet
  /-- accepted since the last acknowledgement, and acknowledgements on the way -/
  unacked : Nat
  acks : List Nat
  fails : Nat
  keys : BitVec 64
  deriving DecidableEq, Repr

def LinkDir.blank : LinkDir := ⟨0, 0, 0, [], [], [], [], 0, [], 0, 0⟩

/-- A Strandline link (R334, R361, R362). -/
structure Link where
  bound : Bool
  mask : BitVec 72
  node : Nat
  window : Nat
  /-- working lanes -/
  width : Nat
  training : Bool
  dead : Bool
  /-- a record that waits for the end of a training (R362) -/
  waiting : Option (BitVec 72 × Nat × Nat)
  out : LinkDir
  inn : LinkDir
  deriving DecidableEq, Repr

def Link.blank : Link := ⟨false, 0, 0, 0, 0, false, false, none, LinkDir.blank, LinkDir.blank⟩

/-- The clock state of an island (R335, R363): cap in eighths (8 for none), and droop. -/
structure Island where
  cap : Nat
  droop : Option Nat
  deriving DecidableEq, Repr

def Island.blank : Island := ⟨8, none⟩

/-! ### The package -/

/-- Life-cycle states (R364). -/
inductive LifeCycle where
  | manufacture
  | deployed
  | returned
  deriving DecidableEq, Repr

/-- What the package sends to the outside (R14, R148, R270, R294, R331, R366). -/
inductive Reply where
  | error (who : Nat)
  | accepted (who value : Nat)
  | read (v : BitVec 64)
  | poison
  | unsupported (port code : Nat)
  | trace (v : BitVec 64)
  | stopped
  | spdm (bytes : List Nat)
  /-- *unit absent* to a configuration access (R25) -/
  | absent (who : Nat)
  /-- the stop record of the last orderly stop (R336) -/
  | report (bytes : List Byte)
  deriving DecidableEq, Repr

/-- Whose turn it is: an event, or the issue of the next word of a fragment (model; assumption 5). -/
inductive Turn where
  | event (i : Instr)
  | issue (warp frag : Nat)
  deriving DecidableEq, Repr

/-- What an instance holds of a tenant (R330): the records that the hypervisor writes. -/
structure TenRec where
  created : Bool
  root : BitVec 32
  leaselim : BitVec 13
  waymask : BitVec 32
  sched : BitVec 128
  world : BitVec 8
  slotmask : BitVec 16
  qtab : Nat
  deriving DecidableEq, Repr

/-- A change of the package records that not every live instance has acknowledged (R330): the tenant whose record it is, the
reply that the hypervisor awaits, and the instances still to acknowledge. The replica of such an instance holds the records as they
were before: that of the tenant, and worlds and key slots by number. -/
structure Change where
  tenant : Option Nat
  reply : Option Reply
  left : List Nat
  oldRec : Option TenRec
  oldWorlds : List (Nat × World)
  oldKeys : List (Nat × KeySlot)
  deriving DecidableEq, Repr

/-- An access of the host or a peer that waits at its line's home (R195, R196, R262). -/
structure OutsideReq where
  peer : Bool
  write : Bool
  pa : Nat
  size : Nat
  val : BitVec 64
  /-- stamp of its arrival: its age among the accesses that wait for a leased line (R196; model) -/
  age : Nat
  deriving DecidableEq, Repr

/-- A release at a scope below `.sys` that has been performed before earlier stores of its warp (R209, R260): its line, warp with
its block, operation and scope. The agents within the scope wait for the line until those stores are performed (assumption 66). -/
structure EarlyRelease where
  line : Nat
  warp : Nat
  blk : Nat
  op : Nat
  scope : BitVec 2
  deriving DecidableEq, Repr

/-- What the caches hold (R190, R191): the lines of each L1, by package core, and the lines of the L2s with their ways. -/
structure Caches where
  l1 : List (Nat × Nat)
  l2 : List (Nat × Nat)
  deriving DecidableEq, Repr

/-- A sealed link inside the package (R288): counters and successive failures of its two directions. -/
structure Inner where
  keyOut : BitVec 64
  keyIn : BitVec 64
  failOut : Nat
  failIn : Nat
  dead : Bool
  deriving DecidableEq, Repr

def Inner.blank : Inner := ⟨0, 0, 0, 0, false⟩

/-- Bring-up and the physical function (R295, R336, R363 to R366). -/
structure Platform where
  life : LifeCycle
  /-- step of bring-up in progress; 7 when all are complete -/
  step : Nat
  failed : Bool
  statusReg : Nat
  transport : Bool
  testing : Bool
  report : List Byte
  receipt : List Byte
  /-- the stop record on the flash, empty for none (R336) -/
  stopRecord : List Byte
  powerLimit : Nat
  /-- second-tier capacity of each expander in bytes, by port (R360) -/
  tiers : Tbl Nat
  cap1 : BitVec 32
  seq : Nat
  leader : Nat
  portFailed : List Nat
  /-- firmware images on the flash, which Headland writes at bring-up and before a restart (R319) -/
  images : List (Nat × List Byte)
  changes : List Change
  deriving DecidableEq, Repr

structure State where
  part : Part
  mem : Memory
  /-- poisoned lines, by physical address of the line (R205, R312) -/
  poison : List Nat
  /-- after a reset: the second-tier frames written whole since; every other one is sealed under a key that no longer exists (R289,
  R364) -/
  tierKept : Option (List Nat)
  /-- type entries by frame (R273) -/
  types : Tbl (BitVec 128)
  /-- tile locks: line and holder (warp, operation) (R199) -/
  locks : List (Nat × Nat × Nat)
  early : List EarlyRelease
  admissions : List Admission
  nextAdm : Nat
  /-- SHARED frames that an erased tenant left to those who still map them (R295) -/
  leaving : List Nat
  warps : Tbl Warp
  blocks : Tbl Block
  nextBlk : Nat
  /-- what context images record beside their bytes, by the image's address (R306, R320) -/
  contexts : Tbl Context
  grids : Tbl Grid
  cores : Tbl CoreSt
  svcs : Tbl SvcCore
  dies : Tbl Die
  groups : Tbl Group
  tenants : Tbl Tenant
  worlds : Tbl World
  keys : Tbl KeySlot
  links : Tbl Link
  /-- sealed links inside the package, by the numbers of `innerLinks` -/
  inner : Tbl Inner
  caches : Caches
  islands : Tbl Island
  plat : Platform
  fsto : BitVec 32
  audfrac : BitVec 32
  /-- replies to the outside, newest first -/
  out : List Reply
  /-- accesses from outside that wait at their homes -/
  outside : List OutsideReq
  /-- draws of free values so far (model; assumption 1) -/
  freeCtr : Nat
  /-- which agent moves next (model; assumption 5) -/
  agenda : List Turn
  /-- warp and split table entry whose word is in execution (model) -/
  cur : Nat
  frag : Nat
  /-- stamp for the order in which fragments become ready (R137; model) -/
  stamp : Nat
  deriving DecidableEq, Repr

/-- The platform at reset: bring-up step 1 in progress (R365); assumption 4 names what the manual leaves. -/
def Platform.reset : Platform :=
  ⟨.deployed, 1, false, 0, false, false, [], [], [], 3200, [], 0, 0, 0, [], [], []⟩

/-- The machine right after reset (R364, R365): everything inside the package wiped, every frame FREE,
every key slot EMPTY, world 0 with all nodes on its roster (R271), `FSTO` 20 µs (R148). -/
def State.reset : State where
  part := .gx9
  mem := []
  poison := []
  tierKept := none
  types := []
  locks := []
  early := []
  admissions := []
  nextAdm := 0
  leaving := []
  warps := []
  blocks := []
  nextBlk := 1
  contexts := []
  grids := []
  cores := []
  svcs := []
  dies := []
  groups := []
  tenants := []
  worlds := [(0, ⟨true, 0xFFFFFFFFFFFFFFFF⟩)]
  keys := []
  links := []
  inner := []
  caches := ⟨[], []⟩
  islands := []
  plat := Platform.reset
  fsto := 20
  audfrac := 0
  out := []
  outside := []
  freeCtr := 0
  agenda := []
  cur := 0
  frag := 0
  stamp := 0

end Sys2Proof.Machine
end

