-- ==== Sys2Proof/Machine/Regs.lean ====
section
/-! DEFINITION. The one home of each register: reading and writing scalars, vector registers, masks,
`EXEC`, flags, counters, queues and the tables of the state (R10, R32 to R35, R80, R91). -/

namespace Sys2Proof.Machine

abbrev Result := Host.Outcome State Fault Refusal

/-! ### Tables of the state -/

def warpOf (s : State) (k : Nat) : Warp := Tbl.get Warp.blank s.warps k
def setWarp (s : State) (k : Nat) (w : Warp) : State := { s with warps := Tbl.set s.warps k w }
def blockOf (s : State) (k : Nat) : Block := Tbl.get Block.blank s.blocks k
def setBlock (s : State) (k : Nat) (b : Block) : State := { s with blocks := Tbl.set s.blocks k b }
def gridOf (s : State) (k : Nat) : Grid := Tbl.get Grid.blank s.grids k
def setGrid (s : State) (k : Nat) (g : Grid) : State := { s with grids := Tbl.set s.grids k g }
def coreOf (s : State) (k : Nat) : CoreSt := Tbl.get CoreSt.blank s.cores k
def setCore (s : State) (k : Nat) (c : CoreSt) : State := { s with cores := Tbl.set s.cores k c }
def svcOf (s : State) (k : Nat) : SvcCore := Tbl.get SvcCore.blank s.svcs k
def setSvc (s : State) (k : Nat) (c : SvcCore) : State := { s with svcs := Tbl.set s.svcs k c }
def dieOf (s : State) (k : Nat) : Die := Tbl.get Die.blank s.dies k
def setDie (s : State) (k : Nat) (d : Die) : State := { s with dies := Tbl.set s.dies k d }
def groupOf (s : State) (k : Nat) : Group := Tbl.get Group.blank s.groups k
def setGroup (s : State) (k : Nat) (g : Group) : State := { s with groups := Tbl.set s.groups k g }
def tenantOf (s : State) (k : Nat) : Tenant := Tbl.get Tenant.blank s.tenants k
def setTenant (s : State) (k : Nat) (t : Tenant) : State := { s with tenants := Tbl.set s.tenants k t }
def linkOf (s : State) (k : Nat) : Link := Tbl.get Link.blank s.links k
def setLink (s : State) (k : Nat) (l : Link) : State := { s with links := Tbl.set s.links k l }
def typeOf (s : State) (f : Nat) : BitVec 128 := Tbl.get 0 s.types f
def setType (s : State) (f : Nat) (v : BitVec 128) : State := { s with types := Tbl.set s.types f v }

/-- The warp and the split table entry whose word is in execution. -/
def curWarp (s : State) : Warp := warpOf s s.cur
def setCur (s : State) (w : Warp) : State := setWarp s s.cur w
def entryOf (w : Warp) (e : Nat) : Entry := Tbl.get Entry.blank w.split e
def setEntry (w : Warp) (e : Nat) (x : Entry) : Warp := { w with split := Tbl.set w.split e x }
def curEntry (s : State) : Entry := entryOf (curWarp s) s.frag
def setFrag (s : State) (x : Entry) : State := setCur s (setEntry (curWarp s) s.frag x)

/-- The scalar profile: the warp of a service core (R22). Warps 0 to 15 are those of the service cores,
numbered 4 × die + role (R305); warp 16 + 64 × core + slot stands in a slot of a tenant core. -/
def isService (s : State) : Bool := decide (s.cur < 16)

/-- The warp number of a slot of a core. -/
def warpKey (core slot : Nat) : Nat := 16 + 64 * core + slot

/-- The block of the current warp, and its tenant. -/
def curBlock (s : State) : Block := blockOf s (curWarp s).blk
def setCurBlock (s : State) (b : Block) : State := setBlock s (curWarp s).blk b
def curTenant (s : State) : Nat := (curBlock s).tenant

/-- The number of a grid. -/
def gridKey (tenant task : Nat) : Nat := tenant * 2 ^ 32 + task

/-- Die of a warp: of its service core, or of its core (R17: 40 cores a die). -/
def dieOfWarp (k : Nat) (w : Warp) : Nat := if k < 16 then k / 4 else w.core / 40

/-! ### Scalars (R10, R32, R36) -/

def readS (s : State) (n : Nat) : Word := Tbl.get 0 (curWarp s).scalars n
def writeS (s : State) (n : Nat) (v : Word) : State :=
  setCur s { curWarp s with scalars := Tbl.set (curWarp s).scalars n v }
/-- A pair: the low word in the lower register (R10). -/
def readP (s : State) (n : Nat) : Dword := readS s (n + 1) ++ readS s n
def writeP (s : State) (n : Nat) (v : Dword) : State :=
  writeS (writeS s n (v.extractLsb' 0 32)) (n + 1) (v.extractLsb' 32 32)

/-! ### Lanes and masks (R20, R91) -/

/-- Ones below the width. -/
def widthMask (w : Warp) : Dword := BitVec.ofNat 64 (2 ^ w.width - 1)

/-- Mask register `n` (R91): `k0` reads as ones below the width; bits at or above the width read as zero. -/
def readK (s : State) (n : Nat) : Dword :=
  if n = 0 then widthMask (curWarp s) else Tbl.get 0 (curWarp s).masks n &&& widthMask (curWarp s)

/-- A write of mask register `n` (R91): of `k0`, ignored; bits at or above the width, ignored. -/
def writeK (s : State) (n : Nat) (v : Dword) : State :=
  if n = 0 then s
  else setCur s { curWarp s with masks := Tbl.set (curWarp s).masks n (v &&& widthMask (curWarp s)) }

/-- `EXEC` of the issuing fragment. -/
def execMask (s : State) : Dword := (curEntry s).exec

/-- The active lanes of a word: in `EXEC` and in `K[k]` (R44). -/
def activeMask (s : State) (p : Prefix) : Dword := execMask s &&& readK s p.k.toNat

/-- The lanes that a zeroing prefix clears (R45, R80). -/
def zeroMask (s : State) (p : Prefix) : Dword := if p.z then execMask s &&& ~~~ (activeMask s p) else 0

/-- The lanes of the warp. -/
def lanesOf (w : Warp) : List Nat := List.range w.width

/-! ### Vector registers (R33, R34, R80) -/

/-- Where lane `l` of physical register `r` is held. -/
def vecKey (r l : Nat) : Nat := 64 * r + l

def readV (s : State) (r l : Nat) : Word := Tbl.get 0 (curWarp s).vecs (vecKey r l)

/-- A register as a row of lanes. -/
def rowOf (w : Warp) (r : Nat) : List Word := (lanesOf w).map fun l => Tbl.get 0 w.vecs (vecKey r l)

/-- Bytes that an undo log of 16 KiB holds already (R323). -/
def logBytes (s : State) (b : Block) : Nat :=
  let one (k : Nat) : Nat :=
    let w := warpOf s k
    (w.vlog.length + w.llog.length) * (8 + 4 * w.width)
  (b.warps.map one).sum + b.slog.length * 136 + b.rlog.length * 76

/-- The undo log takes register `r` of the current warp at its first write in the interval (R323). -/
def logVec (s : State) (r : Nat) : State :=
  let w := curWarp s
  let b := curBlock s
  if s.cur < 16 ∨ b.overflow ∨ w.vlog.any (fun e => e.1 == r) then s
  else if 16384 < logBytes s b + 8 + 4 * w.width then setCurBlock s { b with overflow := true, eligible := false }
  else setCur s { w with vlog := (r, rowOf w r) :: w.vlog }

/-- The lanes of register `r` after the active lanes take `f` and the zeroed lanes 0; every other lane is
unchanged (R80). -/
def putLanes (t : Tbl Word) (r : Nat) (act zer : Dword) (f : Nat → Word) : List Nat → Tbl Word
  | [] => t
  | l :: ls =>
    let t' := putLanes t r act zer f ls
    if act.getLsbD l then Tbl.set t' (vecKey r l) (f l)
    else if zer.getLsbD l then Tbl.set t' (vecKey r l) 0 else t'

/-- The common frame of R80 over given active and zeroed lanes, for register `r`. -/
def writeLanes (s : State) (r : Nat) (act zer : Dword) (f : Nat → Word) : State :=
  let s' := logVec s r
  let w := curWarp s'
  setCur s' { w with vecs := putLanes w.vecs r act zer f (lanesOf w) }

/-- Physical register of a field: window base of the clause, field and high bit (R32, R34). -/
def physReg (s : State) (n : BitVec 7) (h : Bool) : Nat := (curEntry s).wb.toNat + fieldNumber n h

/-! ### Queues (R47, R241, R244) -/

def queueOf (w : Warp) (q : Nat) : List (List Word) := Tbl.get [] w.queues q

/-- Lane `l` of the oldest entry of queue `q`. A queue that an earlier word of the clause has emptied by `QSTOP`
gives a free value (assumption 1). -/
def queueFront (s : State) (q l : Nat) : Word :=
  match queueOf (curWarp s) q with
  | e :: _ => e.getD l 0
  | [] => Config.freeValue (s.freeCtr + 64 * q + l)

/-- The queues without their oldest entries; a pop of an empty one draws its free values. -/
def popQueues (s : State) : List Nat → State
  | [] => s
  | q :: t =>
    match queueOf (curWarp s) q with
    | _ :: rest => popQueues (setCur s { curWarp s with queues := Tbl.set (curWarp s).queues q rest }) t
    | [] => popQueues { s with freeCtr := s.freeCtr + 512 } t

/-- A vector source: its register, or the queue entry that it pops (R47). -/
def srcLane (s : State) (n : BitVec 7) (h q : Bool) (l : Nat) : Word :=
  if q then queueFront s (n.toNat % 8) l else readV s (physReg s n h) l

/-! ### Flags and counters of a warp (R39, R224) -/

def flagCount (w : Warp) (f : Nat) : Nat := Tbl.get 0 w.flags f

/-- A flag field names a flag: 15 means none (R37). -/
def flagAdd (w : Warp) (f : BitVec 4) (n : Nat) : Warp :=
  if f = 15#4 ∨ n = 0 then w else { w with flags := Tbl.set w.flags f.toNat (flagCount w f.toNat + n) }

/-- One operation assigned to the flag has completed (R39). -/
def flagDone (w : Warp) (f : BitVec 4) (n : Nat) : Warp :=
  if f = 15#4 ∨ n = 0 then w else { w with flags := Tbl.set w.flags f.toNat (flagCount w f.toNat - n) }

def counterOf (w : Warp) (c : Nat) : Nat := Tbl.get 0 w.counters c

/-! ### Free values (R9, R77) -/

/-- A free word and the state after the draw (assumption 1). -/
def freeWord (s : State) : State := { s with freeCtr := s.freeCtr + 1 }

end Sys2Proof.Machine
end

