-- ==== Sys2Proof/Machine/Translate.lean ====
section
/-! DEFINITION. Physical ranges, type entries and translation (R180 to R188, R192, R195, R273, R275,
R340, R360). -/

namespace Sys2Proof.Machine

/-! ### Physical addresses (R186 to R189, R360) -/

def isHbm (s : State) (pa : Nat) : Bool := decide (pa < (match s.part with
  | .gx9 => 0x00C000000000
  | .gx9h => 0x006000000000))

/-- Ranges of the second tier: base and reported bytes of each expander, in port order, each from a multiple of 1 GiB on (R360). -/
def tierRanges : List (Nat × Nat) → Nat → List (Nat × Nat)
  | [], _ => []
  | (_, c) :: t, base => (base, c) :: tierRanges t (base + (c + 0x3FFFFFFF) / 0x40000000 * 0x40000000)

def isTier (s : State) (pa : Nat) : Bool :=
  match s.part with
  | .gx9h => false
  | .gx9 => decide (pa < 0x100000000000) && (tierRanges (s.plat.tiers.filter fun e => e.2 ≠ 0) 0x080000000000).any fun r =>
      decide (r.1 ≤ pa ∧ pa < r.1 + r.2)

def isHost (pa : Nat) : Bool := decide (0x100000000000 ≤ pa ∧ pa < 0x200000000000)
def isPeer (pa : Nat) : Bool := decide (0x800000000000 ≤ pa ∧ pa < 0x1000000000000)

/-- The window of a peer address (R361). -/
def peerWindow (pa : Nat) : Nat := (pa - 0x800000000000) / 2 ^ 41

/-- An address in a range of R186 that memory backs (R340). -/
def paExists (s : State) (pa : Nat) : Bool := isHbm s pa || isTier s pa || isHost pa || isPeer pa

/-- HBM stacks and dies of the part (R17, R25). -/
def stackCount (s : State) : Nat := match s.part with
  | .gx9 => 12
  | .gx9h => 6
def diesOf (s : State) : Nat := match s.part with
  | .gx9 => 4
  | .gx9h => 2

/-- The fields of an HBM address (R187). -/
def hbmStack (s : State) (pa : Nat) : Nat :=
  let u := pa / 2 ^ 20
  let d := stackCount s
  (u % d + u / d % d) % d
def hbmRow (s : State) (pa : Nat) : Nat := pa / 2 ^ 20 / stackCount s % 2 ^ 15
def hbmStackId (s : State) (pa : Nat) : Nat := pa / 2 ^ 20 / stackCount s / 2 ^ 15 % 2
def hbmBank (pa : Nat) : Nat := pa / 2 ^ 16 % 16
def hbmColumn (pa : Nat) : Nat := pa % 2 ^ 10
def hbmChannel (pa : Nat) : Nat := pa / 2 ^ 10 % 32
def hbmPseudo (pa : Nat) : Nat := pa / 2 ^ 15 % 2
def hbmSubarray (s : State) (pa : Nat) : Nat := hbmRow s pa / 512

/-- Two frames share a subarray: the condition of an in-DRAM transfer (R187). -/
def sameSubarray (s : State) (f g : Nat) : Bool :=
  let key (x : Nat) : Nat × Nat × Nat × Nat :=
    (hbmStack s (x * 65536), hbmStackId s (x * 65536), hbmBank (x * 65536), hbmSubarray s (x * 65536))
  key f == key g

/-- The compute die that is a line's home (R189). -/
def homeDie (s : State) (pa : Nat) : Nat :=
  if isHbm s pa then hbmStack s pa / 3 else pa / 128 % 4 % diesOf s

/-- The key by which tiles lock lines: node, die of the home, line (R199). Node 0 is this package; `m` says that the home is the
memory-side engine of the stack, a die of its own (R16, R189); a peer's line counts as of die 0 there (assumption 71). -/
def lockKey (s : State) (m : Bool) (pa : Nat) : Nat :=
  let node := if isPeer pa then
      ((s.links.find? fun e => e.2.bound && e.2.window == peerWindow pa).map fun e => e.2.node).getD 0
    else 0
  (node * 32 + (if isPeer pa then 0 else if m then 8 + hbmStack s pa else homeDie s pa)) * 2 ^ 48 + pa / 128 * 128

/-! ### Type entries (R273 to R276, R291) -/

def teType (v : BitVec 128) : Nat := (v.extractLsb' 0 4).toNat
def teOwner (v : BitVec 128) : Nat := (v.extractLsb' 10 6).toNat
def teWorld (v : BitVec 128) : Nat := (v.extractLsb' 16 8).toNat
def teCount (v : BitVec 128) : Nat := (v.extractLsb' 24 24).toNat
def teGen (v : BitVec 128) : Nat := (v.extractLsb' 48 8).toNat
def teKey (v : BitVec 128) : Nat := (v.extractLsb' 56 8).toNat
def teGrant (v : BitVec 128) : Dword := v.extractLsb' 64 64

/-- A type entry from its fields (R273). -/
def mkType (ty owner world count gen key : Nat) (grant : Dword) : BitVec 128 :=
  grant ++ BitVec.ofNat 8 key ++ BitVec.ofNat 8 gen ++ BitVec.ofNat 24 count ++ BitVec.ofNat 8 world ++
    BitVec.ofNat 6 owner ++ 0#6 ++ BitVec.ofNat 4 ty

def teSetCount (v : BitVec 128) (c : Nat) : BitVec 128 :=
  mkType (teType v) (teOwner v) (teWorld v) c (teGen v) (teKey v) (teGrant v)

/-- A frame inside a host ownership region of some tenant (R291). -/
def inHostRegion (s : State) (f : Nat) : Bool :=
  s.tenants.any fun e => e.2.hosts.any fun r => decide (r.2.first ≤ f ∧ f < r.2.first + r.2.len)

/-- The frames that have a type entry (R188, R275). -/
def hasType (s : State) (f : Nat) : Bool :=
  let pa := f * 65536
  if isHbm s pa then decide (hbmRow s pa % 512 ≠ 0) -- not `row0` of a subarray (R188)
  else if isTier s pa then isTier s (pa + 65535)
  else isHost pa && inHostRegion s f

/-- Add `n` to the count of a frame. -/
def countAdd (s : State) (f : Nat) (n : Int) : State :=
  setType s f (teSetCount (typeOf s f) (((teCount (typeOf s f) : Int) + n).toNat))

/-! ### The walk (R180 to R184) -/

/-- A leaf, with the physical address it gives. -/
structure Leaf where
  pa : Nat
  r : Bool
  w : Bool
  x : Bool
  t : Bool
  m : Bool
  sh : Bool
  /-- addresses of the entries that the walk has read, root first (R185, R280) -/
  via : List Nat
  deriving DecidableEq, Repr

inductive Walk where
  | leaf (l : Leaf)
  | fault
  | poison
  deriving DecidableEq, Repr

/-- A walk that has also read the entry at `pa`. -/
def Walk.from (pa : Nat) : Walk → Walk
  | .leaf l => .leaf { l with via := pa :: l.via }
  | .fault => .fault
  | .poison => .poison

/-- A second-tier line whose key slot is revoked (R289, R290). -/
def keyRevoked (s : State) (pa : Nat) : Bool :=
  isTier s pa && (Tbl.get KeySlot.blank s.keys (teKey (typeOf s (pa / 65536)))).state == .revoked

/-- A second-tier line whose key a reset has destroyed (R289, R364). -/
def keyLost (s : State) (pa : Nat) : Bool :=
  match s.tierKept with
  | none => false
  | some l => isTier s pa && !l.contains (pa / 65536)

/-- A line of 128 bytes that holds an uncorrectable error (R205), or whose key is revoked or destroyed (R290, R364). -/
def isPoison (s : State) (pa : Nat) : Bool := s.poison.contains (pa / 128 * 128) || keyRevoked s pa || keyLost s pa

/-- Reserved bits, KIND and the frame alignment of an entry at level `n` (R183). -/
def malformed (n : Nat) (e : Dword) : Bool :=
  let kind := (e.extractLsb' 1 2).toNat
  let frame := (e.extractLsb' 16 32).toNat
  decide (2 ≤ kind) || e.extractLsb' 48 16 != 0#16 || e.extractLsb' 9 7 != 0#7 ||
    (kind == 0 && n == 0) || (kind == 0 && e.extractLsb' 3 6 != 0#6) ||
    (kind == 1 && n == 1 && frame % 2 ^ 13 != 0) || (kind == 1 && n == 2 && frame % 2 ^ 26 != 0)

/-- One walk from a table of level `n` (R183): levels above 0 may lead down. -/
def walk (s : State) (va : Nat) (frame : Nat) : Nat → Walk
  | 0 =>
    let pa := frame * 65536 + va / 2 ^ 16 % 8192 * 8
    let e := BitVec.ofNat 64 (s.mem.rd pa 8)
    if isPoison s pa then .poison
    else if !e.getLsbD 0 || malformed 0 e then .fault
    else .leaf ⟨(e.extractLsb' 16 32).toNat * 65536 + va % 65536, e.getLsbD 5, e.getLsbD 4, e.getLsbD 3,
      e.getLsbD 6, e.getLsbD 7, e.getLsbD 8, [pa]⟩
  | n + 1 =>
    let sh := 16 + 13 * (n + 1)
    let pa := frame * 65536 + va / 2 ^ sh % 8192 * 8
    let e := BitVec.ofNat 64 (s.mem.rd pa 8)
    if isPoison s pa then .poison
    else if !e.getLsbD 0 || malformed (n + 1) e then .fault
    else if e.getLsbD 1 then
      .leaf ⟨(e.extractLsb' 16 32).toNat * 65536 + va % 2 ^ sh, e.getLsbD 5, e.getLsbD 4, e.getLsbD 3,
        e.getLsbD 6, e.getLsbD 7, e.getLsbD 8, [pa]⟩
    else (walk s va (e.extractLsb' 16 32).toNat n).from pa

/-- Translation from a root table: bits 63:55, then the walk (R180). -/
def translateFrom (s : State) (root : Nat) (va : Dword) : Walk :=
  if va.extractLsb' 55 9 != 0#9 then .fault else walk s va.toNat root 2

/-- Translation for a tenant, from the root of its memory record (R180, R181). -/
def translate (s : State) (t : Nat) (va : Dword) : Walk := translateFrom s (tenantOf s t).root.toNat va

/-- The leaf of a physical address for a scalar-profile core (R340): no translation, no permission. -/
def physLeaf (s : State) (va : Dword) : Walk :=
  if paExists s va.toNat then .leaf ⟨va.toNat, true, true, true, false, false, false, []⟩ else .fault

/-- The translation that an access of the current warp uses. -/
def translateCur (s : State) (va : Dword) : Walk :=
  if isService s then physLeaf s va else translate s (curTenant s) va

/-! ### Kinds of access and their checks (R184, R192, R193, R195, R203, R277) -/

inductive Acc where
  | load
  | store (size : Nat)
  | rmw
  | tload
  | tstore
  | lease
  | mon
  deriving DecidableEq, Repr

/-- The stash region of a block that maps an address (R192). -/
def regionOf (b : Block) (va : Nat) : Option Nat :=
  (b.regions.find? fun e => decide (0 < e.2.len ∧ e.2.base ≤ va ∧ va < e.2.base + e.2.len * 128)).map Prod.fst

/-- The line of an address in the stash of one core of the block. -/
def lineOf (b : Block) (up : Bool) (va : Nat) : Option SLine := b.lines.find? fun l => l.va == va / 128 * 128 && l.up == up

/-- The leaf that an access to a stash line has: that found at its fill (R193). -/
def lineLeaf (l : SLine) (va : Nat) : Leaf := ⟨l.pa + va % 128, true, l.writable, false, l.leafT, false, l.leafS, l.via⟩

/-- What a checked address gives: its leaf, and whether a stash region serves it; or the cause (R313). -/
inductive Chk where
  | ok (l : Leaf) (stash : Bool)
  | bad (cause : Nat)
  deriving DecidableEq, Repr

/-- Permission of the leaf for an access, or a piece of one, whose base is `va` (R184, R277). -/
def leafCause (l : Leaf) (a : Acc) (va : Nat) : Option Nat :=
  match a with
  | .load => if l.r then none else some 13
  | .tload => if l.r then none else some 13
  | .mon => if l.r then none else some 13
  | .store n =>
    if l.t then (if n ≠ 8 then some 13 else if va % 8 ≠ 0 then some 14 else none)
    else if l.w then none else some 13
  | .rmw => if l.t then some 13 else if l.r && l.w then none else some 13
  | .lease => if l.t then some 13 else if l.r && l.w then none else some 13
  | .tstore => if l.t then some 13 else if l.w then none else some 13

def Acc.writes (a : Acc) : Bool :=
  match a with
  | .load | .tload | .mon => false
  | .store _ | .rmw | .lease | .tstore => true

/-- The stash serves the access: all but a page-table store, which goes to the admission checker (R192, R277). -/
def stashServes (l : Leaf) (a : Acc) : Bool := !(l.t && a.writes)

/-- The steps of R184 for the address `va` of an access with base `base`, with the stash of the block (R192, R193, R195). -/
def checkAddr (s : State) (a : Acc) (va : Dword) (base : Dword := va) : Chk :=
  let b := curBlock s
  let served := !isService s && (regionOf b va.toNat).isSome
  match (if served then lineOf b (curWarp s).upper va.toNat else none) with
  | some l =>
    let x := lineLeaf l va.toNat
    (match (if a.writes then leafCause x a base.toNat else none) with
      | some c => .bad c
      | none => .ok x (stashServes x a))
  | none =>
    match translateCur s va with
    | .fault => .bad 12
    | .poison => .bad 18
    | .leaf l =>
      match leafCause l a base.toNat with
      | some c => .bad c
      | none =>
        if served && stashServes l a then (if !l.r then .bad 13 else if l.m then .bad 13 else .ok l true)
        else .ok l false

/-- Every page and line piece of an access of `n` bytes, in ascending order: the first cause, or none. -/
def checkSpan (s : State) (a : Acc) (va : Dword) : Nat → Option Nat
  | 0 => none
  | n + 1 =>
    match checkSpan s a va n with
    | some c => some c
    | none =>
      let x := va + BitVec.ofNat 64 n
      if n = 0 ∨ x.toNat % 128 = 0 then
        match checkAddr s a x va with
        | .bad c => some c
        | .ok _ _ => none
      else none

/-- The widths of the single-copy-atomic units of an access (R208): offset and length. -/
def unitsOf (va : Dword) (n : Nat) : List (Nat × Nat) :=
  if n ≤ 8 then (if va.toNat % n = 0 then [(0, n)] else (List.range n).map fun i => (i, 1))
  else if va.toNat % 16 = 0 then [(0, 8), (8, 8)] else (List.range n).map fun i => (i, 1)

/-- The unit of `n` bytes at offset `off` of a lane's access, from its leaf. -/
def leafUnit (lane off n : Nat) (va : Dword) (l : Leaf) (stash up : Bool) (data data2 : List Byte) : MUnit :=
  ⟨lane, off, n, va, l.pa, l.sh, l.m, l.t, l.w, stash, up, l.via, (data.drop off).take n, (data2.drop off).take n, false, false⟩

/-- The pieces of an access, by offset and length, as units with their translations. -/
def piecesOf (s : State) (a : Acc) (lane : Nat) (va : Dword) (l : List (Nat × Nat)) (data data2 : List Byte) : List MUnit :=
  l.filterMap fun u =>
    let x := va + BitVec.ofNat 64 u.1
    match checkAddr s a x va with
    | .ok l st => some (leafUnit lane u.1 u.2 x l st (curWarp s).upper data data2)
    | .bad _ => none

/-- The units of one lane's access, with their translations. -/
def mkUnits (s : State) (a : Acc) (lane : Nat) (va : Dword) (n : Nat) (data data2 : List Byte) : List MUnit :=
  piecesOf s a lane va (unitsOf va n) data data2

end Sys2Proof.Machine
end

