-- ==== Sys2Proof/Machine/Caches.lean ====
section
/-! DEFINITION. The caches of the package and the sealed links that an access crosses inside it (R189 to R191, R288, R367): which
lines each L1 and each L2 holds, and what a miss of an L2 counts. No cached copy is ever stale (R190), so a line's bytes are those
of its home, and State holds which copies are present (assumption 55). -/

namespace Sys2Proof.Machine

/-- A message leaves the machine: to the host, or to the hypervisor. -/
def reply (s : State) (r : Reply) : State := { s with out := r :: s.out }

/-! ### Records as the instance of a die holds them (R330) -/

/-- The records of a tenant as they stand at the leader. -/
def tenRec (x : Tenant) : TenRec := ⟨x.created, x.root, x.leaselim, x.waymask, x.sched, x.world, x.slotmask, x.qtab⟩

/-- The records of a tenant in the replica of die `d`: without the changes that its instance has not acknowledged. -/
def recAt (s : State) (d t : Nat) : TenRec :=
  match s.plat.changes.find? fun c => c.left.contains d && c.tenant == some t with
  | some c => c.oldRec.getD (tenRec (tenantOf s t))
  | none => tenRec (tenantOf s t)

/-- A world in the replica of die `d`. -/
def worldAt (s : State) (d w : Nat) : World :=
  match s.plat.changes.findSome? fun c => if c.left.contains d then (c.oldWorlds.find? fun e => e.1 == w).map Prod.snd else none with
  | some x => x
  | none => Tbl.get World.blank s.worlds w

/-! ### Monitors of a tenant (R367) -/

/-- A monitor of the tenant counts `n` events of a code (R367). -/
def pmonCount (s : State) (t code n : Nat) : State :=
  let x := tenantOf s t
  let sel (i : Nat) : Nat := x.pmsel.toNat / 16 ^ i % 16
  if (List.range 8).all fun i => sel i ≠ code then s
  else setTenant s t { x with pmon := (List.range 8).foldl (fun m i =>
    if sel i = code then Tbl.set m i (Tbl.get 0 m i + BitVec.ofNat 64 n) else m) x.pmon }

/-- The monitors of a warp's tenant count events; a service core acts for none (R367). -/
def countFor (s : State) (wk code n : Nat) : State :=
  if wk < 16 then s else pmonCount s (blockOf s (warpOf s wk).blk).tenant code n

/-- Lane `l` of a load or store counts once all its pieces are performed (R367; assumption 83). -/
def laneCount (s : State) (wk : Nat) (o : PendOp) (l code : Nat) : State :=
  if o.units.any fun u => u.lane == l && !u.done then s else countFor s wk code 1

/-- The rows of a tile count when it is performed (R367; assumption 83). -/
def rowCount (s : State) (wk : Nat) (o : PendOp) (code : Nat) : State := countFor s wk code (o.units.map (·.lane)).dedup.length

/-! ### Sealed links inside the package (R288) -/

/-- Numbers from here on name sealed links inside the package (R288): HBM channel `c` of stack `h` is `innerLinks + 32 h + c`, and
the UCIe links of compute die `d` are `innerLinks + 512 + d` (assumption 14). -/
def innerLinks : Nat := 128

def innerOf (s : State) (k : Nat) : Inner := Tbl.get Inner.blank s.inner k
def setInner (s : State) (k : Nat) (x : Inner) : State := { s with inner := Tbl.set s.inner k x }

/-- The HBM channel of an address, and the UCIe links of a die. -/
def hbmLink (s : State) (pa : Nat) : Nat := innerLinks + 32 * hbmStack s pa + hbmChannel pa
def dieLink (d : Nat) : Nat := innerLinks + 512 + d

/-- A counter advances with a flit group; Headland installs fresh keys before it reaches 2^48 (R288). -/
def nextKey (c : BitVec 64) : BitVec 64 := if c.toNat + 1 < 2 ^ 48 then c + 1 else 0

/-- A flit group crosses a sealed link each way. -/
def crossInner (s : State) (k : Nat) : State :=
  let x := innerOf s k
  setInner s k { x with keyOut := nextKey x.keyOut, keyIn := nextKey x.keyIn, failOut := 0, failIn := 0 }

/-- The sealed links between a die and the home of a line: those of both dies, if they differ. -/
def dieLinks (s : State) (d pa : Nat) : List Nat := if isPeer pa || homeDie s pa == d then [] else [dieLink d, dieLink (homeDie s pa)]

/-- An access from die `d` to a line cannot travel: a link of it inside the package is dead (R288). -/
def innerDead (s : State) (d pa : Nat) : Bool :=
  (dieLinks s d pa).any (fun k => (innerOf s k).dead) || (isHbm s pa && (innerOf s (hbmLink s pa)).dead)

/-! ### L2 (R189 to R191) -/

/-- Two lines of one home, slice and set. -/
def sameSet (s : State) (a b : Nat) : Bool :=
  homeDie s a == homeDie s b && Config.l2Slice a == Config.l2Slice b && Config.l2Set a == Config.l2Set b

/-- The ways into which a tenant may allocate (R191). -/
def openWays (m : BitVec 32) : List Nat := (List.range 32).filter fun i => m.getLsbD i

def l2Has (s : State) (line : Nat) : Bool := s.caches.l2.any fun e => e.1 == line

/-- A line enters a way of its set. -/
def l2Put (s : State) (line way : Nat) : State := { s with caches := { s.caches with l2 := (line, way) :: s.caches.l2 } }

/-- A line is allocated into a permitted way of its set: a free one, else one whose line it replaces, which is a free value
(R191; assumption 55). -/
def l2Alloc (s : State) (mask : BitVec 32) (line : Nat) : State :=
  match openWays mask with
  | [] => s
  | w :: ws =>
    let taken (v : Nat) : Bool := s.caches.l2.any fun e => e.2 == v && sameSet s e.1 line
    let free := ((w :: ws).find? fun v => !taken v).getD w
    if s.caches.l2.length < ws.length + 1 then l2Put s line free
    else if (w :: ws).any fun v => !taken v then l2Put s line free
    else
      let v := (w :: ws).getD ((Config.freeValue s.freeCtr).toNat % (ws.length + 1)) w
      l2Put { s with
        freeCtr := s.freeCtr + 1
        caches := { s.caches with l2 := s.caches.l2.filter fun e => !(e.2 == v && sameSet s e.1 line) } } line v

/-- An access of a tenant, from die `d`, reaches the L2 that is its line's home: it hits, or misses, is counted, and goes to
memory (R189 to R191, R288, R367). -/
def l2Use (s : State) (t d pa : Nat) : State :=
  let line := pa / 128 * 128
  let s1 := (dieLinks s d pa).foldl crossInner s
  if l2Has s line then s1
  else
    let s2 := pmonCount (if isHbm s pa then crossInner s1 (hbmLink s pa) else s1) t 5 1
    l2Alloc s2 (recAt s2 (homeDie s pa) t).waymask line

/-! ### L1 (R190) -/

def l1Has (s : State) (core line : Nat) : Bool := s.caches.l1.contains (core, line)

/-- A line enters a core's L1 of 1,024 lines; the line that a full one gives up is a free value (assumption 55). -/
def l1Put (s : State) (core line : Nat) : State :=
  let mine := s.caches.l1.filter fun e => e.1 == core
  if l1Has s core line then s
  else if mine.length < 1024 then { s with caches := { s.caches with l1 := (core, line) :: s.caches.l1 } }
  else
    let v := mine.getD ((Config.freeValue s.freeCtr).toNat % mine.length) (core, line)
    { s with
      freeCtr := s.freeCtr + 1
      caches := { s.caches with l1 := (core, line) :: s.caches.l1.filter fun e => e != v } }

/-- The copies of `n` bytes from `a` on in every L1 are dropped (R190). -/
def dropL1 (c : Caches) (a n : Nat) : Caches := { c with l1 := c.l1.filter fun e => !decide (e.2 < a + n ∧ a < e.2 + 128) }

/-- The copies of `n` bytes from `a` on in every L1 and L2 are dropped (R239). -/
def dropCached (c : Caches) (a n : Nat) : Caches :=
  { dropL1 c a n with l2 := c.l2.filter fun e => !decide (e.1 < a + n ∧ a < e.1 + 128) }

end Sys2Proof.Machine
end

