-- ==== Sys2Proof/Machine/Mem.lean ====
section
/-! DEFINITION. One coherent memory: homes, stashes, write-backs and snoops (R189 to R193, R234), leases
and locks at the homes (R196, R199), refusals and fence records (R205, R217, R281 to R283, R287, R315). -/

namespace Sys2Proof.Machine

/-! ### Audited blocks (R327, R328) -/

/-- The selection number of R327. -/
def auditHash (task index : Nat) : Nat := (task * 0x9E3779B1 + index * 0x85EBCA77) % 2 ^ 32 / 2 ^ 22

/-- The audit of a block on its die, by position. -/
def auditOf (s : State) (b : Block) : Option (Nat × Nat) :=
  ((List.range 4).filterMap fun d =>
    ((dieOf s d).audits.findIdx? fun a => a.tenant == b.tenant && a.task == b.cmd.task && a.index == b.index).map
      fun i => (d, i)).head?

/-- *H* of R328: the first 16 bytes of the digest of an address and a value. -/
def unitHash (a v : Nat) : BitVec 128 := BitVec.ofNat 128 (leNat ((sha512 (leBytes 8 a ++ leBytes 8 v)).take 16))

/-- The 8-byte units that a write of `n` bytes from `a` on changes. -/
def changedUnits (m m' : Memory) (a n : Nat) : List Nat :=
  ((List.range (n / 8 + 2)).map fun i => (a / 8 + i) * 8).filter fun u => m.rd u 8 != m'.rd u 8

/-- What a write of `n` bytes from `a` on adds to a signature (R328). -/
def sigDelta (m m' : Memory) (a n : Nat) : BitVec 128 :=
  ((changedUnits m m' a n).map fun u => unitHash u (m'.rd u 8) - unitHash u (m.rd u 8)).foldl (· + ·) 0

/-- The audit takes a write of the run that it audits. -/
def noteRun (m m' : Memory) (a n : Nat) (x : Audit) : Audit :=
  { x with
    sig := x.sig + sigDelta m m' a n
    first := x.first ++ ((changedUnits m m' a n).filter fun u => !x.first.any fun e => e.1 == u).map fun u => (u, m.rd u 8) }

/-- Units with their values, written over a memory. -/
def overUnits (m : Memory) (l : List (Nat × Nat)) : Memory := l.foldl (fun t e => Memory.writes t e.1 (leBytes 8 e.2)) m

/-- The audit takes a write of the replay into its shadow, which starts from what the audited run found (R327, R328;
assumption 54). -/
def noteReplay (m m' : Memory) (a n : Nat) (x : Audit) : Audit :=
  let v := overUnits (overUnits m x.first) x.shadow
  let v' := Memory.writes v a (m'.reads a n)
  { x with
    rsig := x.rsig + sigDelta v v' a n
    shadow := (changedUnits v v' a n).foldl (fun l u => (u, v'.rd u 8) :: l.filter fun e => e.1 != u) x.shadow }

/-- The signature of the run of block `k`, or of its replay, takes a write to memory (R328). -/
def noteAudit (s : State) (k : Nat) (m m' : Memory) (a n : Nat) : State :=
  match auditOf s (blockOf s k) with
  | none => s
  | some (d, i) =>
    let x := dieOf s d
    setDie s d { x with audits := x.audits.modify i (if (blockOf s k).replay then noteReplay m m' a n else noteRun m m' a n) }

/-- A replay meets what makes it unauditable (R328): it stops, and its audit is abandoned. -/
def abandonReplay (s : State) (k : Nat) : State :=
  let b := blockOf s k
  let s1 := match auditOf s b with
    | some (d, i) => setDie s d { dieOf s d with audits := (dieOf s d).audits.modify i fun u => { u with verdict := .unauditable } }
    | none => s
  let s2 := b.warps.foldl (fun t w =>
    if (warpOf t w).status = .exited then t else setWarp t w { warpOf t w with status := .stopped, lease := none }) s1
  setBlock s2 k { blockOf s2 k with status := .killing }

/-- A word of a replay that makes it unauditable has no effect but to end it (R328). -/
def unlessReplay (s : State) (f : State → State) : State :=
  if (curBlock s).replay then abandonReplay s (curWarp s).blk else f s

/-- A unit makes a replay unauditable: in host or peer memory, or, as `rmw` says, an atomic's outside the stash (R328). -/
def spoilsReplay (rmw : Bool) (u : MUnit) : Bool := isHost u.pa || isPeer u.pa || (rmw && !u.stash)

/-- The same for the dirty lines of a block that are written back. -/
def noteLines (s : State) (k : Nat) (m m' : Memory) (l : List SLine) : State :=
  if (auditOf s (blockOf s k)).isNone then s else (l.filter fun x => x.dirty).foldl (fun t x => noteAudit t k m m' x.pa 128) s

/-! ### Coherence of stash lines (R190, R193) -/

/-- A stash line of block `k` that a snoop of the bytes from `a` meets, except the line `skip`. -/
def snoopHit (skip : Option (Nat × Nat × Bool)) (a n k : Nat) (l : SLine) : Bool :=
  decide (l.pa < a + n ∧ a < l.pa + 128) && skip != some (k, l.va, l.up)

/-- Memory after a dirty line is written back; a poisoned line takes no store (R205). -/
def wbLine (s : State) (m : Memory) (l : SLine) : Memory :=
  if l.dirty && !isPoison s l.pa then Memory.writes m l.pa l.data else m

/-- A read or write of `n` bytes from `a` (R193): dirty lines are written back and stay clean, or,
for a write, every line is dropped. No agent but a replay meets its lines (R327).
Lines that a block other than `own` wrote in the interval make that ineligible (R323). -/
def snoopBy (own : Nat) (s : State) (skip : Option (Nat × Nat × Bool)) (a n : Nat) (drop : Bool) : State :=
  let l := s.blocks.filter fun e => !e.2.replay
  let mem := l.foldl (fun m e => (e.2.lines.filter (snoopHit skip a n e.1)).foldl (wbLine s) m) s.mem
  let one (k : Nat) (b : Block) : Block :=
    if !b.replay && b.lines.any (snoopHit skip a n k) then
      { b with
        lines := if drop then b.lines.filter fun l => !snoopHit skip a n k l
          else b.lines.map fun l => if snoopHit skip a n k l then { l with dirty := false, data := [] } else l
        eligible := b.eligible && (k == own ||
          !(b.lines.any fun l => snoopHit skip a n k l && b.slog.any fun e => e.1 == l.va)) }
    else b
  let s' := l.foldl (fun t e => noteLines t e.1 s.mem mem (e.2.lines.filter (snoopHit skip a n e.1))) s
  { s' with mem := mem, blocks := s.blocks.map fun e => (e.1, one e.1 e.2), caches := if drop then dropL1 s.caches a n else s.caches }

/-- The same by an agent that is no block, or outside the stashes. -/
def snoop (s : State) (skip : Option (Nat × Nat × Bool)) (a n : Nat) (drop : Bool) : State := snoopBy 0 s skip a n drop

/-- `n` bytes from `a`, as an outside agent reads them. -/
def readBytes (s : State) (a n : Nat) : List Byte := (snoop s none a n false).mem.reads a n

/-- Virtual address of the ring region of a block, and the bytes of its entries (R227). -/
def ringBase (b : Block) : Nat := (Tbl.get ⟨0, 0, 0⟩ b.regions 15).base
def ringC (b : Block) : Nat := 32 * b.cmd.ring

/-- The engine serves the block's ring: it asked for one, and region 15 is mapped large enough (R227). -/
def ringMapped (b : Block) : Bool :=
  b.cmd.ring != 0 && decide (ringC b + 640 ≤ 128 * (Tbl.get ⟨0, 0, 0⟩ b.regions 15).len)

/-- A write of `n` bytes at `va` by the block stores to NOTIFY (R228). -/
def storesNotify (b : Block) (va n : Nat) : Bool :=
  ringMapped b && decide (va < ringBase b + ringC b + 4 ∧ ringBase b + ringC b < va + n)

/-- A write of `n` bytes from `a` on by another agent stores to the NOTIFY of a block (R228). -/
def hitsNotify (s : State) (b : Block) (a n : Nat) : Bool :=
  ringMapped b && match translate s b.tenant (BitVec.ofNat 64 (ringBase b + ringC b)) with
    | .leaf l => decide (l.pa < a + n ∧ a < l.pa + 4)
    | _ => false

/-- Rings whose NOTIFY an outside write of `n` bytes from `a` on stores to. -/
def noteRings (s : State) (a n : Nat) : State :=
  { s with blocks := s.blocks.map fun e =>
    (e.1, if hitsNotify s e.2 a n then { e.2 with ring := { e.2.ring with stored := true } } else e.2) }

/-- Memory after an outside agent writes bytes from `a` on. -/
def writeBytes (s : State) (a : Nat) (d : List Byte) : State :=
  let s' := snoop (noteRings s a d.length) none a d.length true
  { s' with mem := Memory.writes s'.mem a d }

/-! ### Accesses of a block at the homes (R189 to R191) -/

/-- The core of block `k`, the upper one of a gang for `up`. -/
def blockCore (s : State) (k : Nat) (up : Bool) : Nat := (blockOf s k).core + if up then 1 else 0

/-- The die from which block `k` reaches a line; a service core (block 0) counts as of the home's own die (assumption 14). -/
def blockDie (s : State) (k : Nat) (up : Bool) (pa : Nat) : Nat := if k = 0 then homeDie s pa else blockCore s k up / 40

/-- An access of block `k` reaches its line's home, if that is an L2: a memory-side page has its own engine, a peer its own home, and
a replay meets no cache (R189, R194, R327; for a service core see assumption 55). -/
def homeUse (s : State) (k : Nat) (up leafM : Bool) (pa : Nat) : State :=
  if k = 0 ∨ (blockOf s k).replay = true ∨ isPeer pa = true then s
  else
    let d := blockDie s k up pa
    if leafM then ((dieLinks s d pa) ++ [hbmLink s pa]).foldl crossInner s
    else l2Use s (blockOf s k).tenant d pa

/-- A core's L1 serves the loads of the line: not a memory-side page, nor a peer's line (R190, R194), and not for a tenant that
allocates nothing (R191; assumption 55). -/
def l1Serves (s : State) (k : Nat) (u : MUnit) : Bool :=
  k != 0 && !(blockOf s k).replay && !isPeer u.pa && !u.leafM && (tenantOf s (blockOf s k).tenant).waymask != 0

/-- A region's line is filled on first touch, for a unit that touches it (R193): other copies are written back first. -/
def fillLine (s : State) (k : Nat) (u : MUnit) : State :=
  if (lineOf (blockOf s k) u.up u.va.toNat).isSome then s
  else
    let s' := homeUse (snoopBy k s none (u.pa / 128 * 128) 128 false) k u.up u.leafM u.pa
    let b := blockOf s' k
    setBlock s' k { b with lines :=
      ⟨u.va.toNat / 128 * 128, u.pa / 128 * 128, u.leafW, false, [], 0, u.up, u.leafS, u.leafT, u.via⟩ :: b.lines }

/-- The 128 bytes of a stash line. -/
def lineBytes (s : State) (l : SLine) : List Byte := if l.dirty then l.data else s.mem.reads l.pa 128

/-- The undo log takes a stash line at its first write in the interval (R323). -/
def logLine (s : State) (k : Nat) (l : SLine) : State :=
  let b := blockOf s k
  if b.overflow || b.slog.any (fun e => e.1 == l.va) then s
  else if 16384 < logBytes s b + 136 then setBlock s k { b with overflow := true, eligible := false }
  else setBlock s k { b with slog := (l.va, lineBytes s l) :: b.slog }

/-- Bytes of a list replaced from an offset on. -/
def patch (l : List Byte) (off : Nat) (d : List Byte) : List Byte := l.take off ++ d ++ l.drop (off + d.length)

/-- Who writes: a warp's access, a gather, or a copy. -/
inductive Writer where
  | warp
  | gather
  | copy
  deriving DecidableEq, Repr

/-- A write of bytes at `va` into a line of one core's stash of the block (R193): the line becomes dirty, other copies are
dropped, and a `NOTIFY` among the bytes is noted (R228). A store keeps the line's tag; any other write leaves tag 0 (R234). The undo
log takes the writes of warps and gathers, not those of a copy (R323). -/
def stashWrite (s : State) (k : Nat) (up : Bool) (va : Nat) (d : List Byte) (by_ : Writer) : State :=
  match lineOf (blockOf s k) up va with
  | none => s
  | some l =>
    let s0 := if by_ == .copy then s else logLine s k l
    let s1 := if (blockOf s k).replay then s0
      else snoopBy k (noteRings s0 (l.pa + va % 128) d.length) (some (k, l.va, l.up)) l.pa 128 true
    let b := blockOf s1 k
    let new := { l with
      dirty := true, data := patch (lineBytes s1 l) (va % 128) d, tag := if by_ == .warp then l.tag else 0 }
    setBlock s1 k { b with
      lines := b.lines.map fun x => if x.va == l.va && x.up == l.up then new else x
      ring := { b.ring with stored := b.ring.stored || storesNotify b va d.length } }

/-- Drop the lines of a block that satisfy `p`, written back first if `wb` (R193, R221, R222). -/
def dropLines (s : State) (k : Nat) (p : SLine → Bool) (wb : Bool) : State :=
  let b := blockOf s k
  let mem := if wb then (b.lines.filter p).foldl (wbLine s) s.mem else s.mem
  let s' := { noteLines s k s.mem mem (if wb then b.lines.filter p else []) with mem := if b.replay then s.mem else mem }
  setBlock s' k { b with
    lines := b.lines.filter fun l => !p l }

/-- Write dirty lines back and keep them clean (R222). -/
def cleanLines (s : State) (k : Nat) (p : SLine → Bool) : State :=
  let b := blockOf s k
  let mem := (b.lines.filter p).foldl (wbLine s) s.mem
  setBlock { noteLines s k s.mem mem (b.lines.filter p) with mem := if b.replay then s.mem else mem } k
    { b with
      lines := b.lines.map fun l => if p l then { l with dirty := false, data := [] } else l }

/-! ### Replaced translations (R185, R280) -/

/-- The entries that an admission replaces: the one it writes, or all of a root that the tenant has left (R276). -/
def replaces (a : Admission) (x : Nat) : Bool :=
  match a.root with
  | some f => x / 65536 == f
  | none => x == a.addr

/-- A stash line is no longer what a fill through the tenant's tables gives for its address. -/
def outdated (s : State) (t : Nat) (x : SLine) : Bool :=
  match translate s t (BitVec.ofNat 64 x.va) with
  | .leaf l => !(l.r && !l.m && l.pa == x.pa && l.w == x.writable && l.sh == x.leafS && l.t == x.leafT)
  | _ => true

/-- An access that was translated through an entry now replaced leaves no stash line behind: its line is written back and dropped,
so that nothing issued later meets it (R185, R280; assumption 56). -/
def dropReplaced (s : State) (k : Nat) (u : MUnit) : State :=
  let t := (blockOf s k).tenant
  if s.admissions.any fun a => a.committed && a.tenant == t && u.via.any (replaces a) then
    dropLines s k (fun x => x.va == u.va.toNat / 128 * 128 && x.up == u.up && outdated s t x) true
  else s

/-! ### Reading and writing one unit -/

/-- A stash region of block `k` serves the unit (R192): it did when the access was issued, and it still does. -/
def unitStash (s : State) (k : Nat) (u : MUnit) : Bool :=
  u.stash && (regionOf (blockOf s k) u.va.toNat).isSome

/-- Bytes that a replay reads at `va`: the logged ones of ARGS stand for those of memory (R327). -/
def replayBytes (s : State) (k va : Nat) (l : List Byte) : List Byte :=
  if (blockOf s k).replay then
    match auditOf s (blockOf s k) with
    | some (d, i) =>
      let a := ((dieOf s d).audits[i]?.map fun x => x.args).getD []
      l.zipIdx.map fun e =>
        let j := va + e.2 - (blockOf s k).cmd.args.toNat
        if (blockOf s k).cmd.args.toNat ≤ va + e.2 ∧ j < a.length then a.getD j 0 else e.1
    | none => l
  else l

/-- The bytes that a unit of block `k` reads, and the state after a fill. -/
def unitBytes (s : State) (k : Nat) (u : MUnit) : State × List Byte :=
  if unitStash s k u then
    let s' := fillLine s k u
    match lineOf (blockOf s' k) u.up u.va.toNat with
    | some l => (dropReplaced s' k u, ((lineBytes s' l).drop (u.va.toNat % 128)).take u.len)
    | none => (s', [])
  else
    let s' := snoop s none u.pa u.len false
    (s', replayBytes s k u.va.toNat (s'.mem.reads u.pa u.len))

/-- A unit of block `k` reads its bytes at its home, or in the stash. -/
def unitRead (s : State) (k : Nat) (u : MUnit) : State × List Byte :=
  let r := unitBytes s k u
  if unitStash s k u then r else (homeUse r.1 k u.up u.leafM u.pa, r.2)

/-- A unit of a warp's load reads its bytes, through its core's L1 (R190). -/
def loadRead (s : State) (k : Nat) (u : MUnit) : State × List Byte :=
  let core := blockCore s k u.up
  if unitStash s k u || !l1Serves s k u then unitRead s k u
  else if l1Has s core (u.pa / 128 * 128) then unitBytes s k u
  else
    let r := unitRead s k u
    (l1Put r.1 core (u.pa / 128 * 128), r.2)

/-- A write of block `k` has been performed at its home: the block's core keeps its copy of the line, which a store updates (R190). -/
def storeUse (s s' : State) (k : Nat) (u : MUnit) (isStore : Bool) : State :=
  let t := homeUse s' k u.up u.leafM u.pa
  let core := blockCore s k u.up
  if isStore && l1Has s core (u.pa / 128 * 128) then l1Put t core (u.pa / 128 * 128) else t

/-- The state after a unit of block `k` writes its bytes, as a store of a warp or otherwise. A write outside the stash makes
the interval ineligible (R323); a replay's goes to its shadow (R327). -/
def unitPut (s : State) (k : Nat) (u : MUnit) (d : List Byte) (by_ : Writer) : State :=
  if unitStash s k u then dropReplaced (stashWrite (fillLine s k u) k u.up u.va.toNat d by_) k u
  else if (blockOf s k).replay then
    setBlock (noteAudit s k s.mem (Memory.writes s.mem u.pa d) u.pa d.length) k { blockOf s k with eligible := false }
  else
    let s' := storeUse s (writeBytes s u.pa d) k u (by_ == .warp)
    if k = 0 then s'
    else setBlock (noteAudit s' k (snoop s none u.pa d.length true).mem s'.mem u.pa d.length) k
      { blockOf s' k with eligible := false }

/-- A unit of a warp's store, atomic or tile writes its bytes. -/
def unitWrite (s : State) (k : Nat) (u : MUnit) (d : List Byte) : State := unitPut s k u d .warp

/-! ### What a warp has performed (R204, R209) -/

/-- An access for the purposes of releases, fences and counted words (R209, R225, R216), the writes of a context image among
them: engine operations and `FENCE`s are none. -/
def isAccess (o : PendOp) : Bool :=
  match o.kind with
  | .load .. => true
  | .sload .. => true
  | .store => true
  | .tload .. => true
  | .tstore => true
  | .atomic .. => true
  | .red .. => true
  | .neighbour .. => true
  | .matrix => true
  | .ctxsv .. => true
  | _ => false

/-- The operation writes memory and returns no value. -/
def onlyWrites (k : PKind) : Bool :=
  match k with
  | .store => true
  | .tstore => true
  | .red _ => true
  | .ctxsv .. => true
  | _ => false

/-- The access has been performed: each unit of it has, and what returns a value has returned it (R209). -/
def performed (o : PendOp) : Bool :=
  match o.kind with
  | .neighbour .. => false
  | .matrix => false
  | .ctxsv .. => false
  | k => o.units.all fun u => u.done && (onlyWrites k || !u.sent)

/-- Every access that the warp issued before operation `id` has been performed. -/
def olderPerformed (w : Warp) (id : Nat) : Bool :=
  w.pend.all fun o => decide (id ≤ o.id) || !isAccess o || performed o

/-- Every access that the warp issued before operation `id` has returned its value, if it returns one (R209). -/
def olderReturned (w : Warp) (id : Nat) : Bool :=
  w.pend.all fun o => decide (id ≤ o.id) || !isAccess o || onlyWrites o.kind || performed o

/-! ### Leases and locks (R196, R199) -/

/-- A number that names no warp: an engine, or an agent outside. -/
def noWarp : Nat := 2 ^ 32

/-- Another warp holds a lease on the line. -/
def leasedByOther (s : State) (wk pa : Nat) : Bool :=
  s.warps.any fun e => e.1 != wk && (match e.2.lease with
    | some l => l.1 == pa / 128 * 128
    | none => false)

/-- A tile other than `op` of warp `wk` has locked the line. -/
def lockedByOther (s : State) (wk op pa : Nat) : Bool :=
  s.locks.any fun l => l.1 == pa / 128 * 128 && !(l.2.1 == wk && l.2.2 == op)

/-- No lease and no lock holds the line. -/
def homeOpen (s : State) (wk op pa : Nat) : Bool := !leasedByOther s wk pa && !lockedByOther s wk op pa

/-- Two blocks are of one cluster. -/
def sameCluster (b c : Block) : Bool :=
  b.tenant == c.tenant && b.task == c.task && b.index / max 1 b.cmd.cluster == c.index / max 1 c.cmd.cluster

/-- Agent `wk` lies within the scope of an early release: a warp of the block, of the cluster, or any agent of the package (R11). -/
def inScope (s : State) (e : EarlyRelease) (wk : Nat) : Bool :=
  let k := (warpOf s wk).blk
  wk == noWarp || (decide (16 ≤ wk) && k == e.blk) ||
    (decide (16 ≤ wk) && e.scope == 1#2 && sameCluster (blockOf s k) (blockOf s e.blk)) || e.scope == 2#2

/-- Stores before the release are still to be performed. -/
def earlyOpen (s : State) (e : EarlyRelease) : Bool :=
  (warpOf s e.warp).blk == e.blk && !olderPerformed (warpOf s e.warp) e.op

/-- The line holds the value of a release that agent `wk` may not see yet (R209, R260). -/
def earlyHeld (s : State) (wk pa : Nat) : Bool :=
  s.early.any fun e => e.line == pa / 128 * 128 && e.warp != wk && inScope s e wk && earlyOpen s e

/-- A release is performed before earlier stores of its warp: the agents within its scope wait for its line until those are
performed (R209, R260; assumption 66). -/
def noteEarly (s : State) (wk : Nat) (o : PendOp) (pa : Nat) : State :=
  if o.rel && !olderPerformed (warpOf s wk) o.id then
    { s with early := ⟨pa / 128 * 128, wk, (warpOf s wk).blk, o.id, o.scope⟩ :: s.early.filter (earlyOpen s) }
  else s

/-- An access of the unit by warp or engine `wk` may be performed at its home now. -/
def homeFree (s : State) (wk op pa : Nat) : Bool := homeOpen s wk op pa && !earlyHeld s wk pa

/-- A tile may not lock a line of an access that is performed in part: it comes entirely after it (R198). -/
def partDone (s : State) (wk op line : Nat) : Bool :=
  s.warps.any fun w => w.2.pend.any fun o => !(w.1 == wk && o.id == op) && o.locked.isEmpty && o.toLock.isEmpty &&
    o.units.any fun u => !u.done && u.pa / 128 * 128 == line && o.units.any fun v => v.done && v.lane == u.lane

/-- A unit of operation `o` may be performed at its home now; an access of several units starts only when no tile has
locked a line of it (R196, R198). -/
def unitFree (s : State) (wk : Nat) (o : PendOp) (u : MUnit) : Bool :=
  homeFree s wk o.id u.pa && ((o.units.any fun v => v.lane == u.lane && v.done) ||
    o.units.all fun v => v.lane != u.lane || !lockedByOther s wk o.id v.pa)

/-! ### Refusals and fence records (R205, R217, R281 to R283, R287, R315) -/

inductive StoreEvent where
  | refused
  | lost
  | poison
  | replay
  deriving DecidableEq, Repr

def fenceNote (e : StoreEvent) (r : FenceRec) : FenceRec :=
  match e with
  | .refused => { r with refused := true, count := min 255 (r.count + 1) }
  | .lost => { r with lost := true }
  | .poison => { r with poison := true }
  | .replay => { r with replay := true }

/-- An event on a store enters all four fence records of its warp (R217). -/
def warpEvent (w : Warp) (e : StoreEvent) : Warp :=
  { w with ctl := { w.ctl with
    fBlk := fenceNote e w.ctl.fBlk, fClu := fenceNote e w.ctl.fClu,
    fDev := fenceNote e w.ctl.fDev, fSys := fenceNote e w.ctl.fSys } }

def noteEvent (s : State) (wk : Nat) (e : StoreEvent) : State := setWarp s wk (warpEvent (warpOf s wk) e)

/-- A new entry of the violation log: older entries move up, and the last is discarded (R282). -/
def vlogPush (l : Tbl Dword) (v : Dword) : Tbl Dword :=
  (List.range 15).foldl (fun m i => Tbl.set m (15 - i) (Tbl.get 0 l (14 - i))) (Tbl.set l 0 v)

/-- An entry of the violation log (R282). -/
def vlogEntry (code : Nat) (va : Dword) : Dword :=
  1#1 ++ 0#4 ++ BitVec.ofNat 4 code ++ va.extractLsb' 0 55

/-- A refused store (R281, R283): the log, `REFSUM`, the fence records, and the counts of R315. -/
def refuseStore (s : State) (wk : Nat) (t code : Nat) (va : Dword) : State :=
  let w := warpEvent (warpOf s wk) .refused
  let w' := { w with
    ctl := { w.ctl with wstat := w.ctl.wstat ||| BitVec.ofNat 32 (2 ^ (15 + code)) }
    refN := min 255 (w.refN + 1)
    refVA := if w.refVA.length < 6 then w.refVA ++ [va] else w.refVA }
  let s' := setWarp s wk w'
  pmonCount (setTenant s' t { tenantOf s' t with vlog := vlogPush (tenantOf s' t).vlog (vlogEntry code va) }) t 6 1

/-- The link bound to the window of a peer address (R361). -/
def linkFor (s : State) (pa : Nat) : Option Nat :=
  (s.links.find? fun e => e.2.bound && e.2.window == peerWindow pa).map Prod.fst

/-- A link that carries accesses: bound and not dead (R334). -/
def linkAlive (s : State) (pa : Nat) : Bool :=
  match linkFor s pa with
  | some k => !(linkOf s k).dead
  | none => false

/-- Why a store of world `w` is refused at the time of the store (R287), on a link's port as the replica of die `d` has the world's
roster (R330): code 7 or 8. -/
def worldRefusal (s : State) (d w : Nat) (u : MUnit) : Option Nat :=
  if w = 0 then none
  else if isPeer u.pa then
    match linkFor s u.pa with
    | some k => if (worldAt s d w).roster.getLsbD (linkOf s k).node then none else some 8
    | none => if (worldAt s d w).roster.getLsbD (peerWindow u.pa) then none else some 8
  else
    let e := typeOf s (u.pa / 65536)
    if teWorld e = w ∨ (teType e = 7 ∧ u.leafS) then none else some 7

/-- A read of the unit of block `k` meets poison, or a dead link (R205, R312, R334). A line that the stash holds is
intact. -/
def unitPoison (s : State) (k : Nat) (u : MUnit) : Bool :=
  if unitStash s k u && (lineOf (blockOf s k) u.up u.va.toNat).isSome then false
  else isPoison s u.pa || (isPeer u.pa && !linkAlive s u.pa) || innerDead s (blockDie s k u.up u.pa) u.pa

/-- What becomes of a store unit when its turn comes at its home or port (R205, R277, R287, R337). -/
inductive StoreFate where
  | perform
  | refuse (code : Nat)
  | lose
  | poison
  | admission
  | packet
  deriving DecidableEq, Repr

def storeFate (s : State) (k world : Nat) (u : MUnit) : StoreFate :=
  if u.leafT && !(blockOf s k).replay then .admission
  else match worldRefusal s (blockDie s k u.up u.pa) world u with
    | some c => .refuse c
    | none =>
      if unitStash s k u then (if unitPoison s k u then .poison else .perform)
      else if (isPeer u.pa && !linkAlive s u.pa) || innerDead s (blockDie s k u.up u.pa) u.pa then .lose
      else if isPoison s u.pa then .poison
      else if isPeer u.pa then .packet else .perform

end Sys2Proof.Machine
end

