-- ==== Sys2Proof/Machine/Frames.lean ====
section
/-! DEFINITION. Whole frames: zeroing, copying and dropping the cached copies of them (R239, R284, R312). -/

namespace Sys2Proof.Machine

def frameBytes : Nat := 65536

/-- Cached copies of `n` bytes from `a` are dropped without write-back (R239); an interval that wrote such a stash line
is ineligible (R323). -/
def dropCopies (s : State) (a n : Nat) : State :=
  let one (k : Nat) (b : Block) : Block :=
    if !b.replay && b.lines.any (snoopHit none a n k) then
      { b with
        lines := b.lines.filter fun l => !snoopHit none a n k l
        eligible := b.eligible && !(b.lines.any fun l => snoopHit none a n k l && b.slog.any fun e => e.1 == l.va) }
    else b
  { s with blocks := s.blocks.map fun e => (e.1, one e.1 e.2), caches := dropCached s.caches a n }

/-- The poisoned lines outside a frame. -/
def poisonOutside (l : List Nat) (f : Nat) : List Nat := l.filter fun a => a / frameBytes != f

/-- A frame of the second tier is written whole, under a key that exists (R312). -/
def keepTier (s : State) (f : Nat) : Option (List Nat) :=
  s.tierKept.map fun l => if isTier s (f * frameBytes) && !l.contains f then f :: l else l

/-- A frame of zeros, without poison (R239, R312). -/
def zeroFrame (s : State) (f : Nat) : State :=
  let t := dropCopies (noteRings s (f * frameBytes) frameBytes) (f * frameBytes) frameBytes
  { t with
    mem := Memory.zeroRange t.mem (f * frameBytes) frameBytes, poison := poisonOutside t.poison f, tierKept := keepTier t f }

/-- A frame takes the bytes of another; a poisoned source line makes the matching line poisoned (R239, R312). -/
def copyFrame (s : State) (dst src : Nat) : State :=
  let t := dropCopies (snoop (noteRings s (dst * frameBytes) frameBytes) none (src * frameBytes) frameBytes false)
    (dst * frameBytes) frameBytes
  let bad := (List.range 512).filter fun i => isPoison t (src * frameBytes + 128 * i)
  { t with
    mem := Memory.copyRange t.mem (dst * frameBytes) (src * frameBytes) frameBytes
    poison := (bad.map fun i => dst * frameBytes + 128 * i) ++ poisonOutside t.poison dst
    tierKept := keepTier t dst }

/-- Dirty lines of a frame are written back and every copy is dropped (R239). -/
def flushFrame (s : State) (f : Nat) : State :=
  let t := snoop s none (f * frameBytes) frameBytes true
  { t with caches := dropCached t.caches (f * frameBytes) frameBytes }

/-- No line of the frame is leased or locked (R196, R199). -/
def frameFree (s : State) (f : Nat) : Bool :=
  !(s.locks.any fun l => l.1 / frameBytes == f) && !(s.warps.any fun e => match e.2.lease with
    | some l => l.1 / frameBytes == f
    | none => false)

end Sys2Proof.Machine
end

