-- ==== Sys2Proof/Machine/Code.lean ====
section
/-! DEFINITION. Overlays and code references: the instruction store, resolution, allocation and loads
(R156 to R163, R178, R319). -/

namespace Sys2Proof.Machine

/-! ### Code references (R158) -/

def refId (r : Dword) : Nat := (r.extractLsb' 44 20).toNat
def refSlot (r : Dword) : Nat := (r.extractLsb' 36 8).toNat
def refGen (r : Dword) : BitVec 16 := r.extractLsb' 20 16
def refOff (r : Dword) : BitVec 16 := r.extractLsb' 0 16

def mkRef (id slot : Nat) (gen off : BitVec 16) : Dword :=
  BitVec.ofNat 20 id ++ BitVec.ofNat 8 slot ++ gen ++ 0#4 ++ off

/-- The reference with another offset. -/
def refAt (r : Dword) (off : BitVec 16) : Dword := r.extractLsb' 16 48 ++ off

/-- Reserved bits, and bits 15:14, are nonzero (R158). -/
def refBad (r : Dword) : Bool := r.extractLsb' 16 4 != 0#4 || r.extractLsb' 14 2 != 0#2

/-! ### The instruction store of a core (R160 to R163) -/

/-- The store of warp `k`: service core `k`, or 16 + its core. -/
def storeOf (k : Nat) (w : Warp) : Nat := if k < 16 then k else 16 + w.core

def slotsOf (s : State) (sid : Nat) : Tbl Slot :=
  if sid < 16 then (svcOf s sid).slots else (coreOf s (sid - 16)).slots

def setSlots (s : State) (sid : Nat) (t : Tbl Slot) : State :=
  if sid < 16 then setSvc s sid { svcOf s sid with slots := t }
  else setCore s (sid - 16) { coreOf s (sid - 16) with slots := t }

def slotAt (t : Tbl Slot) (i : Nat) : Slot := Tbl.get Slot.blank t i

/-- Who runs code: tenant, world and the slot mask in force (R159, R270, R319). -/
structure Runner where
  tenant : Nat
  world : Nat
  mask : BitVec 16
  service : Option Nat
  deriving DecidableEq, Repr

/-- The number under which the fragments of a service core share its slots (R319). -/
def svcTenant : Nat := 64

def runnerOf (s : State) (k : Nat) : Runner :=
  if k < 16 then ⟨svcTenant, 0, 0xFFFF, some (k / 4)⟩
  else
    let b := blockOf s (warpOf s k).blk
    ⟨b.tenant, b.world, Tbl.get 0xFFFF (groupOf s b.group).masks b.tenant, none⟩

/-- The slot holds the first slot of an overlay, all of whose slots lie in the mask. -/
def heldInMask (t : Tbl Slot) (mask : BitVec 16) (i : Nat) : Bool :=
  let x := slotAt t i
  x.count != 0 && x.first == i && (List.range x.count).all fun j => mask.getLsbD (i + j)

/-- The reference is current (R159 step 1). -/
def isCurrent (t : Tbl Slot) (r : Runner) (c : Dword) : Bool :=
  let i := refSlot c
  decide (i < 16) && heldInMask t r.mask i && (slotAt t i).id == refId c &&
    (slotAt t i).sharers.contains r.tenant && (slotAt t i).gen == refGen c

/-- Physical address of byte `off` of an overlay image, if it can be read as code now; an image that reaches past the end of the code
window goes on at the addresses that follow (R156, R319; assumption 78). -/
def imageByte (s : State) (r : Runner) (id off : Nat) : Walk :=
  match r.service with
  | some d =>
    if id < 0xFFF00 then .fault
    else
      let pa := (dieOf s d).fwbase + 0x4000 * (id - 0xFFF00) + off
      if teType (typeOf s (pa / 65536)) = 8 ∧ paExists s pa then .leaf ⟨pa, true, false, true, false, false, false, []⟩
      else .fault
  | none =>
    match translate s r.tenant (BitVec.ofNat 64 (0x0040000000000000 + 0x4000 * id + off)) with
    | .leaf l => if l.x && !l.m && teType (typeOf s (l.pa / 65536)) = 2 then .leaf l else .fault
    | w => w

/-- An address of no memory: a piece of an image that does not translate. -/
def noPiece : Nat := 2 ^ 48

/-- Physical addresses of the first `k` pieces of 16 KiB of an overlay image, one a slot (R156, R159). -/
def imagePieces (s : State) (r : Runner) (id k : Nat) : List Nat :=
  (List.range k).map fun j => match imageByte s r id (0x4000 * j) with
    | .leaf l => l.pa
    | _ => noPiece

/-- The slot that steps 1 to 3 of R159 find: the lowest one that qualifies (assumption 79). -/
def findSlot (s : State) (t : Tbl Slot) (r : Runner) (c : Dword) : Option Nat :=
  if isCurrent t r c then some (refSlot c)
  else
    match (List.range 16).find? fun i =>
      heldInMask t r.mask i && (slotAt t i).id == refId c && (slotAt t i).sharers.contains r.tenant with
    | some i => some i
    | none => (List.range 16).find? fun i =>
        heldInMask t r.mask i && (slotAt t i).id == refId c && !(slotAt t i).image.contains noPiece &&
          (slotAt t i).image == imagePieces s r (refId c) (slotAt t i).count && (slotAt t i).world == r.world

/-- The slot takes a sharer. -/
def useSlot (t : Tbl Slot) (i tenant : Nat) : Tbl Slot :=
  let x := slotAt t i
  if x.sharers.contains tenant then t else Tbl.set t i { x with sharers := tenant :: x.sharers }

/-- LEAF fragments whose PC lies in the overlay that starts in slot `i`, on the store `sid` (R161): a halted or TRAPPED warp pins
nothing (R314), and a saved one is in no table of warps. -/
def leavesIn (s : State) (sid i : Nat) : Nat :=
  let one (e : Nat × Warp) : Nat :=
    if storeOf e.1 e.2 = sid ∧ e.2.status ≠ .halted ∧ e.2.status ≠ .trapped ∧ e.2.status ≠ .exited ∧ e.2.status ≠ .absent then
      (e.2.split.filter fun x => x.2.state == .leaf && refSlot x.2.pc == i &&
        refGen x.2.pc == (slotAt (slotsOf s sid) i).gen).length
    else 0
  (s.warps.map one).sum

/-- The overlay that starts in slot `i` is pinned (R161). -/
def isPinned (s : State) (sid i : Nat) : Bool :=
  decide (leavesIn s sid i ≠ 0) || decide ((slotAt (slotsOf s sid) i).loads ≠ 0)

/-- A FREE slot, or one of a FAILED overlay. -/
def slotIdle (t : Tbl Slot) (i : Nat) : Bool :=
  (slotAt t i).count == 0 || (slotAt t (slotAt t i).first).state == .failed

inductive Alloc where
  | none
  | pinned
  | run (first : Nat)
  deriving DecidableEq, Repr

/-- The better of two runs: more idle slots, then the one whose most recently used slot is older, then the lower slot
(R162). -/
def betterRun (t : Tbl Slot) (k i j : Nat) : Nat :=
  let idle (f : Nat) : Nat := ((List.range k).filter fun x => slotIdle t (f + x)).length
  let use (f : Nat) : Nat := ((List.range k).map fun x => (slotAt t (f + x)).used).foldl max 0
  if idle i ≠ idle j then (if idle j < idle i then i else j)
  else if use i ≠ use j then (if use i < use j then i else j) else min i j

/-- The choice of a run of `k` slots (R162). -/
def chooseRun (s : State) (sid : Nat) (mask : BitVec 16) (k : Nat) : Alloc :=
  let t := slotsOf s sid
  let inMask := (List.range (17 - k)).filter fun f => (List.range k).all fun x => mask.getLsbD (f + x)
  let free := inMask.filter fun f => (List.range k).all fun x =>
    (slotAt t (f + x)).count == 0 || !isPinned s sid (slotAt t (f + x)).first
  match inMask, free with
  | [], _ => .none
  | _, [] => .pinned
  | _, f :: fs => .run (fs.foldl (betterRun t k) f)

/-- The overlay that starts in slot `i` leaves all its slots; each keeps its generation and its last use. -/
def evict (t : Tbl Slot) (i : Nat) : Tbl Slot :=
  (List.range (slotAt t i).count).foldl (fun m j =>
    Tbl.set m (i + j) { Slot.blank with gen := (slotAt m (i + j)).gen, used := (slotAt m (i + j)).used }) t

/-- Allocation of `k` slots from `f` on for an overlay (R160, R162): the overlays that overlap the run are
evicted whole, each slot's generation is incremented, and the load begins. -/
def allocate (s : State) (sid f k : Nat) (r : Runner) (id : Nat) : State :=
  let t := (List.range k).foldl (fun m j =>
    if (slotAt m (f + j)).count = 0 then m else evict m (slotAt m (f + j)).first) (slotsOf s sid)
  let t' := (List.range k).foldl (fun m j =>
    Tbl.set m (f + j) ⟨.loading, (slotAt m (f + j)).gen + 1, f, if j = 0 then k else 1, id, imagePieces s r id k, r.world,
      [r.tenant], 0, [], (slotAt m (f + j)).used, if j = 0 then 1 else 0⟩) t
  setSlots s sid t'

/-! ### Resolution (R159) -/

inductive Res where
  /-- continue at a current reference -/
  | go (pc : Dword)
  /-- park until the slot leaves its state, or until a run is free -/
  | park
  /-- a trap: cause, AUX and value (R313) -/
  | trap (cause : Nat) (aux : BitVec 32) (value : Dword)
  deriving DecidableEq, Repr

/-- The word of an overlay at an offset; zero at or beyond its length (R43). -/
def wordAt (x : Slot) (off : Nat) : Word := x.words.getD off 0

/-- A halfword of the header. -/
def headerHalf (x : Slot) (byte : Nat) : Nat := (wordAt x (byte / 4)).toNat / 2 ^ (8 * (byte % 4)) % 65536

def isHeader (w : Word) : Bool := w.extractLsb' 25 7 == 0x7F#7

/-- A word offset that a transfer may name: inside the overlay, at a clause header (R43). -/
def goodTarget (x : Slot) (off : Nat) : Bool :=
  decide (16 ≤ off ∧ off < x.words.length) && isHeader (wordAt x off)

/-- OFF is applied to the slot found (R159). -/
def applyOff (t : Tbl Slot) (i : Nat) (c : Dword) : Res :=
  let x := slotAt t i
  let off := (refOff c).toNat
  let nentry := (wordAt x 2).toNat % 256
  let tgt := if off < 16 then headerHalf x (16 + 2 * off) else off
  if (off < 16 ∧ nentry ≤ off) ∨ goodTarget x tgt = false then .trap 5 0 c
  else .go (mkRef x.id i x.gen (BitVec.ofNat 16 tgt))

/-- The state in which entry `self.2` of warp `self.1` is PARKED and pins nothing (R159 step 4, R163). -/
def parkedState (s : State) (self : Nat × Nat) : State :=
  setWarp s self.1 (setEntry (warpOf s self.1) self.2 { entryOf (warpOf s self.1) self.2 with state := .parked })

/-- Step 4 of R159, the demand reload: the fragment `self` parks, and then slots are allocated. -/
def demandReload (s : State) (sid : Nat) (r : Runner) (self : Nat × Nat) (c : Dword) : State × Res :=
  match imageByte s r (refId c) 0 with
  | .fault => (s, .trap 7 4 c)
  | .poison => (s, .trap 7 8 c)
  | .leaf l =>
    if isPoison s l.pa then (s, .trap 7 8 c)
    else
      let len := (leNat (readBytes s (l.pa + 4) 4))
      if len < 17 ∨ 16384 < len then (s, .trap 7 5 c)
      else
        let k := (len + 4095) / 4096
        match chooseRun (parkedState s self) sid r.mask k with
        | .none => (s, .trap 7 3 c)
        | .pinned => (s, .park)
        | .run f => (allocate s sid f k r (refId c), .park)

/-- Resolution of a code reference for the fragment `self` of a runner on a store (R159). -/
def resolve (s : State) (sid : Nat) (r : Runner) (self : Nat × Nat) (c : Dword) : State × Res :=
  if refBad c then (s, .trap 5 0 c)
  else
    match findSlot s (slotsOf s sid) r c with
    | some i =>
      let t := useSlot (slotsOf s sid) i r.tenant
      let s' := setSlots s sid t
      match (slotAt t i).state with
      | .ready => (s', applyOff t i c)
      | .failed => (s', .trap 7 (BitVec.ofNat 32 (slotAt t i).code) c)
      | _ => (s', .park)
    | none => demandReload s sid r self c

/-- Resolution of a PC: between clauses that of R159, and in the middle of a clause, where the PC names no header, the same for
the overlay alone (R37, R159; assumption 69). -/
def resolvePc (s : State) (sid : Nat) (r : Runner) (self : Nat × Nat) (left : Nat) (c : Dword) : State × Res :=
  if left = 0 then resolve s sid r self c
  else
    match resolve s sid r self (refAt c 0) with
    | (s', .go pc) => (s', .go (refAt pc (refOff c)))
    | (s', .park) => (s', .park)
    | (s', .trap cause aux _) => (s', .trap cause aux c)

/-! ### Loads (R156, R157, R160, R319) -/

/-- The header rules of R157 for an image of `k` slots. -/
def headerGood (x : Slot) (id k : Nat) : Bool :=
  let len := (wordAt x 1).toNat
  let n := (wordAt x 2).toNat % 256
  (wordAt x 0).toNat == id && decide (17 ≤ len ∧ len ≤ 4096 * k) && decide (1 ≤ n ∧ n ≤ 16) &&
    (wordAt x 2).toNat / 256 == 0 && (wordAt x 3).toNat == 0 &&
    (List.range 16).all fun e =>
      if e < n then decide (16 ≤ headerHalf x (16 + 2 * e) ∧ headerHalf x (16 + 2 * e) < len)
      else headerHalf x (16 + 2 * e) == 0

/-- Bytes of words, little-endian (R4). -/
def wordBytes (l : List Word) : List Byte := l.flatMap fun w => leBytes 4 w.toNat

/-- HASH of R157: the digest of the image with words 12 to 15 taken as zero. -/
def imageHash (l : List Word) : List Byte :=
  (sha512 (wordBytes (l.take 12 ++ [0, 0, 0, 0] ++ l.drop 16))).take 16

/-- The words below `n` of line `m` of an image, which stands at `pa`. -/
def lineWords (s : State) (pa m n : Nat) : List Word :=
  let b := readBytes s pa 128
  ((List.range 32).filter fun i => decide (32 * m + i < n)).map fun i => BitVec.ofNat 32 (leNat ((b.drop (4 * i)).take 4))

/-- Words of an image from `off` words on, line by line: the words, or a status code (R160, R179). -/
def loadWords (s : State) (r : Runner) (id : Nat) (n : Nat) : Nat → Except Nat (List Word)
  | 0 => .ok []
  | m + 1 =>
    match loadWords s r id n m with
    | .error e => .error e
    | .ok ws =>
      match imageByte s r id (128 * m) with
      | .fault => .error 4
      | .poison => .error 8
      | .leaf l =>
        if isPoison s l.pa then .error 8
        else .ok (ws ++ lineWords s l.pa m n)

/-- What a load of the overlay in slot `i` finds: its words, or a status code. -/
def loadImage (s : State) (r : Runner) (x : Slot) : Except Nat (List Word) :=
  match loadWords s r x.id 16 1 with
  | .error e => .error e
  | .ok h =>
    let hs := { x with words := h }
    if headerGood hs x.id x.count = false then .error 5
    else
      let len := (wordAt hs 1).toNat
      match loadWords s r x.id len ((len + 31) / 32) with
      | .error e => .error e
      | .ok ws => if wordBytes ((ws.drop 12).take 4) = imageHash ws then .ok ws else .error 6

end Sys2Proof.Machine
end

