-- ==== Sys2Proof/Machine/Ops.lean ====
section
/-! DEFINITION. Taking an exception and returning from one (R304, R314, R318), the checks that every word
runs when it issues (R49), what holds a word at issue (R65, R126, R174, R209, R216), and the pending
operations of a warp (R39, R204). -/

namespace Sys2Proof.Machine

/-! ### Taking an exception -/

/-- The fragment stops at the word in execution, and what its clause had not issued leaves its flags
(R314 step 1; assumption 8). -/
def stopAt (w : Warp) (e : Nat) (pc : Dword) : Warp :=
  let x := entryOf w e
  let w' := flagDone (flagDone w x.flagA x.remA) x.flagB x.remB
  setEntry w' e { x with left := 0, rcv := none, remA := 0, remB := 0, pc := pc }

/-- Entry 0 of overlay 0xFFFFF, where a service core's handler stands (R318). -/
def handlerRef : Dword := mkRef 0xFFFFF 0xFE 0 0

/-- SHCAUSE of an entry (R304): RETPRIV, IBIT, INTR, CODE. -/
def causeWord (priv : Bool) (ibit : Nat) (intr : Bool) (code : Nat) : Word :=
  BitVec.ofBool priv ++ 0#19 ++ BitVec.ofNat 3 ibit ++ BitVec.ofBool intr ++ BitVec.ofNat 8 code

/-- A service core enters its handler (R304, R318): a shelf is pushed with the resume reference, cause and
value, HOLD becomes 0xF and PRIV 1, and entry 0 of overlay 0xFFFFF is resolved. A fault of that resolution
is a further trap. With four shelves in use nothing is pushed and the core stops. -/
def svcEnter (s : State) (k : Nat) (resume : Dword) (cause : Bool → Word) (value : Dword) : Nat → State
  | 0 => s
  | n + 1 =>
    let c := svcOf s k
    if 4 ≤ c.shelves.length then
      setWarp (setSvc s k { c with running := false }) k
        { stopAt (warpOf s k) 0 resume with status := .stopped, lease := none }
    else
      let s1 := setSvc s k
        { c with hold := 15, priv := true, shelves := ⟨resume, cause c.priv, value, c.hold⟩ :: c.shelves }
      let w := { stopAt (warpOf s1 k) 0 resume with lease := none }
      let x := { entryOf w 0 with state := .leaf, wait := .none }
      let s2 := setWarp s1 k (setEntry w 0 x)
      match resolve s2 k (runnerOf s2 k) (k, 0) handlerRef with
      | (s3, .go pc) => setWarp s3 k (setEntry (warpOf s3 k) 0 { entryOf (warpOf s3 k) 0 with pc := pc })
      | (s3, .park) =>
        setWarp s3 k (setEntry (warpOf s3 k) 0
          { entryOf (warpOf s3 k) 0 with state := .parked, wait := .reload handlerRef none (refOff resume) false })
      | (s3, .trap code _ v) => svcEnter s3 k resume (fun p => causeWord p 0 false code) v n

/-- A warp raises a trap in its fragment `t.frag` (R314, R318). A tenant's warp stops and drains; its record
is written later. A warp that already drains after a trap keeps its first one (assumption 8). -/
def raiseBare (s : State) (k : Nat) (t : Trap) : State :=
  if k < 16 then svcEnter s k t.pc (fun p => causeWord p 0 false t.cause) t.value 5
  else
    let w := stopAt (warpOf s k) t.frag t.pc
    match w.trap with
    | some _ => setWarp s k w
    | none => setWarp s k { w with trap := some t, status := .trapping, lease := none }

/-- A warp raises a trap. *Poison consumed* from memory or a dead link notes an erroneous location of the block that no log entry
recovers (R323, R324). -/
def raiseTrap (s : State) (k : Nat) (t : Trap) : State :=
  let w := warpOf s k
  if t.cause = 18 ∧ 16 ≤ k then
    let b := blockOf s w.blk
    raiseBare (setBlock s w.blk { b with bad := (w.index, 7, t.value.toNat) :: b.bad }) k t
  else raiseBare s k t

/-- The current word raises a trap: cause, lane, value and AUX of R313. -/
def takeTrapAt (s : State) (off : BitVec 16) (cause lane : Nat) (value : Dword) (aux : Word) : State :=
  raiseTrap s s.cur ⟨cause, s.frag, lane, value, aux, refAt (curEntry s).pc off⟩

/-- The current word raises a trap at its own address. -/
def takeTrap (s : State) (cause lane : Nat) (value : Dword) (aux : Word) : State :=
  takeTrapAt s (curEntry s).here cause lane value aux

/-- No lane or row (R315). -/
def noLane : Nat := 255

/-! ### Transfers (R43, R159) -/

/-- The fragment moves to a reference. -/
def goTo (s : State) (pc : Dword) : State := setFrag s { curEntry s with pc := pc, left := 0 }

/-- The link pair `s190:s191` (R167). -/
def writeLink (s : State) (r : Option Dword) : State :=
  match r with
  | none => s
  | some v => writeP s 190 v

/-- The slot in which the current fragment runs. -/
def curSlot (s : State) : Slot :=
  slotAt (slotsOf s (storeOf s.cur (curWarp s))) (refSlot (curEntry s).pc)

/-- The word of the current overlay at an offset. -/
def codeWord (s : State) (off : BitVec 16) : Word := wordAt (curSlot s) off.toNat

/-- The top shelf is popped: HOLD and PRIV are restored (R304). -/
def popShelf (s : State) (k : Nat) : State :=
  let c := svcOf s k
  match c.shelves with
  | [] => s
  | top :: rest => setSvc s k { c with hold := top.hold, priv := top.cause.getLsbD 31, shelves := rest }

/-- A transfer by reference (R159); only when it succeeds is `link` written and, for an `ERET`, the top shelf popped. A
reference whose overlay is not ready parks the fragment. -/
def transferFor (s : State) (c : Dword) (link : Option Dword) (pop : Bool) : State :=
  match resolve s (storeOf s.cur (curWarp s)) (runnerOf s s.cur) (s.cur, s.frag) c with
  | (s', .go pc) => goTo (writeLink (if pop then popShelf s' s'.cur else s') link) pc
  | (s', .park) =>
    setFrag s' { curEntry s' with state := .parked, wait := .reload c link (curEntry s').here pop, left := 0 }
  | (s', .trap cause aux v) => takeTrap s' cause noLane v aux

/-- A transfer by reference that returns from no handler. -/
def transferRef (s : State) (c : Dword) (link : Option Dword) : State := transferFor s c link false

/-- A transfer to a word offset of the current overlay (R43). -/
def transferOff (s : State) (off : Nat) (link : Option Dword) : State :=
  let ref := refAt (curEntry s).pc (BitVec.ofNat 16 off)
  if goodTarget (curSlot s) off then goTo (writeLink s link) ref else takeTrap s 5 noLane ref 0

/-- Return from an exception (R304): the resume reference of the top shelf is resolved, and with its success the shelf is
popped. With no shelf in use, *operand fault*. -/
def trapReturn (s : State) : State :=
  match (svcOf s s.cur).shelves with
  | [] => takeTrap s 15 noLane 0 0
  | top :: _ => transferFor s top.pc none true

/-! ### The checks of a word (R49) -/

/-- Service-only instructions (R53). -/
def serviceOnly : Instr → Bool
  | .eret _ => true
  | .wfi _ => true
  | .ipi _ _ _ => true
  | .ctxsv _ _ _ => true
  | .ctxld _ _ _ _ => true
  | .wlatch _ _ _ => true
  | .keyrev _ _ _ => true
  | .csrrd _ _ i => csrService i
  | .csrwr _ _ i => csrService i
  | _ => false

/-- Words of the matrix engine: majors 0x30 and 0x31. -/
def matrixWord : Instr → Bool
  | .mma .. => true
  | .accz .. => true
  | .accrd .. => true
  | .accwr .. => true
  | .accadd .. => true
  | .mstatrd .. => true
  | .mctx .. => true
  | _ => false

/-- The word issues at service privilege (R304). -/
def atService (s : State) : Bool := isService s && (svcOf s s.cur).priv

/-- The unit that the word addresses is absent (R25, R120, R125, R298). -/
def unitAbsent (s : State) (i : Instr) : Bool :=
  let reg : Option Nat := match i with
    | .csrrd _ _ r => some r.toNat
    | .csrwr _ _ r => some r.toNat
    | _ => none
  (matrixWord i && (isService s || (curBlock s).ctx.isNone)) ||
    (reg == some 0x820 && s.part == .gx9h) || (reg == some 1 && isService s)

/-- The vector runs that a form names: first register without the window base, and length (R32, R33). -/
def vecRuns (f : Form) : List (Nat × Nat) :=
  let p := effPrefix f
  let one (o : Opd) (h q : Bool) : List (Nat × Nat) :=
    match o with
    | .vec n => [(fieldNumber n h, 1)]
    | .vecq n => if q then [] else [(fieldNumber n h, 1)]
    | .vecPair n => [(fieldNumber n h, 2)]
    | .vecQuad n => [(fieldNumber n h, 4)]
    | .run n c => [(fieldNumber n h, c)]
    | _ => []
  one f.d p.dh false ++ one f.a p.ah p.aq ++ one f.b p.bh p.bq ++
    (match f.c with
      | .addend d => if f.p.isSome then (if p.cq then [] else [(fieldNumber p.c p.ch, 1)]) else [(fieldNumber d false, 1)]
      | .newValue n => [(fieldNumber p.c p.ch, n)]
      | _ => [])

/-- The first register of a form that lies beyond the allocation (R49 step 5, R313). -/
def rangeFault (wb vregs : Nat) (f : Form) : Option Nat :=
  ((vecRuns f).find? fun r => decide (vregs < wb + r.1 + r.2)).map fun r => max (wb + r.1) vregs

/-- A fault of R49: cause, whether it stands at the prefix word, and the register of a range fault. -/
structure IssueFault where
  cause : Nat
  atPrefix : Bool
  reg : Option Nat
  deriving DecidableEq, Repr

/-- The checks of R49 on one word, in their order, with the window base of its clause. -/
def wordFault (i : Instr) (s : State) (wb : Nat) : Option IssueFault :=
  match illegal i with
  | some y => some ⟨1, whyAtPrefix y, none⟩
  | none =>
    if serviceOnly i && !atService s then some ⟨2, false, none⟩
    else if unitAbsent s i then some ⟨3, false, none⟩
    else
      match form i with
      | none => none
      | some f => (rangeFault wb (curWarp s).vregs f).map fun r => ⟨4, false, some r⟩

/-- The same for the word in execution. -/
def issueFault (i : Instr) (s : State) : Option IssueFault := wordFault i s (curEntry s).wb.toNat

/-- The trap of a fault of R49, at offset `off` of the word (R50, R313). -/
def takeIssueFault (s : State) (off : BitVec 16) (f : IssueFault) : State :=
  let at' := if f.atPrefix then off - 1 else off
  takeTrapAt s at' f.cause noLane
    (match f.reg with
      | some r => BitVec.ofNat 64 r
      | none => (codeWord s at').setWidth 64) 0

/-! ### Classes (R40, R54) -/

inductive Cls where
  | fixed
  | a
  | b
  | counted
  deriving DecidableEq, Repr

/-- The long-latency class of each word (R54). `OVLD` is class A for its reference. -/
def clsOf : Instr → Cls
  | .frcp .. | .frsq .. | .fsqrt .. | .fexp2 .. | .flog2 .. | .fsin .. | .fcos .. | .ftanh .. => .a
  | .nbl .. | .nbr .. | .nbx .. => .a
  | .ldb .. | .ldbu .. | .ldh .. | .ldhu .. | .ldw .. | .ldd .. | .ldq .. | .ldacq .. => .a
  | .sldw .. | .sldd .. | .sldacq .. | .tld .. | .tlda .. => .a
  | .aadd .. | .amin .. | .amax .. | .aumin .. | .aumax .. | .aand .. | .aor .. | .axor .. | .axchg .. => .a
  | .acas .. | .afadd .. | .aadd64 .. | .acas64 .. => .a
  | .fence .. | .mwait .. | .lease .. | .accrd .. | .mstatrd .. | .ovld .. => .a
  | .arrb .. | .arrc .. | .arrg .. | .csrrd .. | .retype .. | .frq .. | .ctxld .. => .a
  | .stb .. | .sth .. | .stw .. | .std .. | .stq .. | .strel .. | .sstw .. | .sstd .. | .sstrel .. => .b
  | .tst .. | .tstr .. => .b
  | .redadd .. | .redmin .. | .redmax .. | .redumin .. | .redumax .. | .redand .. | .redor .. => .b
  | .redxor .. | .redfadd .. | .redadd64 .. => .b
  | .stashmap .. | .stashwb .. | .stashinv .. | .sendm .. | .mma .. | .accwr .. | .accadd .. | .ctxsv .. => .b
  | .mzero .. | .mcopy .. | .minv .. | .gath .. | .scat .. => .counted
  | _ => .fixed

/-- Words that access memory, which an acquire, a `FENCE` or a reconvergence point holds at issue (R209, R216, R253): majors
0x20 to 0x28, the neighbour latches (R107), the matrix words (R131), the load of an `OVLD` (R225), context images (R306,
R307), and a read of the violation log (R281). -/
def memoryWord : Instr → Bool
  | .csrrd _ _ i => decide (0x40 ≤ i.toNat ∧ i.toNat ≤ 0x4F)
  | .nbl .. | .nbr .. | .nbx .. => true
  | .pref .. => true
  | .mon .. | .stashmap .. | .stashwb .. | .stashinv .. => true
  | .mzero .. | .mcopy .. | .minv .. | .gath .. | .scat .. | .ovld .. | .ctxsv .. | .ctxld .. => true
  | i =>
    if matrixWord i then true
    else match i with
      | .accz .. | .frcp .. | .frsq .. | .fsqrt .. | .fexp2 .. | .flog2 .. | .fsin .. | .fcos .. | .ftanh .. => false
      | .arrb .. | .arrc .. | .arrg .. | .retype .. | .frq .. | .sendm .. => false
      | i => match clsOf i with
        | .a => true
        | .b => true
        | _ => false

/-! ### Pending operations -/

/-- A reconvergence point stands before operation `id`, and accesses before the point are not performed (R253). -/
def pointBefore (w : Warp) (id : Nat) : Bool :=
  w.pend.any fun q => q.kind == .point && decide (q.id < id) && !olderPerformed w q.id

/-- Every access that the warp issued before operation `id` is complete (R204): it has left the list. -/
def olderComplete (w : Warp) (id : Nat) : Bool :=
  w.pend.all fun o => decide (id ≤ o.id) || !isAccess o

/-- A reconvergence point at which the warp still waits: accesses before it are not complete (R253, R216). -/
def pointWaits (w : Warp) : Bool := w.pend.any fun q => q.kind == .point && !olderComplete w q.id

/-- An acquire that has not returned its value, or a `FENCE` that has not completed. -/
def acquireWaits (w : Warp) (exceptMwait : Bool) : Bool :=
  (w.pend.any fun o => o.acq || (match o.kind with
    | .fence _ => true
    | _ => false)) ||
  (!exceptMwait && w.split.any fun e => match e.2.wait with
    | .mwait .. => true
    | _ => false)

/-- The matrix queue of the context to which the block is bound (R126). -/
def matrixQueue (c : CoreSt) (ctx : Nat) : List MEntry := if ctx = 0 then c.q0 else c.q1

/-- Operation `op` of the current warp is an `ACCRD`, the one matrix word that raises flags of `WSTAT` (R66). -/
def readsTile (s : State) (op : Nat) : Bool :=
  let c := coreOf s (curWarp s).core
  (c.q0 ++ c.q1).any fun e => e.warp == s.cur && e.op == op && match e.what with
    | .accrd .. => true
    | _ => false

/-- A pending operation of the current fragment that can still raise a flag (R65, R66). -/
def flagWaits (s : State) : Bool :=
  (curWarp s).pend.any fun o => o.frag == s.frag && match o.kind with
    | .special _ => true
    | .atomic _ _ (.fadd _) => true
    | .red (.fadd _) => true
    | .matrix => readsTile s o.id
    | _ => false

def matrixFull (s : State) : Bool :=
  decide (4 ≤ (matrixQueue (coreOf s (curWarp s).core) ((curBlock s).ctx.getD 0)).length)

/-- A barrier arrival and an `IPI` are releases (R174, R305): they wait for the warp's earlier accesses. -/
def arrivalWord : Instr → Bool
  | .barb _ | .barc _ | .barg _ => true
  | .arrb _ _ | .arrc _ _ | .arrg _ _ => true
  | .ipi _ _ _ => true
  | _ => false

/-- Stash control acts on the lines of the block as the warp's earlier accesses leave them (R221, R222;
assumption 9). -/
def stashControl : Instr → Bool
  | .stashmap _ _ _ => true
  | .stashwb _ _ _ => true
  | .stashinv _ _ _ => true
  | _ => false

/-- What holds the word at issue. The word then issues later, unchanged. -/
def heldBack (i : Instr) (s : State) : Bool :=
  let w := curWarp s
  (memoryWord i && (pointWaits w || acquireWaits w (match i with
    | .mwait .. => true
    | _ => false))) ||
  (matrixWord i && matrixFull s) ||
  ((arrivalWord i || stashControl i) && !olderPerformed w w.nextOp) ||
  (match i with
    | .csrrd _ _ r => r == 0#14 && flagWaits s
    | .csrwr _ _ r => r == 0#14 && flagWaits s
    | .cwait _ a n => decide (n.toNat < counterOf w a.toNat)
    | _ => false)

/-- The word stays where it is: the fragment is before it again. A full matrix queue holds its pipe (R126); otherwise the
clause is set aside, and the pipe is free meanwhile (assumption 53). -/
def waitWord (i : Instr) (s : State) : State :=
  let e := curEntry s
  setFrag s { e with
    pc := refAt e.pc (e.here + 1 - BitVec.ofNat 16 e.size), left := e.left + e.size, aside := !(matrixWord i && matrixFull s) }

/-- A word: the faults of R49, what holds it, then its effect. -/
def word (i : Instr) (s : State) (effect : State → State) : Result :=
  match issueFault i s with
  | some f => .next (takeIssueFault s (curEntry s).here f)
  | none => if heldBack i s then .next (waitWord i s) else .next (effect s)

/-- The prefix in force for a word (R44). -/
def pfx (p : Option Prefix) : Prefix := p.getD (neutralPrefix 0)

/-- The lanes of a fragment, those of a pending path too (R133, R250). -/
def lanesAll (x : Entry) : Dword := x.owned ||| x.pend

/-- The fields of a new operation of the current word. -/
def newOp (s : State) (k : PKind) : PendOp :=
  ⟨(curWarp s).nextOp, s.stamp, s.frag, k, 15, none, 2, false, false, refAt (curEntry s).pc (curEntry s).here,
    lanesAll (curEntry s), 0, 0, [], [], [], 0, [], 0, false⟩

/-- The flag field of the clause that covers a class. -/
def clsFlag (e : Entry) (c : Cls) : BitVec 4 :=
  match c with
  | .a => e.flagA
  | .b => e.flagB
  | _ => 15

/-- One word of a class has issued. -/
def remIssued (e : Entry) (c : Cls) : Entry :=
  match c with
  | .a => { e with remA := e.remA - 1 }
  | .b => { e with remB := e.remB - 1 }
  | _ => e

/-- A pending operation enters the warp's list (R39). `early`: its flag clears at once, because it has read
its registers. An operation of a class whose flag field is 15 holds the fragment's next clause. -/
def pushOp (s : State) (c : Cls) (early : Bool) (o : PendOp) : State :=
  let e := curEntry s
  let fl := clsFlag e c
  let w := if early then flagDone (curWarp s) fl 1 else curWarp s
  let holds := match c with
    | .a => if fl = 15#4 ∧ early = false then o.id :: e.holds else e.holds
    | .b => if fl = 15#4 ∧ early = false then o.id :: e.holds else e.holds
    | _ => e.holds
  let w' := { w with pend := w.pend ++ [{ o with flag := if early then 15 else fl }], nextOp := w.nextOp + 1 }
  setCur s (setEntry w' s.frag { remIssued e c with holds := holds })

/-- A long-latency word that completes as it issues: its flag loses one operation. -/
def opNow (s : State) (c : Cls) : State :=
  let e := curEntry s
  setCur s (setEntry (flagDone (curWarp s) (clsFlag e c) 1) s.frag (remIssued e c))

/-- Operation `id` of a warp. -/
def opOf (w : Warp) (id : Nat) : Option PendOp := w.pend.find? fun o => o.id == id

def setOp (w : Warp) (o : PendOp) : Warp := { w with pend := w.pend.map fun x => if x.id == o.id then o else x }

/-- An operation leaves the list and its flag; reconvergence points with nothing before them leave too. -/
def dropOp (w : Warp) (o : PendOp) : Warp :=
  let rest := w.pend.filter fun x => x.id != o.id
  flagDone { w with pend := rest.dropWhile fun x => x.kind == .point } o.flag 1

end Sys2Proof.Machine
end

