-- ==== Sys2Proof/Machine/Split.lean ====
section
/-! DEFINITION. The split table: reaching an offset, fusion, divergence, the end of a fragment, the warp barrier
(R132 to R135, R166, R171, R176) and the readiness of a fragment (R38, R39, R135, R172). -/

namespace Sys2Proof.Machine

/-- The entries that are FREE, lowest first. -/
def freeEntries (w : Warp) : List Nat := (List.range 8).filter fun i => (entryOf w i).state == .free

/-- The entries that are not FREE. -/
def usedEntries (w : Warp) : List Nat := (List.range 8).filter fun i => (entryOf w i).state != .free

/-- Full reconvergence (R132). -/
def fullReconv (w : Warp) : Bool := (usedEntries w).length == 1

/-- The entries under a JOIN. -/
def childrenOf (w : Warp) (j : Nat) : List Nat := (usedEntries w).filter fun i => (entryOf w i).parent.toNat == j

/-- The entry is a LEAF whose PC it takes over, ready anew at a stamp; the PC is still to be resolved (R137, R159). A clause whose
word parked it stays set aside until its pipe is free, and then goes on (R37, R136). -/
def takesOver (x : Entry) (stamp : Nat) : Entry :=
  { x with state := .leaf, wait := .none, readyAt := stamp, fresh := true, aside := x.left != 0, spot := none }

/-- A reconvergence point (R253): accesses issued before it are performed before any issued after it. -/
def addPoint (w : Warp) : Warp :=
  if w.pend.isEmpty then w
  else
    { w with
      pend := w.pend ++ [⟨w.nextOp, 0, 0, .point, 15, none, 0, false, false, 0, 0, 0, 0, [], [], [], 0, [], 0, false⟩]
      nextOp := w.nextOp + 1 }

/-- Free a list of entries. -/
def freeAll (w : Warp) (l : List Nat) : Warp := l.foldl (fun v i => setEntry v i Entry.blank) w

/-- The switch point of a serialised entry (R134). -/
def switchPoint (x : Entry) : BitVec 16 := if x.ser = 2#2 then x.srcv else x.rcvOff

/-- The exchange of paths of a serialised entry; `pc` gives the overlay of the old ALTOFF (R134). -/
def switchPath (x : Entry) (pc : Dword) : Entry :=
  { x with
    owned := x.pend, pend := x.owned, exec := x.pendx, pendx := x.exec, pc := refAt pc x.altOff, altOff := 0xFFFF
    left := 0 }

/-- The unions of a serialised entry whose paths have both run (R134): no reconvergence point (assumption 65). -/
def uniteEntry (x : Entry) : Entry :=
  { x with owned := x.owned ||| x.pend, exec := x.exec ||| x.pendx, pend := 0, pendx := 0, ser := 0 }

/-- The current path of entry `e` ends because all its lanes have exited (R134, R171, R176): the new table, and whether its
JOIN is looked at again. A serialised entry runs its pending path, returns to the `BARW` of its first path, or unites. ALTOFF
counts in the overlay of the JOIN above (assumption 29). -/
def endPath (w : Warp) (stamp e : Nat) : Warp × Bool :=
  let x := entryOf w e
  let join := entryOf w x.parent.toNat
  if x.ser = 0#2 then (setEntry w e Entry.blank, true)
  else if x.altOff ≠ 0xFFFF then
    (setEntry w e (takesOver { switchPath x join.pc with pend := 0, pendx := 0 } stamp), false)
  else
    match x.side with
    | some r =>
      (setEntry w e { x with
        state := .parked, wait := .barw r, side := none, owned := x.pend, exec := x.pendx, pend := 0, pendx := 0, ser := 0
        pc := refAt r (refOff r + 1), left := 0 }, false)
    | none =>
      if x.pend = 0 then (setEntry w e Entry.blank, true)
      else
        let y := { x with owned := x.pend, exec := x.pendx, pend := 0, pendx := 0, ser := 0, left := 0 }
        if x.ser = 2#2 then (setEntry w e (takesOver { y with pc := refAt join.pc x.srcv } stamp), false)
        else (setEntry w e { y with state := .arrived }, true)

/-- What happens at JOIN `j` after an entry under it has arrived or become FREE (R134): when every entry under it
is ARRIVED or FREE they fuse. A JOIN left with no owned lane has lost its path: it becomes FREE, or goes on as a serialised
entry. -/
def settle (w : Warp) (stamp j : Nat) : Nat → Warp
  | 0 => w
  | n + 1 =>
    let x := entryOf w j
    if 8 ≤ j ∨ x.state ≠ .join then w
    else
      let cs := childrenOf w j
      if (cs.all fun i => (entryOf w i).state == .arrived) = false then w
      else
        let owned := cs.foldl (fun m i => m ||| (entryOf w i).owned) 0
        let w1 := freeAll w cs
        if owned = 0 then
          let r := endPath w1 stamp j
          if r.2 then settle r.1 stamp x.parent.toNat n else r.1
        else
          addPoint (setEntry w1 j (takesOver { x with
            owned := owned, exec := cs.foldl (fun m i => m ||| (entryOf w i).exec) 0
            holds := cs.foldl (fun l i => l ++ (entryOf w i).holds) x.holds } stamp))

/-- The LEAF stands at an offset in the overlay of its JOIN (R134, R166). -/
def atOffset (w : Warp) (x : Entry) (off : BitVec 16) : Bool :=
  decide (x.parent.toNat < 8) && refOff x.pc == off && refId x.pc == refId (entryOf w x.parent.toNat).pc

/-- What LEAF `e` does at the offset where its next clause stands (R134): the new table, or none if it issues on. -/
def reach (w : Warp) (stamp e : Nat) : Option Warp :=
  let x := entryOf w e
  if x.side.isSome then none
  else if x.ser ≠ 0#2 then
    if atOffset w x (switchPoint x) then
      if x.altOff ≠ 0xFFFF then some (setEntry w e (switchPath x x.pc))
      else
        let y := uniteEntry x
        if x.ser = 2#2 then some (setEntry w e y)
        else some (settle (setEntry w e { y with state := .arrived }) stamp x.parent.toNat 8)
    else none
  else if atOffset w x x.rcvOff then
    some (settle (setEntry w e { x with state := .arrived }) stamp x.parent.toNat 8)
  else none

/-! ### The warp barrier (R176) -/

/-- The references at which a parked entry waits at a `BARW`: its own, then that of its first path. -/
def barwRefs (x : Entry) : Option (List Dword) :=
  match x.state, x.wait with
  | .parked, .barw r => some (r :: x.side.toList)
  | _, _ => none

/-- Overlay and offset of a reference. -/
def placeOf (r : Dword) : Nat × BitVec 16 := (refId r, refOff r)

/-- Every entry is FREE, a JOIN, or parked at a `BARW`. -/
def barwReady (w : Warp) : Bool :=
  (usedEntries w).all (fun i => (entryOf w i).state == .join || (barwRefs (entryOf w i)).isSome) &&
    (usedEntries w).any fun i => (barwRefs (entryOf w i)).isSome

/-- The entries parked at a `BARW`, and where their waits stand. -/
def barwWaiters (w : Warp) : List Nat := (usedEntries w).filter fun i => (barwRefs (entryOf w i)).isSome
def barwPlaces (w : Warp) : List (Nat × BitVec 16) :=
  (barwWaiters w).flatMap fun i => ((barwRefs (entryOf w i)).getD []).map placeOf

/-- All fragments of the warp fuse into entry 0 after the `BARW` (R176). -/
def barwFuse (w : Warp) (stamp : Nat) : Warp :=
  let l := barwWaiters w
  let pc := match l with
    | i :: _ =>
      (match barwRefs (entryOf w i) with
        | some (r :: _) => refAt r (refOff r + 1)
        | _ => 0)
    | [] => 0
  let x : Entry := { Entry.blank with
    owned := l.foldl (fun m i => m ||| (entryOf w i).owned ||| (entryOf w i).pend) 0
    exec := l.foldl (fun m i => m ||| (entryOf w i).exec ||| (entryOf w i).pendx) 0
    pc := pc, parent := 15, rcvOff := 0xFFFF
    holds := l.foldl (fun h i => h ++ (entryOf w i).holds) [] }
  addPoint (setEntry (freeAll w (List.range 8)) 0 (takesOver x stamp))

/-- The warp barrier of warp `k`: it fuses the fragments, or each of them takes *barrier fault* when their waits do
not stand at one offset (R176). -/
def barwCheck (s : State) (k : Nat) : State :=
  let w := warpOf s k
  if barwReady w = false then s
  else
    match barwPlaces w with
    | [] => s
    | q :: l =>
      if l.all (fun y => y == q) then setWarp s k (barwFuse w s.stamp)
      else (barwWaiters w).foldl (fun t i =>
        match barwRefs (entryOf w i) with
        | some (r :: _) => raiseTrap t k ⟨8, i, noLane, 0, 0, r⟩
        | _ => t) s

/-! ### The end of a fragment (R134, R171, R176) -/

/-- The lanes of the current path of entry `e` have exited. -/
def endFragment (w : Warp) (stamp e : Nat) : Warp :=
  let r := endPath w stamp e
  if r.2 then settle r.1 stamp (entryOf w e).parent.toNat 8 else r.1

/-! ### Divergence (R133) -/

/-- A LEAF made by a split. -/
def childLeaf (owned exec : Dword) (pc : Dword) (parent : Nat) (rcv : BitVec 16) (holds : List Nat) (stamp : Nat) :
    Entry :=
  { Entry.blank with
    state := .leaf, owned := owned, exec := exec, pc := pc, parent := BitVec.ofNat 4 parent, rcvOff := rcv
    holds := holds, readyAt := stamp }

/-- A divergent branch of entry `e` with taken lanes `t`, target `tgt` and reconvergence offset `r`: the new
table, or none for *split overflow* (R133). The next clause stands at the entry's PC. -/
def diverge (w : Warp) (stamp e : Nat) (t : Dword) (tgt : Dword) (r : BitVec 16) : Option Warp :=
  let x := entryOf w e
  let rest := x.owned &&& ~~~ t
  let other := x.exec &&& ~~~ t
  let join := { x with state := .join, pc := refAt x.pc r, holds := [], left := 0 }
  match freeEntries w with
  | i :: j :: _ =>
    some (setEntry (setEntry (setEntry w e join) i (childLeaf t t tgt e r x.holds stamp)) j
      (childLeaf rest other x.pc e r x.holds stamp))
  | [i] =>
    some (setEntry (setEntry w e join) i { childLeaf t t tgt e r x.holds stamp with
      ser := 1, pend := rest, pendx := other, altOff := refOff x.pc })
  | [] =>
    if x.ser = 0#2 then
      some (setEntry w e { x with
        owned := t, exec := t, pc := tgt, ser := 2, srcv := r, pend := rest, pendx := other, altOff := refOff x.pc
        left := 0, readyAt := stamp })
    else none

/-! ### Readiness -/

/-- A warp that was asked to halt does so, and its lease ends (R151, R196). -/
def haltWarp (w : Warp) : Warp := { w with status := .halted, lease := none }

/-- Operations that still hold the next clause of an entry (R39). -/
def holdsOpen (w : Warp) (x : Entry) : Bool := w.pend.any fun o => x.holds.contains o.id

/-- The warp may issue: it is running, or asked to halt (R151). -/
def mayRun (w : Warp) : Bool := w.status == .running || w.status == .halting

end Sys2Proof.Machine
end

