-- ==== Sys2Proof/Machine/Barrier.lean ====
section
/-! DEFINITION. Barriers of a block, a cluster and a grid (R153 to R155, R174, R175), and the checkpoint that a
block barrier takes (R322). Level 0 is the block, 1 the cluster, 2 the grid. -/

namespace Sys2Proof.Machine

/-- The key of a barrier's owner: the block; the cluster of a grid; the grid. -/
def clusterKey (g c : Nat) : Nat := g * 2 ^ 24 + c

def blockGrid (b : Block) : Nat := gridKey b.tenant b.task
def blockCluster (b : Block) : Nat := b.index / max 1 b.cmd.cluster

/-- The key of a barrier of level `lvl` for a warp of block `k`. -/
def barrierKey (s : State) (lvl k : Nat) : Nat :=
  let b := blockOf s k
  match lvl with
  | 0 => k
  | 1 => clusterKey (blockGrid b) (blockCluster b)
  | _ => blockGrid b

def barrierOf (s : State) (lvl key n : Nat) : Barrier :=
  match lvl with
  | 0 => Tbl.get Barrier.blank (blockOf s key).barriers n
  | 1 => Tbl.get Barrier.blank (gridOf s (key / 2 ^ 24)).cbars (8 * (key % 2 ^ 24) + n)
  | _ => Tbl.get Barrier.blank (gridOf s key).gbars n

def setBarrier (s : State) (lvl key n : Nat) (x : Barrier) : State :=
  match lvl with
  | 0 => let b := blockOf s key; setBlock s key { b with barriers := Tbl.set b.barriers n x }
  | 1 =>
    let g := gridOf s (key / 2 ^ 24)
    setGrid s (key / 2 ^ 24) { g with cbars := Tbl.set g.cbars (8 * (key % 2 ^ 24) + n) x }
  | _ => let g := gridOf s key; setGrid s key { g with gbars := Tbl.set g.gbars n x }

/-- The blocks whose warps share a barrier. -/
def barrierBlocks (s : State) (lvl key : Nat) : List Nat :=
  match lvl with
  | 0 => [key]
  | 1 => (s.blocks.filter fun e => blockGrid e.2 == key / 2 ^ 24 && blockCluster e.2 == key % 2 ^ 24 &&
      e.2.status != .absent).map Prod.fst
  | _ => (s.blocks.filter fun e => blockGrid e.2 == key && e.2.status != .absent).map Prod.fst

/-- How many blocks share a barrier when all are placed. -/
def barrierSize (s : State) (lvl key : Nat) : Nat :=
  match lvl with
  | 0 => 1
  | 1 => (gridOf s (key / 2 ^ 24)).cmd.cluster
  | _ => (gridOf s key).cmd.grid

/-- The warps of a block that have not exited, by index (R154). -/
def liveWarps (b : Block) : List Nat := (List.range b.cmd.warps).filter fun i => !b.gone.contains i

/-- The warp is a member of the block barriers (R153). -/
def blockMember (b : Block) (i : Nat) : Bool := b.cmd.bmemb == 0 || b.cmd.bmemb.getLsbD i

/-- A warp's arrival at a barrier. -/
def arrivalCode (lvl : Nat) (b : Block) (i : Nat) : Nat := if lvl = 0 then i else 64 * b.index + i

/-- Every remaining member of a barrier has arrived, and there is an arrival (R153, R154, R174). -/
def barrierFull (s : State) (lvl key n : Nat) : Bool :=
  let a := (barrierOf s lvl key n).arrived
  !a.isEmpty &&
    (match lvl with
      | 0 => let b := blockOf s key; ((liveWarps b).filter (blockMember b)).all fun i => a.contains i
      | _ =>
        let l := barrierBlocks s lvl key
        l.length == barrierSize s lvl key && l.all fun k =>
          let b := blockOf s k
          (liveWarps b).all fun i => a.contains (arrivalCode lvl b i))

/-! ### Release -/

/-- An entry whose wait at the barrier ends. -/
def wakeEntry (lvl n : Nat) (phase : Bool) (stamp : Nat) (x : Entry) : Entry :=
  match x.state, x.wait with
  | .parked, .barrier l m p =>
    if l = lvl ∧ m = n ∧ p ≠ phase then takesOver x stamp else x
  | _, _ => x

def wakeWarp (lvl n : Nat) (phase : Bool) (stamp : Nat) (w : Warp) : Warp :=
  { w with split := w.split.map fun e => (e.1, wakeEntry lvl n phase stamp e.2) }

/-- Waiting members of a block are released, saved ones too (R321). -/
def wakeBlock (s : State) (lvl n : Nat) (phase : Bool) (k : Nat) : State :=
  let s1 := (blockOf s k).warps.foldl (fun t w => setWarp t w (wakeWarp lvl n phase s.stamp (warpOf t w))) s
  let b := blockOf s1 k
  setBlock s1 k { b with saved := b.saved.map (wakeWarp lvl n phase s.stamp) }

/-- A warp waits at block barrier `n` by `BARB` or `WBARB`, and nowhere else. -/
def waitsAt (w : Warp) (n : Nat) : Bool :=
  fullReconv w && (usedEntries w).all fun i => match (entryOf w i).state, (entryOf w i).wait with
    | .parked, .barrier 0 m _ => m == n
    | _, _ => false

/-- Every counter is zero, every queue empty, no stream producing, no lease (R322). -/
def quietWarp (w : Warp) : Bool :=
  w.counters.all (fun e => e.2 == 0) && w.queues.all (fun e => e.2.isEmpty) && w.streams.all (fun e => !e.2.active) &&
    w.lease.isNone

/-- The control part of a warp (R306, R322). -/
def controlPart (w : Warp) : CkWarp :=
  ⟨w.index, w.scalars, w.masks, w.ctl, match usedEntries w with
    | i :: _ => entryOf w i
    | [] => Entry.blank⟩

/-- A checkpoint of block `k` as it stands, with an empty undo log (R322). -/
def takeCheckpoint (s : State) (k : Nat) : State :=
  let b := blockOf s k
  let live := b.warps.filter fun w => (warpOf s w).status != .exited
  let s1 := live.foldl (fun t w => setWarp t w { warpOf t w with vlog := [], llog := [] }) s
  setBlock s1 k { b with
    checkpoint := some ⟨live.map fun w => controlPart (warpOf s w), b.barriers⟩
    slog := [], rlog := [], eligible := true, overflow := false }

/-- The conditions of R322 at the release of block barrier `n`. -/
def checkpointDue (s : State) (k n : Nat) : Bool :=
  let b := blockOf s k
  (b.warps.filter fun w => (warpOf s w).status != .exited).all fun w =>
    waitsAt (warpOf s w) n && quietWarp (warpOf s w)

/-- A barrier releases when its members have arrived: the phase flips, the count returns to zero, and every
waiting member goes on (R153). -/
def barrierCheck (s : State) (lvl key n : Nat) : State :=
  if barrierFull s lvl key n = false then s
  else
    let ck := lvl == 0 && checkpointDue s key n
    let ph := !(barrierOf s lvl key n).phase
    let s1 := setBarrier s lvl key n ⟨[], ph⟩
    let s2 := (barrierBlocks s1 lvl key).foldl (fun t k => wakeBlock t lvl n ph k) s1
    if ck then takeCheckpoint s2 key else s2

/-- Every barrier of block `k`, its cluster and its grid is looked at again (R154). -/
def recheckBarriers (s : State) (k : Nat) : State :=
  let s1 := (List.range 16).foldl (fun t n => barrierCheck t 0 k n) s
  let s2 := (List.range 8).foldl (fun t n => barrierCheck t 1 (barrierKey s 1 k) n) s1
  (List.range 4).foldl (fun t n => barrierCheck t 2 (barrierKey s 2 k) n) s2

/-! ### Arrival and wait -/

/-- The interval of a block becomes ineligible (R323). -/
def ineligible (s : State) (k : Nat) : State :=
  if k = 0 then s else setBlock s k { blockOf s k with eligible := false }

/-- A barrier word raises *barrier fault* (R154, R175); `arrives` says whether it arrives. -/
def barrierFault (s : State) (lvl n : Nat) (arrives : Bool) : Bool :=
  let w := curWarp s
  let b := curBlock s
  isService s || (lvl == 0 && !blockMember b w.index) || (lvl == 2 && !b.cmd.flags.testBit 3) || !fullReconv w ||
    (arrives && (barrierOf s lvl (barrierKey s lvl w.blk) n).arrived.contains (arrivalCode lvl b w.index))

/-- The current warp arrives (R174); the release, if any, follows. -/
def recordArrival (s : State) (lvl n : Nat) : State :=
  let w := curWarp s
  let key := barrierKey s lvl w.blk
  let x := barrierOf s lvl key n
  let s1 := setBarrier s lvl key n { x with arrived := arrivalCode lvl (curBlock s) w.index :: x.arrived }
  if lvl = 0 then s1 else ineligible s1 w.blk

/-- The fragment parks until the phase differs from `phase` (R135, R173). -/
def parkAtBarrier (s : State) (lvl n : Nat) (phase : Bool) : State :=
  setFrag s { curEntry s with state := .parked, wait := .barrier lvl n phase, left := 0 }

/-- A barrier word on barrier `n` of a level: its fault, or its effect. A warp of a block that is being rolled back stops at
a block barrier word (R326). -/
def barrierWord (s : State) (lvl n : Nat) (arrives : Bool) (k : Nat → Barrier → State) : State :=
  if lvl = 0 ∧ (curBlock s).status = .rolling then
    setCur s { stopAt (curWarp s) s.frag (refAt (curEntry s).pc (curEntry s).here) with status := .stopped }
  else if lvl ≠ 0 ∧ (curBlock s).replay = true then abandonReplay s (curWarp s).blk
  else if barrierFault s lvl n arrives then takeTrap s 8 noLane (BitVec.ofNat 64 n) 0
  else
    let key := barrierKey s lvl (curWarp s).blk
    k key (barrierOf s lvl key n)

/-- Arrive, then wait for the phase to flip (R173). -/
def barArrive (s : State) (lvl n : Nat) : State :=
  barrierWord s lvl n true fun key x => barrierCheck (parkAtBarrier (recordArrival s lvl n) lvl n x.phase) lvl key n

/-- Arrive and write the phase bit as it stood (R173). -/
def barSignal (s : State) (lvl n d : Nat) : State :=
  barrierWord s lvl n true fun key x =>
    barrierCheck (opNow (writeS (recordArrival s lvl n) d (if x.phase then 1 else 0)) .a) lvl key n

/-- Wait until the phase bit differs from a bit (R173); it continues at once if it does. -/
def barWait (s : State) (lvl n : Nat) (bit : Bool) : State :=
  barrierWord s lvl n false fun _ x =>
    let s1 := if lvl = 0 then s else ineligible s (curWarp s).blk
    if x.phase ≠ bit then s1 else parkAtBarrier s1 lvl n bit

/-- The fragment parks at a `BARW`, or a serialised one first runs its pending path (R176), whose ALTOFF counts in the overlay of the
JOIN above (assumption 29). -/
def barwWord (s : State) : State :=
  let x := curEntry s
  let ref := refAt x.pc x.here
  if x.ser ≠ 0#2 ∧ x.altOff ≠ 0xFFFF then setFrag s { switchPath x (entryOf (curWarp s) x.parent.toNat).pc with side := some ref, readyAt := s.stamp }
  else barwCheck (setFrag s { x with state := .parked, wait := .barw ref, left := 0 }) s.cur

/-- The warp barrier (R176). -/
noncomputable def execBarw (s : State) : Result := word .barw s fun s => barwWord s
/-- Block barrier: arrive and wait (R173, R174). -/
noncomputable def execBarb (i : BitVec 4) (s : State) : Result := word (.barb i) s fun s => barArrive s 0 i.toNat
/-- Cluster barrier: arrive and wait (R173, R174). -/
noncomputable def execBarc (i : BitVec 3) (s : State) : Result := word (.barc i) s fun s => barArrive s 1 i.toNat
/-- Grid barrier: arrive and wait (R173, R174). -/
noncomputable def execBarg (i : BitVec 2) (s : State) : Result := word (.barg i) s fun s => barArrive s 2 i.toNat
/-- Block barrier: arrive (R173). -/
noncomputable def execArrb (d : BitVec 7) (i : BitVec 4) (s : State) : Result :=
  word (.arrb d i) s fun s => barSignal s 0 i.toNat d.toNat
/-- Cluster barrier: arrive (R173). -/
noncomputable def execArrc (d : BitVec 7) (i : BitVec 3) (s : State) : Result :=
  word (.arrc d i) s fun s => barSignal s 1 i.toNat d.toNat
/-- Grid barrier: arrive (R173). -/
noncomputable def execArrg (d : BitVec 7) (i : BitVec 2) (s : State) : Result :=
  word (.arrg d i) s fun s => barSignal s 2 i.toNat d.toNat
/-- Block barrier: wait (R173). -/
noncomputable def execWbarb (a : BitVec 7) (i : BitVec 4) (s : State) : Result :=
  word (.wbarb a i) s fun s => barWait s 0 i.toNat ((readS s a.toNat).getLsbD 0)
/-- Cluster barrier: wait (R173). -/
noncomputable def execWbarc (a : BitVec 7) (i : BitVec 3) (s : State) : Result :=
  word (.wbarc a i) s fun s => barWait s 1 i.toNat ((readS s a.toNat).getLsbD 0)
/-- Grid barrier: wait (R173). -/
noncomputable def execWbarg (a : BitVec 7) (i : BitVec 2) (s : State) : Result :=
  word (.wbarg a i) s fun s => barWait s 2 i.toNat ((readS s a.toNat).getLsbD 0)

/-! ### Time limits (R155) -/

/-- The entries of a warp that wait at a barrier; level 3 is the warp's own, `BARW` (R153). -/
def waitersOf (w : Warp) (lvl n : Nat) : List Nat :=
  (List.range 8).filter fun i => match (entryOf w i).state, (entryOf w i).wait with
    | .parked, .barrier l m _ => l == lvl && m == n
    | .parked, .barw _ => lvl == 3
    | _, _ => false

/-- The blocks and the warps whose fragments share a barrier; the key of a warp barrier is its warp. -/
def limitBlocks (s : State) (lvl key : Nat) : List Nat := if lvl = 3 then [(warpOf s key).blk] else barrierBlocks s lvl key
def limitWarps (s : State) (lvl key : Nat) : List Nat :=
  if lvl = 3 then [key] else (barrierBlocks s lvl key).flatMap fun k => (blockOf s k).warps

/-- No member of the barrier is halted, saved, being saved or TRAPPED (R155, R314). -/
def barrierRuns (s : State) (lvl key : Nat) : Bool :=
  ((limitBlocks s lvl key).all fun k =>
    let b := blockOf s k
    b.status == .running || b.status == .halting || b.status == .exited) &&
  (limitWarps s lvl key).all fun k =>
    (warpOf s k).status == .running || (warpOf s k).status == .halting || (warpOf s k).status == .exited

/-- The barrier word at which an entry waits: the last word of its clause. -/
def waitRef (x : Entry) : Dword :=
  match x.wait with
  | .barw r => r
  | _ => refAt x.pc (refOff x.pc - 1)

/-- A waiting member takes *barrier timeout* at its barrier word. -/
def timeoutWarp (lvl n : Nat) (s : State) (k : Nat) : State :=
  (waitersOf (warpOf s k) lvl n).foldl (fun t e =>
    let w := warpOf t k
    let x := entryOf w e
    raiseTrap (setWarp t k (setEntry w e { x with state := .leaf, wait := .none })) k
      ⟨9, e, noLane, BitVec.ofNat 64 n, 0, waitRef x⟩) s

/-- BARLIM passes at a barrier: every waiting member takes *barrier timeout* and the count returns to zero (R155). -/
def execBarrierTimeout (lvl key n : Nat) (s : State) : Result :=
  .next (
    let ks := limitWarps s lvl key
    if barrierRuns s lvl key && ks.any (fun k => !(waitersOf (warpOf s k) lvl n).isEmpty) then
      let s1 := if lvl = 3 then s else setBarrier s lvl key n { barrierOf s lvl key n with arrived := [] }
      ks.foldl (timeoutWarp lvl n) s1
    else s)

end Sys2Proof.Machine
end

