-- ==== Sys2Proof/Machine/Ends.lean ====
section
/-! DEFINITION. The end of a warp and of its block (R154, R171, R193, R248, R327, R342), and the completion of a
long-latency operation (R39, R204). -/

namespace Sys2Proof.Machine

/-! ### The end of a block -/

/-- Copies under way on a block's ring still run (R248). -/
def ringBusy (b : Block) : Bool := !b.ring.copies.isEmpty

/-- Every warp of the block has exited, and nothing of it is under way. -/
def blockOver (s : State) (k : Nat) : Bool :=
  let b := blockOf s k
  (b.status == .running || b.status == .halting || b.status == .forced || b.status == .killing) &&
    (liveWarps b).isEmpty && !ringBusy b

/-- The replay of an audit has ended (R327). -/
def endReplay (s : State) (b : Block) : State :=
  match auditOf s b with
  | some (d, i) => setDie s d { dieOf s d with audits := (dieOf s d).audits.modify i fun u =>
      if u.verdict = .running then { u with verdict := .ended } else u }
  | none => s

/-- The block ends: dirty stash lines are written back, its cores are freed, and a DONE event is held for
Tidemark (R193, R342). -/
def blockEnd (s : State) (k : Nat) : State :=
  if blockOver s k = false then s
  else
    let b := blockOf s k
    let s1 := dropLines s k (fun _ => true) true
    let s2 := { s1 with warps := b.warps.foldl (fun t w => Tbl.del t w) s1.warps }
    let s3 := setBlock s2 k { blockOf s2 k with
      status := .exited, warps := [], regions := [], lines := [], ctx := none, checkpoint := none, slog := [], rlog := [] }
    if b.replay then endReplay s3 b
    else
    let gk := blockGrid b
    let g := gridOf s3 gk
    let s4 := setGrid s3 gk { g with exited := g.exited + 1, queue := g.queue + 1 }
    let d := b.core / 40
    setDie s4 d { dieOf s4 d with dones := (dieOf s4 d).dones ++ [(gk, 1)] }

/-! ### The end of a warp -/

/-- The last entry is FREE, every operation has completed, and every counter is zero (R171, R248). -/
def warpOver (w : Warp) : Bool :=
  (usedEntries w).isEmpty && w.pend.isEmpty && w.counters.all (fun e => e.2 == 0) && w.status != .exited &&
    w.status != .absent

/-- Warp `k` ends: streams stop, queues are discarded, its lease ends, and it leaves its barriers (R154, R196,
R248). A service core does not end; it stops. -/
def warpEnd (s : State) (k : Nat) : State :=
  let w := warpOf s k
  if warpOver w = false then s
  else if k < 16 then setSvc (setWarp s k { w with status := .exited }) k { svcOf s k with running := false }
  else
    let s1 := setWarp s k { w with status := .exited, queues := [], streams := [], lease := none }
    let b := blockOf s1 w.blk
    let s2 := setBlock s1 w.blk { b with gone := w.index :: b.gone }
    blockEnd (recheckBarriers s2 w.blk) w.blk

/-- `EXIT` of the current fragment (R171): its lanes exit, and what that completes. -/
def exitFragment (s : State) : State :=
  let s1 := setCur s (endFragment (curWarp s) s.stamp s.frag)
  warpEnd (barwCheck s1 s.cur) s.cur

/-! ### Completion -/

/-- The state seen by another warp's fragment. -/
def asWarp (s : State) (w e : Nat) : State := { s with cur := w, frag := e }

/-- Operation `o` of warp `k` is complete: it leaves the list and its flag. -/
def retireOp (s : State) (k : Nat) (o : PendOp) : State := warpEnd (setWarp s k (dropOp (warpOf s k) o)) k

/-- The operation with a number, in a warp. -/
def withOp (s : State) (w op : Nat) (k : PendOp → State) : State :=
  match opOf (warpOf s w) op with
  | some o => k o
  | none => s

/-- An operation raises a trap at its own word and is dropped; no destination is written (R205). -/
def opTrap (s : State) (w : Nat) (o : PendOp) (cause lane : Nat) (v : Dword) : State :=
  retireOp (raiseTrap s w ⟨cause, o.frag, lane, v, 0, o.pc⟩) w o

end Sys2Proof.Machine
end

