-- ==== Sys2Proof/Machine/Flags.lean ====
section
/-! DEFINITION. The floating-point flags and the rounding mode of a word (R63 to R65), the flag of a shift or
of a saturation being none (R83, R84): only the words of R64 merge flags. -/

namespace Sys2Proof.Machine

/-- The word's flags merge into `WSTAT` bits 7:3 (R64, R65). -/
def mergeFlags (s : State) (f : Flags) : State :=
  let w := curWarp s
  setCur s { w with ctl := { w.ctl with wstat := w.ctl.wstat ||| (f.setWidth 32 <<< 3) } }

/-- The effective rounding mode of a word (R63). -/
def effMode (s : State) (p : Prefix) : Nat :=
  if p.rnd.toNat ≤ 4 then p.rnd.toNat else ((curWarp s).ctl.wstat.extractLsb' 0 3).toNat

/-- Flags over the active lanes (R64). -/
def laneFlags (act : Dword) (f : Nat → Flags) : List Nat → Flags
  | [] => 0
  | l :: ls => (if act.getLsbD l then f l else 0) ||| laneFlags act f ls

/-- Lanes without flags merge none. -/
@[simp] theorem laneFlags_zero (act : Dword) (ls : List Nat) : laneFlags act (fun _ => 0) ls = 0 := by
  induction ls with
  | nil => rfl
  | cons l ls ih => show (if act.getLsbD l then (0 : Flags) else 0) ||| laneFlags act (fun _ => 0) ls = 0; rw [ih]; split <;> rfl

end Sys2Proof.Machine
end

