-- ==== Sys2Proof/Machine/Operands.lean ====
section
/-! DEFINITION. The operand forms of the arithmetic words: vector sources with their queue operands, the fourth
operand, scalars, pairs, and the frames in which results are written (R32, R45 to R48, R63, R64, R80, R91). -/

namespace Sys2Proof.Machine

/-! ### Sources -/

/-- Vector source `a` at lane `l`. -/
def srcA (s : State) (p : Option Prefix) (a : BitVec 7) (l : Nat) : Word := srcLane s a (pfx p).ah (pfx p).aq l

/-- Vector source `b` at lane `l`. -/
def srcB (s : State) (p : Option Prefix) (b : BitVec 7) (l : Nat) : Word := srcLane s b (pfx p).bh (pfx p).bq l

/-- The addend (R48): prefix field `c` if a prefix is present, else the register of field `d`. -/
def srcC (s : State) (p : Option Prefix) (d : BitVec 7) (l : Nat) : Word :=
  match p with
  | none => readV s (physReg s d false) l
  | some q => srcLane s q.c q.ch q.cq l

/-- Scalar number of a field (R32). -/
def numD (p : Option Prefix) (d : BitVec 7) : Nat := fieldNumber d (pfx p).dh
def numA (p : Option Prefix) (a : BitVec 7) : Nat := fieldNumber a (pfx p).ah
def numB (p : Option Prefix) (b : BitVec 7) : Nat := fieldNumber b (pfx p).bh

/-- Scalars and pairs of fields `a` and `b`. -/
def scaA (s : State) (p : Option Prefix) (a : BitVec 7) : Word := readS s (numA p a)
def scaB (s : State) (p : Option Prefix) (b : BitVec 7) : Word := readS s (numB p b)
def pairA (s : State) (p : Option Prefix) (a : BitVec 7) : Dword := readP s (numA p a)
def pairB (s : State) (p : Option Prefix) (b : BitVec 7) : Dword := readP s (numB p b)

/-- Physical registers of fields `d`, `a`, `b`. -/
def regD (s : State) (p : Option Prefix) (d : BitVec 7) : Nat := physReg s d (pfx p).dh
def regA (s : State) (p : Option Prefix) (a : BitVec 7) : Nat := physReg s a (pfx p).ah
def regB (s : State) (p : Option Prefix) (b : BitVec 7) : Nat := physReg s b (pfx p).bh

/-! ### Words -/

/-- The queue entries that a word pops (R47). -/
def popOf (i : Instr) (s : State) : State :=
  popQueues s (match form i with
    | some f => queueOpds f
    | none => [])

/-- A word that reads vector sources: its effect, then its pops. -/
def vword (i : Instr) (s : State) (effect : State → State) : Result := word i s fun s => popOf i (effect s)

/-- A vector result without flags (R80). -/
def putVec (s : State) (p : Option Prefix) (d : BitVec 7) (f : Nat → Word) : State :=
  writeLanes s (regD s p d) (activeMask s (pfx p)) (zeroMask s (pfx p)) f

/-- A vector result with flags over the active lanes (R64, R80). -/
def putVecF (s : State) (p : Option Prefix) (d : BitVec 7) (f : Nat → Word × Flags) : State :=
  mergeFlags (putVec s p d fun l => (f l).1)
    (laneFlags (activeMask s (pfx p)) (fun l => (f l).2) (lanesOf (curWarp s)))

/-- One vector source, no flags. -/
def vec1 (s : State) (p : Option Prefix) (d a : BitVec 7) (g : Word → Word) : State :=
  putVec s p d fun l => g (srcA s p a l)

/-- Two vector sources, no flags. -/
def vec2 (s : State) (p : Option Prefix) (d a b : BitVec 7) (g : Word → Word → Word) : State :=
  putVec s p d fun l => g (srcA s p a l) (srcB s p b l)

/-- Two vector sources and the addend, no flags. -/
def vec3 (s : State) (p : Option Prefix) (d a b : BitVec 7) (g : Word → Word → Word → Word) : State :=
  putVec s p d fun l => g (srcA s p a l) (srcB s p b l) (srcC s p d l)

/-- One vector source, with flags. -/
def vecF1 (s : State) (p : Option Prefix) (d a : BitVec 7) (g : Word → Word × Flags) : State :=
  putVecF s p d fun l => g (srcA s p a l)

/-- Two vector sources, with flags. -/
def vecF2 (s : State) (p : Option Prefix) (d a b : BitVec 7) (g : Word → Word → Word × Flags) : State :=
  putVecF s p d fun l => g (srcA s p a l) (srcB s p b l)

/-- Two vector sources and the addend, with flags. -/
def vecF3 (s : State) (p : Option Prefix) (d a b : BitVec 7) (g : Word → Word → Word → Word × Flags) : State :=
  putVecF s p d fun l => g (srcA s p a l) (srcB s p b l) (srcC s p d l)

/-- A mask from a predicate on lanes. -/
def maskOf (w : Warp) (f : Nat → Bool) : Dword :=
  (lanesOf w).foldl (fun m l => if f l then m ||| BitVec.twoPow 64 l else m) 0

/-- A mask result on the lanes of `on`; the other lanes of the mask are unchanged. -/
def putMask (s : State) (d : Nat) (on v : Dword) : State := writeK s d ((v &&& on) ||| (readK s d &&& ~~~ on))

/-- The rounding mode of a word with prefix `p` (R63). -/
def modeOf (s : State) (p : Option Prefix) : Nat := effMode s (pfx p)

/-- A result of the exact arithmetic as a lane. -/
def w32 (r : Nat × Flags) : Word × Flags := (BitVec.ofNat 32 r.1, r.2)

end Sys2Proof.Machine
end

