-- ==== Sys2Proof/Machine/Control.lean ====
section
/-! DEFINITION. Control words (R164 to R172) and the events that wake a fragment. -/

namespace Sys2Proof.Machine

/-- Offset of a label from the word in execution (R31); negative ones lie outside every overlay. -/
def labelOff (s : State) (o : BitVec 21) : Nat :=
  (((curEntry s).here.toNat : Int) + o.toInt) % (2 ^ 32 : Nat) |>.toNat

/-- The current reference to the next clause (R167). -/
def linkRef (s : State) : Dword := refAt (curEntry s).pc ((curEntry s).here + 1)

/-- Lanes that take a branch (R164). -/
def takenLanes (s : State) (n : BitVec 1) (m : BitVec 3) : Dword :=
  execMask s &&& (if n = 1#1 then ~~~ (readK s m.toNat) else readK s m.toNat)

/-- The reconvergence offset of a branch (R133, R166). -/
def branchRcv (x : Entry) : BitVec 16 :=
  match x.rcv with
  | some r => r
  | none => if x.parent = 15#4 then 0xFFFF else x.rcvOff

/-- The branch goes to `off` with the taken lanes `t` of `EXEC`, some of which do not take it (R133). -/
def branchDiverges (s : State) (t : Dword) (off : Nat) : State :=
  if goodTarget (curSlot s) off = false then takeTrap s 5 noLane (refAt (curEntry s).pc (BitVec.ofNat 16 off)) 0
  else
    match diverge (curWarp s) s.stamp s.frag t (refAt (curEntry s).pc (BitVec.ofNat 16 off)) (branchRcv (curEntry s)) with
    | some w => setCur s w
    | none => takeTrap s 6 noLane 0 0

/-- `BR` (R164, R165). -/
def branchWord (s : State) (n : BitVec 1) (m : BitVec 3) (o : BitVec 21) : State :=
  let t := takenLanes s n m
  if execMask s = 0 then (if m = 0#3 ∧ n = 0#1 then transferOff s (labelOff s o) none else s)
  else if t = execMask s then transferOff s (labelOff s o) none
  else if t = 0 then s
  else branchDiverges s t (labelOff s o)

/-- A transfer to a word offset held in a scalar (R168). -/
def scalarTransfer (s : State) (v : Word) (link : Option Dword) : State :=
  if v.extractLsb' 16 16 ≠ 0#16 then takeTrap s 5 noLane (refAt (curEntry s).pc (v.setWidth 16)) 0
  else transferOff s v.toNat link

/-- `RET` (R168): through the link pair, within the current overlay. -/
def returnWord (s : State) : State :=
  let c := readP s 190
  if refId c ≠ refId (curEntry s).pc then takeTrap s 5 noLane c 0 else transferRef s c none

/-- A new window base (R169). -/
def setWindow (s : State) (x : Int) : State :=
  if x % 8 ≠ 0 ∨ x < 0 ∨ ((curWarp s).vregs : Int) ≤ x then takeTrap s 4 noLane (BitVec.ofInt 64 x) 0
  else setCur s { curWarp s with ctl := { (curWarp s).ctl with wb := BitVec.ofInt 10 x } }

/-- `SYSCALL` (R170): it parks its own fragment, its lease ends, and the interval becomes ineligible (R196, R323).
On a service core it is a trap (R318). -/
def syscallWord (s : State) (v : Word) : State :=
  if isService s then takeTrap s 19 noLane 0 v
  else
    let e := curEntry s
    let w := curWarp s
    let s1 := setCur s { w with lease := none }
    ineligible (setFrag s1 { e with state := .parked, wait := .syscall v (refAt e.pc e.here) w.nextOp false, left := 0 }) w.blk

/-- Moves, continues or splits the fragment (R164). -/
noncomputable def execBr (n : BitVec 1) (m : BitVec 3) (o : BitVec 21) (s : State) : Result :=
  word (.br n m o) s fun s => branchWord s n m o
/-- Moves the whole fragment and writes the link (R167). -/
noncomputable def execCall (o : BitVec 21) (s : State) : Result :=
  word (.call o) s fun s => transferOff s (labelOff s o) (some (linkRef s))
/-- Names the reconvergence offset of the branch that ends its clause (R166). -/
noncomputable def execRcv (o : BitVec 21) (s : State) : Result :=
  word (.rcv o) s fun s =>
    if goodTarget (curSlot s) (labelOff s o) then
      setFrag s { curEntry s with rcv := some (BitVec.ofNat 16 (labelOff s o)) }
    else takeTrap s 5 noLane (refAt (curEntry s).pc (BitVec.ofNat 16 (labelOff s o))) 0
/-- Moves the fragment to a word offset (R168). -/
noncomputable def execBrx (p : Option Prefix) (a : BitVec 7) (s : State) : Result :=
  word (.brx p a) s fun s => scalarTransfer s (scaA s p a) none
/-- Moves the fragment to a word offset and writes the link (R168). -/
noncomputable def execCallx (p : Option Prefix) (a : BitVec 7) (s : State) : Result :=
  word (.callx p a) s fun s =>
    scalarTransfer s (scaA s p a) (some (linkRef s))
/-- Returns through the link pair in the current overlay (R168). -/
noncomputable def execRet (p : Option Prefix) (s : State) : Result := word (.ret p) s fun s => returnWord s
/-- Ends the fragment (R171). -/
noncomputable def execExit (p : Option Prefix) (s : State) : Result := word (.exit p) s fun s => exitFragment s
/-- The fragment is not ready for 256 cycles (R172). -/
noncomputable def execYield (p : Option Prefix) (s : State) : Result :=
  word (.yield p) s fun s => setFrag s { curEntry s with notReady := true, left := 0 }
/-- No effect (R168). -/
noncomputable def execNop (p : Option Prefix) (s : State) : Result := word (.nop p) s fun s => s
/-- The window base from a scalar (R169). -/
noncomputable def execWinb (p : Option Prefix) (a : BitVec 7) (s : State) : Result :=
  word (.winb p a) s fun s => setWindow s (scaA s p a).toNat
/-- The window base moved by a signed scalar (R169). -/
noncomputable def execWina (p : Option Prefix) (a : BitVec 7) (s : State) : Result :=
  word (.wina p a) s fun s =>
    setWindow s ((curWarp s).ctl.wb.toNat + (scaA s p a).toInt)
/-- A service request (R170). -/
noncomputable def execSyscall (p : Option Prefix) (a : BitVec 7) (s : State) : Result :=
  word (.syscall p a) s fun s => unlessReplay s fun s => syscallWord s (scaA s p a)
/-- *Software trap* with a code (R168). -/
noncomputable def execTrap (p : Option Prefix) (a : BitVec 7) (s : State) : Result :=
  word (.trap p a) s fun s => takeTrap s 10 noLane 0 (scaA s p a)
/-- *Breakpoint* (R168). -/
noncomputable def execBkpt (p : Option Prefix) (s : State) : Result :=
  word (.bkpt p) s fun s => takeTrap s 11 noLane 0 0

/-! ### Trap records (R315) -/

/-- The trap record `r` is one of block `b`. -/
def recordOf (b : Block) (r : List Byte) : Bool :=
  (r.drop 4).take 1 == leBytes 1 b.tenant && (r.drop 12).take 8 == leBytes 4 b.task ++ leBytes 4 b.index

/-- It is one of the block's warp `index`. -/
def recordOfWarp (b : Block) (index : Nat) (r : List Byte) : Bool :=
  recordOf b r && leNat ((r.drop 8).take 1) % 32 == index

/-- It asks for a service, for fragment `e`. -/
def isRequest (e : Nat) (r : List Byte) : Bool := r.take 3 == [19, 0, BitVec.ofNat 8 e]

/-- Records leave the trap ring of a die: Headland has acted on them. -/
def takeRecord (s : State) (d : Nat) (p : List Byte → Bool) : State :=
  setDie s d { dieOf s d with traps := (dieOf s d).traps.filter fun r => !p r }

/-! ### Waking -/

/-- Entry `e` of warp `w` becomes a LEAF again, ready anew, and takes its PC over (R135, R137, R159). -/
def wakeFragment (s : State) (w e : Nat) : State :=
  let x := entryOf (warpOf s w) e
  setWarp s w (setEntry (warpOf s w) e (takesOver x s.stamp))

/-- After 256 cycles a yielded fragment becomes ready anew (R172). -/
def execYieldWake (w e : Nat) (s : State) : Result :=
  .next (
    let x := entryOf (warpOf s w) e
    if x.notReady then setWarp s w (setEntry (warpOf s w) e { x with notReady := false, readyAt := s.stamp }) else s)
/-- The results of a service: scalars by number, lanes of vector registers of the allocation (register `r`, lane `l` at
64 r + l), and masks `k1` to `k7` (R170). -/
def replyWarp (v : Warp) (x : ServiceResults) : Warp :=
  { v with
    scalars := (x.scalars.filter fun r => decide (r.1 < 192)).foldl (fun t r => Tbl.set t r.1 r.2) v.scalars
    vecs := (x.vectors.filter fun r => decide (r.1 / 64 < v.vregs ∧ r.1 % 64 < v.width)).foldl
      (fun t r => Tbl.set t r.1 r.2) v.vecs
    masks := (x.masks.filter fun r => decide (1 ≤ r.1 ∧ r.1 < 8)).foldl (fun t r => Tbl.set t r.1 (r.2 &&& widthMask v)) v.masks }

/-- Headland writes the results of a service into the registers that it defines, and resumes the fragment (R170; assumption 68). -/
def execSyscallReply (w e : Nat) (results : ServiceResults) (s : State) : Result :=
  .next (match (entryOf (warpOf s w) e).wait with
    | .syscall _ _ _ true =>
      let v := warpOf s w
      let b := blockOf s v.blk
      if (dieOf s (v.core / 40)).live = false then s
      else
      let s1 := takeRecord s (v.core / 40) fun r => recordOfWarp b v.index r && isRequest e r
      wakeFragment (setWarp s1 w (replyWarp v results)) w e
    | _ => s)

end Sys2Proof.Machine
end

