-- ==== Sys2Proof/Machine/Access.lean ====
section
/-! DEFINITION. Accesses of a warp to memory: their addresses and checks at issue (R201, R203, R235), what one
unit of an access waits for, and how it is performed (R205, R208, R209, R251 to R254, R259, R337). -/

namespace Sys2Proof.Machine

/-! ### Issue -/

/-- One lane's access: address, bytes, and the bytes to write (two operands for a compare and swap). -/
structure LaneAcc where
  lane : Nat
  va : Dword
  len : Nat
  data : List Byte
  data2 : List Byte
  deriving DecidableEq, Repr

/-- The effective address of a vector form (R201). -/
def laneVa (base : Dword) (off : Word) : Dword := base + off.signExtend 64

/-- The access touches a stash-resident line whose tag is nonzero and differs from `SEL` (R235). -/
def swizzleBad (s : State) (va : Dword) (n : Nat) : Bool :=
  (curBlock s).lines.any fun l => decide (l.va < va.toNat + n ∧ va.toNat < l.va + 128) && l.tag != 0 &&
    l.tag != (curWarp s).ctl.swzsel.toNat % 8

/-- The first failing check of one access (R203, R235). -/
def accCause (s : State) (a : Acc) (align swz : Bool) (x : LaneAcc) : Option Nat :=
  if align && decide (x.va.toNat % x.len ≠ 0) then some 14
  else
    match checkSpan s a x.va x.len with
    | some c => some c
    | none => if swz && swizzleBad s x.va x.len then some 17 else none

/-- The first failing access: its cause, lane and address. -/
def accFault (s : State) (a : Acc) (align swz : Bool) : List LaneAcc → Option (Nat × Nat × Dword)
  | [] => none
  | x :: xs =>
    match accCause s a align swz x with
    | some c => some (c, x.lane, x.va)
    | none => accFault s a align swz xs

/-- The units of all accesses. -/
def unitsFor (s : State) (a : Acc) (l : List LaneAcc) : List MUnit :=
  l.flatMap fun x => mkUnits s a x.lane x.va x.len x.data x.data2

/-- The accesses of the active lanes. -/
def lanesAcc (s : State) (act : Dword) (ea : Nat → Dword) (n : Nat) (data data2 : Nat → List Byte) : List LaneAcc :=
  ((lanesOf (curWarp s)).filter fun l => act.getLsbD l).map fun l => ⟨l, ea l, n, data l, data2 l⟩

/-- An atomic or a reduction. -/
def isRmw (k : PKind) : Bool :=
  match k with
  | .atomic .. => true
  | .red _ => true
  | _ => false

/-- A memory word whose operand checks are done: the fault of its first failing access, or the operation enters the
list and its queue operands are popped (R203, R204). -/
def issueAccess (i : Instr) (s : State) (c : Cls) (early : Bool) (a : Acc) (align swz : Bool) (l : List LaneAcc)
    (o : PendOp) : State :=
  match accFault s a align swz l with
  | some (cause, lane, va) => takeTrap s cause lane va 0
  | none =>
    let us := unitsFor s a l
    if (curBlock s).replay && us.any (spoilsReplay (isRmw o.kind)) then abandonReplay s (curWarp s).blk
    else popOf i (pushOp s c early { o with units := us })

/-- `n` low bytes of the registers from `r` on, at lane `l`. -/
def regBytes (s : State) (r n l : Nat) : List Byte :=
  ((List.range ((n + 3) / 4)).flatMap fun i => leBytes 4 (readV s (r + i) l).toNat).take n

/-! ### What a unit waits for -/

/-- The release may be performed: what the warp issued before it is performed, or, at a scope below `.sys` and with its line in
this package, only stores before it are not, and the agents within its scope will wait for them (R11, R209, R260;
assumption 66). -/
def releaseReady (s : State) (k : Nat) (o : PendOp) : Bool :=
  olderPerformed (warpOf s k) o.id ||
    (o.scope != 3#2 && olderReturned (warpOf s k) o.id && o.units.all fun u => !isPeer u.pa && !u.leafT)

def unitsMeet (x y : MUnit) : Bool := decide (x.pa < y.pa + y.len ∧ y.pa < x.pa + x.len)

/-- The operation changes memory. -/
def changesMemory (k : PKind) : Bool :=
  match k with
  | .store => true
  | .tstore => true
  | .atomic .. => true
  | .red _ => true
  | _ => false

/-- The write, from whichever fragment of the warp, follows an `MMA` whose exponents are still to be read (R115). -/
def exponentsHold (w : Warp) (o : PendOp) : Bool :=
  changesMemory o.kind && w.pend.any fun q => q.kind == .matrix && decide (q.id < o.id) &&
    q.units.any fun y => !y.done && o.units.any fun x => !x.done && unitsMeet x y

/-- The operation may perform accesses: no point stands before it, nor, for a release, anything that it waits for (R209, R253), and
no `MMA` is still to read the exponents that it writes (R115). -/
def mayPerform (s : State) (k : Nat) (o : PendOp) : Bool :=
  !pointBefore (warpOf s k) o.id && (!o.rel || releaseReady s k o) && !exponentsHold (warpOf s k) o

/-- Units of operations before `id` in program order that share a byte with `x` and are not performed (R250, R251): words of
fragments with no lane in common are siblings, and unordered. -/
def olderMeets (w : Warp) (id : Nat) (lanes : Dword) (x : MUnit) : List (PendOp × MUnit) :=
  w.pend.flatMap fun q =>
    if q.id < id ∧ isAccess q = true ∧ q.lanes &&& lanes ≠ 0 then
      (q.units.filter fun y => !y.done && unitsMeet x y).map fun y => (q, y)
    else []

/-- A load may return the value of the warp's own store before that is performed (R259): the youngest older access
to its bytes is one plain store that holds them all and that will be performed at its home. -/
def forwarded (s : State) (k world : Nat) (o : PendOp) (x : MUnit) (l : List (PendOp × MUnit)) : Option (List Byte) :=
  match l.getLast? with
  | none => none
  | some (q, y) =>
    if q.kind == .store && !o.acq && !y.leafT && !y.leafM && !y.stash && !x.leafM && !x.stash && !isPeer y.pa &&
        decide (y.pa ≤ x.pa ∧ x.pa + x.len ≤ y.pa + y.len) && storeFate s k world y == .perform &&
        (l.filter fun e => e.1.id == q.id).length == 1 then
      some ((y.data.drop (x.pa - y.pa)).take x.len)
    else none

/-! ### Units of an operation -/

def setUnit (o : PendOp) (u : Nat) (x : MUnit) : PendOp := { o with units := o.units.set u x }

/-- A load or an atomic has its data, a store is performed, refused or lost and acknowledged (R204). -/
def isComplete (o : PendOp) : Bool := o.units.all fun u => u.done && !u.sent

/-- The `n` bytes of lane `l`, put together from its units. -/
def laneBytes (o : PendOp) (l n : Nat) : List Byte :=
  (List.range n).map fun i =>
    match o.units.find? fun u => u.lane == l && decide (u.off ≤ i ∧ i < u.off + u.len) with
    | some u => u.data.getD (i - u.off) 0
    | none => 0

/-- Word `i` of a run of bytes. -/
def wordOf (b : List Byte) (i : Nat) : Word := BitVec.ofNat 32 (leNat ((b.drop (4 * i)).take 4))

/-- Registers `d` on take the words `f` gives, in the frame of the operation (R80, R207). -/
def writeRun (s : State) (o : PendOp) (d : Nat) (f : Nat → Nat → Word) : Nat → State
  | 0 => s
  | n + 1 => writeLanes (writeRun s o d f n) (d + n) o.active o.zeroed (f n)

/-! ### Packets to a peer (R337) -/

/-- The units that wait to travel: in a peer behind a link that works, not sent, not performed. -/
def peerUnits (s : State) (o : PendOp) : List (Nat × MUnit) :=
  (o.units.zipIdx.filter fun e => isPeer e.1.pa && linkAlive s e.1.pa && !e.1.done && !e.1.sent).map fun e => (e.2, e.1)

/-- A packet goes to the port of the link that serves an address. -/
def queuePacket (s : State) (pa : Nat) (p : Packet) : State :=
  match linkFor s pa with
  | none => s
  | some k => setLink s k { linkOf s k with out := { (linkOf s k).out with waiting := (linkOf s k).out.waiting ++ [p] } }

/-- A packet of operation `op` of warp `wk` that carries nothing yet. -/
def newPacket (s : State) (wk op : Nat) : Packet :=
  ⟨0, wk, op, [], [], none, false, (warpOf s wk).blk, (warpOf s wk).index, false⟩

/-- The code with which a lane's access is refused: that of its first unit still to be performed that is refused (R287). -/
def laneRefusal (s : State) (k : Nat) (o : PendOp) (lane : Nat) : Option Nat :=
  (o.units.filter fun y => y.lane == lane && !y.done && !y.sent).findSome? fun y =>
    worldRefusal s (blockDie s k y.up y.pa) (blockOf s k).world y

/-- The lanes of an operation that the port refuses put no bytes into its packets (R287, R337). -/
def portPasses (s : State) (wk : Nat) (o : PendOp) (u : MUnit) : Bool :=
  !changesMemory o.kind || (laneRefusal s (warpOf s wk).blk o u.lane).isNone

/-- The units of the lowest aligned 256-byte block among those that wait to travel. -/
def lowestBlock (l : List (Nat × MUnit)) : List (Nat × MUnit) :=
  match l with
  | [] => []
  | u :: us =>
    let blk := us.foldl (fun m e => min m (e.2.pa / 256)) (u.2.pa / 256)
    l.filter fun e => e.2.pa / 256 == blk

/-- Units of the lowest aligned 256-byte block form one packet, which goes to the link's port (R337). -/
def sendPacket (s : State) (wk : Nat) (o : PendOp) (isWrite : Bool) : State :=
  match lowestBlock ((peerUnits s o).filter fun e => portPasses s wk o e.2) with
  | [] => s
  | u :: us =>
    let l := u :: us
    let o' := { o with units := o.units.zipIdx.map fun e =>
      if (l.map Prod.fst).contains e.2 then { e.1 with sent := true } else e.1 }
    queuePacket (setWarp s wk (setOp (warpOf s wk) o')) u.2.pa { newPacket s wk o.id with
      units := l.map Prod.fst, writes := if isWrite then l.map fun e => (e.2.pa, e.2.data) else [] }

/-- A stash line that a unit touches is still to be filled from a peer, over its link (R193, R337). -/
def fillTravels (s : State) (k : Nat) (u : MUnit) : Bool :=
  isPeer u.pa && unitStash s k u && (lineOf (blockOf s k) u.up u.va.toNat).isNone && linkAlive s u.pa

/-- The request that fills the line of unit `u`, number `i` (R193, R337). -/
def sendFill (s : State) (wk : Nat) (o : PendOp) (i : Nat) (u : MUnit) : State :=
  queuePacket (setWarp s wk (setOp (warpOf s wk) { o with units := o.units.set i { u with sent := true } })) u.pa
    { newPacket s wk o.id with units := [i], fill := true }

/-! ### Poison -/

/-- The lane that reports poison: the lowest whose data is poisoned. -/
def poisonUnit (s : State) (k : Nat) (o : PendOp) (x : MUnit) : MUnit :=
  (o.units.find? fun u => !u.done && unitPoison s k u).getD x

/-- *Poison consumed* at the operation's word: no destination register is written (R205). -/
def consumePoison (s : State) (wk : Nat) (o : PendOp) (x : MUnit) : State :=
  let y := poisonUnit s (warpOf s wk).blk o x
  let lane := match o.kind with
    | .sload _ _ => noLane
    | _ => y.lane
  opTrap (asWarp s wk o.frag) wk o 18 lane (y.va - BitVec.ofNat 64 y.off)

end Sys2Proof.Machine
end

