-- ==== Sys2Proof/Machine/LoadStore.lean ====
section
/-! DEFINITION. Vector and scalar loads and stores, majors 0x20 to 0x22 (R201 to R210), and how their units are
performed (R204, R205, R208, R259). -/

namespace Sys2Proof.Machine

/-! ### Issue -/

/-- Effective address of lane `l` of a vector form. -/
def vecEa (s : State) (p : Option Prefix) (a b : BitVec 7) (l : Nat) : Dword := laneVa (pairA s p a) (srcB s p b l)

/-- A vector load of `n` bytes a lane into `regs` registers (R206, R207). -/
def loadWord (i : Instr) (s : State) (p : Option Prefix) (d a b : BitVec 7) (n regs : Nat) (signed acq : Bool) : State :=
  let act := activeMask s (pfx p)
  issueAccess i s .a false .load acq true (lanesAcc s act (vecEa s p a b) n (fun _ => []) fun _ => [])
    { newOp s (.load (regD s p d) regs n signed) with
      scope := (pfx p).scope, acq := acq, active := act, zeroed := zeroMask s (pfx p) }

/-- A vector store of `n` bytes a lane (R206, R207): it has read its registers when it issues (R204). -/
def storeWord (i : Instr) (s : State) (p : Option Prefix) (d a b : BitVec 7) (n : Nat) (rel : Bool) : State :=
  let act := activeMask s (pfx p)
  issueAccess i s .b true (.store n) rel false
    (lanesAcc s act (vecEa s p a b) n (regBytes s (regD s p d) n) fun _ => [])
    { newOp s .store with scope := (pfx p).scope, rel := rel, active := act }

/-- Effective address of a scalar form (R201). -/
def scalarEa (s : State) (p : Option Prefix) (a i : BitVec 7) : Dword := pairA s p a + (i.signExtend 64 <<< 2)

/-- A scalar load (R210). -/
def sloadWord (w : Instr) (s : State) (p : Option Prefix) (d a i : BitVec 7) (two acq : Bool) : State :=
  issueAccess w s .a false .load true false [⟨noLane, scalarEa s p a i, if two then 8 else 4, [], []⟩]
    { newOp s (.sload (numD p d) two) with scope := (pfx p).scope, acq := acq }

/-- A scalar store (R210). -/
def sstoreWord (w : Instr) (s : State) (p : Option Prefix) (d a i : BitVec 7) (two rel : Bool) : State :=
  let n := if two then 8 else 4
  issueAccess w s .b true (.store n) true false
    [⟨noLane, scalarEa s p a i, n, leBytes n (readP s (numD p d)).toNat, []⟩]
    { newOp s .store with scope := (pfx p).scope, rel := rel }

/-- Loads a byte a lane, sign-extended (R206). -/
def execLdb (p : Option Prefix) (d a b : BitVec 7) (s : State) : Result :=
  word (.ldb p d a b) s fun s => loadWord (.ldb p d a b) s p d a b 1 1 true false
/-- Loads a byte a lane (R206). -/
def execLdbu (p : Option Prefix) (d a b : BitVec 7) (s : State) : Result :=
  word (.ldbu p d a b) s fun s => loadWord (.ldbu p d a b) s p d a b 1 1 false false
/-- Loads 16 bits a lane, sign-extended (R206). -/
def execLdh (p : Option Prefix) (d a b : BitVec 7) (s : State) : Result :=
  word (.ldh p d a b) s fun s => loadWord (.ldh p d a b) s p d a b 2 1 true false
/-- Loads 16 bits a lane (R206). -/
def execLdhu (p : Option Prefix) (d a b : BitVec 7) (s : State) : Result :=
  word (.ldhu p d a b) s fun s => loadWord (.ldhu p d a b) s p d a b 2 1 false false
/-- Loads a word a lane (R206). -/
def execLdw (p : Option Prefix) (d a b : BitVec 7) (s : State) : Result :=
  word (.ldw p d a b) s fun s => loadWord (.ldw p d a b) s p d a b 4 1 false false
/-- Loads 8 bytes a lane into a pair (R206). -/
def execLdd (p : Option Prefix) (d a b : BitVec 7) (s : State) : Result :=
  word (.ldd p d a b) s fun s => loadWord (.ldd p d a b) s p d a b 8 2 false false
/-- Loads 16 bytes a lane into a quad (R206). -/
def execLdq (p : Option Prefix) (d a b : BitVec 7) (s : State) : Result :=
  word (.ldq p d a b) s fun s => loadWord (.ldq p d a b) s p d a b 16 4 false false
/-- Loads an aligned word a lane with acquire (R206, R209). -/
def execLdacq (p : Option Prefix) (d a b : BitVec 7) (s : State) : Result :=
  word (.ldacq p d a b) s fun s => loadWord (.ldacq p d a b) s p d a b 4 1 false true
/-- Stores a byte a lane (R206). -/
def execStb (p : Option Prefix) (d a b : BitVec 7) (s : State) : Result :=
  word (.stb p d a b) s fun s => storeWord (.stb p d a b) s p d a b 1 false
/-- Stores 16 bits a lane (R206). -/
def execSth (p : Option Prefix) (d a b : BitVec 7) (s : State) : Result :=
  word (.sth p d a b) s fun s => storeWord (.sth p d a b) s p d a b 2 false
/-- Stores a word a lane (R206). -/
def execStw (p : Option Prefix) (d a b : BitVec 7) (s : State) : Result :=
  word (.stw p d a b) s fun s => storeWord (.stw p d a b) s p d a b 4 false
/-- Stores a pair a lane (R206). -/
def execStd (p : Option Prefix) (d a b : BitVec 7) (s : State) : Result :=
  word (.std p d a b) s fun s => storeWord (.std p d a b) s p d a b 8 false
/-- Stores a quad a lane (R206). -/
def execStq (p : Option Prefix) (d a b : BitVec 7) (s : State) : Result :=
  word (.stq p d a b) s fun s => storeWord (.stq p d a b) s p d a b 16 false
/-- Stores an aligned word a lane with release (R206, R209). -/
def execStrel (p : Option Prefix) (d a b : BitVec 7) (s : State) : Result :=
  word (.strel p d a b) s fun s => storeWord (.strel p d a b) s p d a b 4 true
/-- Loads an aligned word into a scalar (R210). -/
def execSldw (p : Option Prefix) (d a i : BitVec 7) (s : State) : Result :=
  word (.sldw p d a i) s fun s => sloadWord (.sldw p d a i) s p d a i false false
/-- Loads an aligned double into a pair (R210). -/
def execSldd (p : Option Prefix) (d a i : BitVec 7) (s : State) : Result :=
  word (.sldd p d a i) s fun s => sloadWord (.sldd p d a i) s p d a i true false
/-- Stores a scalar at an aligned word (R210). -/
def execSstw (p : Option Prefix) (d a i : BitVec 7) (s : State) : Result :=
  word (.sstw p d a i) s fun s => sstoreWord (.sstw p d a i) s p d a i false false
/-- Stores a pair at an aligned double (R210). -/
def execSstd (p : Option Prefix) (d a i : BitVec 7) (s : State) : Result :=
  word (.sstd p d a i) s fun s => sstoreWord (.sstd p d a i) s p d a i true false
/-- Loads an aligned word with acquire (R209, R210). -/
def execSldacq (p : Option Prefix) (d a i : BitVec 7) (s : State) : Result :=
  word (.sldacq p d a i) s fun s => sloadWord (.sldacq p d a i) s p d a i false true
/-- Stores an aligned word with release (R209, R210). -/
def execSstrel (p : Option Prefix) (d a i : BitVec 7) (s : State) : Result :=
  word (.sstrel p d a i) s fun s => sstoreWord (.sstrel p d a i) s p d a i false true

/-! ### A load returns -/

/-- The lane value of a vector load in register `i` of its run (R206). -/
def laneValue (n : Nat) (signed : Bool) (b : List Byte) (i : Nat) : Word :=
  if signed then (if n = 1 then (BitVec.ofNat 8 (leNat b)).signExtend 32 else (BitVec.ofNat 16 (leNat b)).signExtend 32)
  else wordOf b i

/-- A load whose data is all there writes its registers, and its flag loses it (R204, R207). -/
def finishLoad (s : State) (wk : Nat) (o : PendOp) : State :=
  let t := asWarp s wk o.frag
  match o.kind with
  | .load d regs n signed => retireOp (writeRun t o d (fun i l => laneValue n signed (laneBytes o l n) i) regs) wk o
  | .sload d two =>
    let b := laneBytes o noLane 8
    retireOp (if two then writeP t d (wordOf b 1 ++ wordOf b 0) else writeS t d (wordOf b 0)) wk o
  | _ => s

/-- The operation with one more unit done; a load with all its data returns. -/
def loadDone (s : State) (wk : Nat) (o : PendOp) : State :=
  let s' := setWarp s wk (setOp (warpOf s wk) o)
  if isComplete o then finishLoad s' wk o else s'

/-- A unit of a load is performed, with the last of its lane's the lane. -/
def loadLane (s : State) (wk : Nat) (o : PendOp) (u : Nat) (x : MUnit) (d : List Byte) : State :=
  let o' := setUnit o u { x with data := d, done := true }
  loadDone (laneCount s wk o' x.lane 3) wk o'

def isLoad (k : PKind) : Bool :=
  match k with
  | .load .. => true
  | .sload .. => true
  | _ => false

/-- Unit `x`, number `u`, of load `o` of warp `wk` reads its bytes, if nothing holds it (R196, R199, R251, R253). -/
def readUnit (s : State) (wk : Nat) (o : PendOp) (u : Nat) (x : MUnit) : State :=
  let w := warpOf s wk
  if x.done || !mayPerform s wk o then s
  else
    let l := olderMeets w o.id o.lanes x
    match l with
    | [] =>
      if unitPoison s w.blk x then consumePoison s wk o x
      else if x.sent then s
      else if isPeer x.pa && !unitStash s w.blk x then sendPacket s wk o false
      else if fillTravels s w.blk x then sendFill s wk o u x
      else if unitFree s wk o x = false then s
      else
        let r := loadRead s w.blk x
        loadLane r.1 wk o u x r.2
    | _ =>
      match forwarded s w.blk (blockOf s w.blk).world o x l with
      | some d => loadLane s wk o u x d
      | none => s

/-- Unit `u` of a load returns; with the last of its data the registers are written (R204, R207, R210). -/
def execLoadReturn (w op u : Nat) (s : State) : Result :=
  .next <|
    withOp s w op fun o =>
      if isLoad o.kind = false then s
      else if isComplete o then finishLoad s w o
      else
        match o.units[u]? with
        | some x => readUnit s w o u x
        | none => s

/-! ### A store is performed -/

/-- The operation after its unit has been dealt with; a store with nothing left is complete. -/
def storeDone (s : State) (wk : Nat) (o : PendOp) : State :=
  let s' := setWarp s wk (setOp (warpOf s wk) o)
  if isComplete o then retireOp s' wk o else s'

/-- A page-table store reaches the admission checker of its table frame (R277, R279). -/
def startAdmission (s : State) (wk : Nat) (o : PendOp) (u : Nat) (x : MUnit) : State :=
  let a : Admission := ⟨s.nextAdm, x.pa, BitVec.ofNat 64 (leNat x.data), 0, (blockOf s (warpOf s wk).blk).tenant, wk, o.id, u,
    x.va, false, [], none⟩
  setWarp { s with admissions := s.admissions ++ [a], nextAdm := s.nextAdm + 1 } wk
    (setOp (warpOf s wk) (setUnit o u { x with sent := true }))

/-- The refusal of a lane's store, with its effective address (R281). -/
def refuseLane (s : State) (wk c : Nat) (x : MUnit) : State :=
  refuseStore s wk (blockOf s (warpOf s wk).blk).tenant c (x.va - BitVec.ofNat 64 x.off)

/-- What is left of the lane's access is dealt with: a refused lane makes one refusal (R281). -/
def refusedUnits (o : PendOp) (lane : Nat) : PendOp :=
  { o with units := o.units.map fun y => if y.lane == lane && !y.sent then { y with done := true } else y }

/-! ### The Tidemark takeover store (R344) -/

/-- A service core is stopped: it finishes the clause that it dispatches and begins no other (R343, R344). -/
def stopCore (s : State) (k : Nat) : State :=
  if (warpOf s k).status = .running then setWarp s k { warpOf s k with status := .stopped } else s

/-- A stopped core dispatches nothing, and what it issued is complete. -/
def coreStill (w : Warp) : Bool :=
  w.status != .running && w.pend.isEmpty && (usedEntries w).all fun i => (entryOf w i).left == 0 || (entryOf w i).state == .parked

/-- The other Tidemark core of the die, if a store of core `k` is one of the standby core to HEARTBEAT. -/
def takeoverFrom (s : State) (k : Nat) (x : MUnit) : Option Nat :=
  let d := dieOf s (k / 4)
  if k < 16 ∧ 2 ≤ k % 4 ∧ k % 4 ≠ d.active ∧ d.tcb ≠ 0 ∧ d.tcb < x.pa + x.len ∧ x.pa < d.tcb + 8 then
    some (k / 4 * 4 + d.active)
  else none

/-- Core `k` becomes the active one of its die, and core `j` issues no more. -/
def makeActive (s : State) (k j : Nat) : State :=
  let t := setSvc s j { svcOf s j with running := false }
  setDie t (k / 4) { dieOf t (k / 4) with active := k % 4 }

/-- What becomes of unit `x`, number `u`, of store `o` when its turn comes (R205, R259, R277, R287, R337). -/
def placeUnit (s : State) (wk : Nat) (o : PendOp) (u : Nat) (x : MUnit) : State :=
  let b := (warpOf s wk).blk
  let o' := setUnit o u { x with done := true }
  let fin (t : State) : State := storeDone t wk o'
  let refuse (c : Nat) : State := storeDone (refuseLane s wk c x) wk (refusedUnits o x.lane)
  match (if x.leafT then none else laneRefusal s b o x.lane) with
  | some c => refuse c
  | none =>
  match storeFate s b (blockOf s b).world x with
  | .admission => startAdmission s wk o u x
  | .refuse c => refuse c
  | .packet => sendPacket s wk o true
  | .lose => fin (noteEvent s wk .lost)
  | .poison => fin (noteEvent s wk .poison)
  | .perform =>
    if fillTravels s b x then sendFill s wk o u x
    else if unitFree s wk o x = false then s
    else
      match takeoverFrom s wk x with
      | none => fin (laneCount (noteEarly (unitWrite s b x x.data) wk o x.pa) wk o' x.lane 4)
      | some j => if coreStill (warpOf s j) then fin (makeActive (unitWrite s b x x.data) wk j) else stopCore s j

/-- A unit of a store is performed at its home, refused, lost or poisoned (R205, R259). -/
def execStorePerform (w op u : Nat) (s : State) : Result :=
  .next <|
    withOp s w op fun o =>
      if o.kind ≠ .store then s
      else if isComplete o then retireOp s w o
      else
        match o.units[u]? with
        | some x =>
          if x.done || x.sent || !mayPerform s w o || !(olderMeets (warpOf s w) o.id o.lanes x).isEmpty then s
          else placeUnit s w o u x
        | none => s

end Sys2Proof.Machine
end

