-- ==== Sys2Proof/Machine/Sync.lean ====
section
/-! DEFINITION. Fences, monitors, leases and stash control, major 0x26 (R196, R216 to R223). -/

namespace Sys2Proof.Machine

/-! ### FENCE (R216, R217) -/

/-- The status word of a fence record. -/
def fenceStatus (r : FenceRec) : Word :=
  BitVec.ofNat 32 (256 * r.count + (if r.poison then 8 else 0) + (if r.replay then 4 else 0) +
    (if r.lost then 2 else 0) + (if r.refused then 1 else 0))

/-- The record of a scope. -/
def fenceRec (c : Ctl) (scope : BitVec 2) : FenceRec :=
  if scope = 0#2 then c.fBlk else if scope = 1#2 then c.fClu else if scope = 2#2 then c.fDev else c.fSys

/-- The records of the scope and of every narrower scope are cleared. -/
def clearRecs (c : Ctl) (scope : BitVec 2) : Ctl :=
  { c with
    fBlk := FenceRec.blank
    fClu := if 1 ≤ scope.toNat then FenceRec.blank else c.fClu
    fDev := if 2 ≤ scope.toNat then FenceRec.blank else c.fDev
    fSys := if 3 ≤ scope.toNat then FenceRec.blank else c.fSys }

/-- A completed `FENCE` at a scope: it clears the records, and at `.dev` or wider the refusals of R315. -/
def fenceClears (w : Warp) (scope : BitVec 2) : Warp :=
  { w with
    ctl := clearRecs w.ctl scope
    refN := if 2 ≤ scope.toNat then 0 else w.refN
    refVA := if 2 ≤ scope.toNat then [] else w.refVA }

/-- Waits for the warp's earlier accesses to complete, at its scope (R216). -/
def execFence (p : Option Prefix) (d : BitVec 7) (s : State) : Result :=
  word (.fence p d) s fun s =>
    pushOp s .a false { newOp s (.fence (numD p d)) with scope := (pfx p).scope }

/-- Every earlier access is complete: the status word is written (R216, R217). -/
def execFenceComplete (w op : Nat) (s : State) : Result :=
  .next <|
    withOp s w op fun o =>
      match o.kind with
      | .fence d =>
        if olderComplete (warpOf s w) op then
          let v := warpOf s w
          let st := fenceStatus (fenceRec v.ctl o.scope)
          let s1 := asWarp (setWarp s w (fenceClears v o.scope)) w o.frag
          retireOp (writeS s1 d st) w o
        else s
      | _ => s

/-! ### MON and MWAIT (R218, R219) -/

/-- Arms the warp's monitor on an 8-byte location (R218). -/
def execMon (p : Option Prefix) (a : BitVec 7) (s : State) : Result :=
  word (.mon p a) s fun s =>
    let va := pairA s p a
    if va.toNat % 8 ≠ 0 then takeTrap s 14 noLane va 0
    else
      match checkAddr s .mon va with
      | .bad c => takeTrap s c noLane va 0
      | .ok _ _ => setCur s { curWarp s with ctl := { (curWarp s).ctl with mon := some va } }
/-- Parks its fragment until the monitored location is at least `P(a)`, or for `S[b]` cycles (R219). It reads memory, so that its
address is translated when it issues (R203, R371). -/
def execMwait (p : Option Prefix) (d a b : BitVec 7) (s : State) : Result :=
  word (.mwait p d a b) s fun s =>
    match (curWarp s).ctl.mon with
    | none => takeTrap s 15 noLane (pairA s p a) 0
    | some va =>
      match checkAddr s .mon va with
      | .bad c => takeTrap s c noLane va 0
      | .ok l st =>
        setFrag s { remIssued (curEntry s) .a with
          state := .parked
          wait := .mwait (numD p d) (pairA s p a) none (scaB s p b == 0) (pfx p).scope
          readyAt := s.stamp
          spot := some (leafUnit noLane 0 8 va l st (curWarp s).upper [] []) }

/-- Where an `MWAIT` reads: with the translation of its issue, or, once an entry behind that has been replaced, through the entries
that stand now (R371; assumption 25). -/
inductive MonSpot where
  | none
  | bad (cause : Nat) (va : Dword)
  | at_ (x : MUnit)

def monSpot (s : State) (w e : Nat) : MonSpot :=
  match (entryOf (warpOf s w) e).spot with
  | Option.none => .none
  | some x =>
    if x.done = false then .at_ x
    else match checkAddr (asWarp s w e) .mon x.va with
      | .bad c => .bad c x.va
      | .ok l st => .at_ (leafUnit noLane 0 8 x.va l st (warpOf s w).upper [] [])

/-- What a read of the monitored location gives: nothing yet, with what it has sent, a value, or the cause of a trap. -/
inductive MonRead where
  | wait (s : State)
  | bad (cause : Nat) (va : Dword)
  | value (s : State) (v : Dword)

/-- A read of an `MWAIT` that is under way to a peer. -/
def isMonRead (e : Nat) (o : PendOp) : Bool :=
  match o.kind with
  | .monRead f => f == e
  | _ => false

/-- The read of a location in a peer travels as a request, or as one that fills the block's stash line (R193, R337). -/
def monSend (s : State) (w e : Nat) (x : MUnit) (fill : Bool) : State :=
  let v := warpOf s w
  if v.pend.any (isMonRead e) then s
  else
    let o := { newOp (asWarp s w e) (.monRead e) with flag := 15, counter := none, units := [{ x with sent := true }] }
    queuePacket (setWarp s w { v with pend := v.pend ++ [o], nextOp := v.nextOp + 1 }) x.pa
      { newPacket s w o.id with units := [0], fill := fill }

/-- The 8-byte acquire read of an `MWAIT`, after the warp's earlier accesses to the location (R219, R251, R371;
assumption 25). -/
def monRead (s : State) (w e : Nat) : MonRead :=
  let v := warpOf s w
  match monSpot s w e with
  | .none => .wait s
  | .bad c va => .bad c va
  | .at_ x =>
    if !(olderMeets v v.nextOp (lanesAll (entryOf v e)) x).isEmpty then .wait s
    else if unitPoison s v.blk x then .bad 18 x.va
    else if isPeer x.pa && !unitStash s v.blk x then .wait (monSend s w e x false)
    else if fillTravels s v.blk x then .wait (monSend s w e x true)
    else if homeFree s w v.nextOp x.pa = false then .wait s
    else
      let r := unitRead s v.blk x
      .value r.1 (BitVec.ofNat 64 (leNat r.2))

/-- A class A word that parked its fragment ends: its flag loses it and the fragment goes on. -/
def endParked (s : State) (w e : Nat) : State :=
  let x := entryOf (warpOf s w) e
  wakeFragment (setWarp s w (flagDone (warpOf s w) x.flagA 1)) w e

/-- An `MWAIT` has ended: it reads no more. -/
def dropReads (s : State) (w e : Nat) : State :=
  let v := warpOf s w
  setWarp s w { v with pend := v.pend.filter fun o => !isMonRead e o }

/-- `MWAIT` ends with a value. -/
def endMwait (s : State) (w e d : Nat) (v : Dword) : State := endParked (writeP (asWarp (dropReads s w e) w e) d v) w e

/-- A read of the `MWAIT` cannot be done: *poison consumed*, or the cause of its translation. -/
def mwaitBad (s : State) (w e cause : Nat) (va : Dword) : State :=
  let x := entryOf (warpOf s w) e
  raiseTrap (endParked (dropReads s w e) w e) w ⟨cause, e, noLane, va, 0, refAt x.pc x.here⟩

/-- A read of a waiting `MWAIT` has given a value: it ends if the value satisfies it, or if it reads only once (R219). -/
def monGot (s : State) (w e : Nat) (v : Dword) : State :=
  match (entryOf (warpOf s w) e).wait with
  | .mwait d t _ once scope =>
    if t.toNat ≤ v.toNat ∨ once then endMwait s w e d v
    else setWarp s w (setEntry (warpOf s w) e { entryOf (warpOf s w) e with wait := .mwait d t (some v) once scope })
  | _ => s

/-- A waiting `MWAIT` reads its location and ends if the value satisfies it (R219). -/
def execMwaitReread (w e : Nat) (s : State) : Result :=
  .next <|
    match (entryOf (warpOf s w) e).wait with
    | .mwait .. =>
      (match monRead s w e with
        | .wait s' => s'
        | .bad c va => mwaitBad s w e c va
        | .value s' v => monGot s' w e v)
    | _ => s
/-- The end of an `MWAIT` by its timeout: the last value read, or that of a read now (R219). -/
def mwaitEnds (s : State) (w e : Nat) : State :=
  match (entryOf (warpOf s w) e).wait with
  | .mwait d _ (some v) _ _ => endMwait s w e d v
  | .mwait d _ none _ _ =>
    (match monRead s w e with
      | .wait s' => s'
      | .bad c va => mwaitBad s w e c va
      | .value s' v => endMwait s' w e d v)
  | _ => s

/-- The timeout of an `MWAIT` passes: it ends with the last value read (R219). -/
def execMwaitTimeout (w e : Nat) (s : State) : Result := .next <| mwaitEnds s w e

/-! ### LEASE and LREL (R196, R220) -/

/-- Longest lease of the current warp's tenant (R191). -/
def leaseLimit (s : State) : Nat :=
  let d := if isService s then s.cur / 4 else (curWarp s).core / 40
  (recAt s d (if isService s then svcTenant else curTenant s)).leaselim.toNat

/-- Asks for exclusive use of a line for a number of cycles (R220). -/
def execLease (p : Option Prefix) (d a b : BitVec 7) (s : State) : Result :=
  word (.lease p d a b) s fun s => unlessReplay s fun s =>
    let va := pairA s p a
    match checkAddr s .lease va with
    | .bad c => takeTrap s c noLane va 0
    | .ok l _ =>
      let lim := leaseLimit s
      if lim = 0 then writeS (opNow s .a) (numD p d) 1
      else if isPeer l.pa || isHost l.pa then writeS (opNow s .a) (numD p d) 2
      else
        let n := if scaB s p b = 0 then lim else min (scaB s p b).toNat lim
        let s1 := setCur s { curWarp s with lease := none }
        setFrag s1 { remIssued (curEntry s1) .a with
          state := .parked, wait := .lease (numD p d) va (l.pa / 128 * 128) n, readyAt := s.stamp }
/-- Ends the warp's lease (R220). -/
def execLrel (p : Option Prefix) (s : State) : Result :=
  word (.lrel p) s fun s => setCur s { curWarp s with lease := none }

/-- The stash of the block holds a leased line as its owner where a region maps it (R196). -/
def ownLine (s : State) (w e : Nat) (va : Dword) (line : Nat) : State :=
  let v := warpOf s w
  match checkAddr (asWarp s w e) .lease va with
  | .ok l true =>
    if l.pa / 128 * 128 = line ∧ isPoison s line = false then fillLine s v.blk (leafUnit noLane 0 1 va l true v.upper [] []) else s
  | _ => s

/-- The line is free of other leases and of tile locks: the lease is granted (R220). -/
def execLeaseGrant (w e : Nat) (s : State) : Result :=
  .next <|
    match (entryOf (warpOf s w) e).wait with
    | .lease d va line n =>
      if leasedByOther s w line || s.locks.any (fun l => l.1 == line) then s
      else
        let s1 := setWarp s w { warpOf s w with lease := some (line, n) }
        endParked (writeS (asWarp (ownLine s1 w e va line) w e) d (BitVec.ofNat 32 (65536 * n))) w e
    | _ => s
/-- A lease ends when its cycles have passed (R196). -/
def execLeaseExpiry (w : Nat) (s : State) : Result := .next <| setWarp s w { warpOf s w with lease := none }

/-! ### Stash control (R221 to R223) -/

/-- Stash lines of the block, in units of 128 bytes (R140, R192). -/
def stashUnits (b : Block) : Nat := b.cmd.stash * 8

/-- Two ranges share a unit. -/
def rangesMeet (a n b m : Nat) : Bool := decide (a < b + m ∧ b < a + n)

/-- The lines of a region. -/
def inRegion (r : Region) (l : SLine) : Bool := decide (r.base ≤ l.va ∧ l.va < r.base + 128 * r.len)

/-- A region of a block is unmapped: dirty lines are written back and every line is dropped (R221). -/
def unmapRegion (s : State) (k r : Nat) : State :=
  let x := Tbl.get ⟨0, 0, 0⟩ (blockOf s k).regions r
  let s' := dropLines s k (inRegion x) true
  let b := blockOf s' k
  setBlock s' k { b with
    regions := Tbl.del b.regions r
    ring := if r = 15 then { b.ring with notify := none, stored := false } else b.ring }

/-- The new region breaks a rule of R221 or R227. -/
def mapBad (b : Block) (r off len base : Nat) : Bool :=
  decide (base % 128 ≠ 0) || decide (stashUnits b < off + len) ||
    (b.regions.any fun e => e.1 != r && e.2.len != 0 &&
      (rangesMeet off len e.2.off e.2.len || rangesMeet base (128 * len) e.2.base (128 * e.2.len))) ||
    (b.cmd.ring != 0 && r == 15 && decide (128 * len < 32 * b.cmd.ring + 640))

/-- Maps or unmaps a region of the block's stash (R221, R227); a set reserved bit faults whether UNMAP is 1 or 0 (assumption 81). -/
def execStashmap (p : Option Prefix) (a b : BitVec 7) (s : State) : Result :=
  word (.stashmap p a b) s fun s =>
    let v := (scaB s p b).toNat
    let va := pairA s p a
    let k := (curWarp s).blk
    let r := v / 2 ^ 24 % 16
    let off := v / 2 ^ 12 % 2 ^ 12
    let len := v % 2 ^ 12 + 1
    if v / 2 ^ 28 % 8 ≠ 0 then takeTrap s 15 noLane va 0
    else if 2 ^ 31 ≤ v then (if isService s then opNow s .b else unmapRegion (opNow s .b) k r)
    else if mapBad (curBlock s) r off len va.toNat then takeTrap s 15 noLane va 0
    else if va.extractLsb' 55 9 ≠ 0#9 then takeTrap s 12 noLane va 0
    else
      let s1 := unmapRegion (opNow s .b) k r
      setBlock s1 k { blockOf s1 k with regions := Tbl.set (blockOf s1 k).regions r ⟨off, len, va.toNat⟩ }

/-- The lines of a range that lie in regions of the block. -/
def inRange (va n : Nat) (l : SLine) : Bool := decide (va ≤ l.va ∧ l.va < va + n)

/-- The stash lines of a range (R222); its address must be one that R201 admits, even with length 0 (assumption 82). -/
def stashRange (s : State) (p : Option Prefix) (a b : BitVec 7) (f : State → (SLine → Bool) → State) : State :=
  let va := pairA s p a
  let n := (scaB s p b).toNat
  if va.toNat % 128 ≠ 0 ∨ n % 128 ≠ 0 then takeTrap s 15 noLane va 0
  else if va.extractLsb' 55 9 ≠ 0#9 then takeTrap s 12 noLane va 0
  else if isService s then opNow s .b
  else f (opNow s .b) (inRange va.toNat n)

/-- Writes the dirty stash lines of a range back (R222). -/
def execStashwb (p : Option Prefix) (a b : BitVec 7) (s : State) : Result :=
  word (.stashwb p a b) s fun s =>
    stashRange s p a b fun t q => cleanLines t (curWarp t).blk q
/-- Drops the stash lines of a range without write-back (R222). -/
def execStashinv (p : Option Prefix) (a b : BitVec 7) (s : State) : Result :=
  word (.stashinv p a b) s fun s =>
    stashRange s p a b fun t q => dropLines t (curWarp t).blk q false

/-- A prefetched line enters the stash where a region maps it, else the L1, or, for `PREF 1`, the L2 of its home only (R223). -/
def prefetchLine (s : State) (home : Bool) (va : Dword) : State :=
  match checkAddr s .load va with
  | .ok l st =>
    let k := (curWarp s).blk
    let x := leafUnit noLane 0 1 va l st (curWarp s).upper [] []
    if l.m || !(isHbm s l.pa || isTier s l.pa) || unitPoison s k x then s
    else if home then homeUse s k x.up x.leafM x.pa
    else if st then fillLine s k x
    else (loadRead s k x).1
  | _ => s

/-- Fills lines ahead of their use; no later access observes a value of it (R223). -/
def execPref (p : Option Prefix) (d : BitVec 1) (a b : BitVec 7) (s : State) : Result :=
  word (.pref p d a b) s fun s =>
    let act := activeMask s (pfx p)
    popOf (.pref p d a b)
      (((lanesOf (curWarp s)).filter fun l => act.getLsbD l).foldl (fun t l => prefetchLine t (d == 1#1) (vecEa s p a b l)) s)

end Sys2Proof.Machine
end

