-- ==== Sys2Proof/Machine/Blocks.lean ====
section
/-! DEFINITION. Blocks on cores: where their warps stand, what room they take, block handles, and how a block halts
(R17, R20, R21, R125, R136, R151, R152, R192, R248, R306, R314). -/

namespace Sys2Proof.Machine

/-! ### Cores and groups (R17, R25) -/

/-- The cores of the part. -/
def coreCount (s : State) : Nat := 40 * diesOf s

/-- The package number of a core's cluster group. -/
def groupOfCore (c : Nat) : Nat := c / 8

/-- The cluster groups of the part. -/
def groupCount (s : State) : Nat := 5 * diesOf s

/-! ### Room -/

/-- The block holds warps on its core. -/
def isResident (b : Block) : Bool :=
  match b.status with
  | .running => true
  | .halting => true
  | .forced => true
  | .saving => true
  | .killing => true
  | .rolling => true
  | _ => false

/-- The block exists: it is resident or saved. -/
def isLive (b : Block) : Bool := isResident b || b.status == .saved

/-- The cores of a block: both of a gang. -/
def coresOf (b : Block) : List Nat := if b.gang then [b.core, b.core + 1] else [b.core]

/-- The command asks for a gang, a matrix context, or neither (R140). -/
def wantsGang (c : Command) : Bool := c.flags.testBit 1
def wantsCtx (c : Command) : Bool := c.flags.testBit 2

/-- Warps of a block on the lower core of a gang (R21). -/
def lowerWarps (c : Command) : Nat := if wantsGang c then (c.warps + 1) / 2 else c.warps

/-- The core of warp `i` of a block placed on `core` (R21). -/
def warpCore (c : Command) (core i : Nat) : Nat := if lowerWarps c ≤ i then core + 1 else core

/-- Warps that a command puts on a core of a placement on `core`. -/
def warpsOn (c : Command) (core x : Nat) : Nat := ((List.range c.warps).filter fun i => warpCore c core i == x).length

/-- The resident blocks on a core. -/
def residents (s : State) (x : Nat) : List Block :=
  (s.blocks.filter fun e => isResident e.2 && (coresOf e.2).contains x).map Prod.snd

/-- A core has room for the registers, warps and stash of a block (R21, R136, R192). -/
def coreRoom (s : State) (c : Command) (core x : Nat) : Bool :=
  let l := residents s x
  let one (b : Block) : Nat := warpsOn b.cmd b.core x
  decide ((l.map fun b => one b * b.cmd.width * b.cmd.vregs).sum + warpsOn c core x * c.width * c.vregs ≤ 262144) &&
    decide ((l.map one).sum + warpsOn c core x ≤ 64) && decide ((l.map fun b => b.cmd.stash).sum + c.stash ≤ 512)

/-- No resident block on a core is bound to a matrix context. -/
def ctxFree (s : State) (x ctx : Nat) : Bool := (residents s x).all fun b => b.ctx != some ctx

/-- The blocks of a command fit on an empty core or gang (R21, R141). -/
def fitsEmpty (c : Command) : Bool :=
  decide (lowerWarps c * c.width * c.vregs ≤ 262144) && decide (c.stash ≤ 512) &&
    decide (c.ring = 0 ∨ c.ring * 32 + 640 ≤ c.stash * 1024)

/-- The core may take blocks of a world (R286, R326). -/
def coreTakes (s : State) (x world : Nat) : Bool :=
  let c := coreOf s x
  decide (x < coreCount s) && c.latch == .latched && c.world == world && !c.failed && !c.quarantined

/-- A placement of a command on `core`, with a matrix context if it asks for one (R20, R21, R125, R286). -/
def placeRoom (s : State) (c : Command) (core ctx : Nat) : Bool :=
  let l := if wantsGang c then [core, core + 1] else [core]
  (!wantsGang c || core % 2 == 0) && l.all (fun x => coreRoom s c core x && (!wantsCtx c || (decide (ctx < 2) && ctxFree s x ctx)))

/-- The free warp slots of a core, lowest first (R136). -/
def freeWarpSlots (s : State) (x : Nat) : List Nat :=
  (List.range 64).filter fun i => (warpOf s (warpKey x i)).status == .absent

/-- Key of warp `i` of a block placed on `core`: each warp takes the lowest free slot of its core (R136). -/
def warpPlace (s : State) (c : Command) (core i : Nat) : Nat :=
  let x := warpCore c core i
  let n := ((List.range i).filter fun j => warpCore c core j == x).length
  warpKey x ((freeWarpSlots s x).getD n 0)

/-! ### Handles (R306) -/

/-- The block slots of a core that are in use. -/
def slotUsed (s : State) (core slot : Nat) : Bool :=
  s.blocks.any fun e => isLive e.2 && e.2.core == core && e.2.slot == slot

/-- The lowest free block slot of a core. -/
def freeSlot (s : State) (core : Nat) : Option Nat := (List.range 32).find? fun i => !slotUsed s core i

/-- Core and block slot that a handle names. -/
def handleCore (h : Word) : Nat := 40 * (h.toNat / 64 % 4) + h.toNat % 64
def handleSlot (h : Word) : Nat := h.toNat / 256 % 32

/-- The handle has the form of R306 and names a core of the part. -/
def handleGood (s : State) (h : Word) : Bool :=
  decide (h.toNat < 2 ^ 13 ∧ h.toNat % 64 < 40) && decide (handleCore h < coreCount s)

/-- The block that a handle names. -/
def handleBlock (s : State) (h : Word) : Option Nat :=
  if handleGood s h then
    (s.blocks.find? fun e => isLive e.2 && e.2.core == handleCore h && e.2.slot == handleSlot h).map Prod.fst
  else none

/-! ### Halting (R151, R152, R196, R248) -/

/-- The only entry of a warp at full reconvergence. -/
def onlyEntry (w : Warp) : Option Nat :=
  match usedEntries w with
  | [e] => some e
  | _ => none

/-- A halting warp that is PARKED at full reconvergence halts at once; a pending `MWAIT` ends first, and a clause that goes on
after it is finished before the warp halts (R151). -/
def haltParked (s : State) (k : Nat) : State :=
  let w := warpOf s k
  if w.status ≠ .halting then s
  else
    match onlyEntry w with
    | none => s
    | some e =>
      if (entryOf w e).state ≠ .parked then s
      else
        match (entryOf w e).wait with
        | .mwait .. =>
          let s1 := mwaitEnds s k e
          if (entryOf (warpOf s1 k) e).state = .parked ∨ (entryOf (warpOf s1 k) e).left ≠ 0 ∨ (warpOf s1 k).status ≠ .halting then s1
          else setWarp s1 k (haltWarp (warpOf s1 k))
        | _ => setWarp s k (haltWarp w)

/-- The warps of a block are asked to halt (R151). -/
def haltBlock (s : State) (k : Nat) : State :=
  let b := blockOf s k
  if b.status ≠ .running then s
  else
    let s1 := setBlock s k { b with status := .halting }
    let s2 := b.warps.foldl (fun t w =>
      if (warpOf t w).status = .running then setWarp t w { warpOf t w with status := .halting } else t) s1
    b.warps.foldl haltParked s2

/-- The blocks of a block's cluster, which are halted and saved whole (R152). -/
def clusterOf (s : State) (k : Nat) : List Nat :=
  let b := blockOf s k
  (s.blocks.filter fun e => isLive e.2 && blockGrid e.2 == blockGrid b && blockCluster e.2 == blockCluster b).map Prod.fst

/-- Blocks and the rest of their clusters are asked to halt. -/
def haltBlocks (s : State) (l : List Nat) : State :=
  l.foldl (fun t k => (clusterOf t k).foldl haltBlock t) s

/-- A warp issues nothing more: it has halted, stopped between clauses, or drains after a trap (R151, R152,
R314). -/
def warpStill (w : Warp) : Bool :=
  match w.status with
  | .halted => true
  | .trapped => true
  | .exited => true
  | .stopped => (usedEntries w).all fun i => (entryOf w i).left == 0 || (entryOf w i).state == .parked
  | .trapping => (usedEntries w).all fun i => (entryOf w i).left == 0 || (entryOf w i).state == .parked
  | _ => false

/-- What the warp has issued is complete (R248, R314 step 3). -/
def warpDrained (w : Warp) : Bool := w.pend.isEmpty && w.counters.all fun e => e.2 == 0

/-- Every warp of the block is still (R152). -/
def blockStill (s : State) (k : Nat) : Bool := (blockOf s k).warps.all fun w => warpStill (warpOf s w)

/-- Every warp of the block is still and drained, and its copies are complete (R248, R320). -/
def blockDrained (s : State) (k : Nat) : Bool :=
  blockStill s k && ((blockOf s k).warps.all fun w => warpDrained (warpOf s w)) && !ringBusy (blockOf s k)

end Sys2Proof.Machine
end

