-- ==== Sys2Proof/Machine/VecInt.lean ====
section
/-! DEFINITION. Vector integer words (R83, R87), immediates (R88) and shifts (R84). -/

namespace Sys2Proof.Machine

/-- Clamp to a signed word. -/
def sat32 (x : Int) : Word := BitVec.ofInt 32 (max (-2147483648) (min 2147483647 x))

/-- Clamp to an unsigned word. -/
def usat32 (x : Int) : Word := BitVec.ofInt 32 (max 0 (min 4294967295 x))

/-- Bits 63:32 of the signed product. -/
def mulHigh (x y : Word) : Word := BitVec.ofInt 32 (x.toInt * y.toInt / 4294967296)

/-- Bits 63:32 of the unsigned product. -/
def umulHigh (x y : Word) : Word := BitVec.ofNat 32 (x.toNat * y.toNat / 4294967296)

def smin32 (x y : Word) : Word := if x.slt y then x else y
def smax32 (x y : Word) : Word := if x.slt y then y else x
def umin32 (x y : Word) : Word := if x.ult y then x else y
def umax32 (x y : Word) : Word := if x.ult y then y else x

/-- The count of a shift: the low 8 bits, unsigned (R84). -/
def shiftCount (x : Word) : Nat := (x.extractLsb' 0 8).toNat

/-- Shifts of R84: 0, or copies of the sign bit, for counts of 32 or more. -/
def shl32 (x : Word) (n : Nat) : Word := x <<< n
def shr32 (x : Word) (n : Nat) : Word := x >>> n
def sra32 (x : Word) (n : Nat) : Word := x.sshiftRight n
def rol32 (x : Word) (n : Nat) : Word := x.rotateLeft (n % 32)

/-- An immediate of 7 bits, sign-extended (R30). -/
def sext7 (i : BitVec 7) : Word := i.signExtend 32

/-- An immediate of 14 bits, sign-extended (R88). -/
def sext14 (i : BitVec 14) : Word := i.signExtend 32

/-- A word shifted left by 14 with an unsigned immediate below (R88). -/
def hi14 (x : Word) (i : BitVec 14) : Word := (x <<< 14) ||| i.setWidth 32

/-- The lane sum modulo 2^32 (R83). -/
def execIadd (p : Option Prefix) (d a b : BitVec 7) (s : State) : Result :=
  vword (.iadd p d a b) s fun s => vec2 s p d a b fun x y => x + y
/-- The lane difference modulo 2^32 (R83). -/
def execIsub (p : Option Prefix) (d a b : BitVec 7) (s : State) : Result :=
  vword (.isub p d a b) s fun s => vec2 s p d a b fun x y => x - y
/-- The low word of the lane product (R83). -/
def execImul (p : Option Prefix) (d a b : BitVec 7) (s : State) : Result :=
  vword (.imul p d a b) s fun s => vec2 s p d a b fun x y => x * y
/-- The high word of the signed product (R83). -/
def execImulh (p : Option Prefix) (d a b : BitVec 7) (s : State) : Result :=
  vword (.imulh p d a b) s fun s => vec2 s p d a b mulHigh
/-- The high word of the unsigned product (R83). -/
def execUmulh (p : Option Prefix) (d a b : BitVec 7) (s : State) : Result :=
  vword (.umulh p d a b) s fun s => vec2 s p d a b umulHigh
/-- The signed minimum (R83). -/
def execImin (p : Option Prefix) (d a b : BitVec 7) (s : State) : Result :=
  vword (.imin p d a b) s fun s => vec2 s p d a b smin32
/-- The signed maximum (R83). -/
def execImax (p : Option Prefix) (d a b : BitVec 7) (s : State) : Result :=
  vword (.imax p d a b) s fun s => vec2 s p d a b smax32
/-- The unsigned minimum (R83). -/
def execUmin (p : Option Prefix) (d a b : BitVec 7) (s : State) : Result :=
  vword (.umin p d a b) s fun s => vec2 s p d a b umin32
/-- The unsigned maximum (R83). -/
def execUmax (p : Option Prefix) (d a b : BitVec 7) (s : State) : Result :=
  vword (.umax p d a b) s fun s => vec2 s p d a b umax32
/-- The absolute value; 0x80000000 gives itself (R83). -/
def execIabs (p : Option Prefix) (d a : BitVec 7) (s : State) : Result :=
  vword (.iabs p d a) s fun s => vec1 s p d a fun x => if x.msb then -x else x
/-- The negation (R83). -/
def execIneg (p : Option Prefix) (d a : BitVec 7) (s : State) : Result :=
  vword (.ineg p d a) s fun s => vec1 s p d a fun x => -x
/-- The sum, clamped to a signed word (R83). -/
def execIadds (p : Option Prefix) (d a b : BitVec 7) (s : State) : Result :=
  vword (.iadds p d a b) s fun s => vec2 s p d a b fun x y => sat32 (x.toInt + y.toInt)
/-- The difference, clamped to a signed word (R83). -/
def execIsubs (p : Option Prefix) (d a b : BitVec 7) (s : State) : Result :=
  vword (.isubs p d a b) s fun s => vec2 s p d a b fun x y => sat32 (x.toInt - y.toInt)
/-- The sum, clamped to an unsigned word (R83). -/
def execUadds (p : Option Prefix) (d a b : BitVec 7) (s : State) : Result :=
  vword (.uadds p d a b) s fun s => vec2 s p d a b fun x y => usat32 (x.toNat + y.toNat : Int)
/-- The difference, clamped to an unsigned word (R83). -/
def execUsubs (p : Option Prefix) (d a b : BitVec 7) (s : State) : Result :=
  vword (.usubs p d a b) s fun s => vec2 s p d a b fun x y => usat32 (x.toNat - y.toNat : Int)
/-- The low word of `a × b + c` (R78, R83). -/
def execImad (p : Option Prefix) (d a b : BitVec 7) (s : State) : Result :=
  vword (.imad p d a b) s fun s => vec3 s p d a b fun x y z => x * y + z

/-! ### Major 0x03 (R87) -/

/-- The sum with the signed immediate (R87). -/
def execIaddi (p : Option Prefix) (d a i : BitVec 7) (s : State) : Result :=
  vword (.iaddi p d a i) s fun s => vec1 s p d a fun x => x + sext7 i
/-- A left shift by the immediate (R84, R87). -/
def execShli (p : Option Prefix) (d a i : BitVec 7) (s : State) : Result :=
  vword (.shli p d a i) s fun s => vec1 s p d a fun x => shl32 x i.toNat
/-- A logical right shift by the immediate (R84, R87). -/
def execShri (p : Option Prefix) (d a i : BitVec 7) (s : State) : Result :=
  vword (.shri p d a i) s fun s => vec1 s p d a fun x => shr32 x i.toNat
/-- An arithmetic right shift by the immediate (R84, R87). -/
def execSrai (p : Option Prefix) (d a i : BitVec 7) (s : State) : Result :=
  vword (.srai p d a i) s fun s => vec1 s p d a fun x => sra32 x i.toNat
/-- AND with the signed immediate (R87). -/
def execAndi (p : Option Prefix) (d a i : BitVec 7) (s : State) : Result :=
  vword (.andi p d a i) s fun s => vec1 s p d a fun x => x &&& sext7 i
/-- OR with the signed immediate (R87). -/
def execOri (p : Option Prefix) (d a i : BitVec 7) (s : State) : Result :=
  vword (.ori p d a i) s fun s => vec1 s p d a fun x => x ||| sext7 i
/-- XOR with the signed immediate (R87). -/
def execXori (p : Option Prefix) (d a i : BitVec 7) (s : State) : Result :=
  vword (.xori p d a i) s fun s => vec1 s p d a fun x => x ^^^ sext7 i
/-- A left rotation by the immediate modulo 32 (R84, R87). -/
def execRoli (p : Option Prefix) (d a i : BitVec 7) (s : State) : Result :=
  vword (.roli p d a i) s fun s => vec1 s p d a fun x => rol32 x i.toNat
/-- The low word of the product with the signed immediate (R87). -/
def execImuli (p : Option Prefix) (d a i : BitVec 7) (s : State) : Result :=
  vword (.imuli p d a i) s fun s => vec1 s p d a fun x => x * sext7 i

/-! ### Major 0x04 (R88) -/

/-- The signed immediate in every lane (R88). -/
def execMovi (p : Option Prefix) (d : BitVec 7) (i : BitVec 14) (s : State) : Result :=
  word (.movi p d i) s fun s => putVec s p d fun _ => sext14 i
/-- Each lane shifted left by 14 with the immediate below (R88). -/
def execMovhi (p : Option Prefix) (d : BitVec 7) (i : BitVec 14) (s : State) : Result :=
  word (.movhi p d i) s fun s =>
    putVec s p d fun l => hi14 (readV s (regD s p d) l) i
/-- The signed immediate in a scalar (R88). -/
def execSmovi (p : Option Prefix) (d : BitVec 7) (i : BitVec 14) (s : State) : Result :=
  word (.smovi p d i) s fun s => writeS s (numD p d) (sext14 i)
/-- A scalar shifted left by 14 with the immediate below (R88). -/
def execSmovhi (p : Option Prefix) (d : BitVec 7) (i : BitVec 14) (s : State) : Result :=
  word (.smovhi p d i) s fun s =>
    writeS s (numD p d) (hi14 (readS s (numD p d)) i)
/-- The lane's number (R88). -/
def execLaneid (p : Option Prefix) (d : BitVec 7) (s : State) : Result :=
  word (.laneid p d) s fun s => putVec s p d fun l => BitVec.ofNat 32 l

end Sys2Proof.Machine
end

