-- ==== Sys2Proof/Machine/Fp32.lean ====
section
/-! DEFINITION. binary32 words, conversions and packed-half words (R94 to R96, R98, R103). -/

namespace Sys2Proof.Machine

/-- A binary operation of the exact arithmetic on two lanes. -/
def fop2 (g : Nat → Nat → Nat × Flags) (x y : Word) : Word × Flags := w32 (g x.toNat y.toNat)
def fop3 (g : Nat → Nat → Nat → Nat × Flags) (x y z : Word) : Word × Flags := w32 (g x.toNat y.toNat z.toNat)

/-- The rounded sum (R94). -/
def execFadd (p : Option Prefix) (d a b : BitVec 7) (s : State) : Result :=
  vword (.fadd p d a b) s fun s => vecF2 s p d a b (fop2 (fadd binary32 (modeOf s p)))
/-- The rounded difference (R94). -/
def execFsub (p : Option Prefix) (d a b : BitVec 7) (s : State) : Result :=
  vword (.fsub p d a b) s fun s => vecF2 s p d a b (fop2 (fsub binary32 (modeOf s p)))
/-- The rounded product (R94). -/
def execFmul (p : Option Prefix) (d a b : BitVec 7) (s : State) : Result :=
  vword (.fmul p d a b) s fun s => vecF2 s p d a b (fop2 (fmul binary32 (modeOf s p)))
/-- `a × b + c`, rounded once (R78, R94). -/
def execFfma (p : Option Prefix) (d a b : BitVec 7) (s : State) : Result :=
  vword (.ffma p d a b) s fun s => vecF3 s p d a b (fop3 (ffma binary32 (modeOf s p) false false))
/-- The smaller operand (R95). -/
def execFmin (p : Option Prefix) (d a b : BitVec 7) (s : State) : Result :=
  vword (.fmin p d a b) s fun s => vecF2 s p d a b (fop2 (fminmax binary32 false))
/-- The larger operand (R95). -/
def execFmax (p : Option Prefix) (d a b : BitVec 7) (s : State) : Result :=
  vword (.fmax p d a b) s fun s => vecF2 s p d a b (fop2 (fminmax binary32 true))
/-- The sign bit cleared; no flag (R94). -/
def execFabs (p : Option Prefix) (d a : BitVec 7) (s : State) : Result :=
  vword (.fabs p d a) s fun s => vec1 s p d a fun x => x &&& 0x7FFFFFFF
/-- The sign bit inverted; no flag (R94). -/
def execFneg (p : Option Prefix) (d a : BitVec 7) (s : State) : Result :=
  vword (.fneg p d a) s fun s => vec1 s p d a fun x => x ^^^ 0x80000000
/-- `a × b − c`, rounded once (R78, R94). -/
def execFfms (p : Option Prefix) (d a b : BitVec 7) (s : State) : Result :=
  vword (.ffms p d a b) s fun s => vecF3 s p d a b (fop3 (ffma binary32 (modeOf s p) false true))
/-- `−(a × b) + c`, rounded once (R78, R94). -/
def execFnfma (p : Option Prefix) (d a b : BitVec 7) (s : State) : Result :=
  vword (.fnfma p d a b) s fun s => vecF3 s p d a b (fop3 (ffma binary32 (modeOf s p) true false))
/-- The class word; no flag (R96). -/
def execFclass (p : Option Prefix) (d a : BitVec 7) (s : State) : Result :=
  vword (.fclass p d a) s fun s => vec1 s p d a fun x => BitVec.ofNat 32 (fclass binary32 x.toNat)
/-- Integral toward −∞; no NX (R94). -/
def execFfloor (p : Option Prefix) (d a : BitVec 7) (s : State) : Result :=
  vword (.ffloor p d a) s fun s => vecF1 s p d a fun x => w32 (fintegral binary32 2 false x.toNat)
/-- Integral toward +∞; no NX (R94). -/
def execFceil (p : Option Prefix) (d a : BitVec 7) (s : State) : Result :=
  vword (.fceil p d a) s fun s => vecF1 s p d a fun x => w32 (fintegral binary32 3 false x.toNat)
/-- Integral toward zero; no NX (R94). -/
def execFtrunc (p : Option Prefix) (d a : BitVec 7) (s : State) : Result :=
  vword (.ftrunc p d a) s fun s => vecF1 s p d a fun x => w32 (fintegral binary32 1 false x.toNat)
/-- Integral under the effective mode (R94). -/
def execFrint (p : Option Prefix) (d a : BitVec 7) (s : State) : Result :=
  vword (.frint p d a) s fun s => vecF1 s p d a fun x => w32 (fintegral binary32 (modeOf s p) true x.toNat)
/-- `a` times two to the signed `b`, rounded once (R94). -/
def execFscale (p : Option Prefix) (d a b : BitVec 7) (s : State) : Result :=
  vword (.fscale p d a b) s fun s =>
    vecF2 s p d a b fun x y => w32 (fscale binary32 (modeOf s p) x.toNat y.toInt)

/-! ### Conversions (R98) -/

/-- A conversion to an integer word (R72). -/
def toIntWord (mode : Nat) (lo hi : Int) (x : Word) : Word × Flags :=
  let r := ftoint mode lo hi (unpack binary32 x.toNat)
  (BitVec.ofInt 32 r.1, r.2)

/-- binary32 to int32 (R98). -/
def execCvtfi (p : Option Prefix) (d a : BitVec 7) (s : State) : Result :=
  vword (.cvtfi p d a) s fun s => vecF1 s p d a (toIntWord (modeOf s p) (-2147483648) 2147483647)
/-- binary32 to uint32 (R98). -/
def execCvtfu (p : Option Prefix) (d a : BitVec 7) (s : State) : Result :=
  vword (.cvtfu p d a) s fun s => vecF1 s p d a (toIntWord (modeOf s p) 0 4294967295)
/-- int32 to binary32 (R98). -/
def execCvtif (p : Option Prefix) (d a : BitVec 7) (s : State) : Result :=
  vword (.cvtif p d a) s fun s => vecF1 s p d a fun x => w32 (intToF binary32 (modeOf s p) x.toInt)
/-- uint32 to binary32 (R98). -/
def execCvtuf (p : Option Prefix) (d a : BitVec 7) (s : State) : Result :=
  vword (.cvtuf p d a) s fun s => vecF1 s p d a fun x => w32 (intToF binary32 (modeOf s p) x.toNat)
/-- binary32 to binary16 (R98). -/
def execCvtfh (p : Option Prefix) (d a : BitVec 7) (s : State) : Result :=
  vword (.cvtfh p d a) s fun s => vecF1 s p d a fun x => w32 (fconv binary32 binary16 (modeOf s p) x.toNat)
/-- binary16 to binary32, exact (R98). -/
def execCvthf (p : Option Prefix) (d a : BitVec 7) (s : State) : Result :=
  vword (.cvthf p d a) s fun s => vecF1 s p d a fun x => w32 (fconv binary16 binary32 0 (x.toNat % 65536))
/-- binary32 to bfloat16 (R98). -/
def execCvtfb (p : Option Prefix) (d a : BitVec 7) (s : State) : Result :=
  vword (.cvtfb p d a) s fun s => vecF1 s p d a fun x => w32 (fconv binary32 bfloat16 (modeOf s p) x.toNat)
/-- bfloat16 to binary32, exact (R98). -/
def execCvtbf (p : Option Prefix) (d a : BitVec 7) (s : State) : Result :=
  vword (.cvtbf p d a) s fun s => vecF1 s p d a fun x => w32 (fconv bfloat16 binary32 0 (x.toNat % 65536))

/-! ### Packed halves (R103) -/

/-- Halves 0 and 1 of a lane. -/
def half0 (x : Word) : Nat := x.toNat % 65536
def half1 (x : Word) : Nat := x.toNat / 65536

/-- Both halves; their flags merge. -/
def packHalves (r0 r1 : Nat × Flags) : Word × Flags := (BitVec.ofNat 32 (r1.1 % 65536 * 65536 + r0.1 % 65536), r0.2 ||| r1.2)

def half2 (g : Nat → Nat → Nat × Flags) (x y : Word) : Word × Flags :=
  packHalves (g (half0 x) (half0 y)) (g (half1 x) (half1 y))
def half3 (g : Nat → Nat → Nat → Nat × Flags) (x y z : Word) : Word × Flags :=
  packHalves (g (half0 x) (half0 y) (half0 z)) (g (half1 x) (half1 y) (half1 z))

/-- Sums of binary16 halves (R103). -/
def execHadd2 (p : Option Prefix) (d a b : BitVec 7) (s : State) : Result :=
  vword (.hadd2 p d a b) s fun s => vecF2 s p d a b (half2 (fadd binary16 (modeOf s p)))
/-- Differences of binary16 halves (R103). -/
def execHsub2 (p : Option Prefix) (d a b : BitVec 7) (s : State) : Result :=
  vword (.hsub2 p d a b) s fun s => vecF2 s p d a b (half2 (fsub binary16 (modeOf s p)))
/-- Products of binary16 halves (R103). -/
def execHmul2 (p : Option Prefix) (d a b : BitVec 7) (s : State) : Result :=
  vword (.hmul2 p d a b) s fun s => vecF2 s p d a b (half2 (fmul binary16 (modeOf s p)))
/-- Fused multiply-add of binary16 halves (R103). -/
def execHfma2 (p : Option Prefix) (d a b : BitVec 7) (s : State) : Result :=
  vword (.hfma2 p d a b) s fun s => vecF3 s p d a b (half3 (ffma binary16 (modeOf s p) false false))
/-- Minima of binary16 halves (R95, R103). -/
def execHmin2 (p : Option Prefix) (d a b : BitVec 7) (s : State) : Result :=
  vword (.hmin2 p d a b) s fun s => vecF2 s p d a b (half2 (fminmax binary16 false))
/-- Maxima of binary16 halves (R95, R103). -/
def execHmax2 (p : Option Prefix) (d a b : BitVec 7) (s : State) : Result :=
  vword (.hmax2 p d a b) s fun s => vecF2 s p d a b (half2 (fminmax binary16 true))
/-- Sums of bfloat16 halves (R103). -/
def execBadd2 (p : Option Prefix) (d a b : BitVec 7) (s : State) : Result :=
  vword (.badd2 p d a b) s fun s => vecF2 s p d a b (half2 (fadd bfloat16 (modeOf s p)))
/-- Differences of bfloat16 halves (R103). -/
def execBsub2 (p : Option Prefix) (d a b : BitVec 7) (s : State) : Result :=
  vword (.bsub2 p d a b) s fun s => vecF2 s p d a b (half2 (fsub bfloat16 (modeOf s p)))
/-- Products of bfloat16 halves (R103). -/
def execBmul2 (p : Option Prefix) (d a b : BitVec 7) (s : State) : Result :=
  vword (.bmul2 p d a b) s fun s => vecF2 s p d a b (half2 (fmul bfloat16 (modeOf s p)))
/-- Fused multiply-add of bfloat16 halves (R103). -/
def execBfma2 (p : Option Prefix) (d a b : BitVec 7) (s : State) : Result :=
  vword (.bfma2 p d a b) s fun s => vecF3 s p d a b (half3 (ffma bfloat16 (modeOf s p) false false))
/-- Minima of bfloat16 halves (R95, R103). -/
def execBmin2 (p : Option Prefix) (d a b : BitVec 7) (s : State) : Result :=
  vword (.bmin2 p d a b) s fun s => vecF2 s p d a b (half2 (fminmax bfloat16 false))
/-- Maxima of bfloat16 halves (R95, R103). -/
def execBmax2 (p : Option Prefix) (d a b : BitVec 7) (s : State) : Result :=
  vword (.bmax2 p d a b) s fun s => vecF2 s p d a b (half2 (fminmax bfloat16 true))

end Sys2Proof.Machine
end

