-- ==== Sys2Proof/Machine/BlockFp.lean ====
section
/-! DEFINITION. Block-FP words (R67 to R69, R72, R99 to R102). -/

namespace Sys2Proof.Machine

/-- Fields of a quantisation word (R99). -/
def qExp (q : Word) : Nat := (q.extractLsb' 0 8).toNat
def qFmt (q : Word) : Nat := (q.extractLsb' 8 4).toNat
def qLen (q : Word) : Nat := (q.extractLsb' 12 2).toNat

/-- A quantisation word from its fields; the other bits are written as zero (R99). -/
def mkQuant (e fmt len : Nat) : Word := BitVec.ofNat 32 (e + 256 * fmt + 4096 * len)

/-- Elements of a block by its length code (R69). -/
def blockLen (code : Nat) : Nat := 8 * 2 ^ code

/-- Element formats of these words: BFP2 to BFP8 (R100). -/
def fmtOk (f : Nat) : Bool := decide (2 ≤ f ∧ f ≤ 8)

/-- A `b`-bit mantissa as an integer (R67). -/
def sextBits (b v : Nat) : Int :=
  let m := v % 2 ^ b
  if 2 ^ b ≤ 2 * m then (m : Int) - (2 ^ b : Nat) else m

/-- The magnitude exponent of a nonzero finite value, and how lanes stand for `QEXP` (R101). -/
def quantExp (l : List Fp) : Nat :=
  if l.any (fun x => match x with
    | .fin _ => false
    | _ => true) then 255
  else
    let logs := l.filterMap fun x => match x with
      | .fin v => if v.man = 0 then none else some v.log
      | _ => none
    match logs with
    | [] => 0
    | g :: gs => (max 0 (min 254 (gs.foldl max g + 128))).toNat

/-- `QMAN` of one lane (R72, R101). -/
def quantMan (mode : Nat) (x q : Word) : Word × Flags :=
  let b := qFmt q
  let lo : Int := -((2 ^ (b - 1) : Nat) : Int)
  let hi : Int := (2 ^ (b - 1) : Nat) - 1
  if qExp q = 255 then (0, 0)
  else match unpack binary32 x.toNat with
    | .nan _ => (0, flagNV)
    | .inf n => (BitVec.ofInt 32 (if n then lo else hi), flagNV)
    | .fin v =>
      let r := roundAt mode { v with exp := v.exp + 127 - qExp q + (b - 1 : Nat) } 0
      let n : Int := if v.neg then -(r.1 : Int) else r.1
      let c := max lo (min hi n)
      (BitVec.ofInt 32 c, flagIf (r.2 || decide (c ≠ n)) flagNX)

/-- `DQ` of one lane (R67, R72, R101). -/
def dequant (x q : Word) : Word :=
  let b := qFmt q
  let m := sextBits b x.toNat
  if qExp q = 255 then BitVec.ofNat 32 binary32.nanBits
  else BitVec.ofNat 32
    (roundDy binary32 0 ⟨decide (m < 0), m.natAbs, (qExp q : Int) - 127 - (b - 1 : Nat)⟩).1

/-- The lowest active lane whose quantisation word names no format (R100). -/
def badQuant (s : State) (p : Option Prefix) (b : BitVec 7) : Option Nat :=
  (lanesOf (curWarp s)).find? fun l =>
    (activeMask s (pfx p)).getLsbD l && !fmtOk (qFmt (srcB s p b l))

/-- A word that checks the quantisation words of its active lanes first (R100). -/
def quantWord (s : State) (p : Option Prefix) (b : BitVec 7) (i : Instr) (k : State → State) : State :=
  match badQuant s p b with
  | some l => takeTrap s 15 l ((srcB s p b l).setWidth 64) 0
  | none => popOf i (k s)

/-- A word that checks its scalar quantisation word first (R100). -/
def quantScalar (s : State) (p : Option Prefix) (b : BitVec 7) (len : Bool) (i : Instr) (k : State → State) : State :=
  let q := scaB s p b
  if fmtOk (qFmt q) = false ∨ (len ∧ (curWarp s).width < blockLen (qLen q)) then
    takeTrap s 15 noLane (q.setWidth 64) 0
  else popOf i (k s)

/-- Bits of a run held across lanes, low bit first (R102). -/
def bitString : List Word → Nat
  | [] => 0
  | w :: t => w.toNat + 2 ^ 32 * bitString t

/-- The packed run of the active lanes (R102). -/
def packRun (b : Nat) (act : Dword) (f : Nat → Word) : List Nat → Nat
  | [] => 0
  | l :: ls => (if act.getLsbD l then (f l).toNat % 2 ^ b * 2 ^ (b * l) else 0) + packRun b act f ls

/-- The shared exponent of each lane's block, from its active lanes (R101). -/
def execQexp (p : Option Prefix) (d a b : BitVec 7) (s : State) : Result :=
  word (.qexp p d a b) s fun s =>
    quantScalar s p b true (.qexp p d a b) fun s =>
      let q := scaB s p b
      let g := blockLen (qLen q)
      let act := activeMask s (pfx p)
      let val (l : Nat) : Fp := unpack binary32 (srcA s p a l).toNat
      let blk (l : Nat) : List Fp := ((List.range g).filter fun i => act.getLsbD (l / g * g + i)).map fun i => val (l / g * g + i)
      putVecF s p d fun l => (mkQuant (quantExp (blk l)) (qFmt q) (qLen q), snanFlags (blk l))
/-- The mantissa of each lane under its quantisation word (R101). -/
def execQman (p : Option Prefix) (d a b : BitVec 7) (s : State) : Result :=
  word (.qman p d a b) s fun s =>
    quantWord s p b (.qman p d a b) fun s => vecF2 s p d a b (quantMan (modeOf s p))
/-- The binary32 value of each lane's mantissa (R101). -/
def execDq (p : Option Prefix) (d a b : BitVec 7) (s : State) : Result :=
  word (.dq p d a b) s fun s =>
    quantWord s p b (.dq p d a b) fun s => vec2 s p d a b dequant
/-- The mantissas of the active lanes packed into one run (R102). -/
def execPackm (p : Option Prefix) (d a b : BitVec 7) (s : State) : Result :=
  word (.packm p d a b) s fun s =>
    quantScalar s p b false (.packm p d a b) fun s =>
      let r := packRun (qFmt (scaB s p b)) (activeMask s (pfx p)) (srcA s p a) (lanesOf (curWarp s))
      putVec s p d fun l => BitVec.ofNat 32 (r / 2 ^ (32 * l))
/-- Each lane's mantissa of a packed run, sign-extended (R102). -/
def execUnpkm (p : Option Prefix) (d a b : BitVec 7) (s : State) : Result :=
  word (.unpkm p d a b) s fun s =>
    quantScalar s p b false (.unpkm p d a b) fun s =>
      let n := qFmt (scaB s p b)
      let r := bitString ((lanesOf (curWarp s)).map (srcA s p a))
      putVec s p d fun l => BitVec.ofInt 32 (sextBits n (r / 2 ^ (n * l)))

end Sys2Proof.Machine
end

