-- ==== Sys2Proof/Machine/Engine.lean ====
section
/-! DEFINITION. Accesses of the engines that act for a warp or a block (R184, R192, R196, R199, R264, R287), and the
counters of counted words (R224). -/

namespace Sys2Proof.Machine

/-! ### One access -/

/-- What an engine's access finds. -/
inductive Eng (α : Type) where
  /-- the line is leased or locked: the access waits at the home (R196, R199) -/
  | wait
  /-- translation or permission failed -/
  | fault
  | poison
  /-- a write that the home or port refuses (R287), with its code -/
  | refused (code : Nat)
  | ok (v : α)

/-- For whom an engine translates: a service core's warp, or the tenant and block of a warp (R340, R371). -/
structure Client where
  service : Bool
  tenant : Nat
  world : Nat
  blk : Nat
  /-- the upper core of a gang: whose stash serves it (R192) -/
  up : Bool := false
  /-- the warp and operation whose own access it is (R115), or none: an engine waits for a lease of the warp too (R196) -/
  warp : Nat := noWarp
  op : Nat := 0
  /-- goes past the stash (R192) -/
  bare : Bool := false
  /-- translates as at an earlier time: the root, and the entries that have changed since (R371) -/
  tables : Option (Nat × List (Nat × Dword)) := none
  deriving DecidableEq, Repr

/-- The client of block `k`. -/
def blockClient (s : State) (k : Nat) : Client :=
  { service := false, tenant := (blockOf s k).tenant, world := (blockOf s k).world, blk := k }

/-- The client of warp `w`. -/
def warpClient (s : State) (w : Nat) : Client :=
  if w < 16 then { service := true, tenant := svcTenant, world := 0, blk := 0 }
  else { blockClient s (warpOf s w).blk with up := (warpOf s w).upper }

def clientWalk (s : State) (c : Client) (va : Dword) : Walk :=
  if c.service then physLeaf s va
  else
    match c.tables with
    | none => translate s c.tenant va
    | some (root, olds) => translateFrom { s with mem := olds.foldl (fun m e => Memory.writes m e.1 (leBytes 8 e.2.toNat)) s.mem } root va

/-- The unit of an engine's access of `n` bytes inside one line, after R184 (R192, R193). -/
def engUnit (s : State) (c : Client) (store : Bool) (va : Dword) (n : Nat) : Eng MUnit :=
  let b := blockOf s c.blk
  let served := !c.service && !c.bare && (regionOf b va.toNat).isSome
  let unit (l : Leaf) (st : Bool) : Eng MUnit := .ok (leafUnit noLane 0 n va l st c.up [] [])
  match (if served then lineOf b c.up va.toNat else none) with
  | some l => if store && !l.writable then .fault else unit (lineLeaf l va.toNat) true
  | none =>
    match clientWalk s c va with
    | .fault => .fault
    | .poison => .poison
    | .leaf l =>
      if (if store then l.t || !l.w else !l.r) then .fault
      else if served && (!l.r || l.m) then .fault
      else unit l served

/-- The access of an engine must wait: for a lease, a lock, or a link in training (R196, R199, R334). -/
def engWaits (s : State) (c : Client) (pa : Nat) : Bool :=
  !homeFree s c.warp c.op pa || (isPeer pa && match linkFor s pa with
    | some k => (linkOf s k).training
    | none => false)

/-- An engine's access makes a replay unauditable (R328). -/
def engSpoils (s : State) (c : Client) (x : MUnit) : Bool := (blockOf s c.blk).replay && spoilsReplay false x

/-- An engine reads `n` bytes inside one line. -/
def engRead (s : State) (c : Client) (va : Dword) (n : Nat) : State × Eng (List Byte) :=
  match engUnit s c false va n with
  | .ok x =>
    if engSpoils s c x then (abandonReplay s c.blk, .fault)
    else if engWaits s c x.pa then (s, .wait)
    else if unitPoison s c.blk x then (s, .poison)
    else
      let r := unitRead s c.blk x
      (r.1, .ok r.2)
  | .fault => (s, .fault)
  | .poison => (s, .poison)
  | .wait => (s, .wait)
  | .refused e => (s, .refused e)

/-- An engine writes bytes inside one line. A write to a dead link is lost (R334). -/
def engWrite (s : State) (c : Client) (va : Dword) (d : List Byte) : State × Eng Unit :=
  match engUnit s c true va d.length with
  | .ok x =>
    if engSpoils s c x then (abandonReplay s c.blk, .fault)
    else if engWaits s c x.pa then (s, .wait)
    else
      (match storeFate s c.blk c.world x with
        | .refuse e => (s, .refused e)
        | .poison => (s, .poison)
        | .lose => (s, .ok ())
        | .admission => (s, .fault)
        | _ => (unitPut s c.blk x d (if c.tables.isSome then .gather else .copy), .ok ()))
  | .fault => (s, .fault)
  | .poison => (s, .poison)
  | .wait => (s, .wait)
  | .refused e => (s, .refused e)

/-! ### Runs of bytes -/

/-- The pieces of a run of bytes in its lines: offset and length. -/
def linesOf (va n : Nat) : List (Nat × Nat) :=
  (List.range (n / 128 + 2)).filterMap fun i =>
    let lo := max va ((va / 128 + i) * 128)
    let hi := min (va + n) ((va / 128 + i + 1) * 128)
    if lo < hi then some (lo - va, hi - lo) else none

/-- An engine reads a run of bytes line by line; the first failing piece decides. -/
def engReadRun (s : State) (c : Client) (va : Dword) : List (Nat × Nat) → State × Eng (List Byte)
  | [] => (s, .ok [])
  | (o, n) :: t =>
    match engRead s c (va + BitVec.ofNat 64 o) n with
    | (s1, .ok d) =>
      (match engReadRun s1 c va t with
        | (s2, .ok e) => (s2, .ok (d ++ e))
        | r => r)
    | r => r

/-- An engine writes a run of bytes line by line. -/
def engWriteRun (s : State) (c : Client) (va : Dword) (d : List Byte) : List (Nat × Nat) → State × Eng Unit
  | [] => (s, .ok ())
  | (o, n) :: t =>
    match engWrite s c (va + BitVec.ofNat 64 o) ((d.drop o).take n) with
    | (s1, .ok _) => engWriteRun s1 c va d t
    | r => r

def engReads (s : State) (c : Client) (va : Dword) (n : Nat) : State × Eng (List Byte) :=
  engReadRun s c va (linesOf va.toNat n)
def engWrites (s : State) (c : Client) (va : Dword) (d : List Byte) : State × Eng Unit :=
  engWriteRun s c va d (linesOf va.toNat d.length)

/-! ### Counters (R224) -/

def counterAdd (w : Warp) (c : Nat) : Warp := { w with counters := Tbl.set w.counters c (counterOf w c + 1) }
def counterSub (w : Warp) (c : Nat) : Warp := { w with counters := Tbl.set w.counters c (counterOf w c - 1) }

/-- A counted word issues: its counter gains one. -/
def pushCounted (s : State) (c : Nat) (o : PendOp) : State :=
  pushOp (setCur s (counterAdd (curWarp s) c)) .counted false { o with counter := some c }

/-- The oldest operations of a class leave as long as they have completed. -/
def retireClass (w : Warp) (c : Nat) : Nat → Warp
  | 0 => w
  | n + 1 =>
    match w.pend.find? fun o => o.counter == some c with
    | some o => if o.finished then retireClass (counterSub (dropOp w o) c) c n else w
    | none => w

/-- A counted operation has completed (R224). -/
def finishCounted (s : State) (wk : Nat) (o : PendOp) : State :=
  match o.counter with
  | none => s
  | some c =>
    let w := setOp (warpOf s wk) { o with finished := true }
    warpEnd (setWarp s wk (retireClass w c w.pend.length)) wk

end Sys2Proof.Machine
end

