-- ==== Sys2Proof/Machine/Gather.lean ====
section
/-! DEFINITION. Memory-side operations and gathers, majors 0x27 and 0x28 (R224, R225, R236 to R240), and the completion
of a counted operation. -/

namespace Sys2Proof.Machine

/-! ### MZERO, MCOPY, MINV (R238) -/

/-- The frame address of frame `i` of a range. -/
def frameVa (va : Dword) (i : Nat) : Dword := va + BitVec.ofNat 64 (frameBytes * i)

/-- The translated frames of a range, or the cause and address of the first that fails (R180, R184). -/
def frameRun (s : State) (a : Acc) (va : Dword) : Nat → Except (Nat × Dword) (List MUnit)
  | 0 => .ok []
  | n + 1 =>
    match frameRun s a va n with
    | .error e => .error e
    | .ok l =>
      let x := frameVa va n
      match translateCur s x with
      | .fault => .error (12, x)
      | .poison => .error (18, x)
      | .leaf f =>
        match leafCause f a x.toNat with
        | some c => .error (c, x)
        | none => .ok (l ++ [leafUnit n 0 frameBytes x f false false [] []])

/-- The first frame outside the reach of the memory-side engines (R238 step 3). -/
def outOfReach (s : State) (peerOk : Bool) (l : List MUnit) : Option MUnit :=
  l.find? fun u => !(isHbm s u.pa || isTier s u.pa || (peerOk && isPeer u.pa))

/-- A counted word of no frames: it counts, completes at once, and leaves its counter in order (R224, R238). -/
def countedNothing (s : State) (k : PKind) : State :=
  let t := pushCounted s 3 { newOp s k with finished := true }
  setCur t (retireClass (curWarp t) 3 (curWarp t).pend.length)

/-- A memory-side word: source frames (for `MCOPY`), and the frames acted on (R238). -/
def memSideWord (s : State) (src dst : Option Dword) (n : Word) (acc : Acc) (k : List MUnit → PKind) : State :=
  let bad := (src.toList ++ dst.toList).find? fun a => decide (a.toNat % frameBytes ≠ 0)
  match bad with
  | some a => takeTrap s 15 noLane a 0
  | none =>
    if 256 < n.toNat then takeTrap s 15 noLane (n.setWidth 64) 0
    else if n = 0 then countedNothing s (k [])
    else
      match (match src with
        | some a => frameRun s .load a n.toNat
        | none => .ok []) with
      | .error (c, a) => takeTrap s c noLane a 0
      | .ok sf =>
        match frameRun s acc (dst.getD 0) n.toNat with
        | .error (c, a) => takeTrap s c noLane a 0
        | .ok df =>
          match outOfReach s src.isSome (sf ++ df) with
          | some u => takeTrap s 15 noLane u.va 0
          | none =>
            if (curBlock s).replay && (sf ++ df).any (spoilsReplay false) then abandonReplay s (curWarp s).blk
            else if df.any fun u => sf.any fun v => v.pa == u.pa then takeTrap s 15 noLane (dst.getD 0) 0
            else
              ineligible (pushCounted s (if (sf ++ df).any fun u => isPeer u.pa then 2 else 3) { newOp s (k sf) with units := df })
                (curWarp s).blk

/-- Zeroes frames (R238, R239). -/
def execMzero (p : Option Prefix) (a b : BitVec 7) (s : State) : Result :=
  word (.mzero p a b) s fun s =>
    memSideWord s none (some (pairA s p a)) (scaB s p b) .tstore fun _ => .mzero
/-- Copies frames (R238, R239). -/
def execMcopy (p : Option Prefix) (d a b : BitVec 7) (s : State) : Result :=
  word (.mcopy p d a b) s fun s =>
    memSideWord s (some (pairA s p a)) (some (readP s (numD p d))) (scaB s p b) .tstore
      .mcopy
/-- Writes back and drops every copy of frames (R238, R239). -/
def execMinv (p : Option Prefix) (a b : BitVec 7) (s : State) : Result :=
  word (.minv p a b) s fun s =>
    memSideWord s none (some (pairA s p a)) (scaB s p b) .load fun _ => .minv

/-! ### GATH, SCAT (R236) -/

/-- A range lies inside one stash region of the block. -/
def inOneRegion (b : Block) (va n : Nat) : Bool :=
  b.regions.any fun e => decide (0 < e.2.len ∧ e.2.base ≤ va ∧ va + n ≤ e.2.base + 128 * e.2.len)

/-- The gather descriptor. -/
structure GDesc where
  table : Dword
  list : Dword
  buf : Dword
  n : Nat
  esz : Nat
  bound : Nat
  /-- bits of SIZE outside its fields are zero, and N is in range -/
  good : Bool
  deriving DecidableEq, Repr

def gatherDesc (s : State) (a : Nat) : GDesc :=
  let z := (readS s (a + 6)).toNat
  ⟨readP s a, readP s (a + 2), readP s (a + 4), z % 8192, z / 65536 % 8, (readS s (a + 7)).toNat,
    decide (z / 8192 % 8 = 0 ∧ z / 2 ^ 19 = 0 ∧ 1 ≤ z % 8192 ∧ z % 8192 ≤ 4096)⟩

/-- The operand that breaks a rule of R236. -/
def gatherBad (s : State) (a : Nat) (g : GDesc) : Option Dword :=
  let b := curBlock s
  if !g.good then some ((readS s (a + 6)).setWidth 64)
  else if g.table.toNat % 2 ^ g.esz ≠ 0 then some g.table
  else if g.list.toNat % 4 ≠ 0 then some g.list
  else if g.buf.toNat % 2 ^ g.esz ≠ 0 then some g.buf
  else if isService s || !inOneRegion b g.list.toNat (4 * g.n + 4) then some g.list
  else if !inOneRegion b g.buf.toNat (g.n * 2 ^ g.esz) then some g.buf
  else none

/-- The class of a gather: CF for a table in a peer window, else CG (R224). -/
def gatherClass (s : State) (t : Dword) : Nat :=
  match translateCur s t with
  | .leaf l => if isPeer l.pa then 2 else 0
  | _ => 0

def gatherWord (s : State) (p : Option Prefix) (a : BitVec 7) (scatter : Bool) : State :=
  let g := gatherDesc s (numA p a)
  match gatherBad s (numA p a) g with
  | some v => takeTrap s 15 noLane v 0
  | none =>
    let t := pushCounted s (gatherClass s g.table) (newOp s
      (.gather scatter g.table g.list g.buf g.n g.esz g.bound (tenantOf s (curTenant s)).root.toNat []))
    if scatter then ineligible t (curWarp s).blk else t

/-- Gathers table elements into a buffer (R236, R237). -/
def execGath (p : Option Prefix) (a : BitVec 7) (s : State) : Result :=
  word (.gath p a) s fun s => gatherWord s p a false
/-- Scatters a buffer into table elements (R236, R237). -/
def execScat (p : Option Prefix) (a : BitVec 7) (s : State) : Result :=
  word (.scat p a) s fun s => gatherWord s p a true

/-! ### The gather runs (R237) -/

/-- The status of a gather in progress; `wait` when an access must wait at its home. -/
structure GStat where
  oor : Bool
  fault : Bool
  poison : Bool
  first : Nat
  wait : Bool
  deriving DecidableEq, Repr

def GStat.blank : GStat := ⟨false, false, false, 0xFFFF, false⟩

/-- The status word (R237). -/
def gstatWord (g : GStat) : Word :=
  BitVec.ofNat 32 (65536 * g.first + (if g.poison then 4 else 0) + (if g.fault then 2 else 0) + (if g.oor then 1 else 0))

/-- A failure of an access in the status. -/
def gnote {α : Type} (g : GStat) (r : Eng α) : GStat :=
  match r with
  | .wait => { g with wait := true }
  | .fault => { g with fault := true }
  | .poison => { g with poison := true }
  | _ => g

/-- An element is written into the buffer, or into the table; a refused write is logged (R281, R287). -/
def gput (s : State) (c : Client) (wk : Nat) (va : Dword) (d : List Byte) (g : GStat) : State × GStat :=
  match engWrite s c va d with
  | (s1, .refused e) => (refuseStore s1 wk c.tenant e va, g)
  | (s1, r) => (s1, gnote g r)

/-- Element `i` of a gather or scatter. The table is reached past the stash, list and buffer through it (R192). -/
def gatherStep (c : Client) (wk : Nat) (scatter : Bool) (table list buf : Dword) (esz bound : Nat) (q : State × GStat)
    (i : Nat) : State × GStat :=
  let n := 2 ^ esz
  let el := buf + BitVec.ofNat 64 (n * i)
  match engRead q.1 c (list + BitVec.ofNat 64 (4 * i)) 4 with
  | (s1, .ok jb) =>
    let j := leNat jb
    let te := table + BitVec.ofNat 64 (n * j)
    if j = 0xFFFFFFFF then (s1, q.2)
    else if bound ≤ j then
      let g := { q.2 with oor := true, first := min q.2.first i }
      if scatter then (s1, g) else gput s1 c wk el (List.replicate n 0) g
    else if scatter then
      match engRead s1 c el n with
      | (s2, .ok d) => gput s2 { c with bare := true } wk te d q.2
      | (s2, r) => (s2, gnote q.2 r)
    else
      match engRead s1 { c with bare := true } te n with
      | (s2, .ok d) => gput s2 c wk el d q.2
      | (s2, r) => gput s2 c wk el (List.replicate n 0) (gnote q.2 r)
  | (s1, r) =>
    let g := gnote q.2 r
    if scatter || g.wait then (s1, g) else gput s1 c wk el (List.replicate n 0) g

/-- The whole operation, its status word included; nothing when an access has to wait. -/
def runGather (s : State) (wk : Nat) (o : PendOp) (c : Client) (scatter : Bool) (table list buf : Dword) (n esz bound : Nat) : State :=
  let q := (List.range n).foldl (gatherStep c wk scatter table list buf esz bound) (s, GStat.blank)
  let r := gput q.1 c wk (list + BitVec.ofNat 64 (4 * n)) (leBytes 4 (gstatWord q.2).toNat) q.2
  if r.2.wait then s else finishCounted r.1 wk o

/-! ### The memory-side operations run (R239) -/

/-- The audit of block `k` takes the change of a frame from `s` to `t`; a replay's goes to its shadow (R327, R328). -/
def noteFrame (s t : State) (k f : Nat) : State :=
  if (auditOf s (blockOf s k)).isNone then t
  else
    let u := noteAudit t k (snoop s none (f * frameBytes) frameBytes false).mem t.mem (f * frameBytes) frameBytes
    if (blockOf s k).replay then { u with mem := s.mem, poison := s.poison, blocks := s.blocks, caches := s.caches } else u

/-- A destination frame is written unless its home or port refuses it, or its link is dead (R287, R334). -/
def onFrame (wk : Nat) (c : Client) (f : State → Nat → State) (s : State) (u : MUnit) : State :=
  match worldRefusal s (blockDie s c.blk c.up u.pa) c.world u with
  | some e => refuseStore s wk c.tenant e u.va
  | none => if isPeer u.pa && !linkAlive s u.pa then s
    else noteFrame s (f s (u.pa / frameBytes)) c.blk (u.pa / frameBytes)

/-- A copy from a peer behind a dead link leaves the destination poisoned, as a poisoned source does (R239, R334). -/
def copyOrPoison (src : Nat) (s : State) (f : Nat) : State :=
  if isPeer (src * frameBytes) && !linkAlive s (src * frameBytes) then
    let t := dropCopies s (f * frameBytes) frameBytes
    { t with
      poison := ((List.range 512).map fun i => f * frameBytes + 128 * i) ++ poisonOutside t.poison f, tierKept := keepTier t f }
  else copyFrame s f src

/-- No line of the operation's frames is leased or locked. -/
def framesFree (s : State) (l : List MUnit) : Bool := l.all fun u => frameFree s (u.pa / frameBytes)

/-- A counted operation runs once the warp's earlier accesses are performed, and leaves its counter in order (R224, R225, R237, R239). -/
def execCountedOpComplete (w op : Nat) (s : State) : Result :=
  .next <|
    withOp s w op fun o =>
      if o.finished ∨ olderPerformed (warpOf s w) op = false then s
      else
        let c := warpClient s w
        match o.kind with
        | .gather sc t l b n esz bound root olds => runGather s w o { c with tables := some (root, olds) } sc t l b n esz bound
        | .mzero => if framesFree s o.units then finishCounted (o.units.foldl (onFrame w c zeroFrame) s) w o else s
        | .mcopy src =>
          if framesFree s (src ++ o.units) then
            finishCounted ((o.units.zip src).foldl (fun t e => onFrame w c (copyOrPoison (e.2.pa / frameBytes)) t e.1) s) w o
          else s
        | .minv =>
          if framesFree s o.units then finishCounted (o.units.foldl (fun t u => flushFrame t (u.pa / frameBytes)) s) w o
          else s
        | _ => s

end Sys2Proof.Machine
end

