-- ==== Sys2Proof/Machine/TileOps.lean ====
section
/-! DEFINITION. Tiles, major 0x23 (R197 to R200, R211, R212, R261): their checks, their locks, and the one step in
which a tile is performed. -/

namespace Sys2Proof.Machine

/-! ### The shape word (R197) -/

def tileRows (w : Word) : Nat := w.toNat % 256 + 1
def tileLogb (w : Word) : Nat := w.toNat / 256 % 16
def tileStride (w : Word) : Nat := 64 * (w.toNat / 4096)
def tileRowBytes (w : Word) : Nat := 2 ^ tileLogb w

/-- Registers of the run (R211). -/
def tileRegs (w : Word) : Nat := max 1 (tileRowBytes w / 4)

/-- The shape word breaks a rule of R197 for a warp of width `n`. -/
def shapeBad (w : Word) (n : Nat) : Bool :=
  decide (tileLogb w < 2 ∨ 8 < tileLogb w) || decide (64 < tileRows w ∨ n < tileRows w) ||
    (decide (1 < tileRows w) && decide (tileStride w < tileRowBytes w))

/-- Rows 0 to ROWS as lanes. -/
def rowMask (w : Word) : Dword := BitVec.ofNat 64 (2 ^ tileRows w - 1)

/-- Address of a row. -/
def rowVa (base : Dword) (w : Word) (k : Nat) : Dword := base + BitVec.ofNat 64 (tileStride w * k)

/-- The rows as accesses. -/
def tileAccs (base : Dword) (w : Word) (data : Nat → List Byte) : List LaneAcc :=
  (List.range (tileRows w)).map fun k => ⟨k, rowVa base w k, tileRowBytes w, data k, []⟩

/-- Offsets and lengths of the pieces of a row in its lines. -/
def linePieces (va n : Nat) : List (Nat × Nat) :=
  (List.range (n / 128 + 2)).filterMap fun i =>
    let lo := max va ((va / 128 + i) * 128)
    let hi := min (va + n) ((va / 128 + i + 1) * 128)
    if lo < hi then some (lo - va, hi - lo) else none

/-- The pieces of a row, with their translations. -/
def rowUnits (s : State) (a : Acc) (x : LaneAcc) : List MUnit :=
  piecesOf s a x.lane x.va (linePieces x.va.toNat x.len) x.data []

/-! ### Issue (R212) -/

/-- The line is one of a memory-side page for a tile of these units. -/
def lineM (us : List MUnit) (a : Nat) : Bool := us.any fun u => u.pa / 128 * 128 == a && u.leafM

/-- Insert a line of a tile into the order of the lock keys (R199). -/
def insertLine (s : State) (us : List MUnit) (a : Nat) : List Nat → List Nat
  | [] => [a]
  | b :: t =>
    if a = b then b :: t
    else if lockKey s (lineM us a) a < lockKey s (lineM us b) b then a :: b :: t else b :: insertLine s us a t

/-- The lines of a tile, in the order in which it locks them. -/
def tileLines (s : State) (l : List MUnit) : List Nat := l.foldl (fun t u => insertLine s l (u.pa / 128 * 128) t) []

/-- The checks of a tile word in the order of R212, then the operation. -/
def tileWord (s : State) (p : Option Prefix) (d a b : BitVec 7) (isStore order : Bool) : State :=
  let w := scaB s p b
  let base := pairA s p a
  let r := regD s p d
  let v := (curWarp s).vregs
  let acc : Acc := if isStore then .tstore else .tload
  let l := tileAccs base w (if isStore then regBytes s r (tileRowBytes w) else fun _ => [])
  if v < r + tileRegs w then takeTrap s 4 noLane (BitVec.ofNat 64 (max r v)) 0
  else if shapeBad w (curWarp s).width then takeTrap s 15 noLane (w.setWidth 64) 0
  else if rowMask w &&& ~~~ (execMask s) ≠ 0 then takeTrap s 15 noLane (w.setWidth 64) 0
  else
    match accFault s acc false (!isStore) l with
    | some (cause, row, va) => takeTrap s cause row va 0
    | none =>
      let us := l.flatMap (rowUnits s acc)
      let k : PKind := if isStore then .tstore else .tload r (tileRegs w)
      if (curBlock s).replay && us.any (spoilsReplay false) then abandonReplay s (curWarp s).blk
      else pushOp s (if isStore then .b else .a) isStore { newOp s k with
        scope := (pfx p).scope, acq := order && !isStore, rel := order && isStore, active := rowMask w, units := us
        toLock := tileLines s us }

/-- Loads a tile (R211). -/
def execTld (p : Option Prefix) (d a b : BitVec 7) (s : State) : Result :=
  word (.tld p d a b) s fun s => tileWord s p d a b false false
/-- Stores a tile (R211). -/
def execTst (p : Option Prefix) (d a b : BitVec 7) (s : State) : Result :=
  word (.tst p d a b) s fun s => tileWord s p d a b true false
/-- Loads a tile with acquire (R209, R211). -/
def execTlda (p : Option Prefix) (d a b : BitVec 7) (s : State) : Result :=
  word (.tlda p d a b) s fun s => tileWord s p d a b false true
/-- Stores a tile with release (R209, R211). -/
def execTstr (p : Option Prefix) (d a b : BitVec 7) (s : State) : Result :=
  word (.tstr p d a b) s fun s => tileWord s p d a b true true

/-! ### Performing (R198, R205) -/

/-- All locks of an operation are released. -/
def unlock (s : State) (wk op : Nat) : State :=
  { s with locks := s.locks.filter fun l => !(l.2.1 == wk && l.2.2 == op) }

/-- All pieces of a tile load are read; a peer has read its own under the lock (R337). -/
def readAll (s : State) (k : Nat) : List MUnit → State × List MUnit
  | [] => (s, [])
  | u :: us =>
    let r := unitRead s k u
    let q := readAll r.1 k us
    (q.1, { u with data := r.2, done := true } :: q.2)

/-- A tile that consumes poison, or whose load cannot return: *poison consumed* for the lowest such row (R205). -/
def tilePoison (s : State) (wk : Nat) (o : PendOp) (x : MUnit) : State := unlock (consumePoison s wk o x) wk o.id

/-- A tile load is performed: all rows. -/
def performTload (s : State) (wk : Nat) (o : PendOp) (d regs : Nat) : State :=
  let r := readAll s (warpOf s wk).blk o.units
  let o' := { o with units := r.2 }
  let t := asWarp (rowCount r.1 wk o 3) wk o.frag
  unlock (retireOp (writeRun t o' d (fun i row => wordOf (laneBytes o' row (4 * regs)) i) regs) wk o) wk o.id

/-- A tile store is performed whole, wherever its bytes lie (R198, R338); it is complete once the packets of its pieces in peers are
acknowledged (R204). -/
def performTstore (s : State) (wk : Nat) (o : PendOp) : State :=
  let t := o.units.foldl (fun q u => noteEarly (unitWrite q (warpOf s wk).blk u u.data) wk o u.pa) (rowCount s wk o 4)
  unlock (storeDone t wk { o with
    units := o.units.map fun u => { u with done := true }, locked := [], finished := true }) wk o.id

/-- Why a tile store cannot be performed: it is refused, lost or poisoned whole (R205, R212, R281, R287). -/
def tstoreStops (s : State) (wk : Nat) (o : PendOp) : Option State :=
  let k := (warpOf s wk).blk
  let fate (u : MUnit) : StoreFate := storeFate s k (blockOf s k).world u
  match o.units.findSome? fun u => match fate u with
    | .refuse c => some (c, u)
    | _ => none with
  | some (c, u) => some (refuseLane s wk c u)
  | none =>
    if o.units.any fun u => fate u == .lose then some (noteEvent s wk .lost)
    else if o.units.any fun u => fate u == .poison then some (noteEvent s wk .poison)
    else none

/-- A piece of the tile lies in a peer, and its request has not been answered, or its bytes have not arrived there (R337). -/
def awaitsPeer (o : PendOp) : Bool := o.units.any fun u => isPeer u.pa && (!u.done || (u.sent && o.kind != .tstore))

/-- The tile's first piece whose stash line is still to be filled from a peer. -/
def tileFill (s : State) (k : Nat) (o : PendOp) : Option (Nat × MUnit) :=
  (o.units.zipIdx.find? fun e => !e.1.sent && fillTravels s k e.1).map fun e => (e.2, e.1)

/-- A tile that holds all its locks: its packets travel to the peers that hold pieces of it, one a turn, and with all of them
answered or arrived it is performed in one step (R199, R200, R337). -/
def performTile (s : State) (wk : Nat) (o : PendOp) : State :=
  if o.finished then s
  else match tileFill s (warpOf s wk).blk o with
  | some (i, u) => sendFill s wk o i u
  | none =>
  match o.kind with
  | .tload d regs =>
    (match o.units.find? fun u => if u.done then isPeer u.pa && isPoison s u.pa else unitPoison s (warpOf s wk).blk u with
      | some x => tilePoison s wk o x
      | none => if awaitsPeer o then sendPacket s wk o false else performTload s wk o d regs)
  | .tstore =>
    (match tstoreStops s wk o with
      | some t => unlock (retireOp t wk o) wk o.id
      | none => if awaitsPeer o then sendPacket s wk o true else performTstore s wk o)
  | _ => s

/-! ### Locks (R199, R200) -/

def isTile (k : PKind) : Bool :=
  match k with
  | .tload .. => true
  | .tstore => true
  | _ => false

/-- The lock table of a line for a tile: the memory-side engine of its stack for a memory-side page, a peer's, else the
slice of its home (R189, R195, R199; a peer's: assumption 71). -/
def lockTable (s : State) (o : PendOp) (line : Nat) : Nat :=
  if lineM o.units line then 4096 + hbmStack s line
  else if isPeer line then 8192 + peerWindow line
  else 16 * homeDie s line + (Config.l2Slice line).toNat

/-- The tiles that hold or want locks: warp and operation. -/
def tilesOf (s : State) : List (Nat × PendOp) :=
  s.warps.flatMap fun w => (w.2.pend.filter fun o => isTile o.kind).map fun o => (w.1, o)

/-- Entries in use of a lock table. -/
def tableUsed (s : State) (t : Nat) : Nat :=
  ((tilesOf s).map fun e => (e.2.locked.filter fun l => lockTable s e.2 l == t).length).sum

/-- The line of a tile is free for it: no lease, no other lock, and no access that is performed in part (R196, R198). -/
def lineFree (s : State) (wk : Nat) (o : PendOp) (line : Nat) : Bool :=
  homeFree s wk o.id line && !partDone s wk o.id line

/-- The older tiles that wait on the table only: issued earlier, then the lower warp and operation (R199). -/
def olderOnTable (s : State) (wk : Nat) (o : PendOp) (t : Nat) : Nat :=
  ((tilesOf s).filter fun e =>
    decide (e.2.age < o.age ∨ (e.2.age = o.age ∧ (e.1 < wk ∨ (e.1 = wk ∧ e.2.id < o.id)))) &&
      (match e.2.toLock with
        | l :: _ => lockTable s e.2 l == t && lineFree s e.1 e.2 l
        | [] => false)).length

/-- A tile starts only when no earlier access of its warp that it must follow is still to be performed (R209, R251,
R253). -/
def tileMayStart (s : State) (wk : Nat) (o : PendOp) : Bool :=
  mayPerform s wk o && o.units.all fun u => (olderMeets (warpOf s wk) o.id o.lanes u).isEmpty

/-- The table of a line has no entry for a tile: each free entry goes to the oldest tile that waits (R199). -/
def tableFull (s : State) (wk : Nat) (o : PendOp) (line : Nat) : Bool :=
  let t := lockTable s o line
  decide (256 ≤ tableUsed s t + olderOnTable s wk o t)

/-- A locked line that the block's stash maps is in that stash, as its owner (R199). -/
def ownLocked (s : State) (wk : Nat) (o : PendOp) (line : Nat) : State :=
  let k := (warpOf s wk).blk
  match o.units.find? fun u => u.pa / 128 * 128 == line && unitStash s k u with
  | some u => if isPoison s line then s else fillLine s k u
  | none => s

/-- The tile takes the lock of its next line (R199); in a peer, the answer then travels back (R200, R337). -/
def takeLock (s : State) (wk : Nat) (o : PendOp) (line : Nat) (rest : List Nat) : State × PendOp :=
  let o' := { o with locked := line :: o.locked, toLock := rest, ask := if isPeer line then 3 else 0 }
  let t := ownLocked { setWarp s wk (setOp (warpOf s wk) o') with locks := (line, wk, o.id) :: s.locks } wk o line
  match (if isPeer line then linkFor s line else none) with
  | some k =>
    let x := linkOf t k
    (setLink t k { x with inn := { x.inn with waiting := x.inn.waiting ++ [{ newPacket s wk o.id with lock := some line, performed := true }] } }, o')
  | none => (t, o')

/-- The tile's request for a line in a peer goes to the link's port (R200, R337). -/
def askLock (s : State) (wk : Nat) (o : PendOp) (line : Nat) : State :=
  queuePacket (setWarp s wk (setOp (warpOf s wk) { o with ask := 1 })) line { newPacket s wk o.id with lock := some line }

/-- A line of the tile lies behind a dead link (R205, R334). -/
def tileLost (s : State) (wk : Nat) (o : PendOp) (line : Nat) : State :=
  match o.kind, o.units.find? fun u => u.pa / 128 * 128 == line with
  | .tload .., some x => tilePoison s wk o x
  | _, _ => unlock (retireOp (noteEvent s wk .lost) wk o) wk o.id

/-- A tile takes its next lock when its line is free, and with the last one it is performed (R198, R199). -/
def execTileLockAcquire (w op : Nat) (s : State) : Result :=
  .next <|
    withOp s w op fun o =>
      if isTile o.kind = false ∨ o.finished = true ∨ tileMayStart s w o = false then s
      else
        match o.toLock with
        | [] => if o.ask = 0 then performTile s w o else s
        | line :: rest =>
          if isPeer line = true ∧ linkAlive s line = false then tileLost s w o line
          else if isPeer line = true ∧ o.ask = 0 then askLock s w o line
          else if isPeer line = true ∧ o.ask ≠ 2 then s
          else if !lineFree s w o line || tableFull s w o line then s
          else
            let r := takeLock s w o line rest
            if rest.isEmpty && r.2.ask == 0 then performTile r.1 w r.2 else r.1

/-- A tile that has met a full table for 1,024 cycles releases its locks and starts again, as old as it was (R199). -/
def execTileLockRetry (w op : Nat) (s : State) : Result :=
  .next <|
    withOp s w op fun o =>
      match o.toLock with
      | line :: _ =>
        if isTile o.kind && tableFull s w o line && !o.locked.isEmpty && (o.ask == 0 || o.ask == 2) then
          let t := setWarp s w (setOp (warpOf s w) { o with
            locked := [], toLock := o.locked.foldl (fun l a => insertLine s o.units a l) o.toLock, ask := 0 })
          unlock t w op
        else s
      | [] => s

end Sys2Proof.Machine
end

