-- ==== Sys2Proof/Machine/Matrix.lean ====
section
/-! DEFINITION. Matrix words, majors 0x30 and 0x31, and the matrix engine (R66 to R76, R112 to R131). -/

namespace Sys2Proof.Machine

/-! ### Formats and sizes (R69, R112, R113, R116, R117) -/

/-- Bits of an element of a format code. -/
def elemBits (f : Nat) : Nat := if f = 9 ∨ f = 10 then 16 else f

def isBfp (f : Nat) : Bool := f == 2 || f == 4 || f == 8

/-- The legal pairs of format codes (R113). -/
def fmtsOk (a b : Nat) : Bool := (isBfp a && isBfp b) || (a == 9 && b == 9) || (a == 10 && b == 10)

/-- The inner dimension (R112). -/
def innerK (a b : Nat) : Nat := 2048 / max (elemBits a) (elemBits b)

/-- Registers of A, dense or sparse, and of B at width `w` (R116, R117, R122). -/
def regsA (a b : Nat) (sp : Bool) : Nat :=
  let r := innerK a b * elemBits a / 32
  if sp then r / 2 + innerK a b / 32 else r
def regsB (a b w : Nat) : Nat := innerK a b * elemBits b / (2 * w)

/-! ### The format block (R114) -/

/-- An operand descriptor: format, block length code, scale address, reserved bits zero. -/
structure MDesc where
  fmt : Nat
  len : Nat
  scale : Dword
  good : Bool
  deriving DecidableEq, Repr

def matrixDesc (v : Dword) : MDesc :=
  ⟨(v.extractLsb' 56 4).toNat, (v.extractLsb' 60 2).toNat, (v.extractLsb' 0 55).setWidth 64,
    v.extractLsb' 62 2 == 0#2 && !v.getLsbD 55⟩

/-- First scalar of the format block. -/
def formatBase (p : Option Prefix) : Nat :=
  match p with
  | none => 120
  | some q => fieldNumber q.c q.ch

/-! ### Sparse metadata (R122) -/

/-- Bits of a row of words, low first. -/
def rowBits (l : List Word) : Nat := bitString l

/-- The metadata nibble of group `g` in a row whose stored elements fill `h` registers. -/
def nibble (row : List Word) (h g : Nat) : Nat := rowBits (row.drop h) / 2 ^ (4 * g) % 16

def nibbleBad (n : Nat) : Bool := decide (n / 4 ≤ n % 4)

/-- A row holds malformed metadata. -/
def rowBad (row : List Word) (h k : Nat) : Bool := (List.range (k / 4)).any fun g => nibbleBad (nibble row h g)

/-- Element `k` of a dense row of `b`-bit elements. -/
def denseElem (row : List Word) (b k : Nat) : Nat := rowBits row / 2 ^ (b * k) % 2 ^ b

/-- Element `k` of a sparse row: zero where nothing is stored, and throughout a malformed group, whose four elements count as +0
(R122; assumption 76). -/
def sparseElem (row : List Word) (b h k : Nat) : Nat :=
  let n := nibble row h (k / 4)
  if nibbleBad n then 0
  else if k % 4 = n % 4 then denseElem row b (2 * (k / 4))
  else if k % 4 = n / 4 then denseElem row b (2 * (k / 4) + 1)
  else 0

/-! ### The sums (R71, R73, R75) -/

/-- The default NaN of A34. -/
def a34Nan : Nat := a34.nanBits

/-- `Round(acc + x, A34, RNE)` with NV and OF. -/
def a34Add (acc : Nat) (x : Fp) : Nat × Flags :=
  let s := addFp 0 (unpack a34 acc) x
  let r := roundFp a34 0 s.1
  (r.1, (r.2 &&& flagOF) ||| s.2)

/-- One unit of a BFP sum (R73): exact integer sum `S` of `l` products from element `k` on. -/
def unitSum (ea eb : Nat → Nat) (ba bb k : Nat) : Nat → Int
  | 0 => 0
  | n + 1 => unitSum ea eb ba bb k n + sextBits ba (ea (k + n)) * sextBits bb (eb (k + n))

/-- The units of a BFP sum in ascending order. -/
def bfpSum (ea eb : Nat → Nat) (xa xb : Nat → Nat) (ba bb l : Nat) (neg : Bool) (acc : Nat) : Nat → Nat × Flags
  | 0 => (acc, 0)
  | u + 1 =>
    let r := bfpSum ea eb xa xb ba bb l neg acc u
    let x : Fp :=
      if xa (u * l) = 255 ∨ xb (u * l) = 255 then .nan false
      else
        let s := unitSum ea eb ba bb (u * l) l
        let s' := if neg then -s else s
        .fin ⟨decide (s' < 0), s'.natAbs, (xa (u * l) : Int) + xb (u * l) - 254 + 2 - ba - bb⟩
    let q := a34Add r.1 x
    (q.1, r.2 ||| q.2)

/-- The exact sum of the products of a group from element `k` on (R75; NV beside a NaN: assumption 60). -/
def groupSum (f : Fmt) (ea eb : Nat → Nat) (neg : Bool) (k : Nat) : Nat → Fp × Flags
  | 0 => (.fin ⟨true, 0, 0⟩, 0)
  | n + 1 =>
    let r := groupSum f ea eb neg k n
    let m := mulFp (unpack f (ea (k + n))) (unpack f (eb (k + n)))
    let s := addFp 0 r.1 (if neg then m.1.negate else m.1)
    (s.1, r.2 ||| m.2 ||| s.2)

/-- The groups of a 16-bit sum in ascending order (R75). -/
def halfSum (f : Fmt) (ea eb : Nat → Nat) (neg : Bool) (acc : Nat) : Nat → Nat × Flags
  | 0 => (acc, 0)
  | g + 1 =>
    let r := halfSum f ea eb neg acc g
    let s := groupSum f ea eb neg (8 * g) 8
    let o := roundFp a34 0 s.1
    let q := a34Add r.1 (unpack a34 o.1)
    (q.1, r.2 ||| s.2 ||| (o.2 &&& flagOF) ||| q.2)

/-- One accumulator element of an `MMA` (R121). -/
def mmaElem (fa fb la lb : Nat) (sp z neg : Bool) (row : List Word) (cols : Nat) (xa xb : List Byte) (i j acc : Nat) :
    Nat × Flags :=
  let k := innerK fa fb
  let ba := elemBits fa
  let bb := elemBits fb
  let h := k * ba / 64
  let a (n : Nat) : Nat := if sp then sparseElem row ba h n else denseElem row ba n
  let b (n : Nat) : Nat := cols / 2 ^ (bb * (k * j + n)) % 2 ^ bb
  let c := if z then 0 else acc
  if isBfp fa then
    let na := blockLen la
    let nb := blockLen lb
    let l := min na nb
    bfpSum a b (fun n => (xa.getD (i * (k / na) + n / na) 255).toNat) (fun n => (xb.getD (j * (k / nb) + n / nb) 255).toNat)
      ba bb l neg c (k / l)
  else halfSum (if fa = 9 then bfloat16 else binary16) a b neg c 16

/-! ### Accumulator rows (R70, R125, R323) -/

/-- Where element `j` of row `i` of tile `t` of context `c` is held. -/
def accKey (c t i j : Nat) : Nat := ((c * 16 + t) * 64 + i) * 16 + j

def accRow (s : State) (core c t i : Nat) : List (BitVec 34) :=
  (List.range 16).map fun j => Tbl.get 0 (coreOf s core).acc (accKey c t i j)

/-- The undo log takes a tile row of block `k` at its first write in the interval (R323). -/
def logRow (s : State) (k core c t i : Nat) : State :=
  let b := blockOf s k
  let key := core * 2 ^ 16 + t * 64 + i
  if k = 0 ∨ b.overflow ∨ b.rlog.any (fun e => e.1 == key) then s
  else if 16384 < logBytes s b + 76 then setBlock s k { b with overflow := true, eligible := false }
  else setBlock s k { b with rlog := (key, accRow s core c t i) :: b.rlog }

/-- Row `i` of a tile takes new elements. -/
def setRow (s : State) (k core c t i : Nat) (l : List (BitVec 34)) : State :=
  let s1 := logRow s k core c t i
  let x := coreOf s1 core
  setCore s1 core { x with acc := (l.zipIdx).foldl (fun m e => Tbl.set m (accKey c t i e.2) e.1) x.acc }

/-! ### MSTAT (R123) -/

/-- Operations of the warp in the matrix queue. -/
def matrixLen (s : State) (w : Nat) : Nat :=
  let c := coreOf s (warpOf s w).core
  ((c.q0 ++ c.q1).filter fun e => e.warp == w).length

/-- `MSTAT` as a warp reads it. -/
def readMstat (s : State) (w : Nat) : Word :=
  let v := warpOf s w
  let ctx := (blockOf s v.blk).ctx
  let bind : Nat := match ctx with
    | some c => 32768 + 16384 * c
    | none => 0
  (v.ctl.mstat &&& 0x8F#32) ||| BitVec.ofNat 32 (2 ^ 20 * matrixLen s w + bind)

/-- Flags enter a warp's `MSTAT`: NV, OF, BADMETA, SPOI are bits 0 to 3. -/
def noteMstat (s : State) (w : Nat) (v : Word) : State :=
  setWarp s w { warpOf s w with ctl := { (warpOf s w).ctl with mstat := (warpOf s w).ctl.mstat ||| v } }

def a34Flags (f : Flags) : Word := (if f &&& flagNV = 0 then 0 else 1) ||| (if f &&& flagOF = 0 then 0 else 2)

/-! ### Issue (R119, R120, R126, R130) -/

/-- A matrix word takes a queue entry of its context. -/
def pushMatrix (s : State) (c : Cls) (act : Dword) (zer : Dword) (units : List MUnit) (checked : Option (List (List Word)))
    (what : MOp) : State :=
  let w := curWarp s
  let e : MEntry := ⟨s.cur, w.nextOp, what, act, false, checked, [], [], [], [], false⟩
  let s1 := pushOp s c false { newOp s .matrix with scope := 0, active := act, zeroed := zer, units := units }
  let x := coreOf s1 w.core
  setCore s1 w.core (if (curBlock s).ctx.getD 0 = 0 then { x with q0 := x.q0 ++ [e] } else { x with q1 := x.q1 ++ [e] })

/-- The first register beyond the allocation of a run. -/
def runFault (s : State) (r n : Nat) : Option Nat := if (curWarp s).vregs < r + n then some (max r (curWarp s).vregs) else none

/-- Bytes of the exponent ranges of A and B (R115). -/
def expBytesA (fa fb la w : Nat) : Nat := w * (innerK fa fb / blockLen la)
def expBytesB (fa fb lb : Nat) : Nat := 16 * (innerK fa fb / blockLen lb)

/-- Registers of a run by lane. -/
def runRows (w : Warp) (r n : Nat) : List (List Word) :=
  (lanesOf w).map fun l => (List.range n).map fun i => Tbl.get 0 w.vecs (vecKey (r + i) l)

/-- The lowest active lane with malformed metadata (R122). -/
def badMeta (s : State) (act : Dword) (r fa fb : Nat) : Option Nat :=
  let h := innerK fa fb * elemBits fa / 64
  let row (l : Nat) : List Word := (List.range (regsA fa fb true)).map fun i => readV s (r + i) l
  (lanesOf (curWarp s)).find? fun l => act.getLsbD l && rowBad (row l) h (innerK fa fb)

/-- The exponent reads as units, for their place in program order (R115). -/
def expUnits (s : State) (va : Dword) (n : Nat) : List MUnit := rowUnits s .load ⟨noLane, va, n, [], []⟩

/-- Queues a matrix multiply-accumulate (R119 to R121). -/
def execMma (p : Option Prefix) (sp z nb na : BitVec 1) (t : BitVec 4) (a b : BitVec 7) (s : State) : Result :=
  word (.mma p sp z nb na t a b) s fun s =>
    let base := formatBase p
    let da := matrixDesc (readP s base)
    let db := matrixDesc (readP s (base + 2))
    let act := activeMask s (pfx p)
    let ra := regA s p a
    let rb := regB s p b
    let wd := (curWarp s).width
    let bfp := isBfp da.fmt
    if (da.good && db.good && fmtsOk da.fmt db.fmt) = false then takeTrap s 16 noLane 0 0
    else
      match (runFault s ra (regsA da.fmt db.fmt (sp == 1#1))).or (runFault s rb (regsB da.fmt db.fmt wd)) with
      | some r => takeTrap s 4 noLane (BitVec.ofNat 64 r) 0
      | none =>
        let ea := if bfp then expBytesA da.fmt db.fmt da.len wd else 0
        let eb := if bfp then expBytesB da.fmt db.fmt db.len else 0
        if bfp && !(inOneRegion (curBlock s) da.scale.toNat ea && inOneRegion (curBlock s) db.scale.toNat eb) then
          takeTrap s 16 noLane 0 0
        else
          let traps := sp = 1#1 ∧ (curWarp s).ctl.mstat.getLsbD 7
          let go := pushMatrix s .b act 0 (expUnits s da.scale ea ++ expUnits s db.scale eb)
            (if traps then some (runRows (curWarp s) ra (regsA da.fmt db.fmt true)) else none)
            (.mma da.fmt db.fmt da.len db.len (sp == 1#1) (z == 1#1) (nb == 1#1) (na == 1#1) t.toNat ra rb da.scale db.scale)
          (match (if traps then badMeta s act ra da.fmt db.fmt else none) with
            | some l => takeTrap (noteMstat s s.cur 4) 16 l (BitVec.ofNat 64 l) 0
            | none => go)
/-- Rows of a tile become +0 (R130). -/
def execAccz (p : Option Prefix) (d : BitVec 4) (s : State) : Result :=
  word (.accz p d) s fun s => pushMatrix s .fixed (activeMask s (pfx p)) 0 [] none (.accz d.toNat)
/-- Rows of a tile, converted, into vector registers (R129, R130). -/
def execAccrd (p : Option Prefix) (d : BitVec 7) (a : BitVec 4) (b : BitVec 2) (s : State) : Result :=
  word (.accrd p d a b) s fun s =>
    pushMatrix s .a (activeMask s (pfx p)) (zeroMask s (pfx p)) [] none
      (.accrd (regD s p d) a.toNat b.toNat (BitVec.ofNat 3 (modeOf s p)))
/-- Rows of a tile from vector registers (R129, R130). -/
noncomputable def execAccwr (p : Option Prefix) (d : BitVec 4) (a : BitVec 7) (b : BitVec 2) (s : State) : Result :=
  word (.accwr p d a b) s fun s =>
    pushMatrix s .b (activeMask s (pfx p)) 0 [] none (.accwr d.toNat (regA s p a) b.toNat)
/-- Vector registers added to rows of a tile (R129, R130). -/
noncomputable def execAccadd (p : Option Prefix) (d : BitVec 4) (a : BitVec 7) (b : BitVec 2) (s : State) : Result :=
  word (.accadd p d a b) s fun s =>
    pushMatrix s .b (activeMask s (pfx p)) 0 [] none (.accadd d.toNat (regA s p a) b.toNat)
/-- `MSTAT` after every earlier matrix operation of the warp (R124, R130). -/
noncomputable def execMstatrd (p : Option Prefix) (d : BitVec 7) (s : State) : Result :=
  word (.mstatrd p d) s fun s =>
    pushMatrix s .a 0 0 [] none (.mstatrd (numD p d))
/-- Rows of a tile copied, or exchanged with another's (R130). -/
noncomputable def execMctx (p : Option Prefix) (d a : BitVec 4) (b : BitVec 1) (s : State) : Result :=
  word (.mctx p d a b) s fun s =>
    pushMatrix s .fixed (activeMask s (pfx p)) 0 [] none (.mctx d.toNat a.toNat (b == 1#1))

/-! ### The engine takes an entry (R119, R126) -/

/-- The exponent bytes of a range, line by line: a line that cannot be filled reads as 0xFF (R115). -/
def expRun (s : State) (c : Client) (va : Dword) : List (Nat × Nat) → State × Option (List Byte × Bool)
  | [] => (s, some ([], false))
  | (o, n) :: t =>
    match engRead s c (va + BitVec.ofNat 64 o) n with
    | (s1, .wait) => (s1, none)
    | (s1, r) =>
      match expRun s1 c va t with
      | (s2, none) => (s2, none)
      | (s2, some (l, bad)) =>
        match r with
        | .ok d => (s2, some (d ++ l, bad))
        | _ => (s2, some (List.replicate n 0xFF#8 ++ l, true))

/-- Operands of an entry are read: its entry with them, and the state after the fills; none while it has to wait. -/
def readOperands (s : State) (e : MEntry) : State × Option MEntry :=
  let w := warpOf s e.warp
  match e.what with
  | .mma fa fb la lb sp _ _ _ _ ra rb sa sb =>
    let c := { warpClient s e.warp with warp := e.warp, op := e.op }
    let na := if isBfp fa then expBytesA fa fb la w.width else 0
    let nb := if isBfp fa then expBytesB fa fb lb else 0
    (match expRun s c sa (linesOf sa.toNat na) with
      | (s1, none) => (s1, none)
      | (s1, some (xa, pa)) =>
        match expRun s1 c sb (linesOf sb.toNat nb) with
        | (s2, none) => (s2, none)
        | (s2, some (xb, pb)) =>
          (s2, some { e with
            started := true, rows := e.checked.getD (runRows w ra (regsA fa fb sp)), cols := runRows w rb (regsB fa fb w.width)
            expA := xa, expB := xb, spoi := pa || pb }))
  | .accwr _ a conv => (s, some { e with started := true, rows := runRows w a (convRegs (BitVec.ofNat 2 conv)) })
  | .accadd _ a conv => (s, some { e with started := true, rows := runRows w a (convRegs (BitVec.ofNat 2 conv)) })
  | _ => (s, some { e with started := true })

/-- An operation that has read its registers leaves its flag and no longer holds a clause (R119); its exponent reads
are done. -/
def readsDone (w : Warp) (op : Nat) : Warp :=
  match opOf w op with
  | none => w
  | some o =>
    let w1 := setOp (flagDone w o.flag 1) { o with flag := 15, units := o.units.map fun u => { u with done := true } }
    { w1 with split := w1.split.map fun e => (e.1, { e.2 with holds := e.2.holds.filter fun i => i != op }) }

/-- The entry reads registers only, and none late. -/
def readsOnly (m : MOp) : Bool :=
  match m with
  | .mma .. => true
  | .accwr .. => true
  | .accadd .. => true
  | _ => false

/-- Accesses of the warp that an exponent read must follow are performed (R115, R251). -/
def exponentsReady (s : State) (e : MEntry) : Bool :=
  match opOf (warpOf s e.warp) e.op with
  | some o => o.units.all fun u => (olderMeets (warpOf s e.warp) e.op o.lanes u).isEmpty
  | none => true

def setQueue (c : CoreSt) (ctx : Nat) (l : List MEntry) : CoreSt := if ctx = 0 then { c with q0 := l } else { c with q1 := l }

/-- The engine takes the head of a context's queue. -/
def takeHead (s : State) (core ctx : Nat) : State :=
  match matrixQueue (coreOf s core) ctx with
  | e :: rest =>
    if e.started || !exponentsReady s e then s
    else
      (match readOperands s e with
        | (_, none) => s
        | (s1, some e') =>
          let s2 := if readsOnly e.what then setWarp s1 e.warp (readsDone (warpOf s1 e.warp) e.op) else s1
          setCore s2 core { setQueue (coreOf s2 core) ctx (e' :: rest) with turn := 1 - ctx })
  | [] => s

/-- The head of a context's queue has not been taken. -/
def headWaits (c : CoreSt) (ctx : Nat) : Bool :=
  match matrixQueue c ctx with
  | e :: _ => !e.started
  | [] => false

/-- The engine takes the next entry, in turn between the contexts, and reads its operands (R115 to R119, R126). -/
def execMatrixEngineEntry (core : Nat) (s : State) : Result :=
  .next <|
    let c := coreOf s core
    if headWaits c c.turn then takeHead s core c.turn else takeHead s core (1 - c.turn)

/-! ### Completion (R121, R123, R129 to R131) -/

/-- An element of a row of registers, as A34 bits, by its conversion code (R72, R129). -/
def elemIn (row : List Word) (conv j : Nat) : Nat :=
  let h := denseElem row 16 j
  match conv with
  | 0 => (fconv binary32 a34 0 (denseElem row 32 j)).1
  | 1 => (fconv binary16 a34 0 h).1
  | 2 => (fconv bfloat16 a34 0 h).1
  | _ =>
    let v := denseElem row 64 j % 2 ^ 34
    if v / 2 ^ 23 % 1024 = 0 then v / 2 ^ 33 * 2 ^ 33 else v

/-- An A34 element as it leaves: its bits in the target format, and flags (R72). -/
def elemOut (conv mode v : Nat) : Nat × Flags :=
  match conv with
  | 0 => fconv a34 binary32 mode v
  | 1 => fconv a34 binary16 mode v
  | 2 => fconv a34 bfloat16 mode v
  | _ => (v, 0)

/-- Register `r` of a row that leaves. -/
def rowOut (row : List (BitVec 34)) (conv mode r : Nat) : Word :=
  let x (j : Nat) : Nat := (elemOut conv mode (row.getD j 0).toNat).1
  match conv with
  | 0 => BitVec.ofNat 32 (x r)
  | 3 => BitVec.ofNat 32 (x (r / 2) / 2 ^ (32 * (r % 2)))
  | _ => BitVec.ofNat 32 (x (2 * r) + 65536 * x (2 * r + 1))

/-- Flags of a row that leaves. -/
def rowFlags (row : List (BitVec 34)) (conv mode : Nat) : Flags :=
  row.foldl (fun f v => f ||| (elemOut conv mode v.toNat).2) 0

/-- The rows of a tile over the active lanes take new elements: the state, and the flags. -/
def updateRows (s : State) (k core c t : Nat) (act : Dword) (f : Nat → Nat → Nat → Nat × Flags) : List Nat → State × Flags
  | [] => (s, 0)
  | i :: is =>
    let r := updateRows s k core c t act f is
    if act.getLsbD i then
      let l := (accRow r.1 core c t i).zipIdx.map fun e => f i e.2 e.1.toNat
      (setRow r.1 k core c t i (l.map fun e => BitVec.ofNat 34 e.1), l.foldl (fun g e => g ||| e.2) r.2)
    else r

/-- The effect of a matrix operation on its context (R121, R130). -/
def matrixEffect (s : State) (core ctx : Nat) (e : MEntry) (o : PendOp) : State :=
  let w := warpOf s e.warp
  let k := w.blk
  let lanes := lanesOf w
  let act := e.active
  match e.what with
  | .mma fa fb la lb sp z nb na tile _ _ _ _ =>
    let cols := rowBits e.cols.flatten
    let r := updateRows s k core ctx tile act (fun i j acc =>
      mmaElem fa fb la lb sp z (na != nb) (e.rows.getD i []) cols e.expA e.expB i j acc) lanes
    let bad := sp && lanes.any fun l => act.getLsbD l && rowBad (e.rows.getD l []) (innerK fa fb * elemBits fa / 64) (innerK fa fb)
    noteMstat r.1 e.warp (a34Flags r.2 ||| (if bad then 4 else 0) ||| (if e.spoi && act != 0 then 8 else 0))
  | .accz tile => (updateRows s k core ctx tile act (fun _ _ _ => (0, 0)) lanes).1
  | .accrd d tile conv rnd =>
    let t := asWarp s e.warp o.frag
    let row (l : Nat) : List (BitVec 34) := accRow s core ctx tile l
    mergeFlags (writeRun t o d (fun r l => rowOut (row l) conv rnd.toNat r) (convRegs (BitVec.ofNat 2 conv)))
      (laneFlags act (fun l => rowFlags (row l) conv rnd.toNat) lanes)
  | .accwr tile _ conv =>
    (updateRows s k core ctx tile act (fun i j _ => (elemIn (e.rows.getD i []) conv j, 0)) lanes).1
  | .accadd tile _ conv =>
    let r := updateRows s k core ctx tile act (fun i j acc => a34Add acc (unpack a34 (elemIn (e.rows.getD i []) conv j))) lanes
    noteMstat r.1 e.warp (a34Flags r.2)
  | .mstatrd d => writeS (asWarp s e.warp o.frag) d (readMstat s e.warp)
  | .mctx d a swap =>
    let old (t i : Nat) : List (BitVec 34) := accRow s core ctx t i
    let s1 := (updateRows s k core ctx d act (fun i j _ => (((old a i).getD j 0).toNat, 0)) lanes).1
    if swap then (updateRows s1 k core ctx a act (fun i j _ => (((old d i).getD j 0).toNat, 0)) lanes).1 else s1

/-- An `MMA` word completed is counted for its tenant (R367). -/
def countMma (s : State) (e : MEntry) : State :=
  match e.what with
  | .mma .. => countFor s e.warp 2 1
  | _ => s

/-- The operation at the head of a context's queue completes (R121, R126, R130); `QLEN` as `MSTATRD` reads it leaves out that word
itself (R123; assumption 64). -/
def execMatrixOpComplete (core ctx : Nat) (s : State) : Result :=
  .next <|
    match matrixQueue (coreOf s core) ctx with
    | e :: rest =>
      if e.started = false then s
      else
        let t := setCore s core (setQueue (coreOf s core) ctx rest)
        withOp t e.warp e.op fun o => retireOp (countMma (matrixEffect t core ctx e o) e) e.warp o
    | [] => s

end Sys2Proof.Machine
end

