-- ==== Sys2Proof/Machine/Queues.lean ====
section
/-! DEFINITION. Streams, operand queues, `SENDM`, `CWAIT` and `CRD`, majors 0x29 and 0x2A (R241 to R247). -/

namespace Sys2Proof.Machine

/-! ### Streams (R241, R242) -/

def streamOf (w : Warp) (q : Nat) : Stream := Tbl.get Stream.blank w.streams q

/-- Fields of SHAPE. -/
def shapeC0 (x : Word) : Nat := x.toNat % 4096 + 1
def shapeC1 (x : Word) : Nat := x.toNat / 4096 % 4096 + 1
def shapeEsz (x : Word) : Nat := x.toNat / 2 ^ 24 % 4
def shapeSign (x : Word) : Bool := x.getLsbD 26
def shapeQueue (x : Word) : Nat := x.toNat / 2 ^ 27 % 8

/-- Entries of a stream at width `n`. -/
def streamTotal (x : Stream) (n : Nat) : Nat := (shapeC0 x.shape * shapeC1 x.shape + n - 1) / max 1 n

/-- Starts a stream from a descriptor in four scalars (R241). -/
def execStrm (p : Option Prefix) (a : BitVec 7) (s : State) : Result :=
  word (.strm p a) s fun s =>
    let a' := numA p a
    let base := readP s a'
    let x := readS s (a' + 3)
    if shapeEsz x = 3 ∨ 6 ≤ shapeQueue x ∨ 2 ^ 30 ≤ x.toNat then takeTrap s 15 noLane (x.setWidth 64) 0
    else if base.toNat % 2 ^ shapeEsz x ≠ 0 then takeTrap s 15 noLane base 0
    else if (streamOf (curWarp s) (shapeQueue x)).active then takeTrap s 15 noLane (x.setWidth 64) 0
    else
      setCur s { curWarp s with
        streams := Tbl.set (curWarp s).streams (shapeQueue x)
          ⟨base, readS s (a' + 2), x, (curWarp s).nextOp, 0, true, false, false⟩ }

/-- The address of element `i` (R241). -/
def elementVa (x : Stream) (i : Nat) : Dword :=
  let s0 := (x.strides.extractLsb' 0 16).toInt
  let s1 := (x.strides.extractLsb' 16 16).toInt
  let c0 := shapeC0 x.shape
  x.base + BitVec.ofInt 64 ((i % c0 : Nat) * s0 + (i / c0 : Nat) * (16 * s1))

/-- An element as a lane. -/
def elementValue (x : Stream) (b : List Byte) : Word :=
  let v := leNat b
  if shapeSign x.shape then
    (if shapeEsz x.shape = 0 then (BitVec.ofNat 8 v).signExtend 32
      else if shapeEsz x.shape = 1 then (BitVec.ofNat 16 v).signExtend 32 else BitVec.ofNat 32 v)
  else BitVec.ofNat 32 v

/-- The lanes of the next entry, read one after another; lanes past the last element receive 0. -/
def readEntry (s : State) (c : Client) (x : Stream) (first : Nat) : Nat → State × Eng (List Word)
  | 0 => (s, .ok [])
  | n + 1 =>
    match readEntry s c x first n with
    | (s1, .ok l) =>
      if shapeC0 x.shape * shapeC1 x.shape ≤ first + n then (s1, .ok (l ++ [0]))
      else
        (match engReads s1 c (elementVa x (first + n)) (2 ^ shapeEsz x.shape) with
          | (s2, .ok b) => (s2, .ok (l ++ [elementValue x b]))
          | (s2, .wait) => (s2, .wait)
          | (s2, .poison) => (s2, .poison)
          | (s2, _) => (s2, .fault))
    | r => r

def setStream (s : State) (w q : Nat) (x : Stream) : State :=
  setWarp s w { warpOf s w with streams := Tbl.set (warpOf s w).streams q x }

/-- The address engine appends an entry to a queue that holds fewer than 16, or stops (R241, R242). -/
def execStreamEntryProduce (w q : Nat) (s : State) : Result :=
  .next <|
    let v := warpOf s w
    let x := streamOf v q
    if x.active = false ∨ 16 ≤ (queueOf v q).length ∨ olderPerformed v x.after = false then s
    else
      match readEntry s { warpClient s w with bare := true } x (x.pos * v.width) v.width with
      | (s1, .ok l) =>
        let last := decide (streamTotal x v.width ≤ x.pos + 1)
        let s2 := setStream s1 w q { x with pos := x.pos + 1, active := !last, finished := last }
        setWarp s2 w { warpOf s2 w with queues := Tbl.set (warpOf s2 w).queues q (queueOf (warpOf s2 w) q ++ [l]) }
      | (_, .wait) => s
      | (s1, _) => setStream s1 w q { x with active := false, fault := true }

/-! ### Queues (R243) -/

/-- `QSTAT`. -/
def queueStatus (w : Warp) (q : Nat) : Word :=
  let x := if q = 7 then Stream.blank else streamOf w q
  let left := if x.active then min 0xFFFFF (streamTotal x w.width - x.pos) else 0
  BitVec.ofNat 32 (4096 * left + (if x.fault then 1024 else 0) + (if x.finished then 512 else 0) +
    (if x.active then 256 else 0) + (queueOf w q).length)

/-- Stops the stream of a queue and discards its entries (R243). -/
def execQstop (p : Option Prefix) (a : BitVec 3) (s : State) : Result :=
  word (.qstop p a) s fun s =>
    setCur s { curWarp s with
      streams := Tbl.del (curWarp s).streams a.toNat, queues := Tbl.del (curWarp s).queues a.toNat }
/-- The status of a queue (R243). -/
def execQstat (p : Option Prefix) (d : BitVec 7) (a : BitVec 3) (s : State) : Result :=
  word (.qstat p d a) s fun s => writeS s (numD p d) (queueStatus (curWarp s) a.toNat)
/-- Pops one entry of a queue into a vector register (R47, R243). -/
def execQpop (p : Option Prefix) (d : BitVec 7) (a : BitVec 3) (s : State) : Result :=
  word (.qpop p d a) s fun s =>
    popQueues (putVec s p d fun l => queueFront s a.toNat l) [a.toNat]

/-! ### SENDM (R244, R245) -/

/-- Warp indices set in a scalar. -/
def indicesOf (v : Word) : List Nat := (List.range 32).filter fun i => v.getLsbD i

/-- Sends a vector register to `q7` of warps of the block (R244). -/
def execSendm (p : Option Prefix) (a b : BitVec 7) (s : State) : Result :=
  word (.sendm p a b) s fun s =>
    let t := indicesOf (scaA s p a)
    if t.any fun i => decide ((curBlock s).cmd.warps ≤ i) then takeTrap s 15 noLane ((scaA s p a).setWidth 64) 0
    else if t.isEmpty then opNow s .b
    else pushOp s .b false { newOp s (.sendm t) with vals := rowOf (curWarp s) (regB s p b) }

/-- The resident warp of a block with an index, if it has not exited. -/
def warpIndexed (s : State) (k i : Nat) : Option Nat :=
  (blockOf s k).warps.find? fun w => (warpOf s w).index == i && (warpOf s w).status != .exited

/-- An older `SENDM` of the warp still waits for the target: entries arrive in issue order. -/
def olderSend (w : Warp) (id target : Nat) : Bool :=
  w.pend.any fun o => decide (o.id < id) && (match o.kind with
    | .sendm l => l.contains target
    | _ => false)

/-- A warp's `q7` takes an entry when it holds fewer than 16; an exited warp's is dropped (R244, R245). -/
def execSendmAccept (w op target : Nat) (s : State) : Result :=
  .next <|
    withOp s w op fun o =>
      match o.kind with
      | .sendm l =>
        if l.contains target = false ∨ olderSend (warpOf s w) op target ∨ olderPerformed (warpOf s w) op = false then s
        else
          let rest := l.filter fun i => i != target
          let fin (t : State) : State :=
            if rest.isEmpty then retireOp t w o else setWarp t w (setOp (warpOf t w) { o with kind := .sendm rest })
          (match warpIndexed s (warpOf s w).blk target with
            | none => fin s
            | some k =>
              if 16 ≤ (queueOf (warpOf s k) 7).length then s
              else
                fin (setWarp s k { warpOf s k with
                  queues := Tbl.set (warpOf s k).queues 7 (queueOf (warpOf s k) 7 ++ [o.vals]) }))
      | _ => s

/-! ### CWAIT, CRD (R246, R247) -/

/-- Issues only when the counter is at most its bound (R226, R247). -/
def execCwait (p : Option Prefix) (a : BitVec 2) (i : BitVec 7) (s : State) : Result :=
  word (.cwait p a i) s fun s => s
/-- The counter of a class (R246). -/
def execCrd (p : Option Prefix) (d : BitVec 7) (a : BitVec 2) (s : State) : Result :=
  word (.crd p d a) s fun s => writeS s (numD p d) (BitVec.ofNat 32 (counterOf (curWarp s) a.toNat))

end Sys2Proof.Machine
end

