-- ==== Sys2Proof/Machine/Image.lean ====
section
/-! DEFINITION. Saving and restoring blocks (R128, R152, R248, R320), and the context image in memory (R132, R306,
R307). Where R306 gives a part and its size only, the fields stand in the order in which it names them, one warp after
another (assumption 13). -/

namespace Sys2Proof.Machine

/-! ### Banks (R125, R128) -/

/-- The key of an element of a saved bank: half of the gang, tile, row, column. -/
def savedKey (h t i j : Nat) : Nat := ((h * 16 + t) * 64 + i) * 16 + j

/-- Rows 0 to W − 1 of the bank of context `ctx` on a core, as half `h` of a saved bank. -/
def bankOf (s : State) (core ctx width h : Nat) : Tbl (BitVec 34) :=
  ((coreOf s core).acc.filter fun e => e.1 / 16384 == ctx && decide (e.1 / 16 % 64 < width) && e.2 != 0).map fun e =>
    (h * 16384 + e.1 % 16384, e.2)

/-- The bank of context `ctx` on a core takes half `h` of a saved bank; its other rows are +0. -/
def loadBank (s : State) (core ctx h : Nat) (rows : Tbl (BitVec 34)) : State :=
  let c := coreOf s core
  setCore s core { c with
    acc := (rows.filter fun e => e.1 / 16384 == h).foldl (fun t e => Tbl.set t (ctx * 16384 + e.1 % 16384) e.2)
      (c.acc.filter fun e => e.1 / 16384 != ctx) }

/-! ### Saving and restoring (R152, R320) -/

/-- The block's registers, latches, queues, streams and banks leave the core; dirty stash lines are written back, and
the regions stay mapped without lines. -/
def saveBlock (s : State) (k : Nat) : State :=
  let b := blockOf s k
  let rows := match b.ctx with
    | some c => bankOf s b.core c b.cmd.width 0 ++ (if b.gang then bankOf s (b.core + 1) c b.cmd.width 1 else [])
    | none => []
  let s1 := dropLines s k (fun _ => true) true
  let s2 := { s1 with warps := b.warps.foldl (fun t w => Tbl.del t w) s1.warps }
  setBlock s2 k { blockOf s2 k with
    status := .saved, saved := b.warps.map fun w => { warpOf s w with lease := none }, savedRows := rows, warps := [], ctx := none
    eligible := false }

/-- A saved LEAF resolves its PC where it runs again (R159). -/
def freshEntries (w : Warp) : Warp :=
  { w with split := w.split.map fun e => (e.1, if e.2.state = .leaf then { e.2 with fresh := true } else e.2) }

/-- A saved warp that runs again on a core and slot; a TRAPPED one stays so (R320). -/
def restoreWarp (c : Command) (core key : Nat) (w : Warp) : Warp :=
  { freshEntries w with
    core := warpCore c core w.index
    slot := (key - 16) % 64
    upper := decide (lowerWarps c ≤ w.index)
    status := match w.status with
      | .trapping => .trapping
      | .trapped => .trapped
      | .exited => .exited
      | _ => .running }

/-- A saved block runs again on a core (R152). -/
def restoreBlock (s : State) (k core slot ctx : Nat) : State :=
  let b := blockOf s k
  let place (w : Warp) : Nat := warpPlace s b.cmd core w.index
  let s1 := b.saved.foldl (fun t w => setWarp t (place w) (restoreWarp b.cmd core (place w) w)) s
  let s2 := if wantsCtx b.cmd then
      (let t := loadBank s1 core ctx 0 b.savedRows; if b.gang then loadBank t (core + 1) ctx 1 b.savedRows else t)
    else s1
  setBlock s2 k { b with
    status := .running, core := core, slot := slot, ctx := if wantsCtx b.cmd then some ctx else none
    warps := b.saved.map place, saved := [], savedRows := [], group := groupOfCore core, image := none }

/-! ### The image: its parts (R306) -/

def zeros (n : Nat) : List Byte := List.replicate n 0

def stateCode : EState → Nat
  | .free => 0
  | .leaf => 1
  | .parked => 2
  | .arrived => 3
  | .join => 4

/-- A split table entry as saved (R132). -/
def entryBits (x : Entry) : BitVec 384 :=
  x.pend ++ x.owned ++ x.exec ++ x.pc ++ x.rcvOff ++ x.altOff ++ x.srcv ++ x.parent ++ BitVec.ofNat 3 (stateCode x.state) ++
    x.ser ++ x.pendx ++ 0#7

def wordsBytes (l : List Word) : List Byte := l.flatMap fun v => leBytes 4 v.toNat

/-- The control part of a warp: 1,024 bytes. Bit 0 of the monitor's address, a multiple of 8, says that it is armed
(assumption 13). -/
def controlBytes (w : Warp) : List Byte :=
  let mon := match w.ctl.mon with
    | some va => leBytes 8 (va.toNat + 1)
    | none => zeros 8
  wordsBytes ((List.range 192).map fun i => Tbl.get 0 w.scalars i) ++
    ((List.range 7).flatMap fun i => leBytes 8 (Tbl.get (0 : Dword) w.masks (i + 1)).toNat) ++
    wordsBytes [w.ctl.wstat, w.ctl.mstat, w.ctl.swzsel, w.ctl.wb.setWidth 32, fenceStatus w.ctl.fBlk, fenceStatus w.ctl.fClu,
      fenceStatus w.ctl.fDev, fenceStatus w.ctl.fSys] ++ mon ++ zeros 160

/-- The split table of a warp: 384 bytes. -/
def splitBytes (w : Warp) : List Byte := (List.range 8).flatMap fun i => leBytes 48 (entryBits (entryOf w i)).toNat

/-- A queue: its count and 16 entries. -/
def queueBytes (w : Warp) (q : Nat) : List Byte :=
  let l := (queueOf w q).take 16
  leBytes 4 l.length ++ wordsBytes (l.flatMap fun e => (List.range w.width).map fun i => e.getD i 0) ++
    zeros ((16 - l.length) * 4 * w.width)

/-- A stream record: its descriptor while it produces, else zero. -/
def streamBytes (w : Warp) (q : Nat) : List Byte :=
  let x := streamOf w q
  if x.active then leBytes 8 x.base.toNat ++ wordsBytes [x.strides, x.shape] else zeros 16

/-- Latches, queues and streams of a warp. -/
def queuePart (w : Warp) : List Byte :=
  wordsBytes ((lanesOf w).map fun l => Tbl.get 0 w.edgeL l) ++ wordsBytes ((lanesOf w).map fun l => Tbl.get 0 w.edgeR l) ++
    ([0, 1, 2, 3, 4, 5, 7].flatMap (queueBytes w)) ++ ((List.range 6).flatMap (streamBytes w))

def vectorBytes (w : Warp) : List Byte := wordsBytes ((List.range w.vregs).flatMap (rowOf w))

/-- Bytes of one warp's parts. -/
def warpBytes (w : Warp) : List Byte := controlBytes w ++ splitBytes w ++ queuePart w ++ vectorBytes w

/-- Length of one warp's parts. -/
def warpLen (width vregs : Nat) : Nat := 1408 + (8 * width + 7 * (4 + 64 * width) + 96) + vregs * 4 * width

def bankLen : Nat := 69632

/-- Length of an image. -/
def imageLen (c : Command) : Nat :=
  64 + c.warps * warpLen c.width c.vregs + c.stash * 1024 + (if wantsCtx c then bankLen else 0)

def widthCode (n : Nat) : Nat := if n = 16 then 0 else if n = 32 then 1 else 2

def imageMagic : Nat := 0x58544347

/-- The header: 64 bytes. -/
def headerBytes (b : Block) (forced : Bool) : List Byte :=
  let c := b.cmd
  leBytes 4 imageMagic ++ leBytes 4 (imageLen c) ++ leBytes 1 c.warps ++ leBytes 1 (widthCode c.width) ++
    leBytes 1 ((if forced then 1 else 0) + (if wantsCtx c then 2 else 0) + (if b.gang then 4 else 0)) ++ leBytes 1 b.world ++
    leBytes 2 c.vregs ++ leBytes 2 c.stash ++ leBytes 1 b.tenant ++ zeros 47

/-- The bytes of the stash share: each resident line at its stash offset. -/
def stashBytes (s : State) (b : Block) : List Byte :=
  b.lines.foldl (fun l x =>
    match b.regions.find? fun e => decide (0 < e.2.len ∧ e.2.base ≤ x.va ∧ x.va < e.2.base + e.2.len * 128) with
    | some e => patch l (e.2.off * 128 + (x.va - e.2.base)) (lineBytes s x)
    | none => l) (zeros (b.cmd.stash * 1024))

/-- The bank, packed at 34 bits an element. -/
def bankBytes (rows : Tbl (BitVec 34)) : List Byte :=
  leBytes bankLen (((rows.filter fun e => e.1 < 16384).map fun e => e.2.toNat * 2 ^ (34 * e.1)).sum)

/-- The warp of an index among those saved; a warp that has exited has every entry FREE. -/
def savedWarp (l : List Warp) (i : Nat) : Warp := (l.find? fun w => w.index == i).getD Warp.blank

/-- An image stands at `a`: its bytes, and what it records beside them (R306, R320). -/
def putImage (s : State) (a : Nat) (bytes : List Byte) (b : Block) (lines : List SLine) : State :=
  let t := writeBytes s a bytes
  { t with contexts := Tbl.set t.contexts a ⟨bytes.take 64, b, lines⟩ }

/-- What the image at `a` records beside its bytes `l`. -/
def contextAt (s : State) (a : Nat) (l : List Byte) : Block :=
  let c := Tbl.get Context.blank s.contexts a
  if c.header = l.take 64 then c.block else Block.blank

/-- The image of a block whose warps are `l`, with its banks. -/
def imageBytes (s : State) (b : Block) (l : List Warp) (rows : Tbl (BitVec 34)) (forced : Bool) : List Byte :=
  headerBytes b forced ++
    ((List.range b.cmd.warps).flatMap fun i =>
      warpBytes { savedWarp l i with width := b.cmd.width, vregs := b.cmd.vregs }) ++
    stashBytes s b ++ (if wantsCtx b.cmd then bankBytes rows else [])

/-! ### Reading an image (R307) -/

/-- `n` bytes of an image at an offset, as a number. -/
def num (l : List Byte) (off n : Nat) : Nat := leNat ((l.drop off).take n)

def stateOfCode (n : Nat) : EState :=
  match n with
  | 1 => .leaf
  | 2 => .parked
  | 3 => .arrived
  | 4 => .join
  | _ => .free

/-- A saved split table entry of a warp with the lanes `mask` (R91); a PARKED one has the wait of `old`, or goes on as a LEAF
(assumption 13). -/
def entryFrom (v : BitVec 384) (mask : Dword) (old : Entry) : Entry :=
  let st := stateOfCode (v.extractLsb' 73 3).toNat
  let x : Entry := { Entry.blank with
    state := st, pend := v.extractLsb' 320 64 &&& mask, owned := v.extractLsb' 256 64 &&& mask, exec := v.extractLsb' 192 64 &&& mask
    pc := v.extractLsb' 128 64, rcvOff := v.extractLsb' 112 16, altOff := v.extractLsb' 96 16
    srcv := v.extractLsb' 80 16, parent := v.extractLsb' 76 4, ser := v.extractLsb' 71 2, pendx := v.extractLsb' 7 64 &&& mask }
  if st = .parked then
    (if old.state = .parked then { x with wait := old.wait, side := old.side, here := old.here } else { x with state := .leaf })
  else x

def fenceFrom (v : Word) : FenceRec :=
  ⟨v.getLsbD 0, v.getLsbD 1, v.getLsbD 2, v.getLsbD 3, (v.extractLsb' 8 8).toNat⟩

/-- Split table entry `i` of a warp's parts. -/
def splitFrom (l : List Byte) (i : Nat) : BitVec 384 := BitVec.ofNat 384 (num l (1024 + 48 * i) 48)

/-- A malformed context (R132, R307). -/
def splitBad (l : List Byte) : Bool :=
  let e (i : Nat) : BitVec 384 := splitFrom l i
  let st (i : Nat) : Nat := ((e i).extractLsb' 73 3).toNat
  let par (i : Nat) : Nat := ((e i).extractLsb' 76 4).toNat
  let live (i : Nat) : Bool := st i == 1 || st i == 2
  let above (reach : List Nat) : List Nat := reach ++ (reach.map par).filter (· < 8)
  (List.range 8).any fun i =>
    decide (5 ≤ st i) || ((e i).extractLsb' 192 64 &&& ~~~ ((e i).extractLsb' 256 64) != 0#64) ||
      ((e i).extractLsb' 7 64 &&& ~~~ ((e i).extractLsb' 320 64) != 0#64) ||
      (st i == 4 && !((List.range 8).any fun j => live j && ((List.range 8).foldl (fun r _ => above r) [j]).contains i))

/-- A warp from its parts; what the layout does not hold comes from `old` (assumption 13), and RM of `WSTAT` is kept as it is
(assumption 59). -/
def warpFrom (l : List Byte) (width vregs idx : Nat) (old : Warp) : Warp :=
  let w32 (off : Nat) : Word := BitVec.ofNat 32 (num l off 4)
  let qlen := 4 + 64 * width
  let q0 := 1408 + 8 * width
  let queue (n : Nat) : List (List Word) := (List.range (min 16 (num l (q0 + qlen * n) 4))).map fun e =>
    (List.range width).map fun i => w32 (q0 + qlen * n + 4 + 4 * (width * e + i))
  let stream (n : Nat) : Stream :=
    let off := q0 + 7 * qlen + 16 * n
    let x : Stream := { Stream.blank with base := BitVec.ofNat 64 (num l off 8), strides := w32 (off + 8), shape := w32 (off + 12) }
    let o := streamOf old n
    if num l off 16 = 0 then { o with active := false }
    else if o.base = x.base ∧ o.strides = x.strides ∧ o.shape = x.shape then o else { x with active := true }
  let v0 := q0 + 7 * qlen + 96
  let mask := BitVec.ofNat 64 (2 ^ width - 1)
  let ents := (List.range 8).map fun i => (i, entryFrom (splitFrom l i) mask (entryOf old i))
  { old with
    index := idx, width := width, vregs := vregs
    status := if ents.all fun e => e.2.state == .free then .exited else if old.status = .absent then .halted else old.status
    scalars := (List.range 192).foldl (fun t i => Tbl.set t i (w32 (4 * i))) []
    masks := (List.range 7).foldl (fun t i => Tbl.set t (i + 1) (BitVec.ofNat 64 (num l (768 + 8 * i) 8) &&& mask)) []
    ctl := ⟨w32 824 &&& 0x00FF00FF, w32 828 &&& 0x8F, w32 832 &&& 7, BitVec.ofNat 10 (num l 836 4), fenceFrom (w32 840),
      fenceFrom (w32 844), fenceFrom (w32 848), fenceFrom (w32 852),
      if num l 856 8 % 2 = 1 then some (BitVec.ofNat 64 (num l 856 8 / 8 * 8)) else none⟩
    split := ents.foldl (fun t e => Tbl.set t e.1 e.2) []
    edgeL := (List.range width).foldl (fun t i => Tbl.set t i (w32 (1408 + 4 * i))) []
    edgeR := (List.range width).foldl (fun t i => Tbl.set t i (w32 (1408 + 4 * (width + i)))) []
    queues := [(0, queue 0), (1, queue 1), (2, queue 2), (3, queue 3), (4, queue 4), (5, queue 5), (7, queue 6)]
    streams := (List.range 6).foldl (fun t n => Tbl.set t n (stream n)) []
    vecs := (List.range vregs).foldl (fun t r => (List.range width).foldl (fun t i =>
      Tbl.set t (vecKey r i) (w32 (v0 + 4 * (width * r + i)))) t) [] }

/-- The command part that a header gives (R306). -/
def headerCmd (l : List Byte) : Command :=
  let f := num l 10 1
  { Command.blank with
    kind := 1, flags := (if f.testBit 2 then 2 else 0) + (if f.testBit 1 then 4 else 0), grid := 1, warps := num l 8 1
    width := 16 * 2 ^ num l 9 1, vregs := num l 12 2, stash := num l 14 2 }

/-- Registers a warp may have at a width (R34). -/
def vregsGood (width vregs : Nat) : Bool := vregs % 8 == 0 && decide (vregs * width ≤ 16384)

/-- Code 1: a header field out of range, a wrong magic value or length, or a nonzero zero byte. -/
def headerBad (l : List Byte) : Bool :=
  let c := headerCmd l
  num l 0 4 != imageMagic || decide (c.warps = 0 ∨ 32 < c.warps) || decide (2 < num l 9 1) || decide (7 < num l 10 1) ||
    !vregsGood c.width c.vregs || decide (512 < c.stash) || decide (63 < num l 16 1) || num l 17 47 != 0 ||
    num l 4 4 != imageLen c

/-- The parts of warp `i` in an image. -/
def warpPart (l : List Byte) (c : Command) (i : Nat) : List Byte :=
  (l.drop (64 + i * warpLen c.width c.vregs)).take (warpLen c.width c.vregs)

/-- The remainder of a control part is not zero. -/
def controlBad (l : List Byte) : Bool := num l 864 160 != 0

/-- An element as it reads: with EXP 0 its FRAC is zero (R70). -/
def elemFrom (v : BitVec 34) : BitVec 34 := if v.extractLsb' 23 10 = 0#10 then v.extractLsb' 23 11 ++ 0#23 else v

/-- The elements of a packed bank. -/
def bankFrom (l : List Byte) : Tbl (BitVec 34) :=
  let v := leNat l
  ((List.range 16384).map fun i => (i, elemFrom (BitVec.ofNat 34 (v / 2 ^ (34 * i))))).filter fun e => e.2 ≠ 0

/-- `n` bytes from a physical address lie wholly in CONTEXT frames. -/
def inContext (s : State) (pa n : Nat) : Bool :=
  (List.range ((pa + n - 1) / 65536 + 1 - pa / 65536)).all fun i =>
    hasType s (pa / 65536 + i) && teType (typeOf s (pa / 65536 + i)) == 6

/-- A line of a run of bytes is poisoned. -/
def runPoison (s : State) (pa n : Nat) : Bool := (List.range (n / 128 + 2)).any fun i =>
  decide (pa / 128 * 128 + 128 * i < pa + n) && isPoison s (pa + 128 * i)

end Sys2Proof.Machine
end

