-- ==== Sys2Proof/Machine/System.lean ====
section
/-! DEFINITION. Special registers, `RETYPE`, `FRQ` and the service words, major 0x50 (R297 to R309), with the changes of
a world latch and of a key slot that they begin (R286, R290). -/

namespace Sys2Proof.Machine

/-! ### Service cores (R304, R305) -/

/-- A pending cause of a service core is set. -/
def setPend (s : State) (k bit : Nat) : State :=
  setSvc s k { svcOf s k with pend := (svcOf s k).pend ||| BitVec.ofNat 4 (2 ^ bit) }

/-- `SVST` as it reads. -/
def svstWord (c : SvcCore) : Word :=
  BitVec.ofNat 32 (65536 * c.hold.toNat + 16 * c.shelves.length + (if c.priv then 1 else 0))

def writeSvst (s : State) (k : Nat) (v : Word) : State := setSvc s k { svcOf s k with hold := v.extractLsb' 16 4 }

/-- The top shelf, blank with none in use. -/
def topShelf (c : SvcCore) : Shelf := c.shelves.headD ⟨0, 0, 0, 0⟩

/-- A write of `SHPC`, `SHCAUSE` or `SHVAL` (R304): of `SHCAUSE`, RETPRIV only. -/
def writeShelf (s : State) (k r : Nat) (v : Dword) : State :=
  let c := svcOf s k
  match c.shelves with
  | [] => s
  | x :: rest =>
    let y : Shelf := if r = 0x801 then { x with pc := v }
      else if r = 0x802 then { x with cause := (v.extractLsb' 31 1) ++ x.cause.extractLsb' 0 31 }
      else if r = 0x803 then { x with value := v } else x
    setSvc s k { c with shelves := y :: rest }

/-- A write of `SVPEND`: bits written as 1 clear, but bit 0 stays while messages remain (R305). -/
def clearPend (s : State) (k : Nat) (v : Word) : State :=
  let c := svcOf s k
  let keep : BitVec 4 := if c.msgs.isEmpty then 0 else c.pend &&& 1
  setSvc s k { c with pend := (c.pend &&& ~~~ (v.setWidth 4)) ||| keep }

/-- The oldest message, popped, or all ones (R305). -/
def popMessage (s : State) (k : Nat) : State × Word :=
  let c := svcOf s k
  match c.msgs with
  | [] => (s, 0xFFFFFFFF)
  | m :: rest => (setSvc s k { c with msgs := rest }, m)

/-- A message enters the queue of core `k`, which has room. -/
def enqueue (s : State) (k : Nat) (m : Word) : State :=
  setPend (setSvc s k { svcOf s k with msgs := (svcOf s k).msgs ++ [m] }) k 0

/-! ### Special registers (R298 to R301) -/

/-- Two free words (assumption 1). -/
def freeDword (s : State) : State × Dword :=
  ({ s with freeCtr := s.freeCtr + 2 }, Config.freeValue (s.freeCtr + 1) ++ Config.freeValue s.freeCtr)

/-- `WIDTH` (R299). -/
def widthWord (w : Warp) : Word := BitVec.ofNat 32 (65536 * w.vregs + w.width)

/-- `WARPID` of warp `k` (R299). -/
def warpIdWord (k : Nat) (w : Warp) : Word :=
  if k < 16 then BitVec.ofNat 32 (2 ^ 17 * (k / 4) + 2048 * (Config.serviceCore k).toNat)
  else BitVec.ofNat 32
    ((if w.upper then 2 ^ 19 else 0) + 2 ^ 17 * (w.core / 40) + 2048 * (w.core % 40) + 32 * w.slot + w.index)

/-! `FEAT` and `CAPn` take their values with the last step of bring-up, and read 0 before (R365; assumption 4). -/

/-- `FEAT` for a reader (R300). -/
def featWord (s : State) (service scalar matrix : Bool) : Word :=
  if s.plat.step < 7 then 0
  else BitVec.ofNat 32 ((match s.part with
      | .gx9 => 0x0C0F06
      | .gx9h => 0x060300) +
    (if service then 16 else 0) + (if scalar then 8 else 0) + (if matrix then 1 else 0))

/-- `CAP0` to `CAP7` (R300). -/
def capWord (s : State) (n : Nat) : Word :=
  if s.plat.step < 7 then 0
  else match n, s.part with
  | 0, .gx9 => 0x000BFA00
  | 0, .gx9h => 0x0005FD00
  | 1, .gx9 => s.plat.cap1
  | 2, _ => 0xFFFFFFFF
  | 3, .gx9 => 0xFFFFFFFF
  | 3, .gx9h => 0x0000000F
  | 4, .gx9 => 0x000000FF
  | 5, _ => s.fsto
  | _, _ => 0

/-- Code that monitor `n` of a tenant counts (R367). -/
def pmonCode (x : Tenant) (n : Nat) : Nat := x.pmsel.toNat / 16 ^ n % 16

/-- A monitor as it reads: a count of cycles has gained a free number of them since it was last read (R367; assumption 1); a
service core acts for no tenant, and reads a free value. -/
def readPmon (s : State) (n : Nat) : State × Dword :=
  let t := curTenant s
  let x := tenantOf s t
  if isService s then freeDword s
  else if pmonCode x n = 0 then
    let v := Tbl.get 0 x.pmon n + (freeDword s).2
    (setTenant (freeDword s).1 t { tenantOf (freeDword s).1 t with pmon := Tbl.set x.pmon n v }, v)
  else (s, Tbl.get 0 x.pmon n)

/-- A special register as the current warp reads it, and the state after the read. -/
def csrRead (s : State) (r : Nat) : State × Dword :=
  let w := curWarp s
  let c := svcOf s s.cur
  let one (v : Word) : State × Dword := (s, v.setWidth 64)
  if r = 0 then one w.ctl.wstat
  else if r = 1 then one (readMstat s s.cur)
  else if r = 2 then one w.ctl.swzsel
  else if r = 0x10 then one (widthWord w)
  else if r = 0x11 then one (warpIdWord s.cur w)
  else if r = 0x20 then one (featWord s (atService s) (isService s) (!isService s && (curBlock s).ctx.isSome))
  else if 0x21 ≤ r ∧ r ≤ 0x28 then one (capWord s (r - 0x21))
  else if 0x40 ≤ r ∧ r ≤ 0x4F then
    (if isService s then freeDword s else (s, Tbl.get 0 (tenantOf s (curTenant s)).vlog (r - 0x40)))
  else if 0x60 ≤ r ∧ r ≤ 0x67 then readPmon s (r - 0x60)
  else if r = 0x800 then one (svstWord c)
  else if r = 0x801 then (s, (topShelf c).pc)
  else if r = 0x802 then one (topShelf c).cause
  else if r = 0x803 then (s, (topShelf c).value)
  else if r = 0x804 then one (c.pend.setWidth 32)
  else if r = 0x805 then ((popMessage s s.cur).1, (popMessage s s.cur).2.setWidth 64)
  else if 0x806 ≤ r ∧ r ≤ 0x809 then one (Tbl.get 0 c.work (r - 0x806))
  else if r = 0x810 then one s.fsto
  else if r = 0x811 then (s, BitVec.ofNat 64 (dieOf s (s.cur / 4)).fwbase)
  else if r = 0x820 then one s.audfrac
  else (s, 0)

/-- A write of `WSTAT`: REFSUM bits written as 1 clear, the flags are set, and RM too unless the value is 5 to 7 (R64,
R65). -/
def wstatAfter (old v : Word) : Word :=
  let rm := if 5 ≤ v.toNat % 8 then old &&& 7 else v &&& 7
  (old &&& ~~~ v &&& 0x00FF0000) ||| (v &&& 0xF8) ||| rm

/-- A write of `MSTAT`: TRAPEN is set, flags written as 1 clear (R123). -/
def mstatAfter (old v : Word) : Word := (v &&& 0x80) ||| (old &&& ~~~ v &&& 0xF)

def writeWstat (s : State) (k : Nat) (v : Word) : State :=
  let w := warpOf s k
  setWarp s k { w with ctl := { w.ctl with wstat := wstatAfter w.ctl.wstat v } }
def writeMstat (s : State) (k : Nat) (v : Word) : State :=
  let w := warpOf s k
  setWarp s k { w with ctl := { w.ctl with mstat := mstatAfter w.ctl.mstat v } }
def writeSwzsel (s : State) (k : Nat) (v : Word) : State :=
  let w := warpOf s k
  setWarp s k { w with ctl := { w.ctl with swzsel := v &&& 7 } }

/-- V of a violation-log entry clears for the whole tenant (R298). -/
def clearVlog (s : State) (t n : Nat) : State :=
  let x := tenantOf s t
  setTenant s t { x with vlog := Tbl.set x.vlog n (Tbl.get 0 x.vlog n &&& 0x7FFFFFFFFFFFFFFF) }

/-- A write of `FSTO` outside 5 to 1,000 is ignored (R148, R298). -/
def writeFsto (s : State) (v : Word) : State := if 5 ≤ v.toNat ∧ v.toNat ≤ 1000 then { s with fsto := v } else s

/-- A write of `AUDFRAC` above 64 is taken as 64; the GX9-H has no such register (R25, R298). -/
def writeAudfrac (s : State) (v : Word) : State := if s.part = .gx9h then s else { s with audfrac := if 64 < v.toNat then 64 else v }

/-- A write of a special register by the current warp (R301); RO registers ignore it, and so do `SVMSG` and `PMONn`, which have
no Access code (assumption 57). -/
def csrWrite (s : State) (r : Nat) (v : Dword) : State :=
  let lo : Word := v.extractLsb' 0 32
  if r = 0 then writeWstat s s.cur lo
  else if r = 1 then writeMstat s s.cur lo
  else if r = 2 then writeSwzsel s s.cur lo
  else if 0x40 ≤ r ∧ r ≤ 0x4F then
    (if v.getLsbD 63 && !isService s then clearVlog s (curTenant s) (r - 0x40) else s)
  else if r = 0x800 then writeSvst s s.cur lo
  else if 0x801 ≤ r ∧ r ≤ 0x803 then writeShelf s s.cur r v
  else if r = 0x804 then clearPend s s.cur lo
  else if 0x806 ≤ r ∧ r ≤ 0x809 then
    setSvc s s.cur { svcOf s s.cur with work := Tbl.set (svcOf s s.cur).work (r - 0x806) lo }
  else if r = 0x810 then writeFsto s lo
  else if r = 0x820 then writeAudfrac s lo
  else s

/-- The register moves through a pair. -/
def csrIsWide (i : BitVec 14) : Bool := csrWide i == some true

/-- Reads a special register into a scalar or a pair (R301). -/
noncomputable def execCsrrd (p : Option Prefix) (d : BitVec 7) (i : BitVec 14) (s : State) : Result :=
  word (.csrrd p d i) s fun s =>
    let r := csrRead s i.toNat
    opNow (if csrIsWide i then writeP r.1 (numD p d) r.2 else writeS r.1 (numD p d) (r.2.setWidth 32)) .a
/-- Writes a special register from a scalar or a pair (R301). -/
noncomputable def execCsrwr (p : Option Prefix) (d : BitVec 7) (i : BitVec 14) (s : State) : Result :=
  word (.csrwr p d i) s fun s =>
    csrWrite s i.toNat (if csrIsWide i then readP s (numD p d) else (readS s (numD p d)).setWidth 64)
/-- A write reaches a warp's `WSTAT` (R64, R65). -/
def execWstatWrite (w : Nat) (v : BitVec 32) (s : State) : Result :=
  .next <| if (warpOf s w).status = .absent then s else writeWstat s w v
/-- A write reaches a warp's `MSTAT` (R123, R124). -/
def execMstatWrite (w : Nat) (v : BitVec 32) (s : State) : Result :=
  .next <| if (warpOf s w).status = .absent then s else writeMstat s w v
/-- V of a violation-log entry is cleared (R298). -/
def execVlogClear (t n : Nat) (s : State) : Result := .next <| if n < 16 ∧ t < 64 then clearVlog s t n else s
/-- A write reaches `SVST` (R304). -/
def execSvstWrite (core : Nat) (v : BitVec 32) (s : State) : Result :=
  .next <| if core < 16 then writeSvst s core v else s
/-- A write reaches the top trap shelf (R304). -/
def execShelfWrite (core reg : Nat) (v : BitVec 64) (s : State) : Result :=
  .next <| if core < 16 then writeShelf s core reg v else s
/-- A write reaches `SVPEND` (R305). -/
def execSvpendClear (core : Nat) (v : BitVec 32) (s : State) : Result :=
  .next <| if core < 16 then clearPend s core v else s
/-- A read of `SVMSG` pops a message into a scalar of the core (R305). -/
def execSvmsgPop (core d : Nat) (s : State) : Result :=
  .next <|
    if 16 ≤ core ∨ 192 ≤ d then s
    else
      let r := popMessage s core
      writeS (asWarp r.1 core 0) d r.2
/-- A write reaches `FSTO` (R148). -/
def execFstoWrite (v : BitVec 32) (s : State) : Result := .next <| writeFsto s v
/-- A write reaches `AUDFRAC` (R298, R327). -/
def execAudfracWrite (v : BitVec 32) (s : State) : Result :=
  .next <| if s.part = .gx9h then reply s (.absent 0x820) else writeAudfrac s v

/-! ### RETYPE and FRQ (R284, R302, R303) -/

/-- The owner may ask for the change of type. -/
def ownerMay (old new : Nat) : Bool :=
  (old == 1 && (new == 0 || new == 2 || new == 3 || new == 4 || new == 5 || new == 7)) ||
    (new == 1 && (old == 2 || old == 3 || old == 4 || old == 5 || old == 7))

/-- Headland may ask for the change of type. -/
def headlandMay (old new : Nat) : Bool :=
  (old == 0 && new == 1) || (old == 1 && new == 0) || new == 6 || new == 8 || (new == 1 && (old == 6 || old == 8))

/-- The change zero-fills the frame; a FREE frame is zero (R284). -/
def changeZeroes (old new : Nat) : Bool :=
  old == 0 || (old == 1 && (new == 0 || new == 3 || new == 4 || new == 5)) || new == 6 || new == 8 || old == 6 || old == 8

/-- Code of the first failing check of R302, or 0. -/
def retypeCode (s : State) (f new : Nat) : Nat :=
  let e := typeOf s f
  let waived := atService s && headlandMay (teType e) new
  if hasType s f = false then 1
  else if isHost (f * 65536) then 5
  else if !waived && (isService s || decide (teOwner e ≠ curTenant s)) then 2
  else if !waived && !ownerMay (teType e) new then 3
  else if teCount e ≠ 0 then 4
  else 0

/-- The entry after a change of type with operand pair `g` (R284, R302). -/
def retypedEntry (s : State) (f new : Nat) (g : Dword) : BitVec 128 :=
  let e := typeOf s f
  let gen := (teGen e + 1) % 256
  if teType e = 0 ∧ new = 1 then
    mkType 1 (g.toNat % 64) (g.toNat / 256 % 256) 0 gen (if isHbm s (f * 65536) then 0 else g.toNat / 65536 % 256) 0
  else if new = 0 then mkType 0 0 0 0 gen 0 0
  else mkType new (teOwner e) (teWorld e) 0 gen (teKey e) (if new = 7 then g else 0)

/-- The status word of R302. -/
def retypeStatus (gen code : Nat) : Word := BitVec.ofNat 32 (256 * gen + code)

/-- A frame changes type: content, then the entry. -/
def retypeFrame (s : State) (f new : Nat) (e : BitVec 128) : State :=
  setType (if changeZeroes (teType (typeOf s f)) new then zeroFrame s f else s) f e

/-- Checks and changes the type of a frame, and writes a status (R284, R302). -/
noncomputable def execRetype (p : Option Prefix) (d a b : BitVec 7) (s : State) : Result :=
  word (.retype p d a b) s fun s =>
    let f := (scaA s p a).toNat
    let new := (readS s (numD p d)).toNat % 16
    let code := retypeCode s f new
    if code ≠ 0 then opNow (writeS s (numD p d) (retypeStatus (if code = 1 then 0 else teGen (typeOf s f)) code)) .a
    else
      let e := retypedEntry s f new (pairB s p b)
      opNow (writeS (retypeFrame s f new e) (numD p d) (retypeStatus (teGen e) 0)) .a

/-- The entry that `FRQ` returns (R303). -/
def frqEntry (s : State) (f : Nat) : BitVec 128 :=
  let e := typeOf s f
  if hasType s f = false then 0
  else if atService s then e
  else if isService s then 0
  else if (teType e ≠ 0 ∧ teOwner e = curTenant s) ∨ (teType e = 7 ∧ (teGrant e).getLsbD (curTenant s) = true) then e
  else 0

/-- Reads a type entry whole into four scalars (R303). -/
noncomputable def execFrq (p : Option Prefix) (d a : BitVec 7) (s : State) : Result :=
  word (.frq p d a) s fun s =>
    let v := frqEntry s (scaA s p a).toNat
    let r := numD p d
    opNow (writeP (writeP s r (v.extractLsb' 0 64)) (r + 2) (v.extractLsb' 64 64)) .a

/-! ### ERET, WFI, IPI (R304, R305) -/

/-- Returns from the handler: pops the top shelf (R304). -/
noncomputable def execEret (p : Option Prefix) (s : State) : Result := word (.eret p) s fun s => trapReturn s
/-- Parks until some cause is pending (R305). -/
noncomputable def execWfi (p : Option Prefix) (s : State) : Result :=
  word (.wfi p) s fun s =>
    if (svcOf s s.cur).pend ≠ 0 then s
    else setFrag s { curEntry s with state := .parked, wait := .wfi }
/-- A cause is pending: the parked `WFI` ends (R305). -/
def execWfiWake (core : Nat) (s : State) : Result :=
  .next <|
    if (svcOf s core).pend ≠ 0 ∧ (entryOf (warpOf s core) 0).wait = .wfi then wakeFragment s core 0 else s
/-- Queues a message for a service core (R305). -/
noncomputable def execIpi (p : Option Prefix) (a b : BitVec 7) (s : State) : Result :=
  word (.ipi p a b) s fun s =>
    let k := (scaA s p a).toNat
    let m := scaB s p b
    if 15 < k then takeTrap s 15 noLane ((scaA s p a).setWidth 64) 0
    else if diesOf s ≤ k / 4 then takeTrap s 3 noLane ((codeWord s (curEntry s).here).setWidth 64) 0
    else if m = 0xFFFFFFFF then takeTrap s 15 noLane (m.setWidth 64) 0
    else
      let c := svcOf s k
      if c.msgs.length < 16 ∧ c.held = [] then enqueue s k m
      else setSvc s k { c with held := c.held ++ [(s.cur, m)] }
/-- A held message enters the queue when it has room (R305). -/
def execIpiDeliver (core : Nat) (s : State) : Result :=
  .next <|
    let c := svcOf s core
    match c.held with
    | (_, m) :: rest => if c.msgs.length < 16 then enqueue (setSvc s core { c with held := rest }) core m else s
    | [] => s
/-- The lowest pending cause that is not held is taken between clauses (R304, R305, R318). -/
def execServiceInterrupt (core : Nat) (s : State) : Result :=
  .next <|
    let c := svcOf s core
    let x := entryOf (warpOf s core) 0
    match (List.range 4).find? fun i => c.pend.getLsbD i && !c.hold.getLsbD i with
    | some i =>
      if core < 16 ∧ c.running = true ∧ (warpOf s core).status = .running ∧ x.state = .leaf ∧ x.left = 0 ∧ c.shelves.length < 4 then
        svcEnter s core x.pc (fun q => causeWord q i true 0) 0 5
      else s
    | none => s

/-! ### CTXSV and CTXLD (R306, R307) -/

/-- The block has halted or stopped and is not yet being saved (R151, R152). -/
def savable (s : State) (k : Nat) : Bool :=
  ((blockOf s k).status == .halting || (blockOf s k).status == .forced) && blockStill s k

/-- Begins to write the image of a halted block into CONTEXT frames (R306). -/
noncomputable def execCtxsv (p : Option Prefix) (a b : BitVec 7) (s : State) : Result :=
  word (.ctxsv p a b) s fun s =>
    let h := scaB s p b
    let pa := pairA s p a
    match handleBlock s h with
    | none => takeTrap s 15 noLane (h.setWidth 64) 0
    | some k =>
      if savable s k = false then takeTrap s 15 noLane (h.setWidth 64) 0
      else if pa.toNat % 64 ≠ 0 ∨ inContext s pa.toNat (imageLen (blockOf s k).cmd) = false then takeTrap s 15 noLane pa 0
      else pushOp (setBlock s k { blockOf s k with status := .saving }) .b false (newOp s (.ctxsv k pa.toNat))

/-- The saved block whose image stands at an address: where a `CTXSV` wrote it, else in the block's own area (R306, R320). -/
def imageOwner (s : State) (pa tenant : Nat) : Option Nat :=
  (s.blocks.find? fun e => e.2.status == .saved && (e.2.image.orElse fun _ => e.2.area) == some pa && e.2.tenant == tenant).map
    Prod.fst

/-- The status of a `CTXLD` of the image `l` at `pa` onto the core of a handle: the checks of R307 in order. -/
def loadStatus (s : State) (pa : Nat) (l : List Byte) (h : Word) : Nat :=
  let c := headerCmd l
  let core := handleCore h
  let cores := if wantsGang c then [core, core + 1] else [core]
  if inContext s pa 64 = false ∨ inContext s pa (num l 4 4) = false then 5
  else if runPoison s pa (num l 4 4) ∨ headerBad l = true ∨
      ((List.range c.warps).any fun i => controlBad (warpPart l c i)) = true then 1
  else if (List.range c.warps).any fun i => splitBad (warpPart l c i) then 2
  else if cores.any fun x => (coreOf s x).world != num l 11 1 || (coreOf s x).latch != .latched then 4
  else if handleGood s h = false ∨ slotUsed s core (handleSlot h) = true ∨
      (placeRoom s c core 0 || placeRoom s c core 1) = false then 3
  else 0

/-- What an image records beside its bytes: of the block that is saved in it, as that block stands now, else as the image was
written, for a block that belongs to no grid (assumption 13). -/
def imageBlock (s : State) (pa : Nat) (l : List Byte) : Block :=
  match imageOwner s pa (num l 16 1) with
  | some k => blockOf s k
  | none => { contextAt s pa l with task := 0, area := none }

/-- The block that an image gives, SAVED on a core: registers from the image's bytes, and what they do not hold from what the image
records beside them (R267, R307, R320; assumption 13). -/
def loadedBlock (l : List Byte) (old : Block) (core slot : Nat) : Block :=
  let c := headerCmd l
  let x := if old.status = .saved then old.cmd else c
  let cmd := { x with
    flags := x.flags / 8 * 8 + x.flags % 2 + c.flags, warps := c.warps, width := c.width, vregs := c.vregs, stash := c.stash }
  { old with
    status := .saved, tenant := num l 16 1, world := num l 11 1, cmd := cmd, gang := wantsGang c, core := core, slot := slot
    group := groupOfCore core, ctx := none, warps := [], lines := [], eligible := false, image := none
    saved := (List.range c.warps).map fun i => warpFrom (warpPart l c i) c.width c.vregs i (savedWarp old.saved i)
    savedRows := if wantsCtx c then
        bankFrom (l.drop (imageLen c - bankLen)) ++ old.savedRows.filter (fun e => decide (16384 ≤ e.1))
      else [] }

/-- Checks an image and loads it as a SAVED block, or returns a code (R307). -/
noncomputable def execCtxld (p : Option Prefix) (d a b : BitVec 7) (s : State) : Result :=
  word (.ctxld p d a b) s fun s =>
    let pa := (pairA s p a).toNat
    let h := scaB s p b
    if diesOf s ≤ h.toNat / 64 % 4 then takeTrap s 3 noLane ((codeWord s (curEntry s).here).setWidth 64) 0 else
    let l := readBytes s pa (if inContext s pa 64 then num (readBytes s pa 64) 4 4 else 64)
    let st := loadStatus s pa l h
    if st ≠ 0 then opNow (writeS s (numD p d) (BitVec.ofNat 32 st)) .a
    else
      let k := (imageOwner s pa (num l 16 1)).getD s.nextBlk
      let b := loadedBlock l (imageBlock s pa l) (handleCore h) (handleSlot h)
      let b' := { b with saved := b.saved.map fun w => { w with blk := k } }
      opNow (writeS (setBlock { s with nextBlk := max s.nextBlk (k + 1) } k b') (numD p d) 0) .a

/-! ### WLATCH (R286, R308) -/

/-- Resident blocks with a warp on a core. -/
def blocksOn (s : State) (x : Nat) : List Nat :=
  (s.blocks.filter fun e => isResident e.2 && (coresOf e.2).contains x).map Prod.fst

/-- A change of a core's world latch begins: its blocks are asked to halt (R286). A later request replaces the world. -/
def startLatch (s : State) (x world : Nat) (asker : List Nat) : State :=
  let c := coreOf s x
  if c.latch = .latched then
    (if c.world = world then asker.foldl (fun t k => setPend t k 2) s
      else haltBlocks (setCore s x { c with latch := .draining, target := world, askers := asker }) (blocksOn s x))
  else setCore s x { c with target := world, askers := c.askers ++ asker }

/-- Starts a change of a core's world latch (R286, R308). -/
noncomputable def execWlatch (p : Option Prefix) (a b : BitVec 7) (s : State) : Result :=
  word (.wlatch p a b) s fun s =>
    let v := (scaA s p a).toNat
    let world := (scaB s p b).toNat
    if 39 < v % 64 then takeTrap s 15 noLane ((scaA s p a).setWidth 64) 0
    else if 255 < world then takeTrap s 15 noLane ((scaB s p b).setWidth 64) 0
    else if diesOf s ≤ v / 64 % 4 then takeTrap s 3 noLane ((codeWord s (curEntry s).here).setWidth 64) 0
    else startLatch s (40 * (v / 64 % 4) + v % 64) world [s.cur]

/-! ### KEYREV (R289, R290, R309) -/

def keyOf (s : State) (n : Nat) : KeySlot := Tbl.get KeySlot.blank s.keys n
def setKey (s : State) (n : Nat) (x : KeySlot) : State := { s with keys := Tbl.set s.keys n x }

/-- A line lies in a second-tier frame that a key slot seals. -/
def underKey (s : State) (slot pa : Nat) : Bool := isTier s pa && teKey (typeOf s (pa / 65536)) == slot

/-- The cached lines under a slot leave the stashes, written back or not. -/
def dropKeyLines (s : State) (slot : Nat) (wb : Bool) : State :=
  (s.blocks.map Prod.fst).foldl (fun t k => dropLines t k (fun l => underKey t slot l.pa) wb) s

/-- A revocation begins (R290): FLUSHING, or REVOKED at once with the dirty lines discarded. -/
def revokeKey (s : State) (slot : Nat) (drop : Bool) (asker : Option Nat) : State :=
  let x := keyOf s slot
  if drop then
    let s1 := setKey (dropKeyLines s slot false) slot { x with state := .revoked, asker := none }
    match asker with
    | some k => setPend s1 k 3
    | none => s1
  else setKey s slot { x with state := .flushing, asker := asker }

/-- Revokes an ACTIVE key slot, in the flush or the drop form (R290, R309). -/
noncomputable def execKeyrev (p : Option Prefix) (a b : BitVec 7) (s : State) : Result :=
  word (.keyrev p a b) s fun s =>
    let n := (scaA s p a).toNat
    if n = 0 ∨ 255 < n ∨ (keyOf s n).state ≠ .active then takeTrap s 15 noLane ((scaA s p a).setWidth 64) 0
    else revokeKey s n ((scaB s p b).getLsbD 0) (some s.cur)

end Sys2Proof.Machine
end

