-- ==== Sys2Proof/Machine/Preempt.lean ====
section
/-! DEFINITION. Sharing a cluster group among tenants, pre-emption, killing a block, and the change of a world latch (R147 to
R152, R286, R317, R320, R321). Time is the environment's: an event says when a quantum or a limit ends (assumption 5). -/

namespace Sys2Proof.Machine

/-! ### Runnable tenants (R149) -/

/-- A tenant's record in force in a group: the one taken at the last quantum end; an idle group, which is at one, goes by
the record last written (R147; assumption 17). -/
def recIn (s : State) (g t : Nat) : BitVec 128 :=
  if (groupOf s g).running = none then (recAt s (g / 5) t).sched else Tbl.get 0 (groupOf s g).recs t

/-- The tenant's GROUPS there name the group. -/
def mayRunIn (s : State) (t g : Nat) : Bool := (recIn s g t).getLsbD g

/-- WEIGHT of a record. -/
def weightOf (r : BitVec 128) : Nat := (r.extractLsb' 40 16).toNat
def quantumOf (r : BitVec 128) : Nat := (r.extractLsb' 56 20).toNat

/-- The audited block has exited. -/
def auditedExited (s : State) (a : Audit) : Bool :=
  !s.blocks.any fun e => isLive e.2 && e.2.tenant == a.tenant && e.2.task == a.task && e.2.index == a.index

/-- The replay of an audit is still to be placed (R327). -/
def auditWaits (s : State) (a : Audit) : Bool := a.replay.isNone && a.verdict == .running && auditedExited s a

/-- Blocks of a grid's cluster that stand in a group other than `g`. -/
def clusterElsewhere (s : State) (gk : Nat) (c : Command) (index g : Nat) : Bool :=
  s.blocks.any fun e => e.2.status != .absent && blockGrid e.2 == gk && e.2.index / max 1 c.cluster == index / max 1 c.cluster &&
    e.2.group != g

/-- A dispatched block still to be placed may run in a group: the rest of a started cluster only in the cluster's own (R20, R149). -/
def blockFor (s : State) (gk : Nat) (x : Grid) (g : Nat) : Bool :=
  let n := max 1 x.cmd.cluster
  x.live && x.dispatched && decide (x.placed < x.cmd.grid) &&
    (!clusterElsewhere s gk x.cmd x.placed g || decide ((x.placed / n + 1) * n < x.cmd.grid))

/-- A tenant is runnable in a group (R149): with a block there, a dispatched block still to be placed, or a replay of one. -/
def runnable (s : State) (t g : Nat) : Bool :=
  mayRunIn s t g &&
    ((s.dies.any fun d => d.2.audits.any fun a => a.tenant == t && auditWaits s a) ||
      s.blocks.any (fun e => e.2.tenant == t && isLive e.2 && e.2.group == g) ||
      s.grids.any fun e => e.1 / 2 ^ 32 == t && blockFor s e.1 e.2 g)

/-- The tenants runnable in a group. -/
def runnables (s : State) (g : Nat) : List Nat := (List.range 64).filter fun t => runnable s t g

/-- The pass of a tenant that becomes runnable is raised to the least among the others of positive weight (R149). -/
def raisePass (s : State) (g t : Nat) : State :=
  let x := groupOf s g
  let l := ((runnables s g).filter fun u => u != t && decide (0 < weightOf (recIn s g u))).map fun u =>
    (Tbl.get 0 x.pass u).toNat
  match l with
  | [] => s
  | p :: ps =>
    let m := ps.foldl min p
    if (Tbl.get 0 x.pass t).toNat < m then setGroup s g { x with pass := Tbl.set x.pass t (BitVec.ofNat 64 m) } else s

/-- Passes after a change that may make tenants runnable. -/
def raiseNew (old s : State) : State :=
  (List.range (groupCount s)).foldl (fun u g =>
    ((runnables s g).filter fun t => !runnable old t g).foldl (fun v t => raisePass v g t) u) s

/-! ### The end of a quantum (R149, R150) -/

/-- Stride of a weight. -/
def strideOf (w : Nat) : Nat := 2 ^ 20 / w

/-- The pass of the running tenant after `used` µs. -/
def chargePass (s : State) (g used : Nat) : State :=
  let x := groupOf s g
  match x.running with
  | none => s
  | some t =>
    let r := Tbl.get 0 x.recs t
    if weightOf r = 0 then s
    else
      let p := Tbl.get 0 x.pass t + BitVec.ofNat 64 (strideOf (weightOf r) * used / max 1 (quantumOf r))
      setGroup s g { x with pass := Tbl.set x.pass t p }

/-- The records in force become those last written (R147). -/
def takeRecords (s : State) (g : Nat) : State :=
  setGroup s g { groupOf s g with
    recs := (List.range 64).filterMap fun t =>
      let r := (recAt s (g / 5) t).sched
      if r = 0 then none else some (t, r) }

/-- The least pass among tenants; ties to the lower number. -/
def leastPass (x : Group) : List Nat → Option Nat
  | [] => none
  | t :: ts =>
    match leastPass x ts with
    | none => some t
    | some u => if (Tbl.get 0 x.pass u).toNat < (Tbl.get 0 x.pass t).toNat then some u else some t

/-- The tenant that a group runs next (R149). -/
def chooseTenant (s : State) (g : Nat) : Option Nat :=
  let x := groupOf s g
  let c := (runnables s g).filter fun t => decide (0 < weightOf (recIn s g t))
  if c.isEmpty then leastPass x (runnables s g) else leastPass x c

/-- Resident blocks of a tenant in a group. -/
def blocksIn (s : State) (g t : Nat) : List Nat :=
  (s.blocks.filter fun e => e.2.tenant == t && isResident e.2 && e.2.group == g).map Prod.fst

/-- The cores of a group that must change latch do so (R150, R286). -/
def latchGroup (s : State) (g world : Nat) : State :=
  (List.range 8).foldl (fun u i =>
    let c := coreOf u (8 * g + i)
    if c.latch = .latched ∧ c.world = world then u else startLatch u (8 * g + i) world []) s

/-- A quantum ends in group `g` after `used` µs: the pass is charged, the next tenant is chosen, and the outgoing tenant's
warps are asked to halt (R147, R149 to R151, R270). -/
def endQuantum (s : State) (g used : Nat) : State :=
  let s1 := raiseNew s (takeRecords (chargePass s g used) g)
  let out := (groupOf s1 g).running
  match chooseTenant s1 g with
  | none =>
    let s2 := setGroup s1 g { groupOf s1 g with running := none }
    (match out with
      | some t => haltBlocks s2 (blocksIn s2 g t)
      | none => s2)
  | some t =>
    let x := groupOf s1 g
    let s2 := setGroup s1 g { x with running := some t, masks := Tbl.set x.masks t (recAt s1 (g / 5) t).slotmask }
    let s3 := match out with
      | some u => if u = t then s2 else haltBlocks s2 (blocksIn s2 g u)
      | none => s2
    latchGroup s3 g (tenantOf s3 t).world.toNat

/-- A change may have made tenants runnable: passes are raised, an idle group runs, and a tenant of weight 0 gives way at
once to one of positive weight (R149). -/
def nowRunnable (old s : State) : State :=
  let s1 := raiseNew old s
  (List.range (groupCount s)).foldl (fun u g =>
    let x := groupOf u g
    let new := (runnables u g).filter fun t => !runnable old t g
    let gives := match x.running with
      | none => !new.isEmpty
      | some r => weightOf (recIn u g r) == 0 && new.any fun t => decide (0 < weightOf (recIn u g t))
    if gives then endQuantum u g 0 else u) s1

/-- What decides, beside the records, which tenants are runnable. -/
def runKey (s : State) : List (Nat × Nat × Bool × Nat) × List (Nat × Bool × Nat) × List (List (Nat × Bool)) :=
  (s.blocks.map fun e => (e.1, e.2.tenant, isLive e.2, e.2.group),
    s.grids.map fun e => (e.1, e.2.live && e.2.dispatched, e.2.placed),
    s.dies.map fun e => e.2.audits.map fun a => (a.tenant, a.replay.isNone))

/-- A quantum ends since its tenant is no longer runnable, after a free part of it (R149; assumption 1). -/
def endUnrunnable (s : State) (g : Nat) : State :=
  match (groupOf s g).running with
  | some t =>
    if runnable s t g then s
    else endQuantum { s with freeCtr := s.freeCtr + 1 } g
      ((Config.freeValue s.freeCtr).toNat % (quantumOf (Tbl.get 0 (groupOf s g).recs t) + 1))
  | none => s

/-- The groups follow a turn that has changed which tenants are runnable (R149). -/
def settleGroups (old new : State) : State :=
  if runKey old = runKey new then new
  else (List.range (groupCount new)).foldl endUnrunnable (nowRunnable old new)

/-- A quantum ends in a cluster group (R149). -/
def execQuantumEnd (g used : Nat) (s : State) : Result :=
  .next <|
    if groupCount s ≤ g then s else endQuantum s g used

/-! ### Killing a block (R317) -/

/-- A trap record of 128 bytes (R315). -/
def trapRecord (cause frag lane tenant world : Nat) (warpid : Word) (task block : Nat) (aux : Word) (pc value : Dword)
    (refN : Nat) (refVA : List Dword) : List Byte :=
  leBytes 2 cause ++ leBytes 1 frag ++ leBytes 1 lane ++ leBytes 1 tenant ++ leBytes 1 world ++ leBytes 2 0 ++
    leBytes 4 warpid.toNat ++ leBytes 4 task ++ leBytes 4 block ++ leBytes 4 aux.toNat ++ leBytes 8 pc.toNat ++
    leBytes 8 value.toNat ++ leBytes 1 refN ++ zeros 7 ++
    ((List.range 6).flatMap fun i => leBytes 8 (refVA.getD i 0).toNat) ++ zeros 32

/-- The record of a block that is killed without a trap: cause 20 (R313). -/
def machineRecord (b : Block) (aux : Word) : List Byte :=
  trapRecord 20 0 noLane b.tenant b.world 0 b.task b.index aux 0 0 0 []

/-- The first record of a task is kept, and the task fails (R317). -/
def failTask (s : State) (gk : Nat) (record : List Byte) : State :=
  let g := gridOf s gk
  setGrid s gk { g with failed := true, firstTrap := if g.firstTrap.isEmpty then record else g.firstTrap }

/-- A warp of a killed block stops as in step 2 of R314, and its lease ends. -/
def killWarp (w : Warp) : Warp :=
  { w with
    lease := none
    status := match w.status with
      | .exited => .exited
      | .trapped => .trapped
      | _ => .stopped }

/-- The records of a block leave the trap ring: Headland has acted on them. -/
def takeRecordsOf (s : State) (b : Block) : State :=
  let d := b.core / 40
  setDie s d { dieOf s d with traps := (dieOf s d).traps.filter fun r => !recordOf b r }

/-- The `CTXSV` that saves a block: its warp and operation. -/
def savingOp (s : State) (k : Nat) : Option (Nat × PendOp × Nat) :=
  s.warps.findSome? fun e => e.2.pend.findSome? fun o => match o.kind with
    | .ctxsv b a => if b = k then some (e.1, o, a) else none
    | _ => none

/-- A kill begins: the warps stop, and the task fails. A record is given for a kill without a trap. -/
def killStart (s : State) (k : Nat) (record : List Byte) : State :=
  let b := blockOf s k
  if isLive b = false ∨ b.status = .killing then s
  else
    let s1 := failTask (takeRecordsOf s b) (blockGrid b) record
    let s2 := b.warps.foldl (fun t w => setWarp t w (killWarp (warpOf t w))) s1
    let s3 := setBlock s2 k { blockOf s2 k with status := .killing, saved := [], savedRows := [] }
    match savingOp s3 k with
    | some (w, o, _) => retireOp s3 w o
    | none => s3

/-- A killed block that has drained leaves its barriers and ends (R154, R193, R317). -/
def killFinish (s : State) (k : Nat) : State :=
  let b := blockOf s k
  if b.status ≠ .killing ∨ blockDrained s k = false then s
  else
    let s1 := setBlock s k { b with gone := List.range b.cmd.warps }
    blockEnd (recheckBarriers s1 k) k

/-- An erroneous location has a log entry in the interval (R323). -/
def isRecoverable (s : State) (b : Block) (e : Nat × Nat × Nat) : Bool :=
  let w := warpOf s (b.warps.getD e.1 0)
  match e.2.1 with
  | 0 => w.vlog.any fun x => x.1 == e.2.2
  | 1 => w.llog.any fun x => x.1 == e.2.2
  | 2 => b.slog.any fun x => x.1 == e.2.2
  | 3 => b.rlog.any fun x => x.1 == e.2.2
  | _ => false

/-- The block may be rolled back (R324): Headland can read what a failed core of it holds (R326). -/
def canRollBack (s : State) (k : Nat) : Bool :=
  let b := blockOf s k
  b.eligible && b.checkpoint.isSome && b.bad.all (isRecoverable s b) && (coresOf b).all fun x => !(coreOf s x).dark

/-- CAUSE of a trap record. -/
def recordCause (r : List Byte) : Nat := leNat (r.take 2)

/-- The action on a cause in a block is to kill it (R316). -/
def killsFor (s : State) (k cause : Nat) : Bool :=
  let b := blockOf s k
  if cause = 18 then !canRollBack s k
  else if cause = 11 then !(b.world == 0 && (coresOf b).any fun x => (coreOf s x).debugger)
  else cause != 19

/-- A record in the ring for which the live instance kills the block (R316, R332). -/
def killDue (s : State) (k : Nat) : Bool :=
  let b := blockOf s k
  let x := dieOf s (b.core / 40)
  x.live && x.traps.any fun r => recordOf b r && killsFor s k (recordCause r)

/-- Headland kills a block for a trap, or a kill whose block has drained ends (R316, R317). -/
def execBlockKill (blk : Nat) (s : State) : Result :=
  .next <|
    if (blockOf s blk).status = .killing then killFinish s blk
    else if killDue s blk then killFinish (killStart s blk []) blk
    else s

/-- A block is killed with cause 20 (R321, R326). -/
def killMachine (s : State) (k : Nat) : State :=
  killFinish (killStart s k (machineRecord (blockOf s k) 0)) k

/-! ### Forced save, save and restore (R151, R152, R320, R321) -/

/-- A warp that has not halted when the forced-save timeout expires stops between clauses; an `MWAIT` of it ends, and its
lease ends. -/
def forceWarp (s : State) (w : Nat) : State :=
  let v := warpOf s w
  if v.status = .running ∨ v.status = .halting then
    let s1 := ((List.range 8).filter fun i => (entryOf v i).state == .parked).foldl (fun t e => mwaitEnds t w e) s
    let v1 := warpOf s1 w
    if v1.status = .running ∨ v1.status = .halting then setWarp s1 w { v1 with status := .stopped, lease := none } else s1
  else s

/-- The forced-save timeout expires for a halting block, or for the rest of a gang (R152, R326). -/
def execForcedSaveTimeout (blk : Nat) (s : State) : Result :=
  .next <|
    let b := blockOf s blk
    if b.status = .rolling then b.warps.foldl forceWarp s
    else if b.status ≠ .halting ∨ blockStill s blk = true then s
    else b.warps.foldl forceWarp (setBlock s blk { b with status := .forced })

/-- A block that has halted and drained is saved: its image is written into its area, or for a `CTXSV`, which completes, where
the word says (R306, R320). -/
def finishSave (s : State) (k : Nat) : State :=
  let b := blockOf s k
  if b.bad.any fun e => e.2.1 != 7 then killMachine s k
  else
    let forced := b.warps.any fun w => (warpOf s w).status == .stopped
    let rows := match b.ctx with
      | some c => bankOf s b.core c b.cmd.width 0
      | none => []
    let bytes := imageBytes s b (b.warps.map (warpOf s)) rows forced
    let s1 := saveBlock s k
    match savingOp s k with
    | some (w, o, a) =>
      let s2 := putImage s1 a bytes (blockOf s1 k) b.lines
      retireOp (setBlock s2 k { blockOf s2 k with image := some a }) w o
    | none => match b.area with
      | some a => putImage s1 a bytes (blockOf s1 k) b.lines
      | none => s1

/-- Every warp has halted or stopped and drained: the block is saved (R152, R248, R320). -/
def execBlockSave (blk : Nat) (s : State) : Result :=
  .next <|
    let s1 := (blockOf s blk).warps.foldl haltParked s
    let b := blockOf s1 blk
    if b.status = .halting ∨ b.status = .forced ∨ b.status = .saving then
      (if blockDrained s1 blk then finishSave s1 blk else s1)
    else s

/-- The slot that a restored block takes: its own on its own core, else the lowest free one. -/
def restoreSlot (s : State) (b : Block) (core : Nat) : Option Nat :=
  if core = b.core then some b.slot else freeSlot s core

/-- A saved block runs again in its cluster group when its tenant is chosen there (R152, R321). -/
def execBlockRestore (blk core ctx : Nat) (s : State) : Result :=
  .next <|
    let b := blockOf s blk
    let g := groupOfCore core
    if b.status ≠ .saved ∨ g ≠ b.group ∨ (groupOf s g).running ≠ some b.tenant then s
    else if coreTakes s core b.world = false ∨ (b.gang && !coreTakes s (core + 1) b.world) = true ∨
        placeRoom s b.cmd core ctx = false then s
    else if (b.image.orElse fun _ => b.area).any fun a => runPoison s a (imageLen b.cmd) then killMachine s blk
    else
      match restoreSlot s b core with
      | some slot => restoreBlock s blk core slot ctx
      | none => s

/-! ### World latches (R286) -/

/-- Everything that the core holds is cleared: banks, queues and slots, each slot with GEN incremented. -/
def clearCore (c : CoreSt) : CoreSt :=
  { c with
    latch := .clearing, acc := [], q0 := [], q1 := [], debugger := false
    slots := (List.range 16).foldl (fun t i => Tbl.set t i { Slot.blank with gen := (slotAt c.slots i).gen + 1 }) [] }

/-- A drained core is cleared; a cleared one latches its new world and says so (R286, R308). -/
def execWorldLatchDrained (core : Nat) (s : State) : Result :=
  .next <|
    let c := coreOf s core
    match c.latch with
    | .draining =>
      if (blocksOn s core).isEmpty then
        let t := setCore s core (clearCore c)
        { t with caches := { t.caches with l1 := t.caches.l1.filter fun e => e.1 != core } }
      else s
    | .clearing =>
      let s1 := setCore s core { c with latch := .latched, world := c.target, askers := [] }
      c.askers.foldl (fun t k => setPend t k 2) s1
    | .latched => s

end Sys2Proof.Machine
end

