-- ==== Sys2Proof/Machine/Launch.lean ====
section
/-! DEFINITION. Tidemark: doorbells, the scan, commands, the journal, dispatch, placement and completion (R139 to R146,
R317, R327, R342, R345). Tidemark's own accesses take physical addresses (R340); assumption 15 names what the
manual leaves to its firmware. -/

namespace Sys2Proof.Machine

/-! ### Tidemark's accesses -/

def tideClient : Client := { service := true, tenant := svcTenant, world := 0, blk := 0 }

/-- `n` bytes at a physical address, as a number. -/
def physGet (s : State) (pa n : Nat) : Nat := leNat (readBytes s pa n)

/-- A number is stored at a physical address. -/
def physPut (s : State) (pa n v : Nat) : State := writeBytes s pa (leBytes n v)

/-- A physical address whose line is there and intact, and one at which no lease or lock holds an access. -/
def physThere (s : State) (pa : Nat) : Bool := paExists s pa && !isPoison s pa
def physFree (s : State) (pa : Nat) : Bool := homeFree s noWarp 0 pa

/-- A physical address that Tidemark can read and write now. -/
def physGood (s : State) (pa : Nat) : Bool := physThere s pa && physFree s pa

/-! ### Doorbells and kicks (R142) -/

/-- Address of the bitmap word that holds bit `q` of tenant `t`. -/
def kickWord (s : State) (t q : Nat) : Nat := (tenantOf s t).dbell * 65536 + 4 * (q / 32)

/-- A host write to the doorbell register sets a kick bit, or waits at the line (R142, R196). -/
def execDoorbellWrite (t q : Nat) (s : State) : Result :=
  .next <|
    let pa := kickWord s t q
    let x := tenantOf s t
    if 64 ≤ q ∨ x.created = false ∨ physThere s pa = false then s
    else if physFree s pa then
      physPut (if x.bells.contains q then setTenant s t { x with bells := x.bells.filter fun i => i != q } else s) pa 4
        (physGet s pa 4 ||| 2 ^ (q % 32))
    else if x.bells.contains q then s
    else setTenant s t { x with bells := x.bells ++ [q] }

/-! ### Journal (R144, R345) -/

def journalBase (s : State) (t : Nat) : Nat := (tenantOf s t).jframe * 65536
def journalCopy (s : State) (t : Nat) : Nat := (tenantOf s t).jcopy * 65536
def journalCount (s : State) (t : Nat) : Nat := physGet s (journalBase s t) 4

/-- A poisoned line takes the bytes of its twin, if that is intact (R311). -/
def mendLine (s : State) (a b : Nat) : State :=
  let x := a / 128 * 128
  if isPoison s a && !isPoison s b then
    { s with mem := Memory.writes s.mem x (s.mem.reads (b / 128 * 128) 128), poison := s.poison.filter fun p => p != x }
  else s

/-- What stands at an offset of a tenant's journal is repaired, in either copy. -/
def mendJournal (s : State) (t off : Nat) : State :=
  let a := journalBase s t + off
  let b := journalCopy s t + off
  mendLine (mendLine s a b) b a

/-- Offset of record `n` (R345). -/
def recordOff (n : Nat) : Nat := 64 + 32 * n

/-- Where the next record goes: COUNT and the record, in both copies. -/
def journalPlaces (s : State) (t : Nat) : List Nat :=
  let off := recordOff (journalCount s t)
  [journalBase s t, journalCopy s t, journalBase s t + off, journalCopy s t + off]

/-- The journal as Tidemark finds it when it appends: its next place repaired. -/
def mendNext (s : State) (t : Nat) : State :=
  let s1 := mendJournal s t 0
  mendJournal s1 t (recordOff (journalCount s1 t))

/-- A record cannot be appended: the frame is full, or a line of both copies is poisoned (R144). -/
def journalFails (s : State) (t : Nat) : Bool :=
  let s1 := mendNext s t
  (tenantOf s t).jframe == 0 || decide (2046 ≤ journalCount s1 t) || (journalPlaces s1 t).any fun a => !physThere s1 a

/-- Both copies take a write. -/
def journalWrite (s : State) (t off : Nat) (d : List Byte) : State :=
  writeBytes (writeBytes s (journalBase s t + off) d) (journalCopy s t + off) d

/-- A record is appended and counted, if the frame takes it. -/
def journalPut (s : State) (t kind task addr value : Nat) : Option State :=
  let s1 := mendNext s t
  let n := journalCount s1 t
  if journalFails s t || (journalPlaces s1 t).any (fun a => !physFree s1 a) then none
  else
    let s2 := journalWrite s1 t (recordOff n) (leBytes 4 kind ++ leBytes 4 task ++ leBytes 8 addr ++ leBytes 8 value ++ leBytes 8 0)
    some (journalWrite s2 t 0 (leBytes 4 (n + 1)))

/-- Between two steps, COUNT becomes 0 (R144). -/
def execJournalTruncate (t : Nat) (s : State) : Result :=
  .next <|
    let s1 := mendJournal s t 0
    if (tenantOf s t).jframe = 0 ∨ physGood s1 (journalBase s t) = false ∨ physGood s1 (journalCopy s t) = false then s
    else journalWrite s1 t 0 (leBytes 4 0)

/-- Address of a queue's descriptor. -/
def descAddr (s : State) (t q : Nat) : Nat := (tenantOf s t).qtab + 32 * q

/-- A step of an accepted command is not taken, since its record cannot be appended: the command fails with code 6, and its
queue stops (R144; assumption 15). A record that only waits for its lines changes nothing. -/
def stepFails (s : State) (t task : Nat) : State :=
  match (tenantOf s t).pending.find? fun e => e.cmd.task == task with
  | none => s
  | some e =>
    let a := descAddr s t e.queue
    if journalFails s t = false ∨ (tenantOf s t).halted.contains e.queue = true ∨ physGood s a = false then s
    else
      let s1 := physPut s (a + 24) 4 (6 * 2 ^ 24 + physGet s (a + 20) 4 % 2 ^ 24)
      setTenant s1 t { tenantOf s1 t with halted := e.queue :: (tenantOf s1 t).halted }

/-! ### Who serves (R332, R333, R343, R344) -/

/-- The Tidemark core of a die with a role: 2 or 3; the active one and the standby (R305, R344). -/
def tideCore (d role : Nat) : Nat := 4 * d + role
def activeCore (s : State) (d : Nat) : Nat := tideCore d (dieOf s d).active
def standbyCore (s : State) (d : Nat) : Nat := tideCore d (5 - (dieOf s d).active)

/-- A Tidemark core serves or can take over: it runs, and is not stopping or stopped (R343, R344). -/
def coreServes (s : State) (k : Nat) : Bool := (svcOf s k).running && !(svcOf s k).failing && (warpOf s k).status == .running

/-- Tidemark of the die serves: its active core does, and its queues are not frozen (R332, R333, R343, R344). -/
def tideServes (s : State) (d : Nat) : Bool :=
  decide (d < diesOf s) && !(dieOf s d).frozen && !(dieOf s d).out && coreServes s (activeCore s d)

/-- Tidemark of some die serves. -/
def tideAny (s : State) : Bool := (List.range (diesOf s)).any (tideServes s)

/-! ### The control block and DONE events (R341, R342) -/

def tcbOf (s : State) (d : Nat) : Nat := (dieOf s d).tcb

/-- DONE events posted and not taken. -/
def doneWaiting (s : State) (d : Nat) : Nat :=
  (physGet s (tcbOf s d + 0x40) 4 + 2 ^ 32 - physGet s (tcbOf s d + 0x30) 4) % 2 ^ 32

/-- A group posts its oldest DONE event while the ring has room, and else holds it (R342). -/
def execDoneEventPost (die : Nat) (s : State) : Result :=
  .next <|
    let x := dieOf s die
    let p := physGet s (x.tcb + 0x40) 4
    let place := x.tcb + 0x80 + 8 * (p % 16)
    match x.dones with
    | [] => s
    | (g, n) :: rest =>
      if x.tcb = 0 ∨ 16 ≤ doneWaiting s die ∨ physGood s x.tcb = false ∨ physGood s place = false then s
      else
        let s1 := physPut (physPut s place 8 (g % 2 ^ 32 + 2 ^ 32 * n)) (x.tcb + 0x40) 4 ((p + 1) % 2 ^ 32)
        setGrid (setDie s1 die { dieOf s1 die with dones := rest, posted := (dieOf s1 die).posted ++ [g] }) g
          { gridOf s1 g with queue := (gridOf s1 g).queue - 1 }

/-- The tenant of the oldest DONE event that is posted and not taken. -/
def doneTenant (s : State) (d : Nat) : Nat :=
  let l := (dieOf s d).posted
  l.getD (l.length - doneWaiting s d) 0 / 2 ^ 32

/-- The oldest DONE event of the die is the last of its grid, and the grid's stamp is not written (R346). -/
def stampFirst (s : State) (d : Nat) : Bool :=
  let l := (dieOf s d).posted
  let gk := l.getD (l.length - doneWaiting s d) 0
  let g := gridOf s gk
  g.live && decide (g.cmd.grid ≤ g.exited) && g.queue == 0 &&
    ((s.dies.map fun e => ((e.2.posted.drop (e.2.posted.length - doneWaiting s e.1)).filter fun k => k == gk).length).sum == 1)

/-- Tidemark takes DONE events: DONE is journalled, then CONS and REMAIN are stored (R345); a grid's last one only once the grid's
stamp is written (R346). -/
def takeDones (s : State) (d : Nat) : Nat → State
  | 0 => s
  | n + 1 =>
    let b := tcbOf s d
    if b = 0 ∨ doneWaiting s d = 0 ∨ stampFirst s d = true then s
    else
      let c := physGet s (b + 0x30) 4
      let ev := physGet s (b + 0x80 + 8 * (c % 16)) 8
      let task := ev % 2 ^ 32
      let r := physGet s (b + 0x34) 4
      let v := (c + 1) % 2 ^ 32 + 2 ^ 32 * (if physGet s (b + 0x20) 4 = task then r - ev / 2 ^ 32 else r)
      if physGood s b = false then s
      else
        match journalPut s (doneTenant s d) 3 task (b + 0x30) v with
        | some s1 =>
          let s2 := physPut s1 (b + 0x30) 8 v
          takeDones (setDie s2 d { dieOf s2 d with
            posted := (dieOf s2 d).posted.drop ((dieOf s2 d).posted.length - doneWaiting s2 d) }) d n
        | none => stepFails s (doneTenant s d) task

/-- Headland tells the Tidemark of every die that has a control block of a tenant: its doorbell frame, queue table and journal
frame (R341; assumption 74). -/
def tellTenant (s : State) (t : Nat) : State :=
  let x := tenantOf s t
  (List.range (diesOf s)).foldl (fun u d =>
    if tcbOf u d = 0 then u
    else writeBytes u (tcbOf u d + 8) (leBytes 8 (x.dbell * 65536) ++ leBytes 8 x.qtab ++ leBytes 8 (x.jframe * 65536))) s

/-- Tidemark notes the grid that it dispatches in the control blocks of the dies that serve (R341; assumption 74). -/
def tellGrid (s : State) (c : Command) : State :=
  (List.range (diesOf s)).foldl (fun u d =>
    let b := tcbOf u d
    if b = 0 ∨ tideServes u d = false ∨ physGood u b = false then u
    else physPut (physPut (physPut (physPut u (b + 0x20) 4 c.task) (b + 0x28) 8 c.stampAddr.toNat) (b + 0x34) 4 c.grid)
      (b + 0x38) 8 c.stampVal.toNat) s

/-- The active core beats: HEARTBEAT gains one with each scan (R333, R341; assumption 74). -/
def beat (s : State) (d : Nat) : State :=
  let b := tcbOf s d
  if b = 0 ∨ physGood s b = false then s else physPut s b 8 ((physGet s b 8 + 1) % 2 ^ 64)

/-! ### The scan (R143) -/

/-- Bit `i` of a word gives queue `32 h + i`. -/
def queuesIn (h v : Nat) : List Nat := ((List.range 32).filter fun i => v.testBit i).map fun i => 32 * h + i

/-- Word `i` of the bitmap is exchanged with zero; the kicked queues are to be served by the die whose scan took them, of whichever
tenant they are (R143; assumption 77). -/
def scanWord (d : Nat) (s : State) (i : Nat) : State :=
  let t := i / 2 % 64
  let pa := kickWord s t (32 * (i % 2))
  if (tenantOf s t).created = false ∨ physGood s pa = false then s
  else
    let v := physGet s pa 4
    if v = 0 then s
    else
      let s1 := physPut s pa 4 0
      let x := dieOf s1 d
      let new := (queuesIn (i % 2) v).filter fun q => !x.serve.any fun e => e.1 == t && e.2.1 == q && e.2.2.isNone
      setDie s1 d { x with serve := x.serve ++ new.map fun q => (t, q, none) }

/-- The bitmap is scanned from one word past the last start; waiting DONE events are taken (R143, R342). -/
def execTidemarkScan (die : Nat) (s : State) : Result :=
  .next <|
    if tideServes s die = false then s
    else
      let start := (dieOf s die).scan
      let s1 := (List.range 128).foldl (fun u i => scanWord die u ((start + i) % 128)) s
      beat (takeDones (setDie s1 die { dieOf s1 die with scan := (start + 1) % 128 }) die 16) die

/-- A scan of the die would find a kick or a waiting DONE event. -/
def scanDue (s : State) (d : Nat) : Bool :=
  tideServes s d && decide (takeDones ((List.range 128).foldl (fun u i => scanWord d u i) s) d 16 ≠ s)

/-! ### Commands (R140, R141) -/

/-- Predecessor words of an entry. -/
def predsOf (l : List Byte) : List Word := (List.range 4).map fun i => BitVec.ofNat 32 (leNat ((l.drop (64 + 4 * i)).take 4))

/-- A command from the 128 bytes of its entry. -/
def commandOf (l : List Byte) : Command :=
  let f (o n : Nat) : Nat := leNat ((l.drop o).take n)
  { kind := f 0 2, flags := f 2 1, task := f 4 4, entry := BitVec.ofNat 64 (f 8 8), args := BitVec.ofNat 64 (f 16 8)
    grid := f 24 4, warps := f 28 1, width := 16 * 2 ^ f 29 1, cluster := f 30 1, vregs := f 32 2, stash := f 34 2
    ring := f 36 2, stampAddr := BitVec.ofNat 64 (f 40 8), stampVal := BitVec.ofNat 64 (f 48 8)
    bmemb := BitVec.ofNat 32 (f 56 4), pred := (predsOf l).filter fun p => p ≠ 0
    regions := ((List.range 4).map fun i => (BitVec.ofNat 64 (f (80 + 12 * i) 8), f (88 + 12 * i) 4)).filter fun r => r.2 ≠ 0 }

def isPending (s : State) (t task : Nat) : Bool := (tenantOf s t).pending.any fun e => e.cmd.task == task

/-- Failures of code 2 that both kinds share. -/
def commonBad (s : State) (t : Nat) (l : List Byte) (c : Command) : Bool :=
  decide (c.task = 0 ∨ 2 ^ 31 ≤ c.task) || isPending s t c.task || decide (c.stampAddr.toNat % 8 ≠ 0) ||
    (predsOf l).any (fun p => p == 0x80000000#32) || fieldAny l 60 4 || fieldAny l 3 1
where
  /-- Some byte of a field is not zero. -/
  fieldAny (l : List Byte) (o n : Nat) : Bool := ((l.drop o).take n).any fun b => b != 0

/-- Failures of code 2 of a LAUNCH. -/
def launchBad (l : List Byte) (c : Command) : Bool :=
  let f (o n : Nat) : Nat := leNat ((l.drop o).take n)
  decide (16 ≤ c.flags) || decide (c.grid = 0 ∨ 2 ^ 24 < c.grid) || decide (c.warps = 0 ∨ 32 < c.warps) ||
    decide (2 < f 29 1) || decide (c.cluster = 0 ∨ 8 < c.cluster) || decide (c.grid % max 1 c.cluster ≠ 0) || f 31 1 != 0 ||
    decide (c.vregs % 8 ≠ 0 ∨ 16384 < c.vregs * c.width) || decide (512 < c.stash) ||
    !(c.ring == 0 || [16, 32, 64, 128, 256].contains c.ring) || f 38 2 != 0 ||
    (List.range 32).any fun i => decide (c.warps ≤ i) && c.bmemb.getLsbD i

/-- Failures of code 2 of a MARK: its other bytes must be zero. -/
def markBad (l : List Byte) : Bool :=
  let f (o n : Nat) : Nat := leNat ((l.drop o).take n)
  f 2 2 != 0 || f 8 32 != 0 || f 56 8 != 0

/-- A predecessor word names a task that is neither pending nor completed, and waits for it (R145). -/
def predUnknown (s : State) (t : Nat) (p : Word) : Bool :=
  let id := p.toNat % 2 ^ 31
  !isPending s t id && !(tenantOf s t).completed.any (fun e => e.1 == id) && !p.getLsbD 31

/-- Blocks of a command that can be resident on one empty core, or on one core pair (R21, R141). -/
def blocksPerPlace (c : Command) : Nat :=
  let w := lowerWarps c
  let r := w * c.width * c.vregs
  let cap (limit need : Nat) : Nat := if need = 0 then 32 else limit / need
  min (min (cap 262144 r) (cap 64 w)) (min (min (cap 512 c.stash) (if wantsCtx c then 2 else 32)) 32)

/-- Blocks that the tenant's groups can hold at once, clusters whole. -/
def blocksAtOnce (s : State) (t : Nat) (c : Command) : Nat :=
  let good (x : Nat) : Bool := !(coreOf s x).failed && !(coreOf s x).quarantined
  let inGroup (g : Nat) : Nat := if wantsGang c
    then ((List.range 4).filter fun i => good (8 * g + 2 * i) && good (8 * g + 2 * i + 1)).length
    else ((List.range 8).filter fun i => good (8 * g + i)).length
  let one (g : Nat) : Nat := inGroup g * blocksPerPlace c / max 1 c.cluster * max 1 c.cluster
  (((List.range (groupCount s)).filter fun g => (tenantOf s t).sched.getLsbD g).map one).sum

/-- The CONTEXT frames of a tenant that hold no journal (R274, R320). -/
def contextFrames (s : State) (t : Nat) : List Nat :=
  (s.types.filter fun e => teType e.2 == 6 && teOwner e.2 == t && e.1 != (tenantOf s t).jframe && e.1 != (tenantOf s t).jcopy).map
    Prod.fst

/-- The frames of an image area at frame `f`. -/
def areaFrames (c : Command) (f : Nat) : List Nat := (List.range ((imageLen c + 65535) / 65536)).map fun i => f + i

/-- Frames in image areas of live blocks. -/
def areasUsed (s : State) : List Nat :=
  s.blocks.flatMap fun e => if isLive e.2 then (match e.2.area with
    | some a => areaFrames e.2.cmd (a / 65536)
    | none => []) else []

/-- The first place of an image area in CONTEXT frames of the tenant, outside some frames (R320; assumption 15). -/
def areaFor (s : State) (t : Nat) (c : Command) (used : List Nat) : Option Nat :=
  let l := contextFrames s t
  (l.find? fun f => (areaFrames c f).all fun x => l.contains x && !used.contains x).map fun f => f * 65536

/-- Image areas of `n` blocks can be reserved at once, outside some frames. -/
def areasFor (s : State) (t : Nat) (c : Command) (used : List Nat) : Nat → Bool
  | 0 => true
  | n + 1 =>
    match areaFor s t c used with
    | some a => areasFor s t c (areaFrames c (a / 65536) ++ used) n
    | none => false

/-- The blocks of a command that stand at once: all of a cooperative grid, else one (R154). -/
def blocksTogether (c : Command) : Nat := if c.flags.testBit 3 then c.grid else 1

/-- The code with which an entry is refused, or 0 (R141); code 6 comes with the record. -/
def refusalCode (s : State) (t : Nat) (l : List Byte) : Nat :=
  let c := commandOf l
  if c.kind ≠ 1 ∧ c.kind ≠ 2 then 1
  else if commonBad s t l c || (if c.kind = 1 then launchBad l c else markBad l) then 2
  else if c.kind = 1 ∧ (fitsEmpty c = false ∨ areasFor s t c [] (blocksTogether c) = false) then 3
  else if c.pred.any (predUnknown s t) then 4
  else if c.kind = 1 ∧ c.flags.testBit 3 = true ∧ blocksAtOnce s t c < c.grid then 5
  else 0

/-- The predecessors as they stand at acceptance (R145): pending ones are kept; a failed completion is marked in
bit 31; every other counts as completed. -/
def resolvePreds (s : State) (t : Nat) (l : List Word) : List Word :=
  l.filterMap fun p =>
    let id := p.toNat % 2 ^ 31
    if isPending s t id then some (BitVec.ofNat 32 id)
    else if (tenantOf s t).completed.any fun e => e.1 == id && e.2 then some (BitVec.ofNat 32 (2 ^ 31 + id))
    else none

/-! ### Completion (R145, R146, R317) -/

/-- The predecessors of a waiting command when a task completes. -/
def settlePreds (task : Nat) (failed : Bool) (l : List Word) : List Word :=
  l.filterMap fun p => if p.toNat = task then (if failed then some (BitVec.ofNat 32 (2 ^ 31 + task)) else none) else some p

/-- The tenant's tables, as a client of no block (R146). -/
def tableClient (s : State) (t : Nat) : Client :=
  { service := false, tenant := t, world := (tenantOf s t).world.toNat, blk := 0 }

/-- Tidemark writes 8-byte units through the tenant's tables; a write that fails is skipped (R146, R317). -/
def stampWrites (s : State) (t : Nat) (va : Dword) : List (List Byte) → State
  | [] => s
  | d :: r => stampWrites (engWrite s (tableClient s t) va d).1 t (va + 8) r

/-- The 8-byte units of a run of bytes. -/
def unitsOf8 (l : List Byte) : List (List Byte) := (List.range (l.length / 8)).map fun i => (l.drop (8 * i)).take 8

/-- The stamp of a task, and for a failed one the trap record before it (R317). -/
def writeStamp (s : State) (t : Nat) (c : Command) (failed : Bool) (record : List Byte) : State :=
  if c.stampAddr = 0 then s
  else
    let v := c.stampVal.toNat % 2 ^ 63 + (if failed ∨ c.stampVal.getLsbD 63 then 2 ^ 63 else 0)
    let s1 := if failed then stampWrites s t (c.stampAddr + 8) (unitsOf8 record) else s
    stampWrites s1 t c.stampAddr [leBytes 8 v]

/-- A line of the stamp, or of the record after it, is leased, locked or behind a link in training: the write waits. -/
def stampWaits (s : State) (t : Nat) (c : Command) (failed : Bool) : Bool :=
  c.stampAddr != 0 && (List.range (if failed then 17 else 1)).any fun i =>
    match engUnit s (tableClient s t) true (c.stampAddr + BitVec.ofNat 64 (8 * i)) 8 with
    | .ok u => engWaits s (tableClient s t) u.pa
    | _ => false

/-- A MARK that held its queue has completed: the die that read it serves the queue again (R346). -/
def serveMark (s : State) (t task : Nat) : State :=
  match (tenantOf s t).marks.find? fun m => m.2.2 == task with
  | some (d, q, _) => setDie s d { dieOf s d with serve := (dieOf s d).serve ++ [(t, q, none)] }
  | none => s

/-- A task completes: COMPLETE is journalled, the stamp is written, and the tables of R145 change. -/
def completeTask (s : State) (t : Nat) (c : Command) (failed : Bool) (record : List Byte) : State :=
  let v := c.stampVal.toNat % 2 ^ 63 + (if failed ∨ c.stampVal.getLsbD 63 then 2 ^ 63 else 0)
  if stampWaits s t c failed then s
  else
    match journalPut s t 4 c.task c.stampAddr.toNat v with
    | none => stepFails s t c.task
    | some s1 =>
      let s2 := writeStamp s1 t c failed record
      let x := tenantOf s2 t
      serveMark (setTenant s2 t { x with
        pending := (x.pending.filter fun e => e.cmd.task != c.task).map fun e =>
          { e with cmd := { e.cmd with pred := settlePreds c.task failed e.cmd.pred } }
        completed := ((c.task, failed) :: x.completed.filter fun e => e.1 != c.task).take 4096 }) t c.task

/-- The record of a task that a failed predecessor keeps from running (R315, R317): CAUSE 0, TASK the predecessor. -/
def predRecord (s : State) (t task : Nat) : List Byte :=
  trapRecord 0 0 noLane t (tenantOf s t).world.toNat 0 task 0 0 0 0 0 []

/-! ### Dispatch (R145) -/

def gridOfEntry (t : Nat) (e : TaskEntry) : Nat := gridKey t e.cmd.task

/-- The entry waits in its queue. -/
def entryWaits (s : State) (t : Nat) (e : TaskEntry) : Bool :=
  e.cmd.kind == 2 || !(gridOf s (gridOfEntry t e)).dispatched

/-- The heads of a tenant's queues: the first waiting entry of each. -/
def queueHeads (s : State) (t : Nat) (l : List TaskEntry) : List TaskEntry :=
  (List.range 64).filterMap fun q => l.find? fun e => e.queue == q && entryWaits s t e

/-- Every predecessor has completed. -/
def dispatchable (e : TaskEntry) : Bool := e.cmd.pred.all fun p => p.getLsbD 31

/-- The head that is dispatched: lowest PRIO, then the next queue after the last one served (R145). -/
def chooseHead (s : State) (t : Nat) (l : List TaskEntry) : Option TaskEntry :=
  let h := (queueHeads s t l).filter dispatchable
  let p := h.foldl (fun m e => min m e.prio) 4
  let c := h.filter fun e => e.prio == p
  match c.find? fun e => decide (Tbl.get 0 (tenantOf s t).turn p < e.queue) with
  | some e => some e
  | none => c.head?

/-- A failed predecessor of an entry. -/
def failedPred (e : TaskEntry) : Option Nat := (e.cmd.pred.find? fun p => p.getLsbD 31).map fun p => p.toNat % 2 ^ 31

/-- A waiting task names a failed predecessor: it completes as failed at once (R317). -/
def doomed (s : State) (t : Nat) : Option (TaskEntry × Nat) :=
  (tenantOf s t).pending.findSome? fun e => if entryWaits s t e then (failedPred e).map fun p => (e, p) else none

/-- A task with a failed predecessor completes as failed; else the head that priority and rotation choose is dispatched, or, if
a MARK, completes (R140, R145, R317). -/
def execTaskDispatch (t : Nat) (s : State) : Result :=
  .next <|
    if tideAny s = false then s
    else
      match doomed s t with
      | some (e, p) => completeTask s t e.cmd true (predRecord s t p)
      | none =>
        match chooseHead s t (tenantOf s t).pending with
        | none => s
        | some e =>
          let x := tenantOf s t
          let s1 := setTenant s t { x with turn := Tbl.set x.turn e.prio e.queue }
          if e.cmd.kind = 2 then completeTask s1 t e.cmd false []
          else
            let k := gridOfEntry t e
            nowRunnable s (tellGrid (setGrid s1 k { gridOf s1 k with dispatched := true }) e.cmd)

/-! ### Taking commands (R139 to R141, R346) -/

/-- The queue is no longer to be served. -/
def served (s : State) (d : Nat) : State := setDie s d { dieOf s d with serve := (dieOf s d).serve.drop 1 }

/-- The queue stops at an entry with a code (R141). -/
def stopQueue (s : State) (d t q code head : Nat) : State :=
  let s1 := physPut s (descAddr s t q + 24) 4 (code * 2 ^ 24 + head % 2 ^ 24)
  served (setTenant s1 t { tenantOf s1 t with stopped := q :: (tenantOf s1 t).stopped.filter fun x => x != q }) d

/-- An accepted command enters the pending set, and a LAUNCH its grid; blocks of an earlier task of the same id, which has
completed, are forgotten (R145, R153). -/
def accept (s0 : State) (t q prio : Nat) (c : Command) : State :=
  let c' := { c with pred := resolvePreds s0 t c.pred }
  let s := { s0 with blocks := s0.blocks.filter fun e => e.2.status != .exited || e.2.replay || blockGrid e.2 != gridKey t c.task }
  let s1 := setTenant s t { tenantOf s t with pending := (tenantOf s t).pending ++ [⟨q, prio, c'⟩] }
  if c.kind = 1 then setGrid s1 (gridKey t c.task) { Grid.blank with live := true, cmd := c' } else s1

/-- A MARK that is dispatched at once, or that fails at once, completes before HEAD passes it (R317, R346). -/
def markNow (s : State) (t : Nat) (c : Command) : State :=
  if c.kind ≠ 2 then s
  else
    match doomed s t with
    | some (e, p) => if e.cmd.task = c.task then completeTask s t e.cmd true (predRecord s t p) else s
    | none =>
      match chooseHead s t (tenantOf s t).pending with
      | some e => if e.cmd.task = c.task then completeTask s t e.cmd false [] else s
      | none => s

/-- ACCEPT is journalled and HEAD passes the entry (R144, R345); a record that only waits for its lines changes nothing of `s0`. -/
def passHead (s0 s : State) (d t q task head : Nat) : State :=
  match journalPut s t 1 task (descAddr s t q + 20) ((head + 1) % 2 ^ 32) with
  | none => if journalFails s0 t || journalFails s t then stopQueue s0 d t q 6 head else s0
  | some s2 => physPut s2 (descAddr s t q + 20) 4 ((head + 1) % 2 ^ 32)

/-- The entry at HEAD is accepted or refused. HEAD passes a LAUNCH when it is accepted, and a MARK when its stamp is written: one
that must wait for that enters the pending set and holds its queue (R141, R145, R346; assumption 75). -/
def takeEntry (s : State) (d t q head : Nat) (l : List Byte) : State :=
  let c := commandOf l
  let code := refusalCode s t l
  let prio := min 3 (physGet s (descAddr s t q + 9) 1)
  if code ≠ 0 then stopQueue s d t q code head
  else
    let s1 := markNow (accept s t q prio c) t c
    if c.kind = 2 ∧ isPending s1 t c.task = true then
      served (setTenant s1 t { tenantOf s1 t with marks := (d, q, c.task) :: (tenantOf s1 t).marks }) d
    else passHead s s1 d t q c.task head

/-- A queue that a MARK holds: HEAD passes the MARK once it has completed. -/
def takeMark (s : State) (d t q task head : Nat) : State :=
  if isPending s t task then served s d
  else
    let x := tenantOf s t
    passHead s (setTenant s t { x with marks := x.marks.filter fun m => m.2.1 != q }) d t q task head

/-- The first queue to serve on a die: TAIL is read once, a stopped queue whose ERROR is zero passes its failing entry, if
that is what stopped it,
and the entry at HEAD is taken if its KIND is that of a MARK or not, as `mark` says. -/
def serveHead (s : State) (d : Nat) (mark : Bool) : State :=
  match (dieOf s d).serve with
  | [] => s
  | (t, q, tail) :: rest =>
    let a := descAddr s t q
    if tideServes s d = false then s
    else if (tenantOf s t).created = false ∨ physThere s a = false then served s d
    else if physFree s a = false then s
    else
      match tail with
      | none => setDie s d { dieOf s d with serve := (t, q, some (physGet s (a + 16) 4)) :: rest }
      | some n =>
        let head := physGet s (a + 20) 4
        let size := physGet s (a + 8) 1
        let base := physGet s a 8
        if (tenantOf s t).halted.contains q then
          (if physGet s (a + 24) 4 ≠ 0 then served s d
            else setTenant s t { tenantOf s t with halted := (tenantOf s t).halted.filter fun x => x != q })
        else if (tenantOf s t).stopped.contains q then
          (if physGet s (a + 24) 4 ≠ 0 then served s d
            else setTenant (physPut s (a + 20) 4 ((head + 1) % 2 ^ 32)) t { tenantOf s t with
              stopped := (tenantOf s t).stopped.filter fun x => x != q })
        else
        match (tenantOf s t).marks.find? fun m => m.2.1 == q with
        | some m => takeMark s d t q m.2.2 head
        | none =>
        if head = n then served s d
        else if size < 4 ∨ 16 < size ∨ base % 128 ≠ 0 then stopQueue s d t q 2 head
        else
          let e := base + 128 * (head % 2 ^ size)
          if physThere s e = false then served s d
          else if physFree s e = false then s
          else
            let l := readBytes s e 128
            if (leNat (l.take 2) == 2) == mark then takeEntry s d t q head l else s

/-- The next entry of the queue in service is taken, unless it is a MARK (R140, R141). -/
def execCommandLaunch (die : Nat) (s : State) : Result := .next <| serveHead s die false
/-- The next entry of the queue in service is taken, if it is a MARK (R140, R141). -/
def execCommandMark (die : Nat) (s : State) : Result := .next <| serveHead s die true

/-! ### Placement (R20, R21, R36, R132, R322, R327) -/

/-- A warp at its start (R36, R132). -/
def startWarp (c : Command) (k index core key widx stamp : Nat) : Warp :=
  let lanes : Dword := BitVec.ofNat 64 (2 ^ c.width - 1)
  { Warp.blank with
    status := .running, width := c.width, vregs := c.vregs, blk := k, index := widx, core := warpCore c core widx
    slot := (key - 16) % 64, upper := decide (lowerWarps c ≤ widx)
    scalars := [c.args.extractLsb' 0 32, c.args.extractLsb' 32 32, BitVec.ofNat 32 index, BitVec.ofNat 32 widx,
      BitVec.ofNat 32 c.grid, BitVec.ofNat 32 (index / max 1 c.cluster)].zipIdx.foldl (fun t e => Tbl.set t e.2 e.1) []
    split := Tbl.set [] 0 { Entry.blank with
      state := .leaf, owned := lanes, exec := lanes, pc := c.entry, parent := 15, readyAt := stamp, fresh := true } }

/-- Every element of a matrix context is +0 (R125). -/
def clearCtx (s : State) (x ctx : Nat) : State :=
  setCore s x { coreOf s x with acc := (coreOf s x).acc.filter fun e => e.1 / 16384 != ctx }

/-- Burin selects the block, or counts it as skipped (R327). -/
def auditStart (s : State) (t : Nat) (c : Command) (index core : Nat) : State :=
  let d := core / 40
  let x := dieOf s d
  if c.flags.testBit 0 = false ∨ s.audfrac.toNat ≤ auditHash c.task index then s
  else if s.part = .gx9h ∨ 64 ≤ x.audits.length then setDie s d { x with skipped := x.skipped + 1 }
  else
    let args := match engReads s (tableClient s t) c.args 256 with
      | (_, .ok l) => l
      | _ => []
    let inputs : List Word := [c.args.extractLsb' 0 32, c.args.extractLsb' 32 32, BitVec.ofNat 32 index, 0,
      BitVec.ofNat 32 c.grid, BitVec.ofNat 32 (index / max 1 c.cluster)]
    let gk := gridKey t c.task
    setGrid (setDie s d { x with audits := x.audits ++ [⟨t, c.task, index, core, c, inputs, args, 0, none, [], [], 0, .running⟩] }) gk
      { gridOf s gk with audits := (gridOf s gk).audits + 1 }

/-- A block at its start on a core, its warps in their slots (R36, R320). -/
def freshBlock (s : State) (t : Nat) (c : Command) (index core slot ctx : Nat) (area : Option Nat) : Block :=
  { Block.blank with
    status := .running, tenant := t, world := (tenantOf s t).world.toNat, task := c.task, index := index, cmd := c
    gang := wantsGang c, core := core, slot := slot, ctx := if wantsCtx c then some ctx else none
    group := groupOfCore core, warps := (List.range c.warps).map fun i => warpPlace s c core i, area := area }

/-- A block stands on its core, its warps ready and its context cleared; a first checkpoint is taken (R36, R125, R322). -/
def putBlock (s : State) (b : Block) : State :=
  let k := s.nextBlk
  let s1 := match b.ctx with
    | some x => (coresOf b).foldl (fun u c => clearCtx u c x) s
    | none => s
  let s2 := b.warps.zipIdx.foldl (fun u e => setWarp u e.1 (startWarp b.cmd k b.index b.core e.1 e.2 s.stamp)) s1
  takeCheckpoint (setBlock { s2 with nextBlk := k + 1 } k b) k

/-- The next block of a grid stands on a core and slot. -/
def newBlock (s : State) (t : Nat) (c : Command) (core slot ctx area : Nat) : State :=
  let gk := gridKey t c.task
  let index := (gridOf s gk).placed
  let s1 := auditStart s t c index core
  putBlock (setGrid s1 gk { gridOf s1 gk with placed := index + 1 }) (freshBlock s t c index core slot ctx (some area))

/-- Cores of tenant `t`'s group that may take a block of a command now (R21, R147, R286). -/
def coreOpen (s : State) (t : Nat) (c : Command) (core ctx : Nat) : Bool :=
  let grp := groupOfCore core
  let world := (tenantOf s t).world.toNat
  (groupOf s grp).running == some t && mayRunIn s t grp && !(dieOf s (core / 40)).out && coreTakes s core world &&
    (!wantsGang c || coreTakes s (core + 1) world) && placeRoom s c core ctx

/-- The next block of a grid stands on a core, its image area reserved (R20, R21, R320). -/
def placeRaw (s : State) (t task core ctx : Nat) : Option State :=
  let gk := gridKey t task
  let g := gridOf s gk
  if tideServes s (core / 40) = false ∨ coreOpen s t g.cmd core ctx = false ∨
      clusterElsewhere s gk g.cmd g.placed (groupOfCore core) = true then none
  else
    match freeSlot s core, areaFor s t g.cmd (areasUsed s) with
    | some slot, some area => some (newBlock s t g.cmd core slot ctx area)
    | _, _ => none

/-- PLACE is journalled for blocks `first` on, `n` of them, in a group (R144): the manual names no ADDR and VALUE for it, and the
model's record has the number of blocks at ADDR, and at VALUE the first block, with the group in bits 63:32 (assumption 73). -/
def placeRecord (s : State) (t task first n grp : Nat) : Option State := journalPut s t 2 task n (first + 2 ^ 32 * grp)

/-- The next block of a grid is placed on a core, and journalled as PLACE (R144). -/
def placeAt (s : State) (t task core ctx : Nat) : Option State :=
  (placeRecord s t task (gridOf s (gridKey t task)).placed 1 (groupOfCore core)).bind fun u => placeRaw u t task core ctx

/-- The places of a group: its cores, each with either context. -/
def groupPlaces (g : Nat) : List (Nat × Nat) := (List.range 8).flatMap fun i => [(8 * g + i, 0), (8 * g + i, 1)]

/-- `n` blocks of a grid are placed in one group, each where it first fits. -/
def placeRun (s : State) (t task g : Nat) : Nat → Option State
  | 0 => some s
  | n + 1 =>
    match (groupPlaces g).findSome? fun p => placeRaw s t task p.1 p.2 with
    | some s1 => placeRun s1 t task g n
    | none => none

/-- `n` clusters of a grid are placed, each in the first group that holds it whole. -/
def placeClusters (s : State) (t task size : Nat) : Nat → Option State
  | 0 => some s
  | n + 1 =>
    match (List.range (groupCount s)).findSome? fun g => placeRun s t task g size with
    | some s1 => placeClusters s1 t task size n
    | none => none

/-- Runs of blocks in one group: first block, number and group. -/
def groupRuns : List (Nat × Nat) → List (Nat × Nat × Nat)
  | [] => []
  | (i, g) :: l =>
    match groupRuns l with
    | (f, n, h) :: r => if h = g ∧ f = i + 1 then (i, n + 1, g) :: r else (i, 1, g) :: (f, n, h) :: r
    | [] => [(i, 1, g)]

/-- The runs of blocks of a grid. -/
def runsOf (s : State) (gk : Nat) : List (Nat × Nat × Nat) :=
  groupRuns ((List.range (gridOf s gk).placed).map fun i =>
    (i, ((s.blocks.find? fun e => e.2.status != .absent && blockGrid e.2 == gk && e.2.index == i).map fun e => e.2.group).getD 0))

/-- A cooperative grid is placed whole, its first block on a given core, with one PLACE for each run of blocks in a group (R144, R154;
assumption 24). -/
def placeWhole (s : State) (t task core ctx : Nat) : Option State :=
  let gk := gridKey t task
  let c := (gridOf s gk).cmd
  let n := max 1 c.cluster
  ((placeRaw s t task core ctx).bind fun u => placeRun u t task (groupOfCore core) (n - 1)).bind fun u =>
    (placeClusters u t task n (c.grid / n - 1)).bind fun v =>
      (runsOf v gk).foldl (fun o r => o.bind fun x => placeRecord x t task r.1 r.2.1 r.2.2) (some v)

/-- The next block of a dispatched grid, or a whole cooperative grid, is placed where it fits (R20, R21, R144, R154). -/
def execBlockPlace (t task core ctx : Nat) (s : State) : Result :=
  .next <|
    let g := gridOf s (gridKey t task)
    let coop := g.cmd.flags.testBit 3
    if g.live = false ∨ g.dispatched = false ∨ g.cmd.grid ≤ g.placed ∨ (coop = true ∧ g.placed ≠ 0) then s
    else
      match (if coop then placeWhole s t task core ctx else placeAt s t task core ctx) with
      | some s1 => s1
      | none => if tideServes s (core / 40) && coreOpen s t g.cmd core ctx then stepFails s t task else s

/-! ### The end of a task (R146, R317, R327) -/

/-- Every block has exited: COMPLETE is journalled and the stamp is written (R146, R317). -/
def execTaskComplete (t task : Nat) (s : State) : Result :=
  .next <|
    let gk := gridKey t task
    let g := gridOf s gk
    if tideAny s = false ∨ g.live = false ∨ g.dispatched = false ∨ g.exited < g.cmd.grid ∨ g.queue ≠ 0 ∨ g.audits ≠ 0 then s
    else
      let s1 := completeTask s t g.cmd g.failed g.firstTrap
      if isPending s1 t task then s1
      else setGrid s1 gk { gridOf s1 gk with live := false }

end Sys2Proof.Machine
end

