-- ==== Sys2Proof/Machine/Records.lean ====
section
/-! DEFINITION. The records that the hypervisor and the leader write: scheduling, memory, isolation, queue tables, host regions,
tenants, worlds, rosters and key slots (R139, R147, R148, R191, R269 to R272, R276, R288 to R291, R330). A rejected
request changes nothing and sends an error response. -/

namespace Sys2Proof.Machine

/-- Tenants are numbered 0 to 63 (R269). -/
def isTenant (t : Nat) : Bool := decide (t < 64)

/-! ### Replication (R330) -/

/-- The live instances beside the leader: those that must acknowledge a change. -/
def ackers (s : State) : List Nat :=
  (List.range (diesOf s)).filter fun d => (dieOf s d).live && !(dieOf s d).out && d != s.plat.leader

/-- Every live instance has acknowledged a change: the hypervisor has its reply, and the tenant's record is modified no longer,
unless by another change. -/
def closeChange (s : State) (c : Change) : State :=
  let s1 := match c.reply with
    | some r => reply s r
    | none => s
  match c.tenant with
  | some t => if s1.plat.changes.any fun x => x.tenant == some t then s1 else setTenant s1 t { tenantOf s1 t with modified := false }
  | none => s1

/-- The entries of a table that differ in another, as they stand in the first. -/
def changedIn {α : Type} [DecidableEq α] (z : α) (a b : Tbl α) : List (Nat × α) :=
  (((a ++ b).map Prod.fst).dedup.filter fun k => Tbl.get z a k ≠ Tbl.get z b k).map fun k => (k, Tbl.get z a k)

/-- The change of the package records from `old` to `s`, of tenant `t` or of worlds and key slots. -/
def changeFrom (old s : State) (t : Option Nat) (r : Reply) (l : List Nat) : Change :=
  ⟨t, some r, l, t.map fun i => tenRec (tenantOf old i), changedIn World.blank old.worlds s.worlds,
    changedIn KeySlot.blank old.keys s.keys⟩

/-- The leader replicates a change of the records from `old` to `s`, and replies once every live instance has acknowledged it (R330;
assumption 37). -/
def announce (old s : State) (t : Option Nat) (r : Reply) : State :=
  let c := changeFrom old s t r (ackers s)
  if c.left.isEmpty then closeChange s c else { s with plat := { s.plat with changes := s.plat.changes ++ [c] } }

/-- An instance acknowledges the changes sent to it, or is no longer live. -/
def acknowledge (s : State) (d : Nat) : State :=
  let l := s.plat.changes.map fun c => { c with left := c.left.filter fun x => x != d }
  (l.filter fun c => c.left.isEmpty).foldl closeChange
    { s with plat := { s.plat with changes := l.filter fun c => !c.left.isEmpty } }

/-- A tenant record has changed; it is replicated later (R330). -/
def changeTenant (s : State) (t : Nat) (x : Tenant) : State := setTenant s t { x with modified := true }

/-! ### Scheduling records (R147, R148) -/

/-- The effective quantum of a record: the larger of QUANTUM and the time of a save. -/
def effectiveQuantum (s : State) (v : BitVec 128) : Nat :=
  let tsave := 1800 * s.fsto.toNat + 256 + ((v.extractLsb' 96 32).toNat + 127) / 128
  max (quantumOf v) ((tsave + 1799) / 1800)

/-- The record as it reads back. -/
def schedRecord (s : State) (v : BitVec 128) : BitVec 128 :=
  v.extractLsb' 96 32 ++ v.extractLsb' 76 20 ++ BitVec.ofNat 20 (effectiveQuantum s v) ++ v.extractLsb' 40 16 ++ 0#20 ++
    v.extractLsb' 0 20

/-- A scheduling record is written, or rejected for QUANTUM 0 (R147, R148). -/
def execSchedRecordWrite (t : Nat) (v : BitVec 128) (s : State) : Result :=
  .next <|
    if isTenant t = false ∨ quantumOf v = 0 then reply s (.error t)
    else
      let r := schedRecord s v
      announce s (changeTenant s t { tenantOf s t with sched := r }) (some t) (.accepted t (quantumOf r))

/-! ### Memory records (R191, R276) -/

/-- A root's use count changes by `n`, if the frame has a type entry. -/
def countRoot (s : State) (f : Nat) (n : Int) : State := if hasType s f then countAdd s f n else s

/-! ### Isolation records (R269, R270) -/

/-- The tenant owns a frame; a FIRMWARE frame belongs to no tenant. -/
def ownsFrame (s : State) (t : Nat) : Bool := s.types.any fun e => teType e.2 != 0 && teType e.2 != 8 && teOwner e.2 == t

/-- An isolation record is written, or rejected (R269, R270). -/
def execIsolationRecordWrite (t : Nat) (v : BitVec 64) (s : State) : Result :=
  .next <|
    let x := tenantOf s t
    let world := v.extractLsb' 56 8
    if isTenant t = false ∨ (world ≠ x.world ∧ ownsFrame s t = true) then reply s (.error t)
    else announce s (changeTenant s t { x with world := world, slotmask := v.extractLsb' 32 16 }) (some t) (.accepted t 0)

/-- The hypervisor sets a tenant's queue table address (R139). -/
def execQueueTableWrite (t addr : Nat) (s : State) : Result :=
  .next <|
    if isTenant t = false then reply s (.error t)
    else announce s (tellTenant (changeTenant s t { tenantOf s t with qtab := addr }) t) (some t) (.accepted t 0)

/-! ### Host ownership regions (R291) -/

/-- The frames of a region. -/
def regionFrames (r : HostRegion) : List Nat := (List.range r.len).map fun i => r.first + i

/-- A region cannot be given: its number, its frames or its type. -/
def hostRegionBad (s : State) (t i first len type : Nat) : Bool :=
  !isTenant t || decide (16 ≤ i) || (Tbl.get ⟨0, 0, 0, 0⟩ (tenantOf s t).hosts i : HostRegion).len != 0 || len == 0 ||
    !isHost (first * 65536) || !isHost ((first + len - 1) * 65536) || !(type == 1 || type == 7) ||
    s.tenants.any fun e => e.2.hosts.any fun r => decide (r.2.first < first + len ∧ first < r.2.first + r.2.len)

/-- Host frames are given to a tenant, with their type entries (R291). -/
def execHostRegionAdd (t i first len type : Nat) (grant : BitVec 64) (s : State) : Result :=
  .next <|
    if hostRegionBad s t i first len type then reply s (.error t)
    else
      let x := tenantOf s t
      let r : HostRegion := ⟨first, len, type, grant⟩
      let e := mkType type t x.world.toNat 0 0 0 (if type = 7 then grant else 0)
      let s1 := changeTenant s t { x with hosts := Tbl.set x.hosts i r }
      announce s ((regionFrames r).foldl (fun u f => setType u f e) s1) (some t) (.accepted t 0)

/-- A region is removed, or the request is rejected while a frame has a nonzero count (R291). -/
def execHostRegionRemove (t i : Nat) (s : State) : Result :=
  .next <|
    let x := tenantOf s t
    let r : HostRegion := Tbl.get ⟨0, 0, 0, 0⟩ x.hosts i
    if r.len = 0 ∨ (regionFrames r).any (fun f => teCount (typeOf s f) != 0) = true then reply s (.error t)
    else
      let s1 := (regionFrames r).foldl (fun u f => setType u f 0) s
      announce s (changeTenant s1 t { x with hosts := Tbl.del x.hosts i }) (some t) (.accepted t 0)

/-! ### Tenants, worlds and rosters (R271, R272) -/

/-- A FREE frame that can be allocated. -/
def frameAvailable (s : State) (f : Nat) : Bool := hasType s f && teType (typeOf s f) == 0 && !isHost (f * 65536)

/-- A frame allocated from FREE for a tenant with a type and `count` references more than it has; GEN counts the changes of type (R273, R284). -/
def allocFrame (s : State) (t f ty count changes : Nat) : State :=
  let e := mkType ty t (tenantOf s t).world.toNat (teCount (typeOf s f) + count) ((teGen (typeOf s f) + changes) % 256) 0 0
  setType (zeroFrame s f) f e

/-- A page table entry: its low bits and frame (R182). -/
def pte (low f : Nat) : List Byte := leBytes 8 (low + 65536 * f)

/-- The table window of a new tenant (R272). -/
def tableWindow (s : State) (root l1 l0 : Nat) : State :=
  let w (u : State) (f n low g : Nat) : State := writeBytes u (f * 65536 + 8 * n) (pte low g)
  w (w (w (w (w s root 0x1C00 1 l1) l1 0 1 l0) l0 0 0x63 root) l0 1 0x63 l1) l0 2 0x63 l0

/-- The frames of a new tenant: its tables, the two copies of its journal on different stacks, and its doorbell (R142, R144, R272,
R311). -/
def createFrames (root l1 l0 jframe jcopy dbell : Nat) : List Nat := [root, l1, l0, jframe, jcopy, dbell]

/-- The tenant cannot be created with these frames. -/
def createBad (s : State) (t root l1 l0 jframe jcopy dbell : Nat) : Bool :=
  let l := createFrames root l1 l0 jframe jcopy dbell
  !isTenant t || (tenantOf s t).created || (tenantOf s t).erasure.isSome || l.any (fun f => !frameAvailable s f) ||
    l.dedup.length != 6 || !isHbm s (dbell * 65536) || !isHbm s (jframe * 65536) || !isHbm s (jcopy * 65536) ||
    hbmStack s (jframe * 65536) == hbmStack s (jcopy * 65536)

/-- A tenant is created: its table window, journal frames and doorbell frame, and an empty violation log (R142, R144, R272, R310). -/
def execTenantCreate (t root l1 l0 : Nat) (journal : Nat × Nat) (dbell : Nat) (s : State) : Result :=
  let jframe := journal.1
  let jcopy := journal.2
  .next <|
    if createBad s t root l1 l0 jframe jcopy dbell then reply s (.error t)
    else
      let s1 := allocFrame (allocFrame (allocFrame s t root 5 2 2) t l1 4 2 2) t l0 3 2 2
      let s2 := allocFrame (allocFrame (allocFrame s1 t jframe 6 0 1) t jcopy 6 0 1) t dbell 1 0 1
      let s3 := tableWindow s2 root l1 l0
      let s4 := setTenant s3 t { tenantOf s3 t with
        created := true, modified := true, root := BitVec.ofNat 32 root, jframe := jframe, jcopy := jcopy, dbell := dbell, vlog := []
        spaces := 2 }
      announce s (countRoot (tellTenant s4 t) (tenantOf s t).root.toNat (-1)) (some t) (.accepted t 0)

def worldOf (s : State) (w : Nat) : World := Tbl.get World.blank s.worlds w

/-- The leader creates a protected world with a roster and a key slot (R271, R289). -/
def execWorldCreate (world : Nat) (roster : BitVec 64) (slot t : Nat) (s : State) : Result :=
  .next <|
    if world = 0 ∨ 255 < world ∨ (worldOf s world).live = true ∨ slot = 0 ∨ 255 < slot ∨ (keyOf s slot).state ≠ .empty ∨
        isTenant t = false then reply s (.error world)
    else announce s (setKey { s with worlds := Tbl.set s.worlds world ⟨true, roster⟩ } slot ⟨.active, t, none⟩) none (.accepted world 0)

/-- The leader changes the roster of a world (R271). -/
def execRosterWrite (world : Nat) (roster : BitVec 64) (s : State) : Result :=
  .next <|
    if (worldOf s world).live = false then reply s (.error world)
    else announce s { s with worlds := Tbl.set s.worlds world ⟨true, roster⟩ } none (.accepted world 0)

/-! ### Key slots and link keys (R288 to R290) -/

/-- The leader assigns an EMPTY key slot to a tenant (R289, R290). -/
def execKeySlotAssign (slot t : Nat) (s : State) : Result :=
  .next <|
    if slot = 0 ∨ 255 < slot ∨ (keyOf s slot).state ≠ .empty ∨ isTenant t = false then reply s (.error t)
    else announce s (setKey s slot ⟨.active, t, none⟩) none (.accepted t slot)

/-- The dirty lines of a FLUSHING slot are written back: it becomes REVOKED, and the service core is told (R290, R309). -/
def execKeySlotFlushed (slot : Nat) (s : State) : Result :=
  .next <|
    let x := keyOf s slot
    if x.state ≠ .flushing then s
    else
      let s1 := setKey (dropKeyLines s slot true) slot { x with state := .revoked, asker := none }
      match x.asker with
      | some k => setPend s1 k 3
      | none => s1

/-- The key of a REVOKED slot that no frame names is destroyed (R290). -/
def execKeyDestroy (slot : Nat) (s : State) : Result :=
  .next <|
    if (keyOf s slot).state ≠ .revoked ∨ s.types.any (fun e => teKey e.2 == slot) = true then s
    else setKey s slot KeySlot.blank

/-- Fresh keys on both directions of a link: their counters start again (R288). -/
def rekey (x : Link) : Link := { x with out := { x.out with keys := 0 }, inn := { x.inn with keys := 0 } }

/-- Headland installs fresh keys on a link, of the Strandline or inside the package (R288). -/
def execLinkRekey (link : Nat) (s : State) : Result :=
  .next <|
    if innerLinks ≤ link then setInner s link { innerOf s link with keyOut := 0, keyIn := 0 }
    else if (linkOf s link).bound then setLink s link (rekey (linkOf s link)) else s

end Sys2Proof.Machine
end

