-- ==== Sys2Proof/Machine/Admission.lean ====
section
/-! DEFINITION. The admission checker: the checks of a page-table store, its commit, and its retirement (R160, R185, R276
to R281, R371). -/

namespace Sys2Proof.Machine

/-! ### Entries (R182, R183) -/

def pteV (e : Dword) : Bool := e.getLsbD 0
def pteLeaf (e : Dword) : Bool := e.extractLsb' 1 2 == 1#2
def pteFrame (e : Dword) : Nat := (e.extractLsb' 16 32).toNat

/-- Level of the table frame that holds an address, by its type (R277). -/
def tableLevel (s : State) (pa : Nat) : Option Nat :=
  match teType (typeOf s (pa / 65536)) with
  | 3 => some 0
  | 4 => some 1
  | 5 => some 2
  | _ => none

/-- The frames that a valid entry of a level references (R276). A leaf to a peer window references none here (R275). -/
def targetsOf (n : Nat) (e : Dword) : List Nat :=
  if pteV e = false ∨ isPeer (pteFrame e * 65536) = true then []
  else if pteLeaf e && n == 1 then (List.range 8192).map fun i => pteFrame e + i
  else [pteFrame e]

/-! ### The checks (R278) -/

/-- The leaf permissions do not fit the type of frame `f` (check 5). -/
def permBad (s : State) (f : Nat) (e : Dword) : Bool :=
  let ty := teType (typeOf s f)
  let x := e.getLsbD 3
  let w := e.getLsbD 4
  let r := e.getLsbD 5
  let t := e.getLsbD 6
  let m := e.getLsbD 7
  let sh := e.getLsbD 8
  let table := ty == 3 || ty == 4 || ty == 5
  (ty == 1 && !(r || w)) || (ty == 2 && !x) || (ty == 7 && !(sh && (r || w))) || (table && !(r || t)) ||
    (w && (table || ty == 2)) || (x && ty != 2) || (t && (!table || w || x || m || sh)) || (sh != (ty == 7)) ||
    (m && !((ty == 1 || ty == 7) && isHbm s (f * 65536)))

/-- The storing tenant may name frame `f` (check 3). -/
def ownedOrGranted (s : State) (t world f : Nat) : Bool :=
  let e := typeOf s f
  (teOwner e == t && teWorld e == world) || (teType e == 7 && (teGrant e).getLsbD t)

/-- The type of a target does not fit the level (check 4). -/
def levelBad (s : State) (n : Nat) (e : Dword) (l : List Nat) : Bool :=
  let ty (f : Nat) : Nat := teType (typeOf s f)
  if pteLeaf e = false then l.any fun f => ty f != (if n = 2 then 4 else 3)
  else if n = 1 then l.any fun f => ty f != 1 || teOwner (typeOf s f) != teOwner (typeOf s (pteFrame e)) ||
    teWorld (typeOf s f) != teWorld (typeOf s (pteFrame e))
  else l.any fun f => ty f == 0 || ty f == 6 || ty f == 8

/-- The node that a peer window reaches is on the roster of a world. -/
def onRoster (s : State) (world pa : Nat) : Bool :=
  let node := match linkFor s pa with
    | some k => (linkOf s k).node
    | none => peerWindow pa
  (worldOf s world).roster.getLsbD node

/-- The first failing check of R278, or 0. -/
def admissionCode (s : State) (t n : Nat) (e : Dword) : Nat :=
  let world := (tenantOf s t).world.toNat
  let l := targetsOf n e
  if pteV e = false then 0
  else if pteLeaf e && isPeer (pteFrame e * 65536) then
    (if e.getLsbD 3 || e.getLsbD 6 || e.getLsbD 7 || !(e.getLsbD 5 || e.getLsbD 4) then 4
      else if onRoster s world (pteFrame e * 65536) then 0 else 8)
  else if malformed n e || (pteLeaf e && n == 2) then 1
  else if l.isEmpty || l.any (fun f => !hasType s f || teType (typeOf s f) == 0) then 5
  else if l.any fun f => !ownedOrGranted s t world f then 3
  else if levelBad s n e l then 2
  else if pteLeaf e && l.any fun f => permBad s f e then 4
  else if l.any fun f => decide (0xFFFFFF ≤ teCount (typeOf s f)) then 6
  else 0

/-! ### What an entry was used for (R185, R280) -/

/-- An operation was translated through what an admission replaces, and is not performed. A page-table store that waits at the
checker of the same table frame is not counted (R279, R371). -/
def usesOld (a : Admission) (o : PendOp) : Bool :=
  !o.finished && ((o.units.any fun u => !u.done && u.via.any (replaces a) &&
      !(u.leafT && u.sent && a.root.isNone && u.pa / 65536 == a.addr / 65536)) ||
    match o.kind with
    | .mcopy src => src.any fun u => u.via.any (replaces a)
    | .gather _ _ _ _ _ _ _ root olds => (olds.any fun e => replaces a e.1) || a.root == some root
    | _ => false)

/-- The warps of a tenant's blocks. -/
def tenantWarps (s : State) (t : Nat) : List (Nat × Warp) :=
  s.warps.filter fun w => decide (16 ≤ w.1) && (blockOf s w.2.blk).tenant == t

/-- Operations of the tenant's warps that may still use what an admission replaces. -/
def oldUsers (s : State) (a : Admission) : List (Nat × Nat) :=
  (tenantWarps s a.tenant).flatMap fun w => (w.2.pend.filter (usesOld a)).map fun o => (w.1, o.id)

/-- The operation may still use it. -/
def stillUses (s : State) (a : Admission) (e : Nat × Nat) : Bool :=
  match opOf (warpOf s e.1) e.2 with
  | some o => usesOld a o
  | none => false

/-- A gather keeps the translation of its issue: it takes an entry's old value at the entry's first change (R371; assumption 26). -/
def keepOld (addr : Nat) (old : Dword) (o : PendOp) : PendOp :=
  match o.kind with
  | .gather sc t l b n esz bound root olds =>
    if o.finished || olds.any (fun e => e.1 == addr) then o
    else { o with kind := .gather sc t l b n esz bound root ((addr, old) :: olds) }
  | _ => o

/-- The gathers of a tenant keep an entry's old value. -/
def keepOlds (s : State) (t addr : Nat) (old : Dword) : State :=
  (tenantWarps s t).foldl (fun u w => setWarp u w.1 { warpOf u w.1 with pend := (warpOf u w.1).pend.map (keepOld addr old) }) s

/-! ### The end of an admission -/

/-- Regions of a tenant all of whose frames have lost their type entry are released (R295). -/
def releaseRegions (s : State) (t : Nat) : State :=
  let x := tenantOf s t
  setTenant s t { x with hosts := x.hosts.filter fun r => (regionFrames r.2).any fun f => teType (typeOf s f) != 0 }

/-- A frame loses a count. A frame that an erased tenant left SHARED becomes FREE with its last one; a host frame loses
its type entry, and with the last of a region that is released (R276, R295). -/
def countDrop (s : State) (f : Nat) : State :=
  let s1 := countAdd s f (-1)
  let e := typeOf s1 f
  if s.leaving.contains f ∧ teCount e = 0 then
    let s2 := { s1 with leaving := s1.leaving.filter fun x => x != f }
    if isHost (f * 65536) then releaseRegions (setType s2 f 0) (teOwner e) else setType (zeroFrame s2 f) f (mkType 0 0 0 0 ((teGen e + 1) % 256) 0 0)
  else s1

/-- The store of an admission is acknowledged: its unit is done, and the store completes (R204, R279). -/
def admissionAck (s : State) (a : Admission) : State :=
  let s1 := { s with admissions := s.admissions.filter fun x => x.id != a.id }
  withOp s1 a.warp a.op fun o =>
    match o.units[a.unit]? with
    | some x =>
      let o' := setUnit o a.unit { x with done := true, sent := false }
      let s2 := setWarp s1 a.warp (setOp (warpOf s1 a.warp) o')
      if isComplete o' then retireOp s2 a.warp o' else s2
    | none => s1

/-- The overlays of the tenant with a piece of their image in a frame that it unmaps, by core and first slot (R160). -/
def unmappedSlots (s : State) (t : Nat) (l : List Nat) : List (Nat × Nat) :=
  s.cores.flatMap fun c => ((List.range 16).filter fun i =>
    let x := slotAt c.2.slots i
    x.count != 0 && x.first == i && x.sharers.contains t && x.image.any fun p => l.contains (p / 65536)).map fun i => (c.1, i)

/-- A fragment of the tenant stands in a clause of the slot. -/
def fragmentIn (s : State) (t core i : Nat) : Bool :=
  s.warps.any fun w => decide (16 ≤ w.1) && w.2.core == core && (blockOf s w.2.blk).tenant == t &&
    w.2.status != .halted && w.2.status != .trapped && w.2.status != .exited &&
    w.2.split.any fun e => e.2.state == .leaf && refSlot e.2.pc == i && refGen e.2.pc == (slotAt (coreOf s core).slots i).gen

/-- The tenant may not leave the overlay yet: it is loading, a fragment of the tenant runs in it, or it would be left with no
sharer while it is pinned (R160). -/
def slotHolds (s : State) (t : Nat) (e : Nat × Nat) : Bool :=
  let x := slotAt (coreOf s e.1).slots e.2
  x.state == .loading || x.state == .poison || fragmentIn s t e.1 e.2 ||
    ((x.sharers.all fun u => u == t) && isPinned s (16 + e.1) e.2)

/-- The tenant leaves an overlay's sharers; an overlay without sharers becomes FREE (R160). -/
def leaveSlot (s : State) (t : Nat) (e : Nat × Nat) : State :=
  let c := coreOf s e.1
  let y := { slotAt c.slots e.2 with sharers := (slotAt c.slots e.2).sharers.filter fun u => u != t }
  let l := Tbl.set c.slots e.2 y
  setCore s e.1 { c with slots := if y.sharers.isEmpty then evict l e.2 else l }

/-- The frames whose code an admission unmaps: an X leaf that the new entry no longer maps X. -/
def codeUnmapped (n : Nat) (a : Admission) : List Nat :=
  if pteV a.old && pteLeaf a.old && a.old.getLsbD 3 &&
      !(pteV a.new && pteLeaf a.new && a.new.getLsbD 3 && pteFrame a.new == pteFrame a.old) then targetsOf n a.old
  else []

/-- The lines of the tenant's stashes that were filled through what an admission replaces are written back and dropped: all of
them at the commit, and later those that an older access has filled since (R185, R193; assumption 56). -/
def dropStale (s : State) (a : Admission) (all : Bool) : State :=
  ((s.blocks.filter fun e => e.2.tenant == a.tenant).map Prod.fst).foldl (fun u k =>
    dropLines u k (fun x => x.via.any (replaces a) && (all || outdated u a.tenant x)) true) s

/-- An `MWAIT` that waits reads from now on through the entries that stand then (R371; assumption 25). -/
def staleSpot (a : Admission) (x : Entry) : Entry :=
  { x with spot := x.spot.map fun u => if u.via.any (replaces a) then { u with done := true } else u }

def staleSpots (s : State) (a : Admission) : State :=
  { s with warps := s.warps.map fun e =>
    (e.1, if (blockOf s e.2.blk).tenant = a.tenant then { e.2 with split := e.2.split.map fun x => (x.1, staleSpot a x.2) } else e.2) }

/-- An admission retires (R279, R280); a move of ROOT takes the old root's one (R276). -/
def admissionRetire (s : State) (a : Admission) : State :=
  match a.root with
  | some f =>
    let u := { s with admissions := s.admissions.filter fun x => x.id != a.id }
    if hasType u f then countDrop u f else u
  | none =>
  let n := (tableLevel s a.addr).getD 0
  let l := targetsOf n a.old
  let s1 := (unmappedSlots s a.tenant (codeUnmapped n a)).foldl (fun u e => leaveSlot u a.tenant e) s
  admissionAck (l.foldl countDrop s1) a

/-- A refused page-table store: the log, `REFSUM`, the fence records, and the end of the store (R281). -/
def admissionRefuse (s : State) (a : Admission) (code : Nat) : State :=
  admissionAck (refuseStore s a.warp a.tenant code a.va) a

/-- The entry is written at its home: a store outside the stash of the block, and part of its signature (R323, R328). -/
def commitWrite (s : State) (k a : Nat) (d : List Byte) : State :=
  let t := writeBytes s a d
  let u := noteAudit t k (snoop s none a d.length true).mem t.mem a d.length
  if k = 0 then u else setBlock u k { blockOf u k with eligible := false }

/-- COMMIT: the new targets gain a count, and the entry is written; with a valid old entry that differs, SHOOTDOWN follows,
else RETIRED at once (R279). -/
def admissionCommit (s : State) (n : Nat) (a : Admission) : State :=
  let old := BitVec.ofNat 64 (physGet s a.addr 8)
  let s0 := keepOlds s a.tenant a.addr old
  let users := oldUsers s0 a
  let s1 := (targetsOf n a.new).foldl (fun u f => countAdd u f 1) s0
  let s2 := commitWrite s1 (warpOf s1 a.warp).blk a.addr (leBytes 8 a.new.toNat)
  let s3 := withOp s2 a.warp a.op fun o =>
    match o.units[a.unit]? with
    | some x =>
      let o' := setUnit o a.unit { x with done := true }
      laneCount (setWarp s2 a.warp (setOp (warpOf s2 a.warp) o')) a.warp o' x.lane 4
    | none => s2
  let b := { a with old := old, committed := true, waits := users }
  if pteV old ∧ old ≠ a.new then
    staleSpots (dropStale { s3 with admissions := s3.admissions.map fun x => if x.id = a.id then b else x } b true) b
  else admissionRetire s3 b

/-- A page-table store whose turn has come is checked, and commits or is refused (R277 to R281). -/
def execAdmissionCheck (n : Nat) (s : State) : Result :=
  .next <|
    match s.admissions.find? fun a => a.id == n with
    | none => s
    | some a =>
      if a.committed || s.admissions.any (fun x => decide (x.id < a.id) && x.root.isNone && x.addr / 65536 == a.addr / 65536) then s
      else if homeFree s a.warp a.op a.addr = false then s
      else if isPoison s a.addr then admissionAck (noteEvent s a.warp .poison) a
      else
        match tableLevel s a.addr with
        | none => if pteV a.new then admissionRefuse s a 1 else admissionCommit s 0 a
        | some l =>
          let code := admissionCode s a.tenant l a.new
          if code = 0 then admissionCommit s l a else admissionRefuse s a code

/-- A committed page-table store retires once nothing can still use the old entry (R160, R279, R280). -/
def execAdmissionRetire (n : Nat) (s : State) : Result :=
  .next <|
    match s.admissions.find? fun a => a.id == n with
    | none => s
    | some a =>
      let lvl := (tableLevel s a.addr).getD 0
      if a.committed = false ∨ a.waits.any (stillUses s a) = true ∨
          (unmappedSlots s a.tenant (codeUnmapped lvl a)).any (slotHolds s a.tenant) = true then s
      else admissionRetire (dropStale s a false) a

/-! ### Memory records (R191, R276) -/

/-- The move of a tenant's ROOT, which retires as a page-table store does (R276). -/
def rootMove (s : State) (t old : Nat) : Admission :=
  let a : Admission := ⟨s.nextAdm, 0, 0, 0, t, noWarp, 0, 0, 0, true, [], some old⟩
  { a with waits := oldUsers s a }

/-- A tenant's ROOT changes: the new root gains its one at once, and the old one loses its own when the tenant's translations have
dropped it (R276). -/
def moveRoot (s : State) (t : Nat) (root : BitVec 32) : State :=
  let x := tenantOf s t
  if root = x.root then s
  else
    let a := rootMove s t x.root.toNat
    let u := { countRoot s root.toNat 1 with nextAdm := s.nextAdm + 1, admissions := s.admissions ++ [a] }
    staleSpots (dropStale (setTenant u t { x with root := root }) a true) a

/-- A memory record is written: ROOT, LEASELIM, WAYMASK (R191, R276). -/
def execMemoryRecordWrite (t : Nat) (v : BitVec 128) (s : State) : Result :=
  .next <|
    if isTenant t = false then reply s (.error t)
    else
      let s1 := moveRoot s t (v.extractLsb' 96 32)
      announce s (changeTenant s1 t { tenantOf s1 t with
        leaselim := BitVec.ofNat 13 (min 4096 (v.extractLsb' 32 13).toNat), waymask := v.extractLsb' 0 32 })
        (some t) (.accepted t 0)

end Sys2Proof.Machine
end

