-- ==== Sys2Proof/Machine/Atomics.lean ====
section
/-! DEFINITION. Atomics and reductions, majors 0x24 and 0x25 (R213 to R215). -/

namespace Sys2Proof.Machine

/-! ### Issue -/

/-- The accesses of an atomic word: aligned, `n` bytes a lane, operand from `d`, new value of a compare and swap from
the fourth operand (R213). -/
def atomicAccs (s : State) (p : Option Prefix) (d a b : BitVec 7) (n : Nat) (cas : Bool) : List LaneAcc :=
  lanesAcc s (activeMask s (pfx p)) (vecEa s p a b) n (regBytes s (regD s p d) n)
    (if cas then regBytes s (physReg s (pfx p).c (pfx p).ch) n else fun _ => [])

/-- An atomic that returns the old value (R213, R214). -/
def atomicWord (i : Instr) (s : State) (p : Option Prefix) (d a b : BitVec 7) (n : Nat) (op : Rmw) : State :=
  issueAccess i s .a false .rmw true false (atomicAccs s p d a b n (op == .cas))
    { newOp s (.atomic (regD s p d) (n / 4) op) with
      scope := (pfx p).scope, active := activeMask s (pfx p), zeroed := zeroMask s (pfx p) }

/-- A reduction (R213, R214): it has read its registers when it issues (R204). -/
def redWord (i : Instr) (s : State) (p : Option Prefix) (d a b : BitVec 7) (n : Nat) (op : Rmw) : State :=
  issueAccess i s .b true .rmw true false (atomicAccs s p d a b n false)
    { newOp s (.red op) with scope := (pfx p).scope, active := activeMask s (pfx p) }

/-- Binary32 addition in the mode that is fixed at issue (R63, R214). -/
def faddOp (s : State) (p : Option Prefix) : Rmw := .fadd (BitVec.ofNat 3 (modeOf s p))

/-- Atomic add (R214). -/
def execAadd (p : Option Prefix) (d a b : BitVec 7) (s : State) : Result :=
  word (.aadd p d a b) s fun s => atomicWord (.aadd p d a b) s p d a b 4 .add
/-- Atomic signed minimum (R214). -/
def execAmin (p : Option Prefix) (d a b : BitVec 7) (s : State) : Result :=
  word (.amin p d a b) s fun s => atomicWord (.amin p d a b) s p d a b 4 .smin
/-- Atomic signed maximum (R214). -/
def execAmax (p : Option Prefix) (d a b : BitVec 7) (s : State) : Result :=
  word (.amax p d a b) s fun s => atomicWord (.amax p d a b) s p d a b 4 .smax
/-- Atomic unsigned minimum (R214). -/
def execAumin (p : Option Prefix) (d a b : BitVec 7) (s : State) : Result :=
  word (.aumin p d a b) s fun s => atomicWord (.aumin p d a b) s p d a b 4 .umin
/-- Atomic unsigned maximum (R214). -/
def execAumax (p : Option Prefix) (d a b : BitVec 7) (s : State) : Result :=
  word (.aumax p d a b) s fun s => atomicWord (.aumax p d a b) s p d a b 4 .umax
/-- Atomic AND (R214). -/
def execAand (p : Option Prefix) (d a b : BitVec 7) (s : State) : Result :=
  word (.aand p d a b) s fun s => atomicWord (.aand p d a b) s p d a b 4 .and
/-- Atomic OR (R214). -/
def execAor (p : Option Prefix) (d a b : BitVec 7) (s : State) : Result :=
  word (.aor p d a b) s fun s => atomicWord (.aor p d a b) s p d a b 4 .or
/-- Atomic XOR (R214). -/
def execAxor (p : Option Prefix) (d a b : BitVec 7) (s : State) : Result :=
  word (.axor p d a b) s fun s => atomicWord (.axor p d a b) s p d a b 4 .xor
/-- Atomic exchange (R214). -/
def execAxchg (p : Option Prefix) (d a b : BitVec 7) (s : State) : Result :=
  word (.axchg p d a b) s fun s => atomicWord (.axchg p d a b) s p d a b 4 .xchg
/-- Atomic compare and swap (R213, R214). -/
def execAcas (p : Option Prefix) (d a b : BitVec 7) (s : State) : Result :=
  word (.acas p d a b) s fun s => atomicWord (.acas p d a b) s p d a b 4 .cas
/-- Atomic binary32 add (R214). -/
def execAfadd (p : Option Prefix) (d a b : BitVec 7) (s : State) : Result :=
  word (.afadd p d a b) s fun s => atomicWord (.afadd p d a b) s p d a b 4 (faddOp s p)
/-- Atomic 64-bit add (R214). -/
def execAadd64 (p : Option Prefix) (d a b : BitVec 7) (s : State) : Result :=
  word (.aadd64 p d a b) s fun s => atomicWord (.aadd64 p d a b) s p d a b 8 .add
/-- Atomic 64-bit compare and swap (R213, R214). -/
def execAcas64 (p : Option Prefix) (d a b : BitVec 7) (s : State) : Result :=
  word (.acas64 p d a b) s fun s => atomicWord (.acas64 p d a b) s p d a b 8 .cas
/-- Reduction: add (R214). -/
def execRedadd (p : Option Prefix) (d a b : BitVec 7) (s : State) : Result :=
  word (.redadd p d a b) s fun s => redWord (.redadd p d a b) s p d a b 4 .add
/-- Reduction: signed minimum (R214). -/
def execRedmin (p : Option Prefix) (d a b : BitVec 7) (s : State) : Result :=
  word (.redmin p d a b) s fun s => redWord (.redmin p d a b) s p d a b 4 .smin
/-- Reduction: signed maximum (R214). -/
def execRedmax (p : Option Prefix) (d a b : BitVec 7) (s : State) : Result :=
  word (.redmax p d a b) s fun s => redWord (.redmax p d a b) s p d a b 4 .smax
/-- Reduction: unsigned minimum (R214). -/
def execRedumin (p : Option Prefix) (d a b : BitVec 7) (s : State) : Result :=
  word (.redumin p d a b) s fun s => redWord (.redumin p d a b) s p d a b 4 .umin
/-- Reduction: unsigned maximum (R214). -/
def execRedumax (p : Option Prefix) (d a b : BitVec 7) (s : State) : Result :=
  word (.redumax p d a b) s fun s => redWord (.redumax p d a b) s p d a b 4 .umax
/-- Reduction: AND (R214). -/
def execRedand (p : Option Prefix) (d a b : BitVec 7) (s : State) : Result :=
  word (.redand p d a b) s fun s => redWord (.redand p d a b) s p d a b 4 .and
/-- Reduction: OR (R214). -/
def execRedor (p : Option Prefix) (d a b : BitVec 7) (s : State) : Result :=
  word (.redor p d a b) s fun s => redWord (.redor p d a b) s p d a b 4 .or
/-- Reduction: XOR (R214). -/
def execRedxor (p : Option Prefix) (d a b : BitVec 7) (s : State) : Result :=
  word (.redxor p d a b) s fun s => redWord (.redxor p d a b) s p d a b 4 .xor
/-- Reduction: binary32 add (R214). -/
def execRedfadd (p : Option Prefix) (d a b : BitVec 7) (s : State) : Result :=
  word (.redfadd p d a b) s fun s => redWord (.redfadd p d a b) s p d a b 4 (faddOp s p)
/-- Reduction: 64-bit add (R214). -/
def execRedadd64 (p : Option Prefix) (d a b : BitVec 7) (s : State) : Result :=
  word (.redadd64 p d a b) s fun s => redWord (.redadd64 p d a b) s p d a b 8 .add

/-! ### The read-modify-write (R214) -/

/-- The new value of a location of `n` bytes, and the flags. -/
def rmwNew (op : Rmw) (n old v v2 : Nat) : Nat × Flags :=
  let m := 2 ^ (8 * n)
  let sx (x : Nat) : Int := (BitVec.ofNat (8 * n) x).toInt
  match op with
  | .add => ((old + v) % m, 0)
  | .smin => (if sx v < sx old then v else old, 0)
  | .smax => (if sx old < sx v then v else old, 0)
  | .umin => (min old v, 0)
  | .umax => (max old v, 0)
  | .and => (old &&& v, 0)
  | .or => (old ||| v, 0)
  | .xor => (old ^^^ v, 0)
  | .xchg => (v, 0)
  | .cas => (if old = v then v2 else old, 0)
  | .fadd r => fadd binary32 r.toNat old v

/-- What an atomic or reduction computes. -/
def rmwOf (k : PKind) : Option Rmw :=
  match k with
  | .atomic _ _ op => some op
  | .red op => some op
  | _ => none

/-- The indivisible read-modify-write of unit `x` of block `k` (R214, R215): the state, the unit with the old value, and
the flags. -/
def rmwUnit (s : State) (k : Nat) (op : Rmw) (x : MUnit) : State × MUnit × Flags :=
  let r := unitBytes s k x
  let q := rmwNew op x.len (leNat r.2) (leNat x.data) (leNat x.data2)
  (unitWrite r.1 k x (leBytes x.len q.1), { x with data := r.2, done := true }, q.2)

/-- The read-modify-write of a location in a peer, when the peer accepts the request (R337). -/
def rmwRemote (s : State) (op : Rmw) (x : MUnit) : State × MUnit × Flags :=
  let old := readBytes s x.pa x.len
  let q := rmwNew op x.len (leNat old) (leNat x.data) (leNat x.data2)
  (writeBytes s x.pa (leBytes x.len q.1), { x with data := old, done := true }, q.2)

/-! ### Completion -/

/-- All lanes are done: an atomic writes the old values under R80, and the flags merge (R65, R214). -/
def finishAtomic (s : State) (wk : Nat) (o : PendOp) : State :=
  let t := asWarp s wk o.frag
  match o.kind with
  | .atomic d regs _ =>
    retireOp (mergeFlags (writeRun t o d (fun i l => wordOf (laneBytes o l (4 * regs)) i) regs) o.flags) wk o
  | .red _ => retireOp (mergeFlags t o.flags) wk o
  | _ => s

def atomicDone (s : State) (wk : Nat) (o : PendOp) : State :=
  let s' := setWarp s wk (setOp (warpOf s wk) o)
  if isComplete o then finishAtomic s' wk o else s'

/-- A lane of an atomic that is refused returns a free value: the manual states none (assumption 12). -/
def freeOld (s : State) (x : MUnit) : MUnit :=
  let v (i : Nat) : List Byte := leBytes 4 (Config.freeValue (s.freeCtr + i)).toNat
  { x with data := v 0 ++ v 1, done := true }

/-- A lane of an atomic with return meets poison or a dead link before any of them has been performed: its trap leaves
the word without effect (R205, R314). -/
def atomicStopped (s : State) (k : Nat) (o : PendOp) : Bool :=
  (o.units.all fun x => !x.done && !x.sent) && o.units.any fun x =>
    storeFate s k (blockOf s k).world x == .poison || storeFate s k (blockOf s k).world x == .lose

/-- An atomic with return that meets poison or a dead link after lanes of it have been performed raises its trap; the
other lanes go on as a reduction, and no register is written (R205). -/
def atomicPoison (s : State) (wk : Nat) (o : PendOp) (op : Rmw) (u : Nat) (x : MUnit) : State :=
  let y := poisonUnit s (warpOf s wk).blk o x
  let o' := { setUnit o u { x with done := true } with kind := .red op }
  atomicDone (raiseTrap s wk ⟨18, o.frag, y.lane, y.va, 0, o.pc⟩) wk o'

/-- Unit `x`, number `u`, of an atomic or reduction has its turn (R205, R214, R215, R287, R337). -/
def placeAtomic (s : State) (wk : Nat) (o : PendOp) (op : Rmw) (u : Nat) (x : MUnit) : State :=
  let k := (warpOf s wk).blk
  let returns := match o.kind with
    | .atomic .. => true
    | _ => false
  if returns && atomicStopped s k o then consumePoison s wk o x else
  match storeFate s k (blockOf s k).world x with
  | .refuse c =>
    atomicDone { refuseLane s wk c x with freeCtr := s.freeCtr + 2 } wk (setUnit o u (freeOld s x))
  | .packet => sendPacket s wk o false
  | .lose =>
    if returns then atomicPoison s wk o op u x
    else atomicDone (noteEvent s wk .lost) wk (setUnit o u { x with done := true })
  | .poison =>
    if returns then atomicPoison s wk o op u x
    else atomicDone (noteEvent s wk .poison) wk (setUnit o u { x with done := true })
  | .admission => s
  | .perform =>
    if fillTravels s k x then sendFill s wk o u x
    else if unitFree s wk o x = false then s
    else
      let r := rmwUnit s k op x
      atomicDone r.1 wk { setUnit o u r.2.1 with flags := o.flags ||| r.2.2 }

/-- A lane of an atomic or reduction performs its read-modify-write (R214, R215). -/
def execAtomicPerform (w op u : Nat) (s : State) : Result :=
  .next <|
    withOp s w op fun o =>
      match rmwOf o.kind with
      | none => s
      | some f =>
        if isComplete o then finishAtomic s w o
        else
          match o.units[u]? with
          | some x =>
            if x.done || x.sent || !mayPerform s w o || !(olderMeets (warpOf s w) o.id o.lanes x).isEmpty then s
            else placeAtomic s w o f u x
          | none => s

end Sys2Proof.Machine
end

