-- ==== Sys2Proof/Machine/Audits.lean ====
section
/-! DEFINITION. The Burin audit: the replay of an exited block on another core, and the end of the audit (R327, R328;
assumption 54). -/

namespace Sys2Proof.Machine

/-- Audit `n` of a die. -/
def auditAt (s : State) (d n : Nat) : Option Audit := (dieOf s d).audits[n]?

/-- The cores of a block of a command that stands on `core`. -/
def coresFor (c : Command) (core : Nat) : List Nat := if wantsGang c then [core, core + 1] else [core]

/-- A core of another die could take the replay now (R327). -/
def otherDieFree (s : State) (a : Audit) : Bool :=
  (List.range (coreCount s)).any fun x => x / 40 != a.core / 40 &&
    (coreOpen s a.tenant a.cmd x 0 || coreOpen s a.tenant a.cmd x 1)

/-- The replay of an audit may not run on `core`: it is one of the original's, or it is on its die while another die is free. -/
def wrongCore (s : State) (a : Audit) (core : Nat) : Bool :=
  (coresFor a.cmd core).any (fun x => (coresFor a.cmd a.core).contains x) || (core / 40 == a.core / 40 && otherDieFree s a)

/-- Burin replays an exited block, from its logged inputs, on another core of the tenant's groups within the tenant's quantum: a
block of no grid, whose writes go to the audit's shadow (R327). -/
def execAuditReplay (die n core : Nat) (s : State) : Result :=
  .next <|
    match auditAt s die n with
    | none => s
    | some a =>
      let ctx := if placeRoom s a.cmd core 0 then 0 else 1
      if auditWaits s a = false ∨ wrongCore s a core = true ∨ coreOpen s a.tenant a.cmd core ctx = false then s
      else
        match freeSlot s core with
        | none => s
        | some slot =>
          let x := dieOf s die
          let s1 := setDie s die { x with audits := x.audits.modify n fun u => { u with replay := some core } }
          putBlock s1 { freshBlock s1 a.tenant a.cmd a.index core slot ctx none with task := 0, replay := true }

/-- A core is quarantined: it takes no new block, and its blocks are saved (R326). -/
def quarantineCore (s : State) (x : Nat) : State :=
  haltBlocks (setCore s x { coreOf s x with quarantined := true }) (blocksOn s x)

/-- The record of a task whose audit found a mismatch: cause 20, AUX 1 (R328). -/
def auditRecord (s : State) (a : Audit) : List Byte :=
  trapRecord 20 0 noLane a.tenant (tenantOf s a.tenant).world.toNat 0 a.task a.index 1 0 0 0 []

/-- The audit leaves its die, and its task waits for one fewer. -/
def dropAudit (s : State) (d n : Nat) (a : Audit) : State :=
  let x := dieOf s d
  let gk := gridKey a.tenant a.task
  let s1 := setDie s d { x with audits := x.audits.eraseIdx n }
  setGrid s1 gk { gridOf s1 gk with audits := (gridOf s1 gk).audits - 1 }

/-- Both cores are quarantined, and the task will complete as failed. -/
def auditMismatch (s : State) (a : Audit) (core : Nat) : State :=
  failTask (quarantineCore (quarantineCore s a.core) core) (gridKey a.tenant a.task) (auditRecord s a)

/-- A block is the replay of an audit. -/
def isReplayOf (a : Audit) (b : Block) : Bool :=
  b.replay && b.tenant == a.tenant && b.cmd.task == a.task && b.index == a.index

/-- The audit of block `index` ends once its replay is over: with a match, with a mismatch, or abandoned as unauditable (R328). -/
def execAuditEnd (die n index : Nat) (s : State) : Result :=
  .next <|
    match auditAt s die n with
    | none => s
    | some a =>
      if a.index ≠ index ∨ a.verdict = .running ∨ (s.blocks.any fun e => isReplayOf a e.2 && isLive e.2) = true then s
      else
        let t := dropAudit { s with blocks := s.blocks.filter fun e => !isReplayOf a e.2 } die n a
        if a.verdict = .unauditable then setDie t die { dieOf t die with unauditable := (dieOf t die).unauditable + 1 }
        else if a.rsig = a.sig then t
        else auditMismatch t a (a.replay.getD 0)

end Sys2Proof.Machine
end

