-- ==== Sys2Proof/WellFormed.lean ====
section
/-! DEFINITION. Well-formed instructions: the words that pass the field rules of step 2 of R49
(R32, R33, R37, R44, R46, R48, R52, R129, R243, R298). A step without an encoding has no such rule. -/

namespace Sys2Proof

/-- No field rule refuses the word. -/
def Instr.wf (i : Instr) : Bool := (Machine.illegal i).isNone

end Sys2Proof
end

