-- ==== Sys2Proof/Decode.lean ====
section
/-! DEFINITION. Decoding of instruction words (R29 to R31, R44, R51) and the encoder, both written from
the encoding tables of the manual. Decoding gives a word and the prefix before it its constructor, and
refuses by name what the opcode map does not list or what breaks a stated zero bit; the field rules of
step 2 of R49 are `Machine.illegal`. Lean's compiled code cannot build a value of a type with more than
244 constructors with arguments, so what builds an `Instr` is marked noncomputable: the kernel evaluates it. -/

namespace Sys2Proof

/-- Why words do not decode: each is the *illegal instruction* of steps 1 and 2 of R49. -/
inductive DecodeError where
  /-- no word is left -/
  | truncated
  /-- the word 0 (R43, R49) -/
  | zeroWord
  /-- a major that the opcode map does not list (R51) -/
  | unlistedMajor
  /-- a minor that the opcode map does not list (R51) -/
  | unlistedMinor
  /-- a bit stated as zero is one (R31, R80, R129, R168, R173, R177, R297) -/
  | nonzeroField (i : Instr)
  /-- a prefix word with bits 1:0 not zero (R44) -/
  | prefixZeroBits
  /-- a prefix before a word of majors 0x40, 0x41, 0x42, 0x44 or 0x7F (R46) -/
  | prefixRefused
  /-- a prefix before a prefix, or at the end of a clause (R46) -/
  | strayPrefix
  deriving DecidableEq, Repr

/-! ### Fields -/

/-- bits 31:25 -/
def fmaj (w : Word) : BitVec 7 := w.extractLsb' 25 7
/-- bits 24:21 -/
def fmin (w : Word) : BitVec 4 := w.extractLsb' 21 4
/-- bits 20:14 -/
def fd (w : Word) : BitVec 7 := w.extractLsb' 14 7
/-- bits 13:7 -/
def fa (w : Word) : BitVec 7 := w.extractLsb' 7 7
/-- bits 6:0 -/
def fb (w : Word) : BitVec 7 := w.extractLsb' 0 7
/-- bits 13:0 -/
def fi (w : Word) : BitVec 14 := w.extractLsb' 0 14
/-- bits 20:0 -/
def fo (w : Word) : BitVec 21 := w.extractLsb' 0 21

/-- Formats R and K (R29). -/
def mkR (maj : BitVec 7) (min : BitVec 4) (d a b : BitVec 7) : Word := maj ++ min ++ d ++ a ++ b
/-- Format I (R29). -/
def mkI (maj : BitVec 7) (min : BitVec 4) (d : BitVec 7) (i : BitVec 14) : Word := maj ++ min ++ d ++ i
/-- Format B (R29). -/
def mkB (maj : BitVec 7) (n : BitVec 1) (m : BitVec 3) (o : BitVec 21) : Word := maj ++ n ++ m ++ o
/-- A clause header (R37). -/
def mkC (w : BitVec 12) (a b : BitVec 4) (l : BitVec 5) : Word := 0x7F#7 ++ w ++ a ++ b ++ l

/-- A prefix word (R44). -/
def mkP (p : Prefix) : Word :=
  0x7E#7 ++ p.k ++ BitVec.ofBool p.z ++ p.rnd ++ p.c ++ BitVec.ofBool p.dh ++ BitVec.ofBool p.ah ++
    BitVec.ofBool p.bh ++ BitVec.ofBool p.ch ++ BitVec.ofBool p.aq ++ BitVec.ofBool p.bq ++
    BitVec.ofBool p.cq ++ p.scope ++ 0#2

/-- The fields of a prefix word (R44). -/
def decPrefix (w : Word) : Prefix :=
  ⟨w.extractLsb' 22 3, w.getLsbD 21, w.extractLsb' 18 3, w.extractLsb' 11 7, w.getLsbD 10, w.getLsbD 9,
    w.getLsbD 8, w.getLsbD 7, w.getLsbD 6, w.getLsbD 5, w.getLsbD 4, w.extractLsb' 2 2⟩

/-- The instruction, if the bits stated as zero are zero. -/
def zeros (ok : Bool) (i : Instr) : Except DecodeError Instr := if ok then .ok i else .error (.nonzeroField i)

/-- A word that accepts no prefix (R46). -/
def bare (p : Option Prefix) (r : Except DecodeError Instr) : Except DecodeError Instr :=
  match p with
  | none => r
  | some _ => .error .prefixRefused

/-! ### The opcode map (R51) -/

/-- A clause header (R37). -/
def decHeader (w : Word) : Instr :=
  .clause (w.extractLsb' 13 12) (w.extractLsb' 9 4) (w.extractLsb' 5 4) (w.extractLsb' 0 5)

/-- Major 0x40 (R164). -/
noncomputable def dec40 (w : Word) : Except DecodeError Instr :=
  .ok (.br ((fmin w).extractLsb' 3 1) ((fmin w).extractLsb' 0 3) (fo w))

/-- Major 0x41 (R167). -/
noncomputable def dec41 (w : Word) : Except DecodeError Instr := zeros (fmin w == 0#4) (.call (fo w))

/-- Major 0x42 (R166). -/
noncomputable def dec42 (w : Word) : Except DecodeError Instr := zeros (fmin w == 0#4) (.rcv (fo w))

/-- Major 0x30 (R119): the minor holds `.SP`, `.Z`, `.NB`, `.NA` from its high bit down. -/
def decMma (p : Option Prefix) (w : Word) : Except DecodeError Instr :=
  zeros ((fd w).extractLsb' 4 3 == 0#3)
    (.mma p ((fmin w).extractLsb' 3 1) ((fmin w).extractLsb' 2 1) ((fmin w).extractLsb' 1 1)
      ((fmin w).extractLsb' 0 1) ((fd w).extractLsb' 0 4) (fa w) (fb w))

/-- Major 0x01. -/
noncomputable def dec01 (p : Option Prefix) (w : Word) : Except DecodeError Instr :=
  match (fmin w).toNat with
  | 0 => .ok (.iadd p (fd w) (fa w) (fb w))
  | 1 => .ok (.isub p (fd w) (fa w) (fb w))
  | 2 => .ok (.imul p (fd w) (fa w) (fb w))
  | 3 => .ok (.imulh p (fd w) (fa w) (fb w))
  | 4 => .ok (.umulh p (fd w) (fa w) (fb w))
  | 5 => .ok (.imin p (fd w) (fa w) (fb w))
  | 6 => .ok (.imax p (fd w) (fa w) (fb w))
  | 7 => .ok (.umin p (fd w) (fa w) (fb w))
  | 8 => .ok (.umax p (fd w) (fa w) (fb w))
  | 9 => zeros (fb w == 0#7) (.iabs p (fd w) (fa w))
  | 10 => zeros (fb w == 0#7) (.ineg p (fd w) (fa w))
  | 11 => .ok (.iadds p (fd w) (fa w) (fb w))
  | 12 => .ok (.isubs p (fd w) (fa w) (fb w))
  | 13 => .ok (.uadds p (fd w) (fa w) (fb w))
  | 14 => .ok (.usubs p (fd w) (fa w) (fb w))
  | 15 => .ok (.imad p (fd w) (fa w) (fb w))
  | _ => .error .unlistedMinor

/-- Major 0x02. -/
noncomputable def dec02 (p : Option Prefix) (w : Word) : Except DecodeError Instr :=
  match (fmin w).toNat with
  | 0 => .ok (.and p (fd w) (fa w) (fb w))
  | 1 => .ok (.or p (fd w) (fa w) (fb w))
  | 2 => .ok (.xor p (fd w) (fa w) (fb w))
  | 3 => .ok (.andn p (fd w) (fa w) (fb w))
  | 4 => zeros (fb w == 0#7) (.not p (fd w) (fa w))
  | 5 => .ok (.shl p (fd w) (fa w) (fb w))
  | 6 => .ok (.shr p (fd w) (fa w) (fb w))
  | 7 => .ok (.sra p (fd w) (fa w) (fb w))
  | 8 => .ok (.rol p (fd w) (fa w) (fb w))
  | 9 => zeros (fb w == 0#7) (.popc p (fd w) (fa w))
  | 10 => zeros (fb w == 0#7) (.clz p (fd w) (fa w))
  | 11 => zeros (fb w == 0#7) (.brev p (fd w) (fa w))
  | 12 => .ok (.bfe p (fd w) (fa w) (fb w))
  | 13 => .ok (.bfi p (fd w) (fa w) (fb w))
  | 14 => zeros (fb w == 0#7) (.mov p (fd w) (fa w))
  | 15 => .ok (.sel p (fd w) (fa w) (fb w))
  | _ => .error .unlistedMinor

/-- Major 0x03. -/
noncomputable def dec03 (p : Option Prefix) (w : Word) : Except DecodeError Instr :=
  match (fmin w).toNat with
  | 0 => .ok (.iaddi p (fd w) (fa w) (fb w))
  | 1 => .ok (.shli p (fd w) (fa w) (fb w))
  | 2 => .ok (.shri p (fd w) (fa w) (fb w))
  | 3 => .ok (.srai p (fd w) (fa w) (fb w))
  | 4 => .ok (.andi p (fd w) (fa w) (fb w))
  | 5 => .ok (.ori p (fd w) (fa w) (fb w))
  | 6 => .ok (.xori p (fd w) (fa w) (fb w))
  | 7 => .ok (.roli p (fd w) (fa w) (fb w))
  | 8 => .ok (.imuli p (fd w) (fa w) (fb w))
  | _ => .error .unlistedMinor

/-- Major 0x04. -/
noncomputable def dec04 (p : Option Prefix) (w : Word) : Except DecodeError Instr :=
  match (fmin w).toNat with
  | 0 => .ok (.movi p (fd w) (fi w))
  | 1 => .ok (.movhi p (fd w) (fi w))
  | 2 => .ok (.smovi p (fd w) (fi w))
  | 3 => .ok (.smovhi p (fd w) (fi w))
  | 4 => zeros (fi w == 0#14) (.laneid p (fd w))
  | _ => .error .unlistedMinor

/-- Major 0x05. -/
noncomputable def dec05 (p : Option Prefix) (w : Word) : Except DecodeError Instr :=
  match (fmin w).toNat with
  | 0 => zeros ((fd w).extractLsb' 5 2 == 0#2) (.icmpEq p ((fd w).extractLsb' 3 2) ((fd w).extractLsb' 0 3) (fa w) (fb w))
  | 1 => zeros ((fd w).extractLsb' 5 2 == 0#2) (.icmpNe p ((fd w).extractLsb' 3 2) ((fd w).extractLsb' 0 3) (fa w) (fb w))
  | 2 => zeros ((fd w).extractLsb' 5 2 == 0#2) (.icmpLt p ((fd w).extractLsb' 3 2) ((fd w).extractLsb' 0 3) (fa w) (fb w))
  | 3 => zeros ((fd w).extractLsb' 5 2 == 0#2) (.icmpLe p ((fd w).extractLsb' 3 2) ((fd w).extractLsb' 0 3) (fa w) (fb w))
  | 4 => zeros ((fd w).extractLsb' 5 2 == 0#2) (.icmpGt p ((fd w).extractLsb' 3 2) ((fd w).extractLsb' 0 3) (fa w) (fb w))
  | 5 => zeros ((fd w).extractLsb' 5 2 == 0#2) (.icmpGe p ((fd w).extractLsb' 3 2) ((fd w).extractLsb' 0 3) (fa w) (fb w))
  | 6 => zeros ((fd w).extractLsb' 5 2 == 0#2) (.icmpLtu p ((fd w).extractLsb' 3 2) ((fd w).extractLsb' 0 3) (fa w) (fb w))
  | 7 => zeros ((fd w).extractLsb' 5 2 == 0#2) (.icmpLeu p ((fd w).extractLsb' 3 2) ((fd w).extractLsb' 0 3) (fa w) (fb w))
  | 8 => zeros ((fd w).extractLsb' 5 2 == 0#2) (.icmpGtu p ((fd w).extractLsb' 3 2) ((fd w).extractLsb' 0 3) (fa w) (fb w))
  | 9 => zeros ((fd w).extractLsb' 5 2 == 0#2) (.icmpGeu p ((fd w).extractLsb' 3 2) ((fd w).extractLsb' 0 3) (fa w) (fb w))
  | _ => .error .unlistedMinor

/-- Major 0x06. -/
noncomputable def dec06 (p : Option Prefix) (w : Word) : Except DecodeError Instr :=
  match (fmin w).toNat with
  | 0 => zeros ((fd w).extractLsb' 5 2 == 0#2) (.fcmpEq p ((fd w).extractLsb' 3 2) ((fd w).extractLsb' 0 3) (fa w) (fb w))
  | 1 => zeros ((fd w).extractLsb' 5 2 == 0#2) (.fcmpNe p ((fd w).extractLsb' 3 2) ((fd w).extractLsb' 0 3) (fa w) (fb w))
  | 2 => zeros ((fd w).extractLsb' 5 2 == 0#2) (.fcmpLt p ((fd w).extractLsb' 3 2) ((fd w).extractLsb' 0 3) (fa w) (fb w))
  | 3 => zeros ((fd w).extractLsb' 5 2 == 0#2) (.fcmpLe p ((fd w).extractLsb' 3 2) ((fd w).extractLsb' 0 3) (fa w) (fb w))
  | 4 => zeros ((fd w).extractLsb' 5 2 == 0#2) (.fcmpGt p ((fd w).extractLsb' 3 2) ((fd w).extractLsb' 0 3) (fa w) (fb w))
  | 5 => zeros ((fd w).extractLsb' 5 2 == 0#2) (.fcmpGe p ((fd w).extractLsb' 3 2) ((fd w).extractLsb' 0 3) (fa w) (fb w))
  | 6 => zeros ((fd w).extractLsb' 5 2 == 0#2) (.fcmpOrd p ((fd w).extractLsb' 3 2) ((fd w).extractLsb' 0 3) (fa w) (fb w))
  | 7 => zeros ((fd w).extractLsb' 5 2 == 0#2) (.fcmpUno p ((fd w).extractLsb' 3 2) ((fd w).extractLsb' 0 3) (fa w) (fb w))
  | _ => .error .unlistedMinor

/-- Major 0x07. -/
noncomputable def dec07 (p : Option Prefix) (w : Word) : Except DecodeError Instr :=
  match (fmin w).toNat with
  | 0 => zeros ((fd w).extractLsb' 3 4 == 0#4 && (fa w).extractLsb' 3 4 == 0#4 && (fb w).extractLsb' 3 4 == 0#4) (.kand p ((fd w).extractLsb' 0 3) ((fa w).extractLsb' 0 3) ((fb w).extractLsb' 0 3))
  | 1 => zeros ((fd w).extractLsb' 3 4 == 0#4 && (fa w).extractLsb' 3 4 == 0#4 && (fb w).extractLsb' 3 4 == 0#4) (.kor p ((fd w).extractLsb' 0 3) ((fa w).extractLsb' 0 3) ((fb w).extractLsb' 0 3))
  | 2 => zeros ((fd w).extractLsb' 3 4 == 0#4 && (fa w).extractLsb' 3 4 == 0#4 && (fb w).extractLsb' 3 4 == 0#4) (.kxor p ((fd w).extractLsb' 0 3) ((fa w).extractLsb' 0 3) ((fb w).extractLsb' 0 3))
  | 3 => zeros ((fd w).extractLsb' 3 4 == 0#4 && (fa w).extractLsb' 3 4 == 0#4 && (fb w).extractLsb' 3 4 == 0#4) (.kandn p ((fd w).extractLsb' 0 3) ((fa w).extractLsb' 0 3) ((fb w).extractLsb' 0 3))
  | 4 => zeros ((fd w).extractLsb' 3 4 == 0#4 && (fa w).extractLsb' 3 4 == 0#4 && fb w == 0#7) (.knot p ((fd w).extractLsb' 0 3) ((fa w).extractLsb' 0 3))
  | 5 => zeros ((fd w).extractLsb' 3 4 == 0#4 && (fa w).extractLsb' 3 4 == 0#4 && fb w == 0#7) (.kmov p ((fd w).extractLsb' 0 3) ((fa w).extractLsb' 0 3))
  | 6 => zeros ((fa w).extractLsb' 3 4 == 0#4 && fb w == 0#7) (.ktos p (fd w) ((fa w).extractLsb' 0 3))
  | 7 => zeros ((fd w).extractLsb' 3 4 == 0#4 && fb w == 0#7) (.stok p ((fd w).extractLsb' 0 3) (fa w))
  | 8 => zeros ((fa w).extractLsb' 3 4 == 0#4 && fb w == 0#7) (.kpopc p (fd w) ((fa w).extractLsb' 0 3))
  | 9 => zeros ((fa w).extractLsb' 3 4 == 0#4 && fb w == 0#7) (.kffs p (fd w) ((fa w).extractLsb' 0 3))
  | 10 => zeros (fa w == 0#7 && fb w == 0#7) (.xrd p (fd w))
  | 11 => zeros (fd w == 0#7 && fb w == 0#7) (.xwr p (fa w))
  | 12 => zeros ((fd w).extractLsb' 3 4 == 0#4) (.kset p ((fd w).extractLsb' 0 3) (fa w) (fb w))
  | _ => .error .unlistedMinor

/-- Major 0x08. -/
noncomputable def dec08 (p : Option Prefix) (w : Word) : Except DecodeError Instr :=
  match (fmin w).toNat with
  | 0 => .ok (.fadd p (fd w) (fa w) (fb w))
  | 1 => .ok (.fsub p (fd w) (fa w) (fb w))
  | 2 => .ok (.fmul p (fd w) (fa w) (fb w))
  | 3 => .ok (.ffma p (fd w) (fa w) (fb w))
  | 4 => .ok (.fmin p (fd w) (fa w) (fb w))
  | 5 => .ok (.fmax p (fd w) (fa w) (fb w))
  | 6 => zeros (fb w == 0#7) (.fabs p (fd w) (fa w))
  | 7 => zeros (fb w == 0#7) (.fneg p (fd w) (fa w))
  | 8 => .ok (.ffms p (fd w) (fa w) (fb w))
  | 9 => .ok (.fnfma p (fd w) (fa w) (fb w))
  | 10 => zeros (fb w == 0#7) (.fclass p (fd w) (fa w))
  | 11 => zeros (fb w == 0#7) (.ffloor p (fd w) (fa w))
  | 12 => zeros (fb w == 0#7) (.fceil p (fd w) (fa w))
  | 13 => zeros (fb w == 0#7) (.ftrunc p (fd w) (fa w))
  | 14 => zeros (fb w == 0#7) (.frint p (fd w) (fa w))
  | 15 => .ok (.fscale p (fd w) (fa w) (fb w))
  | _ => .error .unlistedMinor

/-- Major 0x09. -/
noncomputable def dec09 (p : Option Prefix) (w : Word) : Except DecodeError Instr :=
  match (fmin w).toNat with
  | 0 => zeros (fb w == 0#7) (.frcp p (fd w) (fa w))
  | 1 => zeros (fb w == 0#7) (.frsq p (fd w) (fa w))
  | 2 => zeros (fb w == 0#7) (.fsqrt p (fd w) (fa w))
  | 3 => zeros (fb w == 0#7) (.fexp2 p (fd w) (fa w))
  | 4 => zeros (fb w == 0#7) (.flog2 p (fd w) (fa w))
  | 5 => zeros (fb w == 0#7) (.fsin p (fd w) (fa w))
  | 6 => zeros (fb w == 0#7) (.fcos p (fd w) (fa w))
  | 7 => zeros (fb w == 0#7) (.ftanh p (fd w) (fa w))
  | _ => .error .unlistedMinor

/-- Major 0x0A. -/
noncomputable def dec0A (p : Option Prefix) (w : Word) : Except DecodeError Instr :=
  match (fmin w).toNat with
  | 0 => zeros (fb w == 0#7) (.cvtfi p (fd w) (fa w))
  | 1 => zeros (fb w == 0#7) (.cvtfu p (fd w) (fa w))
  | 2 => zeros (fb w == 0#7) (.cvtif p (fd w) (fa w))
  | 3 => zeros (fb w == 0#7) (.cvtuf p (fd w) (fa w))
  | 4 => zeros (fb w == 0#7) (.cvtfh p (fd w) (fa w))
  | 5 => zeros (fb w == 0#7) (.cvthf p (fd w) (fa w))
  | 6 => zeros (fb w == 0#7) (.cvtfb p (fd w) (fa w))
  | 7 => zeros (fb w == 0#7) (.cvtbf p (fd w) (fa w))
  | _ => .error .unlistedMinor

/-- Major 0x0B. -/
noncomputable def dec0B (p : Option Prefix) (w : Word) : Except DecodeError Instr :=
  match (fmin w).toNat with
  | 0 => .ok (.qexp p (fd w) (fa w) (fb w))
  | 1 => .ok (.qman p (fd w) (fa w) (fb w))
  | 2 => .ok (.dq p (fd w) (fa w) (fb w))
  | 3 => .ok (.packm p (fd w) (fa w) (fb w))
  | 4 => .ok (.unpkm p (fd w) (fa w) (fb w))
  | _ => .error .unlistedMinor

/-- Major 0x0C. -/
noncomputable def dec0C (p : Option Prefix) (w : Word) : Except DecodeError Instr :=
  match (fmin w).toNat with
  | 0 => .ok (.hadd2 p (fd w) (fa w) (fb w))
  | 1 => .ok (.hsub2 p (fd w) (fa w) (fb w))
  | 2 => .ok (.hmul2 p (fd w) (fa w) (fb w))
  | 3 => .ok (.hfma2 p (fd w) (fa w) (fb w))
  | 4 => .ok (.hmin2 p (fd w) (fa w) (fb w))
  | 5 => .ok (.hmax2 p (fd w) (fa w) (fb w))
  | 8 => .ok (.badd2 p (fd w) (fa w) (fb w))
  | 9 => .ok (.bsub2 p (fd w) (fa w) (fb w))
  | 10 => .ok (.bmul2 p (fd w) (fa w) (fb w))
  | 11 => .ok (.bfma2 p (fd w) (fa w) (fb w))
  | 12 => .ok (.bmin2 p (fd w) (fa w) (fb w))
  | 13 => .ok (.bmax2 p (fd w) (fa w) (fb w))
  | _ => .error .unlistedMinor

/-- Major 0x0D. -/
noncomputable def dec0D (p : Option Prefix) (w : Word) : Except DecodeError Instr :=
  match (fmin w).toNat with
  | 0 => .ok (.shfl p (fd w) (fa w) (fb w))
  | 1 => .ok (.shflx p (fd w) (fa w) (fb w))
  | 2 => .ok (.shflu p (fd w) (fa w) (fb w))
  | 3 => .ok (.shfld p (fd w) (fa w) (fb w))
  | 4 => zeros (fb w == 0#7) (.nbl p (fd w) (fa w))
  | 5 => zeros (fb w == 0#7) (.nbr p (fd w) (fa w))
  | 6 => zeros (fb w == 0#7) (.nbx p (fd w) (fa w))
  | 7 => .ok (.blut p (fd w) (fa w) (fb w))
  | 8 => .ok (.bluth p (fd w) (fa w) (fb w))
  | 9 => .ok (.bprm p (fd w) (fa w) (fb w))
  | 10 => zeros (fb w == 0#7) (.vredadd p (fd w) (fa w))
  | 11 => zeros (fb w == 0#7) (.vredmin p (fd w) (fa w))
  | 12 => zeros (fb w == 0#7) (.vredmax p (fd w) (fa w))
  | 13 => zeros (fb w == 0#7) (.vredfadd p (fd w) (fa w))
  | 14 => zeros (fb w == 0#7) (.vscan p (fd w) (fa w))
  | 15 => .ok (.vbcast p (fd w) (fa w) (fb w))
  | _ => .error .unlistedMinor

/-- Major 0x0E. -/
noncomputable def dec0E (p : Option Prefix) (w : Word) : Except DecodeError Instr :=
  match (fmin w).toNat with
  | 0 => .ok (.sadd p (fd w) (fa w) (fb w))
  | 1 => .ok (.ssub p (fd w) (fa w) (fb w))
  | 2 => .ok (.smul p (fd w) (fa w) (fb w))
  | 3 => .ok (.sand p (fd w) (fa w) (fb w))
  | 4 => .ok (.sor p (fd w) (fa w) (fb w))
  | 5 => .ok (.sxor p (fd w) (fa w) (fb w))
  | 6 => .ok (.sshl p (fd w) (fa w) (fb w))
  | 7 => .ok (.sshr p (fd w) (fa w) (fb w))
  | 8 => .ok (.ssra p (fd w) (fa w) (fb w))
  | 9 => .ok (.smin p (fd w) (fa w) (fb w))
  | 10 => .ok (.smax p (fd w) (fa w) (fb w))
  | 11 => zeros (fb w == 0#7) (.smov p (fd w) (fa w))
  | 12 => .ok (.sslt p (fd w) (fa w) (fb w))
  | 13 => .ok (.ssltu p (fd w) (fa w) (fb w))
  | 14 => .ok (.sseq p (fd w) (fa w) (fb w))
  | 15 => zeros (fb w == 0#7) (.s2v p (fd w) (fa w))
  | _ => .error .unlistedMinor

/-- Major 0x0F. -/
noncomputable def dec0F (p : Option Prefix) (w : Word) : Except DecodeError Instr :=
  match (fmin w).toNat with
  | 0 => .ok (.saddi p (fd w) (fa w) (fb w))
  | 1 => .ok (.sshli p (fd w) (fa w) (fb w))
  | 2 => .ok (.sshri p (fd w) (fa w) (fb w))
  | 3 => .ok (.sandi p (fd w) (fa w) (fb w))
  | 4 => .ok (.sori p (fd w) (fa w) (fb w))
  | 5 => .ok (.saddi64 p (fd w) (fa w) (fb w))
  | 6 => .ok (.sadd64 p (fd w) (fa w) (fb w))
  | 7 => .ok (.ssub64 p (fd w) (fa w) (fb w))
  | 8 => zeros (fb w == 0#7) (.smov64 p (fd w) (fa w))
  | 9 => .ok (.sshli64 p (fd w) (fa w) (fb w))
  | _ => .error .unlistedMinor

/-- Major 0x20. -/
noncomputable def dec20 (p : Option Prefix) (w : Word) : Except DecodeError Instr :=
  match (fmin w).toNat with
  | 0 => .ok (.ldb p (fd w) (fa w) (fb w))
  | 1 => .ok (.ldbu p (fd w) (fa w) (fb w))
  | 2 => .ok (.ldh p (fd w) (fa w) (fb w))
  | 3 => .ok (.ldhu p (fd w) (fa w) (fb w))
  | 4 => .ok (.ldw p (fd w) (fa w) (fb w))
  | 5 => .ok (.ldd p (fd w) (fa w) (fb w))
  | 6 => .ok (.ldq p (fd w) (fa w) (fb w))
  | 8 => .ok (.ldacq p (fd w) (fa w) (fb w))
  | _ => .error .unlistedMinor

/-- Major 0x21. -/
noncomputable def dec21 (p : Option Prefix) (w : Word) : Except DecodeError Instr :=
  match (fmin w).toNat with
  | 0 => .ok (.stb p (fd w) (fa w) (fb w))
  | 2 => .ok (.sth p (fd w) (fa w) (fb w))
  | 4 => .ok (.stw p (fd w) (fa w) (fb w))
  | 5 => .ok (.std p (fd w) (fa w) (fb w))
  | 6 => .ok (.stq p (fd w) (fa w) (fb w))
  | 8 => .ok (.strel p (fd w) (fa w) (fb w))
  | _ => .error .unlistedMinor

/-- Major 0x22. -/
noncomputable def dec22 (p : Option Prefix) (w : Word) : Except DecodeError Instr :=
  match (fmin w).toNat with
  | 0 => .ok (.sldw p (fd w) (fa w) (fb w))
  | 1 => .ok (.sldd p (fd w) (fa w) (fb w))
  | 2 => .ok (.sstw p (fd w) (fa w) (fb w))
  | 3 => .ok (.sstd p (fd w) (fa w) (fb w))
  | 4 => .ok (.sldacq p (fd w) (fa w) (fb w))
  | 5 => .ok (.sstrel p (fd w) (fa w) (fb w))
  | _ => .error .unlistedMinor

/-- Major 0x23. -/
noncomputable def dec23 (p : Option Prefix) (w : Word) : Except DecodeError Instr :=
  match (fmin w).toNat with
  | 0 => .ok (.tld p (fd w) (fa w) (fb w))
  | 1 => .ok (.tst p (fd w) (fa w) (fb w))
  | 2 => .ok (.tlda p (fd w) (fa w) (fb w))
  | 3 => .ok (.tstr p (fd w) (fa w) (fb w))
  | _ => .error .unlistedMinor

/-- Major 0x24. -/
noncomputable def dec24 (p : Option Prefix) (w : Word) : Except DecodeError Instr :=
  match (fmin w).toNat with
  | 0 => .ok (.aadd p (fd w) (fa w) (fb w))
  | 1 => .ok (.amin p (fd w) (fa w) (fb w))
  | 2 => .ok (.amax p (fd w) (fa w) (fb w))
  | 3 => .ok (.aumin p (fd w) (fa w) (fb w))
  | 4 => .ok (.aumax p (fd w) (fa w) (fb w))
  | 5 => .ok (.aand p (fd w) (fa w) (fb w))
  | 6 => .ok (.aor p (fd w) (fa w) (fb w))
  | 7 => .ok (.axor p (fd w) (fa w) (fb w))
  | 8 => .ok (.axchg p (fd w) (fa w) (fb w))
  | 9 => .ok (.acas p (fd w) (fa w) (fb w))
  | 10 => .ok (.afadd p (fd w) (fa w) (fb w))
  | 11 => .ok (.aadd64 p (fd w) (fa w) (fb w))
  | 12 => .ok (.acas64 p (fd w) (fa w) (fb w))
  | _ => .error .unlistedMinor

/-- Major 0x25. -/
noncomputable def dec25 (p : Option Prefix) (w : Word) : Except DecodeError Instr :=
  match (fmin w).toNat with
  | 0 => .ok (.redadd p (fd w) (fa w) (fb w))
  | 1 => .ok (.redmin p (fd w) (fa w) (fb w))
  | 2 => .ok (.redmax p (fd w) (fa w) (fb w))
  | 3 => .ok (.redumin p (fd w) (fa w) (fb w))
  | 4 => .ok (.redumax p (fd w) (fa w) (fb w))
  | 5 => .ok (.redand p (fd w) (fa w) (fb w))
  | 6 => .ok (.redor p (fd w) (fa w) (fb w))
  | 7 => .ok (.redxor p (fd w) (fa w) (fb w))
  | 10 => .ok (.redfadd p (fd w) (fa w) (fb w))
  | 11 => .ok (.redadd64 p (fd w) (fa w) (fb w))
  | _ => .error .unlistedMinor

/-- Major 0x26. -/
noncomputable def dec26 (p : Option Prefix) (w : Word) : Except DecodeError Instr :=
  match (fmin w).toNat with
  | 0 => zeros (fa w == 0#7 && fb w == 0#7) (.fence p (fd w))
  | 1 => zeros (fd w == 0#7 && fb w == 0#7) (.mon p (fa w))
  | 2 => .ok (.mwait p (fd w) (fa w) (fb w))
  | 3 => .ok (.lease p (fd w) (fa w) (fb w))
  | 4 => zeros (fd w == 0#7 && fa w == 0#7 && fb w == 0#7) (.lrel p)
  | 5 => zeros (fd w == 0#7) (.stashmap p (fa w) (fb w))
  | 6 => zeros (fd w == 0#7) (.stashwb p (fa w) (fb w))
  | 7 => zeros (fd w == 0#7) (.stashinv p (fa w) (fb w))
  | 8 => zeros ((fd w).extractLsb' 1 6 == 0#6) (.pref p ((fd w).extractLsb' 0 1) (fa w) (fb w))
  | _ => .error .unlistedMinor

/-- Major 0x27. -/
noncomputable def dec27 (p : Option Prefix) (w : Word) : Except DecodeError Instr :=
  match (fmin w).toNat with
  | 0 => zeros (fd w == 0#7) (.mzero p (fa w) (fb w))
  | 1 => .ok (.mcopy p (fd w) (fa w) (fb w))
  | 2 => zeros (fd w == 0#7) (.minv p (fa w) (fb w))
  | _ => .error .unlistedMinor

/-- Major 0x28. -/
noncomputable def dec28 (p : Option Prefix) (w : Word) : Except DecodeError Instr :=
  match (fmin w).toNat with
  | 0 => zeros (fd w == 0#7 && fb w == 0#7) (.gath p (fa w))
  | 1 => zeros (fd w == 0#7 && fb w == 0#7) (.scat p (fa w))
  | _ => .error .unlistedMinor

/-- Major 0x29. -/
noncomputable def dec29 (p : Option Prefix) (w : Word) : Except DecodeError Instr :=
  match (fmin w).toNat with
  | 0 => zeros (fd w == 0#7 && fb w == 0#7) (.strm p (fa w))
  | 1 => zeros (fd w == 0#7 && (fa w).extractLsb' 3 4 == 0#4 && fb w == 0#7) (.qstop p ((fa w).extractLsb' 0 3))
  | 2 => zeros ((fa w).extractLsb' 3 4 == 0#4 && fb w == 0#7) (.qstat p (fd w) ((fa w).extractLsb' 0 3))
  | 3 => zeros (fd w == 0#7) (.sendm p (fa w) (fb w))
  | 4 => zeros ((fa w).extractLsb' 3 4 == 0#4 && fb w == 0#7) (.qpop p (fd w) ((fa w).extractLsb' 0 3))
  | _ => .error .unlistedMinor

/-- Major 0x2A. -/
noncomputable def dec2A (p : Option Prefix) (w : Word) : Except DecodeError Instr :=
  match (fmin w).toNat with
  | 0 => zeros (fd w == 0#7 && (fa w).extractLsb' 2 5 == 0#5) (.cwait p ((fa w).extractLsb' 0 2) (fb w))
  | 1 => zeros ((fa w).extractLsb' 2 5 == 0#5 && fb w == 0#7) (.crd p (fd w) ((fa w).extractLsb' 0 2))
  | _ => .error .unlistedMinor

/-- Major 0x31. -/
noncomputable def dec31 (p : Option Prefix) (w : Word) : Except DecodeError Instr :=
  match (fmin w).toNat with
  | 0 => zeros ((fd w).extractLsb' 4 3 == 0#3 && fa w == 0#7 && fb w == 0#7) (.accz p ((fd w).extractLsb' 0 4))
  | 1 => zeros ((fa w).extractLsb' 4 3 == 0#3 && (fb w).extractLsb' 2 5 == 0#5) (.accrd p (fd w) ((fa w).extractLsb' 0 4) ((fb w).extractLsb' 0 2))
  | 2 => zeros ((fd w).extractLsb' 4 3 == 0#3 && (fb w).extractLsb' 2 5 == 0#5) (.accwr p ((fd w).extractLsb' 0 4) (fa w) ((fb w).extractLsb' 0 2))
  | 3 => zeros ((fd w).extractLsb' 4 3 == 0#3 && (fb w).extractLsb' 2 5 == 0#5) (.accadd p ((fd w).extractLsb' 0 4) (fa w) ((fb w).extractLsb' 0 2))
  | 4 => zeros (fa w == 0#7 && fb w == 0#7) (.mstatrd p (fd w))
  | 5 => zeros ((fd w).extractLsb' 4 3 == 0#3 && (fa w).extractLsb' 4 3 == 0#3 && (fb w).extractLsb' 1 6 == 0#6) (.mctx p ((fd w).extractLsb' 0 4) ((fa w).extractLsb' 0 4) ((fb w).extractLsb' 0 1))
  | _ => .error .unlistedMinor

/-- Major 0x43. -/
noncomputable def dec43 (p : Option Prefix) (w : Word) : Except DecodeError Instr :=
  match (fmin w).toNat with
  | 0 => zeros (fd w == 0#7 && fb w == 0#7) (.brx p (fa w))
  | 1 => zeros (fd w == 0#7 && fb w == 0#7) (.callx p (fa w))
  | 2 => zeros (fd w == 0#7 && fa w == 0#7 && fb w == 0#7) (.ret p)
  | 3 => zeros (fd w == 0#7 && fa w == 0#7 && fb w == 0#7) (.exit p)
  | 4 => zeros (fd w == 0#7 && fa w == 0#7 && fb w == 0#7) (.yield p)
  | 5 => zeros (fd w == 0#7 && fa w == 0#7 && fb w == 0#7) (.nop p)
  | 6 => zeros (fd w == 0#7 && fb w == 0#7) (.winb p (fa w))
  | 7 => zeros (fd w == 0#7 && fb w == 0#7) (.wina p (fa w))
  | 8 => zeros (fd w == 0#7 && fb w == 0#7) (.syscall p (fa w))
  | 9 => zeros (fd w == 0#7 && fb w == 0#7) (.trap p (fa w))
  | 10 => zeros (fd w == 0#7 && fa w == 0#7 && fb w == 0#7) (.bkpt p)
  | _ => .error .unlistedMinor

/-- Major 0x44. -/
noncomputable def dec44 (w : Word) : Except DecodeError Instr :=
  match (fmin w).toNat with
  | 0 => zeros (fd w == 0#7 && fa w == 0#7 && fb w == 0#7) (.barw)
  | 1 => zeros (fd w == 0#7 && fa w == 0#7 && (fb w).extractLsb' 4 3 == 0#3) (.barb ((fb w).extractLsb' 0 4))
  | 2 => zeros (fd w == 0#7 && fa w == 0#7 && (fb w).extractLsb' 3 4 == 0#4) (.barc ((fb w).extractLsb' 0 3))
  | 3 => zeros (fd w == 0#7 && fa w == 0#7 && (fb w).extractLsb' 2 5 == 0#5) (.barg ((fb w).extractLsb' 0 2))
  | 4 => zeros (fa w == 0#7 && (fb w).extractLsb' 4 3 == 0#3) (.arrb (fd w) ((fb w).extractLsb' 0 4))
  | 5 => zeros (fa w == 0#7 && (fb w).extractLsb' 3 4 == 0#4) (.arrc (fd w) ((fb w).extractLsb' 0 3))
  | 6 => zeros (fa w == 0#7 && (fb w).extractLsb' 2 5 == 0#5) (.arrg (fd w) ((fb w).extractLsb' 0 2))
  | 7 => zeros (fd w == 0#7 && (fb w).extractLsb' 4 3 == 0#3) (.wbarb (fa w) ((fb w).extractLsb' 0 4))
  | 8 => zeros (fd w == 0#7 && (fb w).extractLsb' 3 4 == 0#4) (.wbarc (fa w) ((fb w).extractLsb' 0 3))
  | 9 => zeros (fd w == 0#7 && (fb w).extractLsb' 2 5 == 0#5) (.wbarg (fa w) ((fb w).extractLsb' 0 2))
  | _ => .error .unlistedMinor

/-- Major 0x45. -/
noncomputable def dec45 (p : Option Prefix) (w : Word) : Except DecodeError Instr :=
  match (fmin w).toNat with
  | 0 => zeros (fb w == 0#7) (.ovld p (fd w) (fa w))
  | 1 => zeros (fd w == 0#7 && fb w == 0#7) (.ovcall p (fa w))
  | 2 => zeros (fd w == 0#7 && fb w == 0#7) (.ovjmp p (fa w))
  | 3 => zeros (fd w == 0#7 && fa w == 0#7 && fb w == 0#7) (.ovret p)
  | 4 => zeros (fd w == 0#7 && fb w == 0#7) (.ovevict p (fa w))
  | 5 => zeros (fb w == 0#7) (.ovq p (fd w) (fa w))
  | _ => .error .unlistedMinor

/-- Major 0x50. -/
noncomputable def dec50 (p : Option Prefix) (w : Word) : Except DecodeError Instr :=
  match (fmin w).toNat with
  | 0 => .ok (.csrrd p (fd w) (fi w))
  | 1 => .ok (.csrwr p (fd w) (fi w))
  | 2 => .ok (.retype p (fd w) (fa w) (fb w))
  | 3 => zeros (fb w == 0#7) (.frq p (fd w) (fa w))
  | 4 => zeros (fd w == 0#7 && fa w == 0#7 && fb w == 0#7) (.eret p)
  | 5 => zeros (fd w == 0#7 && fa w == 0#7 && fb w == 0#7) (.wfi p)
  | 6 => zeros (fd w == 0#7) (.ipi p (fa w) (fb w))
  | 7 => zeros (fd w == 0#7) (.ctxsv p (fa w) (fb w))
  | 8 => .ok (.ctxld p (fd w) (fa w) (fb w))
  | 9 => zeros (fd w == 0#7) (.wlatch p (fa w) (fb w))
  | 10 => zeros (fd w == 0#7) (.keyrev p (fa w) (fb w))
  | _ => .error .unlistedMinor

/-- One word with the prefix that stands before it. -/
noncomputable def decodeWord (p : Option Prefix) (w : Word) : Except DecodeError Instr :=
  match (fmaj w).toNat with
  | 0x01 => dec01 p w
  | 0x02 => dec02 p w
  | 0x03 => dec03 p w
  | 0x04 => dec04 p w
  | 0x05 => dec05 p w
  | 0x06 => dec06 p w
  | 0x07 => dec07 p w
  | 0x08 => dec08 p w
  | 0x09 => dec09 p w
  | 0x0A => dec0A p w
  | 0x0B => dec0B p w
  | 0x0C => dec0C p w
  | 0x0D => dec0D p w
  | 0x0E => dec0E p w
  | 0x0F => dec0F p w
  | 0x20 => dec20 p w
  | 0x21 => dec21 p w
  | 0x22 => dec22 p w
  | 0x23 => dec23 p w
  | 0x24 => dec24 p w
  | 0x25 => dec25 p w
  | 0x26 => dec26 p w
  | 0x27 => dec27 p w
  | 0x28 => dec28 p w
  | 0x29 => dec29 p w
  | 0x2A => dec2A p w
  | 0x30 => decMma p w
  | 0x31 => dec31 p w
  | 0x40 => bare p (dec40 w)
  | 0x41 => bare p (dec41 w)
  | 0x42 => bare p (dec42 w)
  | 0x43 => dec43 p w
  | 0x44 => bare p (dec44 w)
  | 0x45 => dec45 p w
  | 0x50 => dec50 p w
  | 0x7F => bare p (.ok (decHeader w))
  | 0x7E => .error .strayPrefix
  | _ => if w == 0#32 then .error .zeroWord else .error .unlistedMajor

/-- The first instruction of a list of words, with the words after it. -/
noncomputable def decode : List Word → Except DecodeError (Instr × List Word)
  | [] => .error .truncated
  | w :: rest =>
    if fmaj w == 0x7E#7 then
      if w.extractLsb' 0 2 != 0#2 then .error .prefixZeroBits
      else match rest with
        | [] => .error .strayPrefix
        | v :: rest' => (decodeWord (some (decPrefix w)) v).map fun i => (i, rest')
    else (decodeWord none w).map fun i => (i, rest)

/-! ### The encoder -/

/-- The prefix word, if there is one. -/
def encPrefix : Option Prefix → List Word
  | none => []
  | some p => [mkP p]

/-- The words of an instruction: the prefix, if any, and the word. A step without an encoding has none. -/
def encode : Instr → List Word
  | .clause w a b l => [mkC w a b l]
  | .iadd p d a b => encPrefix p ++ [mkR 0x01#7 0#4 d a b]
  | .isub p d a b => encPrefix p ++ [mkR 0x01#7 1#4 d a b]
  | .imul p d a b => encPrefix p ++ [mkR 0x01#7 2#4 d a b]
  | .imulh p d a b => encPrefix p ++ [mkR 0x01#7 3#4 d a b]
  | .umulh p d a b => encPrefix p ++ [mkR 0x01#7 4#4 d a b]
  | .imin p d a b => encPrefix p ++ [mkR 0x01#7 5#4 d a b]
  | .imax p d a b => encPrefix p ++ [mkR 0x01#7 6#4 d a b]
  | .umin p d a b => encPrefix p ++ [mkR 0x01#7 7#4 d a b]
  | .umax p d a b => encPrefix p ++ [mkR 0x01#7 8#4 d a b]
  | .iabs p d a => encPrefix p ++ [mkR 0x01#7 9#4 d a 0#7]
  | .ineg p d a => encPrefix p ++ [mkR 0x01#7 10#4 d a 0#7]
  | .iadds p d a b => encPrefix p ++ [mkR 0x01#7 11#4 d a b]
  | .isubs p d a b => encPrefix p ++ [mkR 0x01#7 12#4 d a b]
  | .uadds p d a b => encPrefix p ++ [mkR 0x01#7 13#4 d a b]
  | .usubs p d a b => encPrefix p ++ [mkR 0x01#7 14#4 d a b]
  | .imad p d a b => encPrefix p ++ [mkR 0x01#7 15#4 d a b]
  | .and p d a b => encPrefix p ++ [mkR 0x02#7 0#4 d a b]
  | .or p d a b => encPrefix p ++ [mkR 0x02#7 1#4 d a b]
  | .xor p d a b => encPrefix p ++ [mkR 0x02#7 2#4 d a b]
  | .andn p d a b => encPrefix p ++ [mkR 0x02#7 3#4 d a b]
  | .not p d a => encPrefix p ++ [mkR 0x02#7 4#4 d a 0#7]
  | .shl p d a b => encPrefix p ++ [mkR 0x02#7 5#4 d a b]
  | .shr p d a b => encPrefix p ++ [mkR 0x02#7 6#4 d a b]
  | .sra p d a b => encPrefix p ++ [mkR 0x02#7 7#4 d a b]
  | .rol p d a b => encPrefix p ++ [mkR 0x02#7 8#4 d a b]
  | .popc p d a => encPrefix p ++ [mkR 0x02#7 9#4 d a 0#7]
  | .clz p d a => encPrefix p ++ [mkR 0x02#7 10#4 d a 0#7]
  | .brev p d a => encPrefix p ++ [mkR 0x02#7 11#4 d a 0#7]
  | .bfe p d a b => encPrefix p ++ [mkR 0x02#7 12#4 d a b]
  | .bfi p d a b => encPrefix p ++ [mkR 0x02#7 13#4 d a b]
  | .mov p d a => encPrefix p ++ [mkR 0x02#7 14#4 d a 0#7]
  | .sel p d a b => encPrefix p ++ [mkR 0x02#7 15#4 d a b]
  | .iaddi p d a i => encPrefix p ++ [mkR 0x03#7 0#4 d a i]
  | .shli p d a i => encPrefix p ++ [mkR 0x03#7 1#4 d a i]
  | .shri p d a i => encPrefix p ++ [mkR 0x03#7 2#4 d a i]
  | .srai p d a i => encPrefix p ++ [mkR 0x03#7 3#4 d a i]
  | .andi p d a i => encPrefix p ++ [mkR 0x03#7 4#4 d a i]
  | .ori p d a i => encPrefix p ++ [mkR 0x03#7 5#4 d a i]
  | .xori p d a i => encPrefix p ++ [mkR 0x03#7 6#4 d a i]
  | .roli p d a i => encPrefix p ++ [mkR 0x03#7 7#4 d a i]
  | .imuli p d a i => encPrefix p ++ [mkR 0x03#7 8#4 d a i]
  | .movi p d i => encPrefix p ++ [mkI 0x04#7 0#4 d i]
  | .movhi p d i => encPrefix p ++ [mkI 0x04#7 1#4 d i]
  | .smovi p d i => encPrefix p ++ [mkI 0x04#7 2#4 d i]
  | .smovhi p d i => encPrefix p ++ [mkI 0x04#7 3#4 d i]
  | .laneid p d => encPrefix p ++ [mkI 0x04#7 4#4 d 0#14]
  | .icmpEq p c d a b => encPrefix p ++ [mkR 0x05#7 0#4 (0#2 ++ c ++ d) a b]
  | .icmpNe p c d a b => encPrefix p ++ [mkR 0x05#7 1#4 (0#2 ++ c ++ d) a b]
  | .icmpLt p c d a b => encPrefix p ++ [mkR 0x05#7 2#4 (0#2 ++ c ++ d) a b]
  | .icmpLe p c d a b => encPrefix p ++ [mkR 0x05#7 3#4 (0#2 ++ c ++ d) a b]
  | .icmpGt p c d a b => encPrefix p ++ [mkR 0x05#7 4#4 (0#2 ++ c ++ d) a b]
  | .icmpGe p c d a b => encPrefix p ++ [mkR 0x05#7 5#4 (0#2 ++ c ++ d) a b]
  | .icmpLtu p c d a b => encPrefix p ++ [mkR 0x05#7 6#4 (0#2 ++ c ++ d) a b]
  | .icmpLeu p c d a b => encPrefix p ++ [mkR 0x05#7 7#4 (0#2 ++ c ++ d) a b]
  | .icmpGtu p c d a b => encPrefix p ++ [mkR 0x05#7 8#4 (0#2 ++ c ++ d) a b]
  | .icmpGeu p c d a b => encPrefix p ++ [mkR 0x05#7 9#4 (0#2 ++ c ++ d) a b]
  | .fcmpEq p c d a b => encPrefix p ++ [mkR 0x06#7 0#4 (0#2 ++ c ++ d) a b]
  | .fcmpNe p c d a b => encPrefix p ++ [mkR 0x06#7 1#4 (0#2 ++ c ++ d) a b]
  | .fcmpLt p c d a b => encPrefix p ++ [mkR 0x06#7 2#4 (0#2 ++ c ++ d) a b]
  | .fcmpLe p c d a b => encPrefix p ++ [mkR 0x06#7 3#4 (0#2 ++ c ++ d) a b]
  | .fcmpGt p c d a b => encPrefix p ++ [mkR 0x06#7 4#4 (0#2 ++ c ++ d) a b]
  | .fcmpGe p c d a b => encPrefix p ++ [mkR 0x06#7 5#4 (0#2 ++ c ++ d) a b]
  | .fcmpOrd p c d a b => encPrefix p ++ [mkR 0x06#7 6#4 (0#2 ++ c ++ d) a b]
  | .fcmpUno p c d a b => encPrefix p ++ [mkR 0x06#7 7#4 (0#2 ++ c ++ d) a b]
  | .kand p d a b => encPrefix p ++ [mkR 0x07#7 0#4 (0#4 ++ d) (0#4 ++ a) (0#4 ++ b)]
  | .kor p d a b => encPrefix p ++ [mkR 0x07#7 1#4 (0#4 ++ d) (0#4 ++ a) (0#4 ++ b)]
  | .kxor p d a b => encPrefix p ++ [mkR 0x07#7 2#4 (0#4 ++ d) (0#4 ++ a) (0#4 ++ b)]
  | .kandn p d a b => encPrefix p ++ [mkR 0x07#7 3#4 (0#4 ++ d) (0#4 ++ a) (0#4 ++ b)]
  | .knot p d a => encPrefix p ++ [mkR 0x07#7 4#4 (0#4 ++ d) (0#4 ++ a) 0#7]
  | .kmov p d a => encPrefix p ++ [mkR 0x07#7 5#4 (0#4 ++ d) (0#4 ++ a) 0#7]
  | .ktos p d a => encPrefix p ++ [mkR 0x07#7 6#4 d (0#4 ++ a) 0#7]
  | .stok p d a => encPrefix p ++ [mkR 0x07#7 7#4 (0#4 ++ d) a 0#7]
  | .kpopc p d a => encPrefix p ++ [mkR 0x07#7 8#4 d (0#4 ++ a) 0#7]
  | .kffs p d a => encPrefix p ++ [mkR 0x07#7 9#4 d (0#4 ++ a) 0#7]
  | .xrd p d => encPrefix p ++ [mkR 0x07#7 10#4 d 0#7 0#7]
  | .xwr p a => encPrefix p ++ [mkR 0x07#7 11#4 0#7 a 0#7]
  | .kset p d a b => encPrefix p ++ [mkR 0x07#7 12#4 (0#4 ++ d) a b]
  | .fadd p d a b => encPrefix p ++ [mkR 0x08#7 0#4 d a b]
  | .fsub p d a b => encPrefix p ++ [mkR 0x08#7 1#4 d a b]
  | .fmul p d a b => encPrefix p ++ [mkR 0x08#7 2#4 d a b]
  | .ffma p d a b => encPrefix p ++ [mkR 0x08#7 3#4 d a b]
  | .fmin p d a b => encPrefix p ++ [mkR 0x08#7 4#4 d a b]
  | .fmax p d a b => encPrefix p ++ [mkR 0x08#7 5#4 d a b]
  | .fabs p d a => encPrefix p ++ [mkR 0x08#7 6#4 d a 0#7]
  | .fneg p d a => encPrefix p ++ [mkR 0x08#7 7#4 d a 0#7]
  | .ffms p d a b => encPrefix p ++ [mkR 0x08#7 8#4 d a b]
  | .fnfma p d a b => encPrefix p ++ [mkR 0x08#7 9#4 d a b]
  | .fclass p d a => encPrefix p ++ [mkR 0x08#7 10#4 d a 0#7]
  | .ffloor p d a => encPrefix p ++ [mkR 0x08#7 11#4 d a 0#7]
  | .fceil p d a => encPrefix p ++ [mkR 0x08#7 12#4 d a 0#7]
  | .ftrunc p d a => encPrefix p ++ [mkR 0x08#7 13#4 d a 0#7]
  | .frint p d a => encPrefix p ++ [mkR 0x08#7 14#4 d a 0#7]
  | .fscale p d a b => encPrefix p ++ [mkR 0x08#7 15#4 d a b]
  | .frcp p d a => encPrefix p ++ [mkR 0x09#7 0#4 d a 0#7]
  | .frsq p d a => encPrefix p ++ [mkR 0x09#7 1#4 d a 0#7]
  | .fsqrt p d a => encPrefix p ++ [mkR 0x09#7 2#4 d a 0#7]
  | .fexp2 p d a => encPrefix p ++ [mkR 0x09#7 3#4 d a 0#7]
  | .flog2 p d a => encPrefix p ++ [mkR 0x09#7 4#4 d a 0#7]
  | .fsin p d a => encPrefix p ++ [mkR 0x09#7 5#4 d a 0#7]
  | .fcos p d a => encPrefix p ++ [mkR 0x09#7 6#4 d a 0#7]
  | .ftanh p d a => encPrefix p ++ [mkR 0x09#7 7#4 d a 0#7]
  | .specialFunctionResult .. => []
  | .cvtfi p d a => encPrefix p ++ [mkR 0x0A#7 0#4 d a 0#7]
  | .cvtfu p d a => encPrefix p ++ [mkR 0x0A#7 1#4 d a 0#7]
  | .cvtif p d a => encPrefix p ++ [mkR 0x0A#7 2#4 d a 0#7]
  | .cvtuf p d a => encPrefix p ++ [mkR 0x0A#7 3#4 d a 0#7]
  | .cvtfh p d a => encPrefix p ++ [mkR 0x0A#7 4#4 d a 0#7]
  | .cvthf p d a => encPrefix p ++ [mkR 0x0A#7 5#4 d a 0#7]
  | .cvtfb p d a => encPrefix p ++ [mkR 0x0A#7 6#4 d a 0#7]
  | .cvtbf p d a => encPrefix p ++ [mkR 0x0A#7 7#4 d a 0#7]
  | .qexp p d a b => encPrefix p ++ [mkR 0x0B#7 0#4 d a b]
  | .qman p d a b => encPrefix p ++ [mkR 0x0B#7 1#4 d a b]
  | .dq p d a b => encPrefix p ++ [mkR 0x0B#7 2#4 d a b]
  | .packm p d a b => encPrefix p ++ [mkR 0x0B#7 3#4 d a b]
  | .unpkm p d a b => encPrefix p ++ [mkR 0x0B#7 4#4 d a b]
  | .hadd2 p d a b => encPrefix p ++ [mkR 0x0C#7 0#4 d a b]
  | .hsub2 p d a b => encPrefix p ++ [mkR 0x0C#7 1#4 d a b]
  | .hmul2 p d a b => encPrefix p ++ [mkR 0x0C#7 2#4 d a b]
  | .hfma2 p d a b => encPrefix p ++ [mkR 0x0C#7 3#4 d a b]
  | .hmin2 p d a b => encPrefix p ++ [mkR 0x0C#7 4#4 d a b]
  | .hmax2 p d a b => encPrefix p ++ [mkR 0x0C#7 5#4 d a b]
  | .badd2 p d a b => encPrefix p ++ [mkR 0x0C#7 8#4 d a b]
  | .bsub2 p d a b => encPrefix p ++ [mkR 0x0C#7 9#4 d a b]
  | .bmul2 p d a b => encPrefix p ++ [mkR 0x0C#7 10#4 d a b]
  | .bfma2 p d a b => encPrefix p ++ [mkR 0x0C#7 11#4 d a b]
  | .bmin2 p d a b => encPrefix p ++ [mkR 0x0C#7 12#4 d a b]
  | .bmax2 p d a b => encPrefix p ++ [mkR 0x0C#7 13#4 d a b]
  | .shfl p d a b => encPrefix p ++ [mkR 0x0D#7 0#4 d a b]
  | .shflx p d a b => encPrefix p ++ [mkR 0x0D#7 1#4 d a b]
  | .shflu p d a b => encPrefix p ++ [mkR 0x0D#7 2#4 d a b]
  | .shfld p d a b => encPrefix p ++ [mkR 0x0D#7 3#4 d a b]
  | .nbl p d a => encPrefix p ++ [mkR 0x0D#7 4#4 d a 0#7]
  | .nbr p d a => encPrefix p ++ [mkR 0x0D#7 5#4 d a 0#7]
  | .nbx p d a => encPrefix p ++ [mkR 0x0D#7 6#4 d a 0#7]
  | .neighbourLatchComplete .. => []
  | .blut p d a b => encPrefix p ++ [mkR 0x0D#7 7#4 d a b]
  | .bluth p d a b => encPrefix p ++ [mkR 0x0D#7 8#4 d a b]
  | .bprm p d a b => encPrefix p ++ [mkR 0x0D#7 9#4 d a b]
  | .vredadd p d a => encPrefix p ++ [mkR 0x0D#7 10#4 d a 0#7]
  | .vredmin p d a => encPrefix p ++ [mkR 0x0D#7 11#4 d a 0#7]
  | .vredmax p d a => encPrefix p ++ [mkR 0x0D#7 12#4 d a 0#7]
  | .vredfadd p d a => encPrefix p ++ [mkR 0x0D#7 13#4 d a 0#7]
  | .vscan p d a => encPrefix p ++ [mkR 0x0D#7 14#4 d a 0#7]
  | .vbcast p d a b => encPrefix p ++ [mkR 0x0D#7 15#4 d a b]
  | .sadd p d a b => encPrefix p ++ [mkR 0x0E#7 0#4 d a b]
  | .ssub p d a b => encPrefix p ++ [mkR 0x0E#7 1#4 d a b]
  | .smul p d a b => encPrefix p ++ [mkR 0x0E#7 2#4 d a b]
  | .sand p d a b => encPrefix p ++ [mkR 0x0E#7 3#4 d a b]
  | .sor p d a b => encPrefix p ++ [mkR 0x0E#7 4#4 d a b]
  | .sxor p d a b => encPrefix p ++ [mkR 0x0E#7 5#4 d a b]
  | .sshl p d a b => encPrefix p ++ [mkR 0x0E#7 6#4 d a b]
  | .sshr p d a b => encPrefix p ++ [mkR 0x0E#7 7#4 d a b]
  | .ssra p d a b => encPrefix p ++ [mkR 0x0E#7 8#4 d a b]
  | .smin p d a b => encPrefix p ++ [mkR 0x0E#7 9#4 d a b]
  | .smax p d a b => encPrefix p ++ [mkR 0x0E#7 10#4 d a b]
  | .smov p d a => encPrefix p ++ [mkR 0x0E#7 11#4 d a 0#7]
  | .sslt p d a b => encPrefix p ++ [mkR 0x0E#7 12#4 d a b]
  | .ssltu p d a b => encPrefix p ++ [mkR 0x0E#7 13#4 d a b]
  | .sseq p d a b => encPrefix p ++ [mkR 0x0E#7 14#4 d a b]
  | .s2v p d a => encPrefix p ++ [mkR 0x0E#7 15#4 d a 0#7]
  | .saddi p d a i => encPrefix p ++ [mkR 0x0F#7 0#4 d a i]
  | .sshli p d a i => encPrefix p ++ [mkR 0x0F#7 1#4 d a i]
  | .sshri p d a i => encPrefix p ++ [mkR 0x0F#7 2#4 d a i]
  | .sandi p d a i => encPrefix p ++ [mkR 0x0F#7 3#4 d a i]
  | .sori p d a i => encPrefix p ++ [mkR 0x0F#7 4#4 d a i]
  | .saddi64 p d a i => encPrefix p ++ [mkR 0x0F#7 5#4 d a i]
  | .sadd64 p d a b => encPrefix p ++ [mkR 0x0F#7 6#4 d a b]
  | .ssub64 p d a b => encPrefix p ++ [mkR 0x0F#7 7#4 d a b]
  | .smov64 p d a => encPrefix p ++ [mkR 0x0F#7 8#4 d a 0#7]
  | .sshli64 p d a i => encPrefix p ++ [mkR 0x0F#7 9#4 d a i]
  | .ldb p d a b => encPrefix p ++ [mkR 0x20#7 0#4 d a b]
  | .ldbu p d a b => encPrefix p ++ [mkR 0x20#7 1#4 d a b]
  | .ldh p d a b => encPrefix p ++ [mkR 0x20#7 2#4 d a b]
  | .ldhu p d a b => encPrefix p ++ [mkR 0x20#7 3#4 d a b]
  | .ldw p d a b => encPrefix p ++ [mkR 0x20#7 4#4 d a b]
  | .ldd p d a b => encPrefix p ++ [mkR 0x20#7 5#4 d a b]
  | .ldq p d a b => encPrefix p ++ [mkR 0x20#7 6#4 d a b]
  | .ldacq p d a b => encPrefix p ++ [mkR 0x20#7 8#4 d a b]
  | .stb p d a b => encPrefix p ++ [mkR 0x21#7 0#4 d a b]
  | .sth p d a b => encPrefix p ++ [mkR 0x21#7 2#4 d a b]
  | .stw p d a b => encPrefix p ++ [mkR 0x21#7 4#4 d a b]
  | .std p d a b => encPrefix p ++ [mkR 0x21#7 5#4 d a b]
  | .stq p d a b => encPrefix p ++ [mkR 0x21#7 6#4 d a b]
  | .strel p d a b => encPrefix p ++ [mkR 0x21#7 8#4 d a b]
  | .sldw p d a i => encPrefix p ++ [mkR 0x22#7 0#4 d a i]
  | .sldd p d a i => encPrefix p ++ [mkR 0x22#7 1#4 d a i]
  | .sstw p d a i => encPrefix p ++ [mkR 0x22#7 2#4 d a i]
  | .sstd p d a i => encPrefix p ++ [mkR 0x22#7 3#4 d a i]
  | .sldacq p d a i => encPrefix p ++ [mkR 0x22#7 4#4 d a i]
  | .sstrel p d a i => encPrefix p ++ [mkR 0x22#7 5#4 d a i]
  | .tld p d a b => encPrefix p ++ [mkR 0x23#7 0#4 d a b]
  | .tst p d a b => encPrefix p ++ [mkR 0x23#7 1#4 d a b]
  | .tlda p d a b => encPrefix p ++ [mkR 0x23#7 2#4 d a b]
  | .tstr p d a b => encPrefix p ++ [mkR 0x23#7 3#4 d a b]
  | .tileLockAcquire .. => []
  | .tileLockRetry .. => []
  | .aadd p d a b => encPrefix p ++ [mkR 0x24#7 0#4 d a b]
  | .amin p d a b => encPrefix p ++ [mkR 0x24#7 1#4 d a b]
  | .amax p d a b => encPrefix p ++ [mkR 0x24#7 2#4 d a b]
  | .aumin p d a b => encPrefix p ++ [mkR 0x24#7 3#4 d a b]
  | .aumax p d a b => encPrefix p ++ [mkR 0x24#7 4#4 d a b]
  | .aand p d a b => encPrefix p ++ [mkR 0x24#7 5#4 d a b]
  | .aor p d a b => encPrefix p ++ [mkR 0x24#7 6#4 d a b]
  | .axor p d a b => encPrefix p ++ [mkR 0x24#7 7#4 d a b]
  | .axchg p d a b => encPrefix p ++ [mkR 0x24#7 8#4 d a b]
  | .acas p d a b => encPrefix p ++ [mkR 0x24#7 9#4 d a b]
  | .afadd p d a b => encPrefix p ++ [mkR 0x24#7 10#4 d a b]
  | .aadd64 p d a b => encPrefix p ++ [mkR 0x24#7 11#4 d a b]
  | .acas64 p d a b => encPrefix p ++ [mkR 0x24#7 12#4 d a b]
  | .redadd p d a b => encPrefix p ++ [mkR 0x25#7 0#4 d a b]
  | .redmin p d a b => encPrefix p ++ [mkR 0x25#7 1#4 d a b]
  | .redmax p d a b => encPrefix p ++ [mkR 0x25#7 2#4 d a b]
  | .redumin p d a b => encPrefix p ++ [mkR 0x25#7 3#4 d a b]
  | .redumax p d a b => encPrefix p ++ [mkR 0x25#7 4#4 d a b]
  | .redand p d a b => encPrefix p ++ [mkR 0x25#7 5#4 d a b]
  | .redor p d a b => encPrefix p ++ [mkR 0x25#7 6#4 d a b]
  | .redxor p d a b => encPrefix p ++ [mkR 0x25#7 7#4 d a b]
  | .redfadd p d a b => encPrefix p ++ [mkR 0x25#7 10#4 d a b]
  | .redadd64 p d a b => encPrefix p ++ [mkR 0x25#7 11#4 d a b]
  | .fence p d => encPrefix p ++ [mkR 0x26#7 0#4 d 0#7 0#7]
  | .mon p a => encPrefix p ++ [mkR 0x26#7 1#4 0#7 a 0#7]
  | .mwait p d a b => encPrefix p ++ [mkR 0x26#7 2#4 d a b]
  | .lease p d a b => encPrefix p ++ [mkR 0x26#7 3#4 d a b]
  | .lrel p => encPrefix p ++ [mkR 0x26#7 4#4 0#7 0#7 0#7]
  | .stashmap p a b => encPrefix p ++ [mkR 0x26#7 5#4 0#7 a b]
  | .stashwb p a b => encPrefix p ++ [mkR 0x26#7 6#4 0#7 a b]
  | .stashinv p a b => encPrefix p ++ [mkR 0x26#7 7#4 0#7 a b]
  | .pref p d a b => encPrefix p ++ [mkR 0x26#7 8#4 (0#6 ++ d) a b]
  | .mzero p a b => encPrefix p ++ [mkR 0x27#7 0#4 0#7 a b]
  | .mcopy p d a b => encPrefix p ++ [mkR 0x27#7 1#4 d a b]
  | .minv p a b => encPrefix p ++ [mkR 0x27#7 2#4 0#7 a b]
  | .gath p a => encPrefix p ++ [mkR 0x28#7 0#4 0#7 a 0#7]
  | .scat p a => encPrefix p ++ [mkR 0x28#7 1#4 0#7 a 0#7]
  | .strm p a => encPrefix p ++ [mkR 0x29#7 0#4 0#7 a 0#7]
  | .qstop p a => encPrefix p ++ [mkR 0x29#7 1#4 0#7 (0#4 ++ a) 0#7]
  | .qstat p d a => encPrefix p ++ [mkR 0x29#7 2#4 d (0#4 ++ a) 0#7]
  | .sendm p a b => encPrefix p ++ [mkR 0x29#7 3#4 0#7 a b]
  | .qpop p d a => encPrefix p ++ [mkR 0x29#7 4#4 d (0#4 ++ a) 0#7]
  | .cwait p a i => encPrefix p ++ [mkR 0x2A#7 0#4 0#7 (0#5 ++ a) i]
  | .crd p d a => encPrefix p ++ [mkR 0x2A#7 1#4 d (0#5 ++ a) 0#7]
  | .mma p sp z nb na t a b => encPrefix p ++ [mkR 0x30#7 (sp ++ z ++ nb ++ na) (0#3 ++ t) a b]
  | .accz p d => encPrefix p ++ [mkR 0x31#7 0#4 (0#3 ++ d) 0#7 0#7]
  | .accrd p d a b => encPrefix p ++ [mkR 0x31#7 1#4 d (0#3 ++ a) (0#5 ++ b)]
  | .accwr p d a b => encPrefix p ++ [mkR 0x31#7 2#4 (0#3 ++ d) a (0#5 ++ b)]
  | .accadd p d a b => encPrefix p ++ [mkR 0x31#7 3#4 (0#3 ++ d) a (0#5 ++ b)]
  | .mstatrd p d => encPrefix p ++ [mkR 0x31#7 4#4 d 0#7 0#7]
  | .mctx p d a b => encPrefix p ++ [mkR 0x31#7 5#4 (0#3 ++ d) (0#3 ++ a) (0#6 ++ b)]
  | .matrixEngineEntry .. => []
  | .matrixOpComplete .. => []
  | .br n m o => [mkB 0x40#7 n m o]
  | .call o => [mkB 0x41#7 0#1 0#3 o]
  | .rcv o => [mkB 0x42#7 0#1 0#3 o]
  | .brx p a => encPrefix p ++ [mkR 0x43#7 0#4 0#7 a 0#7]
  | .callx p a => encPrefix p ++ [mkR 0x43#7 1#4 0#7 a 0#7]
  | .ret p => encPrefix p ++ [mkR 0x43#7 2#4 0#7 0#7 0#7]
  | .exit p => encPrefix p ++ [mkR 0x43#7 3#4 0#7 0#7 0#7]
  | .yield p => encPrefix p ++ [mkR 0x43#7 4#4 0#7 0#7 0#7]
  | .yieldWake .. => []
  | .nop p => encPrefix p ++ [mkR 0x43#7 5#4 0#7 0#7 0#7]
  | .winb p a => encPrefix p ++ [mkR 0x43#7 6#4 0#7 a 0#7]
  | .wina p a => encPrefix p ++ [mkR 0x43#7 7#4 0#7 a 0#7]
  | .syscall p a => encPrefix p ++ [mkR 0x43#7 8#4 0#7 a 0#7]
  | .syscallReply .. => []
  | .trap p a => encPrefix p ++ [mkR 0x43#7 9#4 0#7 a 0#7]
  | .bkpt p => encPrefix p ++ [mkR 0x43#7 10#4 0#7 0#7 0#7]
  | .barw => [mkR 0x44#7 0#4 0#7 0#7 0#7]
  | .barb i => [mkR 0x44#7 1#4 0#7 0#7 (0#3 ++ i)]
  | .barc i => [mkR 0x44#7 2#4 0#7 0#7 (0#4 ++ i)]
  | .barg i => [mkR 0x44#7 3#4 0#7 0#7 (0#5 ++ i)]
  | .arrb d i => [mkR 0x44#7 4#4 d 0#7 (0#3 ++ i)]
  | .arrc d i => [mkR 0x44#7 5#4 d 0#7 (0#4 ++ i)]
  | .arrg d i => [mkR 0x44#7 6#4 d 0#7 (0#5 ++ i)]
  | .wbarb a i => [mkR 0x44#7 7#4 0#7 a (0#3 ++ i)]
  | .wbarc a i => [mkR 0x44#7 8#4 0#7 a (0#4 ++ i)]
  | .wbarg a i => [mkR 0x44#7 9#4 0#7 a (0#5 ++ i)]
  | .barrierTimeout .. => []
  | .ovld p d a => encPrefix p ++ [mkR 0x45#7 0#4 d a 0#7]
  | .ovcall p a => encPrefix p ++ [mkR 0x45#7 1#4 0#7 a 0#7]
  | .ovjmp p a => encPrefix p ++ [mkR 0x45#7 2#4 0#7 a 0#7]
  | .ovret p => encPrefix p ++ [mkR 0x45#7 3#4 0#7 0#7 0#7]
  | .ovevict p a => encPrefix p ++ [mkR 0x45#7 4#4 0#7 a 0#7]
  | .ovq p d a => encPrefix p ++ [mkR 0x45#7 5#4 d a 0#7]
  | .demandReloadRetry .. => []
  | .slotLoadComplete .. => []
  | .slotError .. => []
  | .slotReloadComplete .. => []
  | .csrrd p d i => encPrefix p ++ [mkI 0x50#7 0#4 d i]
  | .csrwr p d i => encPrefix p ++ [mkI 0x50#7 1#4 d i]
  | .wstatWrite .. => []
  | .mstatWrite .. => []
  | .vlogClear .. => []
  | .svstWrite .. => []
  | .shelfWrite .. => []
  | .svpendClear .. => []
  | .svmsgPop .. => []
  | .fstoWrite .. => []
  | .audfracWrite .. => []
  | .retype p d a b => encPrefix p ++ [mkR 0x50#7 2#4 d a b]
  | .frq p d a => encPrefix p ++ [mkR 0x50#7 3#4 d a 0#7]
  | .eret p => encPrefix p ++ [mkR 0x50#7 4#4 0#7 0#7 0#7]
  | .wfi p => encPrefix p ++ [mkR 0x50#7 5#4 0#7 0#7 0#7]
  | .wfiWake .. => []
  | .ipi p a b => encPrefix p ++ [mkR 0x50#7 6#4 0#7 a b]
  | .ipiDeliver .. => []
  | .serviceInterrupt .. => []
  | .ctxsv p a b => encPrefix p ++ [mkR 0x50#7 7#4 0#7 a b]
  | .ctxld p d a b => encPrefix p ++ [mkR 0x50#7 8#4 d a b]
  | .wlatch p a b => encPrefix p ++ [mkR 0x50#7 9#4 0#7 a b]
  | .keyrev p a b => encPrefix p ++ [mkR 0x50#7 10#4 0#7 a b]
  | .warpPromotion .. => []
  | .loadReturn .. => []
  | .storePerform .. => []
  | .atomicPerform .. => []
  | .fenceComplete .. => []
  | .mwaitReread .. => []
  | .mwaitTimeout .. => []
  | .leaseGrant .. => []
  | .leaseExpiry .. => []
  | .sendmAccept .. => []
  | .countedOpComplete .. => []
  | .ringNotify .. => []
  | .ringEntryTake .. => []
  | .ringCopyComplete .. => []
  | .streamEntryProduce .. => []
  | .doorbellWrite .. => []
  | .tidemarkScan .. => []
  | .commandLaunch .. => []
  | .commandMark .. => []
  | .journalTruncate .. => []
  | .taskDispatch .. => []
  | .blockPlace .. => []
  | .doneEventPost .. => []
  | .taskComplete .. => []
  | .quantumEnd .. => []
  | .forcedSaveTimeout .. => []
  | .blockSave .. => []
  | .blockRestore .. => []
  | .worldLatchDrained .. => []
  | .schedRecordWrite .. => []
  | .memoryRecordWrite .. => []
  | .isolationRecordWrite .. => []
  | .queueTableWrite .. => []
  | .hostRegionAdd .. => []
  | .hostRegionRemove .. => []
  | .tenantCreate .. => []
  | .worldCreate .. => []
  | .rosterWrite .. => []
  | .admissionCheck .. => []
  | .admissionRetire .. => []
  | .keySlotAssign .. => []
  | .keySlotFlushed .. => []
  | .keyDestroy .. => []
  | .linkRekey .. => []
  | .flitAuthFail .. => []
  | .hostAccess .. => []
  | .jtagAccess .. => []
  | .debugContinue .. => []
  | .traceRecord .. => []
  | .erasureRequest .. => []
  | .erasureStepComplete .. => []
  | .trapRecordWrite .. => []
  | .blockKill .. => []
  | .blockRollback .. => []
  | .correctableError .. => []
  | .cleanLineError .. => []
  | .stateError .. => []
  | .memoryLineError .. => []
  | .typeEntryError .. => []
  | .journalRecordError .. => []
  | .coreFail .. => []
  | .schedulerRebuild .. => []
  | .headlandError .. => []
  | .headlandHeartbeat .. => []
  | .leaderLapse => []
  | .tidemarkErrorStop .. => []
  | .tidemarkTakeover .. => []
  | .tidemarkRestart .. => []
  | .auditReplay .. => []
  | .auditEnd .. => []
  | .laneLoss .. => []
  | .linkRetrainComplete .. => []
  | .packetSend .. => []
  | .packetReceive .. => []
  | .ackSend .. => []
  | .ackReceive .. => []
  | .linkRecordWrite .. => []
  | .droopDetect .. => []
  | .droopStepDown .. => []
  | .droopRecover .. => []
  | .orderlyStop .. => []
  | .islandCap .. => []
  | .islandUncap .. => []
  | .powerLimitWrite .. => []
  | .reset => []
  | .lifecycleChange .. => []
  | .powerUp .. => []
  | .bringupStepComplete .. => []
  | .transportFlagSet => []
  | .selfTestComplete .. => []
  | .pmonSelectWrite .. => []
  | .histogramControlWrite .. => []
  | .histogramClear .. => []
  | .histogramSample .. => []
  | .unsupportedRequest .. => []
  | .tidemarkStandbyError .. => []
  | .monitorCoreFailure .. => []
  | .spdmRequest .. => []

/-- The instruction that the decoder reads from the bits `w`, numbered from bit 0 of the first word:
the first word is bits 31:0, and a second word, behind a prefix, bits 63:32. -/
noncomputable def decodeTableWord (nbits w : Nat) : Option Instr :=
  match nbits with
  | 0 => none
  | _ =>
    match decode [BitVec.ofNat 32 (w % 4294967296), BitVec.ofNat 32 (w / 4294967296 % 4294967296)] with
    | .ok r => some r.1
    | .error _ => none

end Sys2Proof
end

