-- ==== Sys2Proof/Machine/Clause.lean ====
section
/-! DEFINITION. The clause header: what its clause waits for, the checks of the whole clause, and its issue
(R37 to R42, R47, R49, R50, R151, R166, R173, R226, R242). -/

namespace Sys2Proof.Machine

/-! ### The words of a clause -/

/-- A word of a clause: its offset, whether a prefix stands before it, and what it decodes to. -/
structure CWord where
  off : Nat
  pre : Bool
  /-- the prefix itself raises a fault, whatever the minor and the fields of the word are (R44, R46) -/
  badPre : Bool
  res : Except DecodeError Instr

/-- The prefix word `w` before the word `v` raises a fault by itself (R44, R46). -/
def badPrefix (w v : Word) : Bool := prefixBreach (decPrefix w) (fmaj v)

/-- The `n` words of an overlay from `off` on, a prefix with its word (R37, R44). -/
noncomputable def clauseWords (x : Slot) (off : Nat) : Nat → List CWord
  | 0 => []
  | 1 =>
    if fmaj (wordAt x off) == 0x7E#7 then [⟨off + 1, true, badPrefix (wordAt x off) 0, .error .strayPrefix⟩]
    else [⟨off, false, false, (decode [wordAt x off]).map Prod.fst⟩]
  | n + 2 =>
    if fmaj (wordAt x off) == 0x7E#7 then
      ⟨off + 1, true, badPrefix (wordAt x off) (wordAt x (off + 1)), (decode [wordAt x off, wordAt x (off + 1)]).map Prod.fst⟩ ::
        clauseWords x (off + 2) n
    else ⟨off, false, false, (decode [wordAt x off]).map Prod.fst⟩ :: clauseWords x (off + 1) (n + 1)

/-- Words that must end their clause (R42, R173). -/
def endsClause : Instr → Bool
  | .br _ _ _ => true
  | .call _ => true
  | .brx _ _ => true
  | .callx _ _ => true
  | .ret _ => true
  | .exit _ => true
  | .yield _ => true
  | .syscall _ _ => true
  | .trap _ _ => true
  | .bkpt _ => true
  | .ovcall _ _ => true
  | .ovjmp _ _ => true
  | .ovret _ => true
  | .eret _ => true
  | .barw => true
  | .barb _ => true
  | .barc _ => true
  | .barg _ => true
  | .wbarb _ _ => true
  | .wbarc _ _ => true
  | .wbarg _ _ => true
  | _ => false

def isRcv : Instr → Bool
  | .rcv _ => true
  | _ => false

def isBranch : Instr → Bool
  | .br _ _ _ => true
  | _ => false

def isHeaderInstr : Instr → Bool
  | .clause _ _ _ _ => true
  | _ => false

/-- The counter and bound of a `CWAIT` (R246). -/
def cwaitOf : Instr → Option (Nat × Nat)
  | .cwait _ a i => some (a.toNat, i.toNat)
  | _ => none

/-- The instruction of a word that decodes. -/
def CWord.instr (c : CWord) : Option Instr :=
  match c.res with
  | .ok i => some i
  | .error _ => none

/-- The queues that a word pops, in order (R47, R243). A word that step 1 or 2 of R49 refuses pops nothing
(assumption 18). -/
def popsOf (i : Instr) : List Nat :=
  if (illegal i).isSome then []
  else
    (match form i with
      | some f => queueOpds f
      | none => []) ++
    (match i with
      | .qpop _ _ a => [a.toNat]
      | _ => [])

/-- The queues that words pop. -/
def popsIn (l : List CWord) : List Nat := l.flatMap fun c => (c.instr.map popsOf).getD []

/-- The placement rules of a clause for a word: `before` and `after` it stand the others (R42, R166, R226). -/
def misplaced (i : Instr) (before after : List CWord) : Bool :=
  isHeaderInstr i || (endsClause i && !after.isEmpty) || ((cwaitOf i).isSome && !before.isEmpty) ||
    (isRcv i && (before.any (fun c => (c.instr.map isRcv).getD false) ||
      !((after.getLast?.bind CWord.instr).map isBranch).getD false))

/-- A decoding refusal that lies in the prefix word (R44, R46; assumption 7). -/
def errAtPrefix : DecodeError → Bool
  | .prefixZeroBits => true
  | .prefixRefused => true
  | .strayPrefix => true
  | .nonzeroField i => (illegal i).any whyAtPrefix
  | _ => false

/-- Queue `q` can still receive entries (R242). -/
def queueFills (w : Warp) (q : Nat) : Bool := q == 7 || (Tbl.get Stream.blank w.streams q).active

/-- Queues that run out at a word, the words before it having popped `earlier` (R242). -/
def queueShort (w : Warp) (earlier here : List Nat) : Option Nat :=
  here.find? fun q => !queueFills w q && decide ((queueOf w q).length < (earlier ++ here).count q)

/-- A fault of the clause: at which offset, and what. -/
structure ClauseFault where
  off : Nat
  cause : Nat
  reg : Option Nat
  /-- an operand fault reports the queue (assumption 10) -/
  queue : Option Nat

/-- The checks of R49, and of R242, on one word of a clause. -/
noncomputable def checkCWord (s : State) (wb : Nat) (before : List CWord) (c : CWord) (after : List CWord) :
    Option ClauseFault :=
  match c.res with
  | .error e => some ⟨if c.pre && (errAtPrefix e || c.badPre) then c.off - 1 else c.off, 1, none, none⟩
  | .ok i =>
    match illegal i with
    | some y => some ⟨if whyAtPrefix y then c.off - 1 else c.off, 1, none, none⟩
    | none =>
      if misplaced i before after then some ⟨c.off, 1, none, none⟩
      else
        match wordFault i s wb with
        | some f => some ⟨c.off, f.cause, f.reg, none⟩
        | none => (queueShort (curWarp s) (popsIn before) (popsOf i)).map fun q => ⟨c.off, 15, none, some q⟩

/-- The lowest faulting word of a clause (R49, R50). -/
noncomputable def checkCWords (s : State) (wb : Nat) (before : List CWord) : List CWord → Option ClauseFault
  | [] => none
  | c :: cs =>
    match checkCWord s wb before c cs with
    | some f => some f
    | none => checkCWords s wb (before ++ [c]) cs

/-- The trap of a clause fault (R50, R313). -/
def takeClauseFault (s : State) (f : ClauseFault) : State :=
  let off := BitVec.ofNat 16 f.off
  takeTrapAt s off f.cause noLane
    (match f.reg, f.queue with
      | some r, _ => BitVec.ofNat 64 r
      | none, some q => BitVec.ofNat 64 q
      | none, none => (codeWord s off).setWidth 64) 0

/-! ### Waits (R38, R39, R226) -/

/-- Counter classes to which a word may count: those that its class may be by its operands (R224; assumption 11). -/
def countsIn : Instr → List Nat
  | .gath _ _ => [0, 2]
  | .scat _ _ => [0, 2]
  | .ovld _ _ _ => [1]
  | .mcopy _ _ _ _ => [3, 2]
  | .mzero _ _ _ => [3]
  | .minv _ _ _ => [3]
  | _ => []

/-- The waits of a clause are met. -/
def clauseReady (w : Warp) (x : Entry) (mask : BitVec 12) (l : List CWord) : Bool :=
  let pops := popsIn l
  let counts := l.flatMap fun c => (c.instr.map countsIn).getD []
  ((List.range 12).all fun i => !mask.getLsbD i || flagCount w i == 0) && !holdsOpen w x &&
    ((List.range 8).all fun q => !queueFills w q || decide (pops.count q ≤ (queueOf w q).length)) &&
    ((List.range 4).all fun c => decide (counterOf w c + counts.count c ≤ 63)) &&
    (match (l.head?.bind CWord.instr).bind cwaitOf with
      | some (c, n) => decide (counterOf w c ≤ n)
      | none => true)

/-! ### Issue -/

/-- How many words of a class a clause holds. -/
def classCount (l : List CWord) (c : Cls) : Nat :=
  (l.filter fun x => (x.instr.map fun i => clsOf i == c).getD false).length

/-- The clause issues: flags A and B are set for its long-latency words, the window base is fixed, and its words
follow one by one (R34, R39). It is a use of the slot that holds its header (R162; assumption 80). -/
def issueClause (s : State) (a b : BitVec 4) (n : Nat) (l : List CWord) : State :=
  let w := curWarp s
  let x := curEntry s
  let na := classCount l .a
  let nb := classCount l .b
  let w1 := flagAdd (flagAdd { w with promoted := false } a na) b nb
  let w2 := setEntry w1 s.frag { x with
    left := n, flagA := a, flagB := b, remA := na, remB := nb, wb := w.ctl.wb, rcv := none, holds := []
    readyAt := s.stamp + 1, aside := false, fresh := false }
  let sid := storeOf s.cur w
  let i := refSlot x.pc + x.here.toNat / 4096
  setSlots (countFor (setCur { s with stamp := s.stamp + 1 } w2) s.cur 1 1) sid
    (Tbl.set (slotsOf s sid) i { slotAt (slotsOf s sid) i with used := s.stamp + 1 })

/-- A clause header (R38): a warp that halts, a fragment that reaches an offset, a clause that waits, one that
faults, or one that issues. -/
noncomputable def execClause (w : BitVec 12) (a b : BitVec 4) (l : BitVec 5) (s : State) : Result :=
  let x := curEntry s
  let v := curWarp s
  let back := setFrag s { x with pc := refAt x.pc x.here }
  .next (
    if x.state ≠ .leaf ∨ mayRun v = false then back
    else if v.status = .halting ∧ fullReconv v then setCur back (haltWarp (curWarp back))
    else
      match reach (curWarp back) s.stamp s.frag with
      | some v' => setCur back v'
      | none =>
        let n := l.toNat + 1
        let ws := clauseWords (curSlot s) (x.here.toNat + 1) n
        if clauseReady v x w ws = false then back
        else
          match illegal (.clause w a b l) with
          | some _ => takeClauseFault s ⟨x.here.toNat, 1, none, none⟩
          | none =>
            match checkCWords s v.ctl.wb.toNat [] ws with
            | some f => takeClauseFault s f
            | none => issueClause s a b n ws)

end Sys2Proof.Machine
end

