-- ==== Sys2Proof/Machine/VecLogic.lean ====
section
/-! DEFINITION. Vector logic words (R84 to R86). -/

namespace Sys2Proof.Machine

/-- The number of one bits. -/
def popCount {n : Nat} (x : BitVec n) : Nat := (List.range n).countP fun i => x.getLsbD i

/-- Position and length of a field (R85). -/
def bfPos (b : Word) : Nat := (b.extractLsb' 0 5).toNat
def bfLen (b : Word) : Nat := min (b.extractLsb' 8 6).toNat (32 - bfPos b)

/-- Ones in the low `n` bits. -/
def lowOnes (n : Nat) : Word := BitVec.ofNat 32 (2 ^ n - 1)

/-- The field of `x` (R85). -/
def bfExtract (x b : Word) : Word := (x >>> bfPos b) &&& lowOnes (bfLen b)

/-- `c` with the field replaced by the low bits of `x` (R85). -/
def bfInsert (x b c : Word) : Word :=
  let m := lowOnes (bfLen b) <<< bfPos b
  (c &&& ~~~ m) ||| ((x <<< bfPos b) &&& m)

/-- Bitwise AND (R85). -/
def execAnd (p : Option Prefix) (d a b : BitVec 7) (s : State) : Result :=
  vword (.and p d a b) s fun s => vec2 s p d a b fun x y => x &&& y
/-- Bitwise OR (R85). -/
def execOr (p : Option Prefix) (d a b : BitVec 7) (s : State) : Result :=
  vword (.or p d a b) s fun s => vec2 s p d a b fun x y => x ||| y
/-- Bitwise XOR (R85). -/
def execXor (p : Option Prefix) (d a b : BitVec 7) (s : State) : Result :=
  vword (.xor p d a b) s fun s => vec2 s p d a b fun x y => x ^^^ y
/-- `a` AND NOT `b` (R85). -/
def execAndn (p : Option Prefix) (d a b : BitVec 7) (s : State) : Result :=
  vword (.andn p d a b) s fun s => vec2 s p d a b fun x y => x &&& ~~~ y
/-- Bitwise complement (R85). -/
def execNot (p : Option Prefix) (d a : BitVec 7) (s : State) : Result :=
  vword (.not p d a) s fun s => vec1 s p d a fun x => ~~~ x
/-- A left shift by the lane's count (R84). -/
def execShl (p : Option Prefix) (d a b : BitVec 7) (s : State) : Result :=
  vword (.shl p d a b) s fun s => vec2 s p d a b fun x y => shl32 x (shiftCount y)
/-- A logical right shift by the lane's count (R84). -/
def execShr (p : Option Prefix) (d a b : BitVec 7) (s : State) : Result :=
  vword (.shr p d a b) s fun s => vec2 s p d a b fun x y => shr32 x (shiftCount y)
/-- An arithmetic right shift by the lane's count (R84). -/
def execSra (p : Option Prefix) (d a b : BitVec 7) (s : State) : Result :=
  vword (.sra p d a b) s fun s => vec2 s p d a b fun x y => sra32 x (shiftCount y)
/-- A left rotation by the lane's count modulo 32 (R84). -/
def execRol (p : Option Prefix) (d a b : BitVec 7) (s : State) : Result :=
  vword (.rol p d a b) s fun s => vec2 s p d a b fun x y => rol32 x (shiftCount y)
/-- The number of one bits (R85). -/
def execPopc (p : Option Prefix) (d a : BitVec 7) (s : State) : Result :=
  vword (.popc p d a) s fun s => vec1 s p d a fun x => BitVec.ofNat 32 (popCount x)
/-- The number of leading zeros; 32 for zero (R85). -/
def execClz (p : Option Prefix) (d a : BitVec 7) (s : State) : Result :=
  vword (.clz p d a) s fun s => vec1 s p d a fun x => x.clz
/-- The bits reversed (R85). -/
def execBrev (p : Option Prefix) (d a : BitVec 7) (s : State) : Result :=
  vword (.brev p d a) s fun s => vec1 s p d a fun x => x.reverse
/-- An unsigned bit field (R85). -/
def execBfe (p : Option Prefix) (d a b : BitVec 7) (s : State) : Result :=
  vword (.bfe p d a b) s fun s => vec2 s p d a b bfExtract
/-- A bit field inserted into the addend (R85). -/
def execBfi (p : Option Prefix) (d a b : BitVec 7) (s : State) : Result :=
  vword (.bfi p d a b) s fun s => vec3 s p d a b bfInsert
/-- A copy (R85). -/
def execMov (p : Option Prefix) (d a : BitVec 7) (s : State) : Result :=
  vword (.mov p d a) s fun s => vec1 s p d a fun x => x
/-- Every lane of `EXEC` takes `a` where the prefix mask is set, else `b` (R86). -/
def execSel (p : Option Prefix) (d a b : BitVec 7) (s : State) : Result :=
  vword (.sel p d a b) s fun s =>
    writeLanes s (regD s p d) (execMask s) 0 fun l =>
      if (readK s (pfx p).k.toNat).getLsbD l then srcA s p a l else srcB s p b l

end Sys2Proof.Machine
end

