-- ==== Sys2Proof/Machine/Compare.lean ====
section
/-! DEFINITION. Compares and mask words (R89 to R93). -/

namespace Sys2Proof.Machine

/-- The new bit of a mask in an active lane (R52, R89): set, AND, OR. -/
def combine (mode : BitVec 2) (old t : Dword) : Dword :=
  match mode.toNat with
  | 0 => t
  | 1 => old &&& t
  | _ => old ||| t

/-- A compare writes mask `d` (R89): active lanes combine; zeroed lanes clear when the mode is set. -/
def compareWord (s : State) (p : Option Prefix) (c : BitVec 2) (d : BitVec 3) (t : Nat → Bool) : State :=
  let act := activeMask s (pfx p)
  let zer := if c = 0#2 then zeroMask s (pfx p) else 0
  let old := readK s d.toNat
  writeK s d.toNat ((combine c old (maskOf (curWarp s) t) &&& act) ||| (old &&& ~~~ act &&& ~~~ zer))

/-- An integer compare: no flag (R89). -/
def icmp (s : State) (p : Option Prefix) (c : BitVec 2) (d : BitVec 3) (a b : BitVec 7) (t : Word → Word → Bool) :
    State :=
  compareWord s p c d fun l => t (srcA s p a l) (srcB s p b l)

/-- A binary32 compare with its NV rule: a signalling NaN, or any NaN (R90). -/
def fcmp (s : State) (p : Option Prefix) (c : BitVec 2) (d : BitVec 3) (a b : BitVec 7) (anyNan : Bool)
    (t : Fp → Fp → Bool) : State :=
  let x (l : Nat) : Fp := unpack binary32 (srcA s p a l).toNat
  let y (l : Nat) : Fp := unpack binary32 (srcB s p b l).toNat
  let fl (l : Nat) : Flags :=
    if anyNan then flagIf ((x l).isNan || (y l).isNan) flagNV else snanFlags [x l, y l]
  mergeFlags (compareWord s p c d fun l => t (x l) (y l))
    (laneFlags (activeMask s (pfx p)) fl (lanesOf (curWarp s)))

/-- Equality (R89). -/
def execIcmpEq (p : Option Prefix) (c : BitVec 2) (d : BitVec 3) (a b : BitVec 7) (s : State) : Result :=
  vword (.icmpEq p c d a b) s fun s => icmp s p c d a b fun x y => x == y
/-- Inequality (R89). -/
def execIcmpNe (p : Option Prefix) (c : BitVec 2) (d : BitVec 3) (a b : BitVec 7) (s : State) : Result :=
  vword (.icmpNe p c d a b) s fun s => icmp s p c d a b fun x y => x != y
/-- Signed less-than (R89). -/
def execIcmpLt (p : Option Prefix) (c : BitVec 2) (d : BitVec 3) (a b : BitVec 7) (s : State) : Result :=
  vword (.icmpLt p c d a b) s fun s => icmp s p c d a b fun x y => x.slt y
/-- Signed less-or-equal (R89). -/
def execIcmpLe (p : Option Prefix) (c : BitVec 2) (d : BitVec 3) (a b : BitVec 7) (s : State) : Result :=
  vword (.icmpLe p c d a b) s fun s => icmp s p c d a b fun x y => x.sle y
/-- Signed greater-than (R89). -/
def execIcmpGt (p : Option Prefix) (c : BitVec 2) (d : BitVec 3) (a b : BitVec 7) (s : State) : Result :=
  vword (.icmpGt p c d a b) s fun s => icmp s p c d a b fun x y => y.slt x
/-- Signed greater-or-equal (R89). -/
def execIcmpGe (p : Option Prefix) (c : BitVec 2) (d : BitVec 3) (a b : BitVec 7) (s : State) : Result :=
  vword (.icmpGe p c d a b) s fun s => icmp s p c d a b fun x y => y.sle x
/-- Unsigned less-than (R89). -/
def execIcmpLtu (p : Option Prefix) (c : BitVec 2) (d : BitVec 3) (a b : BitVec 7) (s : State) : Result :=
  vword (.icmpLtu p c d a b) s fun s => icmp s p c d a b fun x y => x.ult y
/-- Unsigned less-or-equal (R89). -/
def execIcmpLeu (p : Option Prefix) (c : BitVec 2) (d : BitVec 3) (a b : BitVec 7) (s : State) : Result :=
  vword (.icmpLeu p c d a b) s fun s => icmp s p c d a b fun x y => x.ule y
/-- Unsigned greater-than (R89). -/
def execIcmpGtu (p : Option Prefix) (c : BitVec 2) (d : BitVec 3) (a b : BitVec 7) (s : State) : Result :=
  vword (.icmpGtu p c d a b) s fun s => icmp s p c d a b fun x y => y.ult x
/-- Unsigned greater-or-equal (R89). -/
def execIcmpGeu (p : Option Prefix) (c : BitVec 2) (d : BitVec 3) (a b : BitVec 7) (s : State) : Result :=
  vword (.icmpGeu p c d a b) s fun s => icmp s p c d a b fun x y => y.ule x

/-- Equality; false when unordered (R90). -/
def execFcmpEq (p : Option Prefix) (c : BitVec 2) (d : BitVec 3) (a b : BitVec 7) (s : State) : Result :=
  vword (.fcmpEq p c d a b) s fun s => fcmp s p c d a b false fun x y => eqFp x y
/-- Inequality; true when unordered (R90). -/
def execFcmpNe (p : Option Prefix) (c : BitVec 2) (d : BitVec 3) (a b : BitVec 7) (s : State) : Result :=
  vword (.fcmpNe p c d a b) s fun s => fcmp s p c d a b false fun x y => !eqFp x y
/-- Less-than; NV for any NaN (R90). -/
def execFcmpLt (p : Option Prefix) (c : BitVec 2) (d : BitVec 3) (a b : BitVec 7) (s : State) : Result :=
  vword (.fcmpLt p c d a b) s fun s => fcmp s p c d a b true fun x y => ltFp x y
/-- Less-or-equal; NV for any NaN (R90). -/
def execFcmpLe (p : Option Prefix) (c : BitVec 2) (d : BitVec 3) (a b : BitVec 7) (s : State) : Result :=
  vword (.fcmpLe p c d a b) s fun s => fcmp s p c d a b true fun x y => ltFp x y || eqFp x y
/-- Greater-than; NV for any NaN (R90). -/
def execFcmpGt (p : Option Prefix) (c : BitVec 2) (d : BitVec 3) (a b : BitVec 7) (s : State) : Result :=
  vword (.fcmpGt p c d a b) s fun s => fcmp s p c d a b true fun x y => ltFp y x
/-- Greater-or-equal; NV for any NaN (R90). -/
def execFcmpGe (p : Option Prefix) (c : BitVec 2) (d : BitVec 3) (a b : BitVec 7) (s : State) : Result :=
  vword (.fcmpGe p c d a b) s fun s => fcmp s p c d a b true fun x y => ltFp y x || eqFp x y
/-- Neither operand is a NaN (R90). -/
def execFcmpOrd (p : Option Prefix) (c : BitVec 2) (d : BitVec 3) (a b : BitVec 7) (s : State) : Result :=
  vword (.fcmpOrd p c d a b) s fun s => fcmp s p c d a b false fun x y => !(x.isNan || y.isNan)
/-- An operand is a NaN (R90). -/
def execFcmpUno (p : Option Prefix) (c : BitVec 2) (d : BitVec 3) (a b : BitVec 7) (s : State) : Result :=
  vword (.fcmpUno p c d a b) s fun s => fcmp s p c d a b false fun x y => x.isNan || y.isNan

/-! ### Masks (R91 to R93) -/

/-- A mask result on the lanes of `EXEC` (R92). -/
def kput (s : State) (d : BitVec 3) (v : Dword) : State := putMask s d.toNat (execMask s) v

/-- The lowest one bit, or all ones (R92). -/
def lowestOne (x : Dword) : Word :=
  match (List.range 64).find? fun l => x.getLsbD l with
  | some l => BitVec.ofNat 32 l
  | none => 0xFFFFFFFF

/-- AND of two masks (R92). -/
def execKand (p : Option Prefix) (d a b : BitVec 3) (s : State) : Result :=
  word (.kand p d a b) s fun s => kput s d (readK s a.toNat &&& readK s b.toNat)
/-- OR of two masks (R92). -/
def execKor (p : Option Prefix) (d a b : BitVec 3) (s : State) : Result :=
  word (.kor p d a b) s fun s => kput s d (readK s a.toNat ||| readK s b.toNat)
/-- XOR of two masks (R92). -/
def execKxor (p : Option Prefix) (d a b : BitVec 3) (s : State) : Result :=
  word (.kxor p d a b) s fun s => kput s d (readK s a.toNat ^^^ readK s b.toNat)
/-- `a` AND NOT `b` (R92). -/
def execKandn (p : Option Prefix) (d a b : BitVec 3) (s : State) : Result :=
  word (.kandn p d a b) s fun s => kput s d (readK s a.toNat &&& ~~~ readK s b.toNat)
/-- The complement (R92). -/
def execKnot (p : Option Prefix) (d a : BitVec 3) (s : State) : Result :=
  word (.knot p d a) s fun s => kput s d (~~~ readK s a.toNat)
/-- A copy (R92). -/
def execKmov (p : Option Prefix) (d a : BitVec 3) (s : State) : Result :=
  word (.kmov p d a) s fun s => kput s d (readK s a.toNat)
/-- All 64 bits of a mask in a pair (R92). -/
def execKtos (p : Option Prefix) (d : BitVec 7) (a : BitVec 3) (s : State) : Result :=
  word (.ktos p d a) s fun s => writeP s (numD p d) (readK s a.toNat)
/-- A pair in a mask (R92). -/
def execStok (p : Option Prefix) (d : BitVec 3) (a : BitVec 7) (s : State) : Result :=
  word (.stok p d a) s fun s => kput s d (pairA s p a)
/-- The one bits of a mask in `EXEC` (R92). -/
def execKpopc (p : Option Prefix) (d : BitVec 7) (a : BitVec 3) (s : State) : Result :=
  word (.kpopc p d a) s fun s =>
    writeS s (numD p d) (BitVec.ofNat 32 (popCount (readK s a.toNat &&& execMask s)))
/-- The lowest lane of a mask in `EXEC` (R92). -/
def execKffs (p : Option Prefix) (d : BitVec 7) (a : BitVec 3) (s : State) : Result :=
  word (.kffs p d a) s fun s => writeS s (numD p d) (lowestOne (readK s a.toNat &&& execMask s))
/-- `EXEC` in a pair (R92). -/
def execXrd (p : Option Prefix) (d : BitVec 7) (s : State) : Result :=
  word (.xrd p d) s fun s => writeP s (numD p d) (execMask s)
/-- `EXEC` from a pair, restricted to the owned lanes (R93). -/
def execXwr (p : Option Prefix) (a : BitVec 7) (s : State) : Result :=
  word (.xwr p a) s fun s =>
    setFrag s { curEntry s with exec := pairA s p a &&& (curEntry s).owned }
/-- Ones in the lanes from one scalar to another (R92). -/
def execKset (p : Option Prefix) (d : BitVec 3) (a b : BitVec 7) (s : State) : Result :=
  word (.kset p d a b) s fun s =>
    kput s d (maskOf (curWarp s) fun l =>
      decide ((scaA s p a).toNat ≤ l ∧ l < (scaB s p b).toNat))

end Sys2Proof.Machine
end

