-- ==== Sys2Proof/Machine/SpecialFn.lean ====
section
/-! DEFINITION. Special functions: class A words whose results arrive later (R77, R97). -/

namespace Sys2Proof.Machine

/-- The results of a special function by lane, and their flags over the active lanes; an open value takes its
own draw (assumption 1). -/
def specLane (g : Spec) (draw : Nat) (x : Word) (l : Nat) : Word × Flags :=
  if specOpen g x then
    let v := openUnit (Config.freeValue (draw + l))
    (v, openFlags v)
  else special g x

/-- A special function issues (R39, R97): its value is fixed here and arrives by `SPECIAL_FUNCTION_RESULT`. -/
def specWord (s : State) (p : Option Prefix) (d a : BitVec 7) (g : Spec) : State :=
  let act := activeMask s (pfx p)
  let w := curWarp s
  let r (l : Nat) : Word × Flags := specLane g s.freeCtr (srcA s p a l) l
  let o := { newOp s (.special (regD s p d)) with
    active := act, zeroed := zeroMask s (pfx p), vals := (lanesOf w).map fun l => (r l).1
    flags := laneFlags act (fun l => (r l).2) (lanesOf w) }
  let s' := if (lanesOf w).any fun l => act.getLsbD l && specOpen g (srcA s p a l) then
      { s with freeCtr := s.freeCtr + w.width } else s
  pushOp s' .a false o

/-- The reciprocal (R97). -/
def execFrcp (p : Option Prefix) (d a : BitVec 7) (s : State) : Result :=
  vword (.frcp p d a) s fun s => specWord s p d a .rcp
/-- The reciprocal square root (R97). -/
def execFrsq (p : Option Prefix) (d a : BitVec 7) (s : State) : Result :=
  vword (.frsq p d a) s fun s => specWord s p d a .rsq
/-- The square root (R97). -/
def execFsqrt (p : Option Prefix) (d a : BitVec 7) (s : State) : Result :=
  vword (.fsqrt p d a) s fun s => specWord s p d a .sqrt
/-- Two to the operand (R97). -/
def execFexp2 (p : Option Prefix) (d a : BitVec 7) (s : State) : Result :=
  vword (.fexp2 p d a) s fun s => specWord s p d a .exp2
/-- The base-2 logarithm (R97). -/
def execFlog2 (p : Option Prefix) (d a : BitVec 7) (s : State) : Result :=
  vword (.flog2 p d a) s fun s => specWord s p d a .log2
/-- The sine; open in [−1, 1] above 2^20 (R77, R97). -/
def execFsin (p : Option Prefix) (d a : BitVec 7) (s : State) : Result :=
  vword (.fsin p d a) s fun s => specWord s p d a .sin
/-- The cosine; open in [−1, 1] above 2^20 (R77, R97). -/
def execFcos (p : Option Prefix) (d a : BitVec 7) (s : State) : Result :=
  vword (.fcos p d a) s fun s => specWord s p d a .cos
/-- The hyperbolic tangent (R97). -/
def execFtanh (p : Option Prefix) (d a : BitVec 7) (s : State) : Result :=
  vword (.ftanh p d a) s fun s => specWord s p d a .tanh

/-- A special function's result arrives: its lanes, its flags, its flag A (R39, R65, R97). -/
def specialArrives (s : State) (o : PendOp) (d : Nat) : State :=
  let s1 := writeLanes s d o.active o.zeroed fun l => o.vals.getD l 0
  let s2 := mergeFlags s1 o.flags
  retireOp s2 s2.cur o

/-- A special function's result arrives (R97). -/
def execSpecialFunctionResult (w op : Nat) (s : State) : Result :=
  .next (withOp s w op fun o => match o.kind with
    | .special d => specialArrives (asWarp s w o.frag) o d
    | _ => s)

end Sys2Proof.Machine
end

