-- ==== Sys2Proof/Machine/CrossLane.lean ====
section
/-! DEFINITION. Cross-lane words, neighbour links and byte words (R104 to R109). -/

namespace Sys2Proof.Machine

/-- A shuffle with a source lane for each lane (R104). -/
def shuffle (s : State) (p : Option Prefix) (d a : BitVec 7) (src : Nat → Nat) : State :=
  putVec s p d fun l => srcA s p a (src l)

/-- The lane named by each lane of `b` (R104). -/
def execShfl (p : Option Prefix) (d a b : BitVec 7) (s : State) : Result :=
  vword (.shfl p d a b) s fun s =>
    shuffle s p d a fun l => (srcB s p b l).toNat % (curWarp s).width
/-- The lane given by XOR with a scalar (R104). -/
def execShflx (p : Option Prefix) (d a b : BitVec 7) (s : State) : Result :=
  vword (.shflx p d a b) s fun s =>
    shuffle s p d a fun l => Nat.xor l ((scaB s p b).toNat % (curWarp s).width)
/-- The lane a scalar distance below, or itself (R104). -/
def execShflu (p : Option Prefix) (d a b : BitVec 7) (s : State) : Result :=
  vword (.shflu p d a b) s fun s =>
    shuffle s p d a fun l => if l < (scaB s p b).toNat then l else l - (scaB s p b).toNat
/-- The lane a scalar distance above, or itself (R104). -/
def execShfld (p : Option Prefix) (d a b : BitVec 7) (s : State) : Result :=
  vword (.shfld p d a b) s fun s =>
    shuffle s p d a fun l =>
      if (curWarp s).width ≤ l + (scaB s p b).toNat then l else l + (scaB s p b).toNat

/-! ### Neighbour links (R105 to R107) -/

/-- A neighbour word issues: its source row is read, its latches later (R106). -/
def neighbourWord (s : State) (p : Option Prefix) (d a : BitVec 7) (which : Nat) : State :=
  pushOp s .a false { newOp s (.neighbour which (regD s p d)) with
    active := activeMask s (pfx p), zeroed := zeroMask s (pfx p)
    vals := (lanesOf (curWarp s)).map (srcA s p a) }

/-- A read of the lower neighbour lane starts (R106). -/
def execNbl (p : Option Prefix) (d a : BitVec 7) (s : State) : Result :=
  vword (.nbl p d a) s fun s => neighbourWord s p d a 0
/-- A read of the upper neighbour lane starts (R106). -/
def execNbr (p : Option Prefix) (d a : BitVec 7) (s : State) : Result :=
  vword (.nbr p d a) s fun s => neighbourWord s p d a 1
/-- A swap of lane pairs and the writes of the neighbours' latches start (R106). -/
def execNbx (p : Option Prefix) (d a : BitVec 7) (s : State) : Result :=
  vword (.nbx p d a) s fun s => neighbourWord s p d a 2

/-- A latch as a row of the warp's width. -/
def latchRow (w : Warp) (t : Tbl Word) : List Word := (lanesOf w).map (Tbl.get 0 t)

/-- A row as a latch, trailing zeros and all. -/
def rowTbl (l : List Word) : Tbl Word := (List.range l.length).zip l

/-- A latch of warp `k` takes a row: `right` says which, and the undo log takes it at its first write in the
interval (R106, R323). -/
def latchWrite (s : State) (k : Nat) (right : Bool) (row : List Word) : State :=
  let w := warpOf s k
  let n := if right then 1 else 0
  let old := latchRow w (if right then w.edgeR else w.edgeL)
  let b := blockOf s w.blk
  let known := decide (k < 16) || b.overflow || w.llog.any fun e => e.1 == n
  let full := !known && decide (16384 < logBytes s b + 8 + 4 * w.width)
  let w' := if known || full then w else { w with llog := (n, old) :: w.llog }
  setWarp (if full then setBlock s w.blk { b with overflow := true, eligible := false } else s) k
    (if right then { w' with edgeR := rowTbl row } else { w' with edgeL := rowTbl row })

/-- The warp with an index in the block of the current warp, if it still owns latches. -/
def peerWarp (s : State) (i : Nat) : Option Nat :=
  match (curBlock s).warps[i]? with
  | some k => if (warpOf s k).status = .exited ∨ (warpOf s k).status = .absent then none else some k
  | none => none

/-- Latches of the neighbours take the row of an `NBX`, both in one step (R106; assumption 70). -/
def sendLatches (s : State) (row : List Word) : State :=
  let i := (curWarp s).index
  let s1 := match peerWarp s (i + 1) with
    | some k => latchWrite s k false row
    | none => s
  if i = 0 then s1 else match peerWarp s (i - 1) with
    | some k => latchWrite s1 k true row
    | none => s1

/-- A neighbour word completes: latch reads or writes, then its result and its flag A (R106; `NBX` of one lane: assumption 62). -/
def neighbourDone (s : State) (o : PendOp) (which d : Nat) : State :=
  let w := curWarp s
  let s1 := if which = 2 then sendLatches s o.vals else s
  let f (l : Nat) : Word :=
    match which with
    | 0 => if l = 0 then Tbl.get 0 w.edgeL (w.width - 1) else o.vals.getD (l - 1) 0
    | 1 => if l = w.width - 1 then Tbl.get 0 w.edgeR 0 else o.vals.getD (l + 1) 0
    | _ => o.vals.getD (Nat.xor l 1) 0
  let s2 := writeLanes s1 d o.active o.zeroed f
  retireOp s2 s2.cur o

/-- The latches that a neighbour word touches: the warp's left or right one, or those of its neighbours. -/
def latchOf (k : PKind) : Option Nat :=
  match k with
  | .neighbour which _ => some which
  | _ => none

/-- An older neighbour word of the warp on the same latch, before operation `o` in program order, is still pending (R251, R258);
those on other latches are unordered (R252). -/
def olderLatch (w : Warp) (o : PendOp) : Bool :=
  w.pend.any fun q => decide (q.id < o.id) && q.lanes &&& o.lanes != 0 && (latchOf q.kind).isSome && latchOf q.kind == latchOf o.kind

/-- A neighbour word completes once the latch accesses before it, and those before a reconvergence point, are performed (R106, R107,
R253, R258). -/
def execNeighbourLatchComplete (w op : Nat) (s : State) : Result :=
  .next (withOp s w op fun o => match o.kind with
    | .neighbour which d =>
      if olderLatch (warpOf s w) o || pointBefore (warpOf s w) op then s else neighbourDone (asWarp s w o.frag) o which d
    | _ => s)

/-! ### Byte words (R108) -/

/-- Byte `i` of a value. -/
def byteOf (x i : Nat) : Nat := x / 2 ^ (8 * i) % 256

/-- A word from its four bytes. -/
def ofBytes (f : Nat → Nat) : Word := BitVec.ofNat 32 (f 0 + 256 * f 1 + 65536 * f 2 + 16777216 * f 3)

/-- Consecutive registers of a lane as one number, low register first (R33). -/
def laneRun (s : State) (r n l : Nat) : Nat := bitString ((List.range n).map fun i => readV s (r + i) l)

/-- Table bytes by the low nibbles of `a` (R108). -/
def execBlut (p : Option Prefix) (d a b : BitVec 7) (s : State) : Result :=
  vword (.blut p d a b) s fun s =>
    putVec s p d fun l =>
      let t := laneRun s (regB s p b) 4 l
      ofBytes fun i => byteOf t (byteOf (srcA s p a l).toNat i % 16)
/-- Table bytes by the high nibbles of `a` (R108). -/
def execBluth (p : Option Prefix) (d a b : BitVec 7) (s : State) : Result :=
  vword (.bluth p d a b) s fun s =>
    putVec s p d fun l =>
      let t := laneRun s (regB s p b) 4 l
      ofBytes fun i => byteOf t (byteOf (srcA s p a l).toNat i / 16)
/-- Bytes of a pair under a selector (R108). -/
def execBprm (p : Option Prefix) (d a b : BitVec 7) (s : State) : Result :=
  vword (.bprm p d a b) s fun s =>
    putVec s p d fun l =>
      let t := laneRun s (regA s p a) 2 l
      ofBytes fun i =>
        let c := byteOf (srcB s p b l).toNat i
        if 128 ≤ c then 0 else byteOf t (c % 8)

/-! ### Reductions and the scan (R79, R109) -/

/-- A fold over the active lanes in ascending order. -/
def foldLanes (act : Dword) (f : Nat → Word) (g : Word → Word → Word) (z : Word) (ls : List Nat) : Word :=
  ls.foldl (fun r l => if act.getLsbD l then g r (f l) else r) z

/-- A scalar reduction (R109). -/
def reduce (s : State) (p : Option Prefix) (d a : BitVec 7) (g : Word → Word → Word) (z : Word) : State :=
  writeS s (numD p d) (foldLanes (activeMask s (pfx p)) (srcA s p a) g z (lanesOf (curWarp s)))

/-- One level of the tree of `VREDFADD`: both inputs present add, one passes through (R109). -/
def treeLevel (mode : Nat) : List (Option Word) → List (Option Word) × Flags
  | [] => ([], 0)
  | [x] => ([x], 0)
  | x :: y :: t =>
    let r := treeLevel mode t
    match x, y with
    | some u, some v =>
      let q := fadd binary32 mode u.toNat v.toNat
      (some (BitVec.ofNat 32 q.1) :: r.1, q.2 ||| r.2)
    | some u, none => (some u :: r.1, r.2)
    | none, v => (v :: r.1, r.2)

/-- The levels of the tree. -/
def treeSum (mode : Nat) (l : List (Option Word)) : Nat → List (Option Word) × Flags
  | 0 => (l, 0)
  | n + 1 =>
    let r := treeSum mode l n
    let q := treeLevel mode r.1
    (q.1, r.2 ||| q.2)

/-- `VREDFADD` (R109): no active lane gives +0; one gives its bits, a NaN as the default NaN. -/
def redFadd (mode : Nat) (l : List (Option Word)) : Word × Flags :=
  match l.filterMap id with
  | [] => (0, 0)
  | [x] =>
    (match unpack binary32 x.toNat with
      | .nan q => (BitVec.ofNat 32 binary32.nanBits, flagIf q flagNV)
      | _ => (x, 0))
  | _ =>
    let r := treeSum mode l 6
    (((r.1.head?).bind id).getD 0, r.2)

/-- The integer sum of the active lanes (R109). -/
def execVredadd (p : Option Prefix) (d a : BitVec 7) (s : State) : Result :=
  vword (.vredadd p d a) s fun s => reduce s p d a (fun x y => x + y) 0
/-- The signed minimum of the active lanes (R109). -/
def execVredmin (p : Option Prefix) (d a : BitVec 7) (s : State) : Result :=
  vword (.vredmin p d a) s fun s => reduce s p d a smin32 0x7FFFFFFF
/-- The signed maximum of the active lanes (R109). -/
def execVredmax (p : Option Prefix) (d a : BitVec 7) (s : State) : Result :=
  vword (.vredmax p d a) s fun s => reduce s p d a smax32 0x80000000
/-- The binary32 sum of the active lanes in the fixed tree (R79, R109). -/
def execVredfadd (p : Option Prefix) (d a : BitVec 7) (s : State) : Result :=
  vword (.vredfadd p d a) s fun s =>
    let act := activeMask s (pfx p)
    let r := redFadd (modeOf s p) ((lanesOf (curWarp s)).map fun l => if act.getLsbD l then some (srcA s p a l) else none)
    mergeFlags (writeS s (numD p d) r.1) r.2
/-- The inclusive integer sum over the active lanes up to each lane (R109). -/
def execVscan (p : Option Prefix) (d a : BitVec 7) (s : State) : Result :=
  vword (.vscan p d a) s fun s =>
    putVec s p d fun l =>
      foldLanes (activeMask s (pfx p)) (srcA s p a) (fun x y => x + y) 0 (List.range (l + 1))
/-- The lane named by a scalar (R104). -/
def execVbcast (p : Option Prefix) (d a b : BitVec 7) (s : State) : Result :=
  vword (.vbcast p d a b) s fun s => shuffle s p d a fun _ => (scaB s p b).toNat % (curWarp s).width

end Sys2Proof.Machine
end

