-- ==== Sys2Proof/Machine/Erasure.lean ====
section
/-! DEFINITION. The erasure of a tenant, step by step, and its receipt (R295, R296). A step's action stands in the event that
completes the step before it. -/

namespace Sys2Proof.Machine

/-! ### Step 1: the tenant's work stops -/

/-- The tenant's live blocks. -/
def tenantBlocks (s : State) (t : Nat) : List Nat := (s.blocks.filter fun e => isLive e.2 && e.2.tenant == t).map Prod.fst

/-- A block is killed without a record of its own. -/
def killPlain (s : State) (k : Nat) : State := killFinish (killStart s k []) k

/-- The queues of a tenant stop: none is served, and nothing of them is pending. -/
def stopQueues (s : State) (t : Nat) : State :=
  let s1 := { s with
    dies := s.dies.map fun e => (e.1, { e.2 with
      serve := e.2.serve.filter fun q => q.1 != t, audits := e.2.audits.filter fun a => a.tenant != t })
    grids := s.grids.map fun e => (e.1, if e.1 / 2 ^ 32 = t then { e.2 with live := false } else e.2) }
  setTenant s1 t { tenantOf s1 t with pending := [], completed := [], stopped := [], halted := [], marks := [], bells := [] }

/-- Step 1 of R295. -/
def startErasure (s : State) (t : Nat) (nonce : BitVec 256) : State :=
  let s1 := (tenantBlocks s t).foldl killPlain (stopQueues s t)
  let x := tenantOf s1 t
  setTenant s1 t { x with
    created := false, sched := x.sched &&& ~~~ 0xFFFFF#128, erasure := some ⟨1, nonce, x.world.toNat, 0, 0, 0, 0⟩ }

/-- The hypervisor asks for the erasure of a tenant; its work stops (R295). -/
def execErasureRequest (t : Nat) (nonce : BitVec 256) (s : State) : Result :=
  .next <|
    if isTenant t then startErasure s t nonce else reply s (.error t)

/-! ### Step 2: its keys are revoked -/

/-- The key slots of a tenant that are not EMPTY. -/
def tenantKeys (s : State) (t : Nat) : List Nat :=
  (s.keys.filter fun e => e.2.tenant == t && e.2.state != .empty && e.1 != 0).map Prod.fst

def slotBits (l : List Nat) : BitVec 256 := l.foldl (fun m i => m ||| BitVec.ofNat 256 (2 ^ i)) 0

/-! ### Step 4: its frames -/

/-- The frames that a tenant owns. -/
def ownedFrames (s : State) (t : Nat) : List Nat :=
  (s.types.filter fun e => teType e.2 != 0 && teType e.2 != 8 && teOwner e.2 == t).map Prod.fst

/-- The frames that the entries of a table frame of level `n` reference. -/
def tableTargets (s : State) (f n : Nat) : List Nat :=
  (List.range 8192).flatMap fun i => targetsOf n (BitVec.ofNat 64 (s.mem.rd (f * 65536 + 8 * i) 8))

/-- The references of all the tables among some frames. -/
def allTargets (s : State) (l : List Nat) : List Nat :=
  l.flatMap fun f => match tableLevel s (f * 65536) with
    | some n => tableTargets s f n
    | none => []

/-- A frame is zeroed: by the memory-side engine, or by stores to the host. -/
def eraseFrame (s : State) (f : Nat) : State :=
  if isHost (f * 65536) then writeBytes s (f * 65536) (zeros 65536) else zeroFrame s f

/-- What becomes of a zeroed frame: FREE without a count, else SHARED without a grant while another tenant maps it. -/
def releaseFrame (s : State) (f : Nat) : State :=
  let e := typeOf s f
  if teType e = 0 then s
  else if teCount e = 0 then setType s f (if isHost (f * 65536) then 0 else mkType 0 0 0 0 ((teGen e + 1) % 256) 0 0)
  else setType { s with leaving := f :: s.leaving } f (mkType 7 (teOwner e) (teWorld e) (teCount e) (teGen e) (teKey e) 0)

/-- The tenant leaves every overlay of the instruction stores (R160). -/
def leaveSlots (s : State) (t : Nat) : State :=
  (s.cores.flatMap fun c => ((List.range 16).filter fun i => (slotAt c.2.slots i).sharers.contains t).map fun i => (c.1, i)).foldl
    (fun u e => leaveSlot u t e) s

/-- The root's count and the references of the tenant's tables are dropped. -/
def dropTables (s : State) (t : Nat) (own : List Nat) : State :=
  let s1 := countRoot s (tenantOf s t).root.toNat (-1)
  (allTargets s own).foldl (fun u f => if own.contains f then countAdd u f (-1) else countDrop u f) s1

/-- Step 4 of R295 begins: the root is dropped, and every frame is zeroed; those on the package are released. -/
def eraseFrames (s : State) (t : Nat) (e : Erasure) : State :=
  let own := ownedFrames s t
  let s1 := own.foldl eraseFrame (dropTables (leaveSlots s t) t own)
  let s2 := (own.filter fun f => !isHost (f * 65536)).foldl releaseFrame s1
  setTenant s2 t { tenantOf s2 t with
    root := 0, jframe := 0, jcopy := 0, dbell := 0, erasure := some { e with step := 4, frames := own.length } }

/-- The keys of REVOKED slots that no frame names are destroyed (R290). -/
def destroyKeys (s : State) (l : List Nat) : State :=
  l.foldl (fun u k => if (keyOf u k).state = .revoked ∧ (u.types.any fun e => teKey e.2 == k) = false then setKey u k KeySlot.blank
    else u) s

/-- Step 4 completes: the stores to host frames are confirmed, which are released, and the tenant's keys are destroyed; step 5
clears the log and the records. -/
def finishFrames (s : State) (t : Nat) (e : Erasure) : State :=
  let s1 := releaseRegions ((ownedFrames s t).foldl (fun u f => if isHost (f * 65536) then releaseFrame u f else u) s) t
  let s2 := destroyKeys s1 ((List.range 256).filter fun i => e.slots.getLsbD i)
  let gone := (List.range 256).filter fun i => e.slots.getLsbD i && (keyOf s2 i).state == .empty
  setTenant s2 t { tenantOf s2 t with
    vlog := [], leaselim := 4096, waymask := 0xFFFFFFFF, world := 0, slotmask := 0xFFFF
    erasure := some { e with step := 5, pending := (ownedFrames s2 t).length, slots := slotBits gone } }

/-! ### Steps 5 and 6: the records and the receipt -/

/-- Bytes 0 to 127 of the receipt (R296). -/
def receiptBytes (t seq : Nat) (e : Erasure) : List Byte :=
  leBytes 4 1 ++ leBytes 1 t ++ leBytes 1 e.world ++ leBytes 2 0 ++ leBytes 8 seq ++ leBytes 32 e.nonce.toNat ++
    leBytes 8 e.frames ++ leBytes 4 e.pending ++ leBytes 4 e.spaces ++ leBytes 32 e.slots.toNat ++
    leBytes 32 Config.deviceDigest.toNat

/-- Bytes with the signature over their digest: *r*, then *s*, big-endian. -/
def signed (l : List Byte) : List Byte := l ++ (leBytes 132 (Config.signature (sha512 l)).toNat).reverse

/-- The receipt is signed and written. -/
def writeReceipt (s : State) (t : Nat) (e : Erasure) : State :=
  let q := s.plat.seq + 1
  setTenant { s with plat := { s.plat with seq := q, receipt := signed (receiptBytes t q e) } } t
    { tenantOf s t with erasure := none }

/-- Something of the tenant still uses its frames: an admission, an overlay's load, or a leased or locked line. -/
def framesBusy (s : State) (t : Nat) : Bool :=
  s.admissions.any (fun a => a.tenant == t) ||
    (s.cores.any fun c => c.2.slots.any fun x => x.2.sharers.contains t && (x.2.state == .loading || x.2.state == .poison)) ||
    (ownedFrames s t).any fun f => !frameFree s f

/-- The step in progress completes and the next begins, or it fails and the request stays pending (R295, R296). -/
def execErasureStepComplete (t : Nat) (ok : Bool) (s : State) : Result :=
  .next <|
    let x := tenantOf s t
    match x.erasure with
    | none => s
    | some e =>
      let next (u : State) (f : Erasure) : State := setTenant u t { tenantOf u t with erasure := some f }
      if ok = false then reply s (.error t)
      else if e.step = 1 then
        (if (tenantBlocks s t).isEmpty then
          let l := tenantKeys s t
          next (l.foldl (fun u k => revokeKey u k true none) s) { e with step := 2, slots := slotBits l }
        else s)
      else if e.step = 2 then next s { e with step := 3 }
      else if e.step = 3 then
        (if framesBusy s t then s
        else eraseFrames (setTenant s t { x with spaces := 0 }) t { e with spaces := x.spaces })
      else if e.step = 4 then finishFrames s t e
      else announce s (changeTenant (writeReceipt s t e) t (tenantOf (writeReceipt s t e) t)) (some t) (.accepted t 0)

end Sys2Proof.Machine
end

