-- ==== Sys2Proof/Machine/Fetch.lean ====
section
/-! DEFINITION. What a fragment issues next: a word of the clause in dispatch, or the header at its PC, whose
reference is resolved first (R38, R43, R136, R159); and the choice among fragments (R136, R137). -/

namespace Sys2Proof.Machine

/-- A turn of a fragment gives a word to execute, or a state in which none issues. -/
inductive Fetched where
  | word (i : Instr) (s : State)
  | done (s : State)

/-- A clause in dispatch is finished even by a warp that stops (R314 step 2). -/
def mayFinish (w : Warp) : Bool :=
  w.status == .running || w.status == .halting || w.status == .trapping || w.status == .stopped

/-- A service core whose message finds a full queue is held (R305). -/
def messageHeld (s : State) (k : Nat) : Bool := s.svcs.any fun c => c.2.held.any fun h => h.1 == k

/-- The core issues: it has not failed, and no message of it waits (R305, R326). -/
def coreIssues (s : State) (k : Nat) : Bool :=
  if k < 16 then (svcOf s k).running && !messageHeld s k
  else !(coreOf s (warpOf s k).core).failed

/-- The issue pipe of a warp: that of its slot modulo 4 on its core, or its service core's (R136). -/
def pipeOf (k : Nat) (w : Warp) : Nat := if k < 16 then k else 16 + 4 * w.core + w.slot % 4

/-- The pipe of warp `k` dispatches a clause of another fragment than its entry `e` (R136). -/
def pipeBusy (s : State) (k e : Nat) : Bool :=
  s.warps.any fun v => pipeOf v.1 v.2 == pipeOf k (warpOf s k) && mayFinish v.2 && v.2.split.any fun x =>
    x.2.state == .leaf && x.2.left != 0 && !x.2.aside && !(v.1 == k && x.1 == e)

/-- The next word of a clause in dispatch: the fragment moves past it. -/
noncomputable def fetchWord (s : State) : Fetched :=
  let x := curEntry s
  let off := refOff x.pc
  match decode [codeWord s off, codeWord s (off + 1)] with
  | .ok (i, rest) =>
    let n := 2 - rest.length
    .word i (setFrag s { x with
      here := off + BitVec.ofNat 16 (n - 1), size := n, pc := refAt x.pc (off + BitVec.ofNat 16 n), left := x.left - n, aside := false })
  | .error _ => .done (takeTrapAt s off 1 noLane ((codeWord s off).setWidth 64) 0)

/-- The PC needs no resolution: it has not been taken over, and its overlay stands READY in its slot, whatever the mask of the
tenant has become (R159, R270). -/
def pcCurrent (s : State) : Bool :=
  let x := curEntry s
  let y := slotAt (slotsOf s (storeOf s.cur (curWarp s))) (refSlot x.pc)
  !x.fresh && y.state == .ready && y.first == refSlot x.pc && y.id == refId x.pc && y.gen == refGen x.pc

/-- A PC that has been taken over, or is not current, is resolved (R159). -/
def takePc (s : State) : Fetched :=
  let x := curEntry s
  let off := refOff x.pc
  match resolvePc s (storeOf s.cur (curWarp s)) (runnerOf s s.cur) (s.cur, s.frag) x.left x.pc with
  | (s', .go pc) => .done (setFrag s' { curEntry s' with pc := pc, fresh := false })
  | (s', .park) => .done (setFrag s' { curEntry s' with state := .parked, wait := .reload x.pc none off false })
  | (s', .trap cause aux v) => .done (takeTrapAt s' off cause noLane v aux)

/-- The header at the PC (R42), the zero word past the end of an overlay (R43), or the resolution of a PC that is not
current (R159). -/
def fetchHeader (s : State) : Fetched :=
  let x := curEntry s
  let off := refOff x.pc
  if pcCurrent s then
    let w := codeWord s off
    if isHeader w then
      .word (decHeader w) (setFrag s { x with here := off, size := 1, pc := refAt x.pc (off + 1) })
    else .done (takeTrapAt s off 1 noLane (w.setWidth 64) 0)
  else takePc s

/-- What fragment `e` of warp `k` issues. -/
noncomputable def fetch (s : State) (k e : Nat) : Fetched :=
  let s := asWarp s k e
  let w := curWarp s
  let x := curEntry s
  if x.state ≠ .leaf ∨ x.notReady ∨ coreIssues s k = false ∨ pipeBusy s k e = true then .done s
  else if x.left ≠ 0 then (if mayFinish w = false then .done s else if x.fresh then takePc s else fetchWord s)
  else if mayRun w = false then .done s
  else if w.status = .halting ∧ fullReconv w then .done (setCur s (haltWarp w))
  else fetchHeader s

/-! ### The choice (R136, R137) -/

/-- Fragments that may have a turn: number of the warp, entry, and the warp. -/
def fragments (s : State) : List (Nat × Nat × Warp) :=
  (s.warps.flatMap fun w => (w.2.split.filter fun e => e.2.state == .leaf && !e.2.notReady).map fun e =>
    (w.1, e.1, w.2)).filter fun f => coreIssues s f.1

/-- The word of a fragment that dispatches a clause does not wait at issue. -/
noncomputable def wordGoes (s : State) (k e : Nat) : Bool :=
  match fetch s k e with
  | .word i s' => (issueFault i s').isSome || !heldBack i s'
  | .done _ => true

/-- A turn of a fragment between clauses changes something: it halts, reaches an offset, resolves its PC, or its
clause is ready (R38). -/
noncomputable def startGoes (s : State) (k e : Nat) : Bool :=
  let s := asWarp s k e
  let w := curWarp s
  let x := curEntry s
  mayRun w && (decide (w.status = .halting ∧ fullReconv w) || (reach w s.stamp e).isSome || !pcCurrent s ||
    !isHeader (codeWord s (refOff x.pc)) ||
    match decHeader (codeWord s (refOff x.pc)) with
    | .clause m _ _ l => clauseReady w x m (clauseWords (curSlot s) ((refOff x.pc).toNat + 1) (l.toNat + 1))
    | _ => true)

/-- The next clause of the fragment is ready (R38): it is a LEAF of a core that issues, between clauses. -/
noncomputable def clauseStands (s : State) (k e : Nat) : Bool :=
  let x := entryOf (warpOf s k) e
  x.state == .leaf && !x.notReady && x.left == 0 && coreIssues s k && startGoes s k e

/-- The fragment has become ready at this moment, still is, or is not. -/
noncomputable def markEntry (s : State) (k e : Nat) (x : Entry) : Entry :=
  if clauseStands s k e then (if x.isReady then x else { x with isReady := true, readyAt := s.stamp })
  else { x with isReady := false }

/-- Each fragment whose next clause has become ready takes the stamp of this moment (R137; assumption 48). -/
noncomputable def markReady (s : State) : State :=
  { s with
    stamp := s.stamp + 1
    warps := s.warps.map fun w => (w.1, { w.2 with split := w.2.split.map fun e => (e.1, markEntry s w.1 e.1 e.2) }) }

/-- The better of two starts: promoted warps first, then the fragment that became ready first, then the lower
warp and entry (R137). -/
def betterStart (a b : Nat × Nat × Warp) : Nat × Nat × Warp :=
  let ra := (entryOf a.2.2 a.2.1).readyAt
  let rb := (entryOf b.2.2 b.2.1).readyAt
  if a.2.2.promoted ≠ b.2.2.promoted then (if b.2.2.promoted then b else a)
  else if rb < ra then b else a

/-- The ready fragments of a pipe. -/
def readyOn (s : State) (pipe : Nat) : List (Nat × Nat × Warp) :=
  (fragments s).filter fun f => pipeOf f.1 f.2.2 == pipe && (entryOf f.2.2 f.2.1).isReady

/-- The choice of a pipe among its ready fragments (R137). -/
def pipeChoice (s : State) (pipe : Nat) : Option (Nat × Nat) :=
  match readyOn s pipe with
  | f :: fs => let g := fs.foldl betterStart f; some (g.1, g.2.1)
  | [] => none

/-- A start of entry `e` of warp `k` is its pipe's choice, or no fragment of the pipe is ready. -/
def mayStart (s : State) (k e : Nat) : Bool :=
  match pipeChoice s (pipeOf k (warpOf s k)) with
  | some f => f == (k, e)
  | none => true

/-- Of two starts of different pipes, the one that became ready first. -/
def olderStart (a b : Nat × Nat × Warp) : Nat × Nat × Warp :=
  if (entryOf b.2.2 b.2.1).readyAt < (entryOf a.2.2 a.2.1).readyAt then b else a

/-- The fragment that issues next: one that dispatches a clause, else the choice of R137 of a free pipe. -/
noncomputable def pick (s : State) : Option (Nat × Nat) :=
  let l := (fragments s).filter fun f => !pipeBusy s f.1 f.2.1
  match l.find? fun f => (entryOf f.2.2 f.2.1).left != 0 && mayFinish f.2.2 && wordGoes s f.1 f.2.1 with
  | some f => some (f.1, f.2.1)
  | none =>
    match l.filter fun f => (entryOf f.2.2 f.2.1).isReady && mayStart s f.1 f.2.1 with
    | f :: fs => let g := fs.foldl olderStart f; some (g.1, g.2.1)
    | [] => none

/-! ### Promotion (R137) -/

/-- A warp that has had a ready clause for 64 cycles is promoted (R137). -/
noncomputable def execWarpPromotion (w : Nat) (s : State) : Result :=
  .next <|
    let v := warpOf s w
    if v.split.any fun e => clauseStands s w e.1 then setWarp s w { v with promoted := true } else s

end Sys2Proof.Machine
end

