-- ==== Sys2Proof/Machine/Faults.lean ====
section
/-! DEFINITION. Trap records, rollback, and the errors that arise in the storage and the logic of the package (R311 to R316,
R322 to R326, R329). -/

namespace Sys2Proof.Machine

/-! ### Trap records (R170, R314, R315) -/

/-- The record of a trap of warp `k` in its fragment `e`. -/
def recordFor (s : State) (k e cause lane : Nat) (aux : Word) (pc value : Dword) : List Byte :=
  let w := warpOf s k
  let b := blockOf s w.blk
  trapRecord cause e lane b.tenant b.world (warpIdWord k w) b.task b.index aux pc value w.refN w.refVA

/-- A record enters the ring of the Headland instance of the die, and the Headland pair is told. -/
def putRecord (s : State) (d : Nat) (r : List Byte) : State :=
  setPend (setDie s d { dieOf s d with traps := (dieOf s d).traps ++ [r] }) (4 * d) 1

/-- Loads, stores, atomics and reductions of the warp that are not complete. -/
def accessLeft (w : Warp) : Bool :=
  w.pend.any fun o => match o.kind with
    | .load .. => true
    | .sload .. => true
    | .store => true
    | .tload .. => true
    | .tstore => true
    | .atomic .. => true
    | .red .. => true
    | _ => false

/-- The first trap record of the task is kept (R317). -/
def keepFirst (s : State) (gk : Nat) (r : List Byte) : State :=
  let g := gridOf s gk
  if g.firstTrap.isEmpty then setGrid s gk { g with firstTrap := r } else s

/-- The record of a drained trap, or of a `SYSCALL`, is written while the ring has room (R170, R314, R315). -/
def execTrapRecordWrite (w e : Nat) (s : State) : Result :=
  .next <|
    let v := warpOf s w
    let d := v.core / 40
    if w < 16 ∨ 32 ≤ (dieOf s d).traps.length then s
    else
      let x := entryOf v e
      match x.wait, v.trap with
      | .syscall aux ref before false, _ =>
        if olderComplete v before = false then s
        else
          let s1 := setWarp s w (setEntry v e { x with wait := .syscall aux ref before true })
          putRecord s1 d (recordFor s w e 19 noLane aux ref 0)
      | _, some t =>
        if v.status ≠ .trapping ∨ t.frag ≠ e ∨ warpStill v = false ∨ accessLeft v = true then s
        else
          let r := recordFor s w e t.cause t.lane t.aux t.pc t.value
          putRecord (keepFirst (setWarp s w { v with status := .trapped }) (blockGrid (blockOf s v.blk)) r) d r
      | _, none => s

/-! ### Rollback (R323 to R325) -/

/-- A core of the block has failed. -/
def onFailedCore (s : State) (b : Block) : Bool := (coresOf b).any fun x => (coreOf s x).failed

/-- A warp stops for a rollback, and its lease ends (R314 step 2). -/
def stopWarp (w : Warp) : Warp :=
  if w.status = .running ∨ w.status = .halting ∨ w.status = .halted then { w with status := .stopped, lease := none } else w

/-- Vector registers take their logged values. -/
def undoVecs (w : Warp) : Tbl Word :=
  w.vlog.foldl (fun t e => e.2.zipIdx.foldl (fun u x => Tbl.set u (vecKey e.1 x.2) x.1) t) w.vecs

/-- A latch takes its logged value: 0 left, 1 right. -/
def undoLatch (w : Warp) (n : Nat) (cur : Tbl Word) : Tbl Word :=
  match w.llog.find? fun e => e.1 == n with
  | some e => rowTbl e.2
  | none => cur

/-- A warp back at its checkpoint. -/
def undoWarp (w : Warp) (c : CkWarp) (stamp : Nat) : Warp :=
  { w with
    status := .running, vecs := undoVecs w, edgeL := undoLatch w 0 w.edgeL, edgeR := undoLatch w 1 w.edgeR
    scalars := c.scalars, masks := c.masks, ctl := c.ctl, split := Tbl.set [] 0 { c.entry with readyAt := stamp, fresh := true }
    flags := [], counters := [], queues := [], streams := [], pend := [], lease := none, promoted := false, trap := none
    vlog := [], llog := [] }

/-- A stash line takes its logged bytes; one that has left the stash comes back through the tenant's tables. -/
def undoLine (s : State) (k : Nat) (e : Nat × List Byte) : State :=
  let b := blockOf s k
  match b.lines.find? fun l => l.va == e.1 with
  | some _ =>
    setBlock s k { b with lines := b.lines.map fun l => if l.va == e.1 then { l with dirty := true, data := e.2 } else l }
  | none =>
    match translate s b.tenant (BitVec.ofNat 64 e.1) with
    | .leaf l => setBlock s k { b with lines := ⟨e.1, l.pa / 128 * 128, l.w, true, e.2, 0, false, l.sh, l.t, l.via⟩ :: b.lines }
    | _ => s

/-- A tile row takes its logged elements. -/
def undoRow (ctx : Nat) (s : State) (e : Nat × List (BitVec 34)) : State :=
  let core := e.1 / 2 ^ 16
  let x := coreOf s core
  setCore s core { x with
    acc := e.2.zipIdx.foldl (fun m v => Tbl.set m (accKey ctx (e.1 % 2 ^ 16 / 64) (e.1 % 64) v.2) v.1) x.acc }

/-- The block takes the state of its checkpoint (R324 steps 2 to 4). -/
def undoBlock (s : State) (k : Nat) (c : Checkpoint) : State :=
  let b := blockOf s k
  let s1 := b.slog.foldl (fun t e => undoLine t k e) s
  let s2 := b.rlog.foldl (undoRow (b.ctx.getD 0)) s1
  let s3 := c.warps.foldl (fun t x =>
    match b.warps[x.index]? with
    | some w => setWarp t w (undoWarp (warpOf t w) x t.stamp)
    | none => t) s2
  let b3 := blockOf s3 k
  setBlock (takeRecordsOf s3 b) k { b3 with
    status := .running, barriers := c.barriers, slog := [], rlog := [], overflow := false, eligible := true, bad := []
    gone := (List.range b.cmd.warps).filter fun i => !c.warps.any fun x => x.index == i }

/-- A working core, or for a gang a pair, of a cluster group. -/
def groupHasRoom (s : State) (b : Block) : Bool :=
  let good (x : Nat) : Bool := !(coreOf s x).failed && !(coreOf s x).quarantined
  if b.gang then (List.range 4).any fun i => good (8 * b.group + 2 * i) && good (8 * b.group + 2 * i + 1)
  else (List.range 8).any fun i => good (8 * b.group + i)

/-- A stopped and drained block is rolled back: it runs on, is saved when a core of it has failed, and halts when a quantum
has ended meanwhile (R321, R324, R326). A block that may no longer be rolled back is killed. -/
def finishRollback (s : State) (k : Nat) : State :=
  let b := blockOf s k
  match b.checkpoint with
  | none => killMachine s k
  | some c =>
    if canRollBack s k = false ∨ (onFailedCore s b && !groupHasRoom s b) = true then
      (if onFailedCore s b then killMachine s k else killFinish (killStart s k []) k)
    else
      let s1 := undoBlock s k c
      if onFailedCore s b then saveBlock s1 k
      else if (groupOf s b.group).running = some b.tenant then s1
      else haltBlocks s1 [k]

/-- A block begins to be rolled back: its warps stop. -/
def startRollback (s : State) (k : Nat) : State :=
  let b := blockOf s k
  b.warps.foldl (fun t w => setWarp t w (stopWarp (warpOf t w))) (setBlock s k { b with status := .rolling })

/-- A record in the ring for which the live instance rolls the block back (R316, R324, R332). -/
def rollDue (s : State) (k : Nat) : Bool :=
  let b := blockOf s k
  let x := dieOf s (b.core / 40)
  x.live && !b.bad.isEmpty && canRollBack s k && x.traps.any fun r => recordOf b r && recordCause r == 18

/-- Headland rolls an eligible block back: its warps stop, and when all is drained its checkpoint returns (R324). -/
def execBlockRollback (blk : Nat) (s : State) : Result :=
  .next <|
    let b := blockOf s blk
    if b.status = .rolling then (if blockDrained s blk then finishRollback s blk else s)
    else if (b.status ≠ .running ∧ b.status ≠ .halting) ∨ rollDue s blk = false then s
    else startRollback s blk

/-! ### Errors in storage (R311, R312) -/

/-- A corrected error is counted by the tenant's monitors (R311, R367). -/
def execCorrectableError (t : Nat) (s : State) : Result := .next <| pmonCount s t 7 1

/-- A clean line is dropped, to be filled again: line `unit` of memory in every L1 and L2 for block 0, else the stash line of that
number (R311). -/
def execCleanLineError (blk unit : Nat) (s : State) : Result :=
  .next <|
    let b := blockOf s blk
    if blk = 0 then { s with caches := dropCached s.caches (128 * unit) 128 }
    else setBlock s blk { b with lines := b.lines.filter fun l => l.dirty || l.va / 128 != unit }

/-- The location exists: vector register and lane at 64 n + lane, latch and lane likewise, a dirty line, a row of the context, a
queue and lane, a scalar register, or a mask. -/
def badPlace (b : Block) (w : Warp) (kind n : Nat) : Bool :=
  let lane := decide (n % 64 < w.width)
  match kind with
  | 0 => decide (n / 64 < w.vregs) && lane
  | 1 => decide (n / 64 < 2) && lane
  | 2 => b.lines.any fun l => l.dirty && l.va == n
  | 3 => b.ctx.isSome && (coresOf b).contains (n / 2 ^ 16) && decide (n % 2 ^ 16 < 1024)
  | 4 => decide (n / 64 < 8) && lane
  | 5 => decide (n < 192)
  | 6 => decide (1 ≤ n ∧ n ≤ 7)
  | _ => false

/-- The number under which a location is noted: a register, latch or queue without its lane. -/
def badNumber (kind n : Nat) : Nat := if kind = 0 ∨ kind = 1 ∨ kind = 4 then n / 64 else n

/-- The faulting lane or tile row of a location (R315). -/
def badLane (kind n : Nat) : Nat := if kind = 0 ∨ kind = 1 ∨ kind = 3 ∨ kind = 4 then n % 64 else noLane

/-- Offset of the next word of a clause in dispatch, past its prefix. -/
def nextWordOff (s : State) : BitVec 16 :=
  let off := refOff (curEntry s).pc
  if fmaj (codeWord s off) == 0x7E#7 then off + 1 else off

/-- The next word of a fragment consumes an erroneous register, latch, dirty stash line, tile row or queue: *poison consumed* (R311).
A block that is being saved meets the error of a still warp in the save (R321; assumption 40). -/
def execStateError (w e kind at_ : Nat) (s : State) : Result :=
  .next <|
    let v := warpOf s w
    let b := blockOf s v.blk
    let x := entryOf v e
    let noted := setBlock s v.blk { b with bad := (v.index, kind, badNumber kind at_) :: b.bad }
    if w < 16 ∨ badPlace b v kind at_ = false then s
    else if (b.status = .halting ∨ b.status = .forced ∨ b.status = .saving) ∧ warpStill v = true then noted
    else if mayFinish v = false ∨ x.state ≠ .leaf ∨ x.left = 0 then s
    else
      let t := asWarp s w e
      let value : Dword := if kind = 2 then BitVec.ofNat 64 at_ else 0
      raiseBare (asWarp noted w e) w ⟨18, e, badLane kind at_, value, 0, refAt x.pc (nextWordOff t)⟩

/-- A line of HBM or the second tier is poisoned at its home (R205, R311). -/
def execMemoryLineError (pa : Nat) (s : State) : Result :=
  .next <|
    let line := pa / 128 * 128
    if (isHbm s pa || isTier s pa) && !s.poison.contains line then { s with poison := line :: s.poison } else s

/-- A type entry is repaired from its second copy: no software sees a change (R311). -/
def execTypeEntryError (_frame : Nat) (s : State) : Result := .next <| s
/-- A poisoned journal record is repaired from its second copy (R311, R345). -/
def execJournalRecordError (t n : Nat) (s : State) : Result :=
  .next <| if (tenantOf s t).jframe = 0 ∨ 2046 ≤ n then s else mendJournal s t (recordOff n)

/-! ### Failing cores (R321, R326) -/

/-- What a fragment of a failed core had not issued does not issue. -/
def cutWarp (w : Warp) : Warp := (usedEntries w).foldl (fun v e => stopAt v e (entryOf v e).pc) w

/-- The blocks with a warp on a core. -/
def residentOn (s : State) (x : Nat) : List Nat :=
  (s.blocks.filter fun e => isResident e.2 && (coresOf e.2).contains x).map Prod.fst

/-- A block of a failed core: killed when it is being saved or may not be rolled back, else it begins to be. The warps of a
gang's other core run on to their next block barrier word. -/
def failBlock (core : Nat) (s : State) (k : Nat) : State :=
  let b := blockOf s k
  if b.status = .killing ∨ b.status = .rolling then s
  else if (b.status ≠ .running ∧ b.status ≠ .halting) ∨ canRollBack s k = false then killMachine s k
  else
    (b.warps.filter fun w => (warpOf s w).core == core).foldl (fun t w => setWarp t w (stopWarp (warpOf t w)))
      (setBlock s k { b with status := .rolling })

/-- A core fails: it issues nothing more, is quarantined, and its blocks are rolled back or killed (R326). Whether Headland can
still read its register file and stash is a free value (assumption 1). -/
def execCoreFail (core : Nat) (s : State) : Result :=
  .next <|
    if coreCount s ≤ core ∨ (coreOf s core).failed = true then s
    else
      let s1 := setCore { s with freeCtr := s.freeCtr + 1 } core { coreOf s core with
        failed := true, quarantined := true, dark := (Config.freeValue s.freeCtr).getLsbD 0 }
      let s2 := { s1 with warps := s1.warps.map fun e => (e.1, if 16 ≤ e.1 ∧ e.2.core = core then cutWarp e.2 else e.2) }
      (residentOn s2 core).foldl (failBlock core) s2

/-! ### Rebuilding a group (R329) -/

/-- Promotion and the ages of a warp start again. -/
def rebuildWarp (stamp : Nat) (w : Warp) : Warp :=
  { w with promoted := false, split := w.split.map fun e => (e.1, { e.2 with readyAt := stamp }) }

/-- A group rebuilds its ready lists, ages and promotion counts from the warp tables (R329). -/
def execSchedulerRebuild (g : Nat) (s : State) : Result :=
  .next <|
    { s with warps := s.warps.map fun e => (e.1, if 16 ≤ e.1 ∧ groupOfCore e.2.core = g then rebuildWarp s.stamp e.2 else e.2) }

end Sys2Proof.Machine
end

