-- ==== Sys2Proof/Machine/Links.lean ====
section
/-! DEFINITION. Strandline links: packets, acknowledgements, lanes that fail, and links that die (R288, R334, R337 to R339, R361,
R362). Of each direction the sender's port and the receiver both stand in the record of the link here; direction 0 leaves this
package, and direction 1 brings the responses. Bytes of a peer's memory stand at their addresses in its window (R361). -/

namespace Sys2Proof.Machine

/-! ### Ports (R361) -/

def portCount (s : State) : Nat := match s.part with
  | .gx9 => 72
  | .gx9h => 36

/-- The ports of a mask. -/
def portsOf (m : BitVec 72) : List Nat := (List.range 72).filter fun p => m.getLsbD p

/-- The I/O die of a port: 0 for die 4, 1 for die 5. -/
def portDie (p : Nat) : Nat := p % 36 / 18

/-- The working ports of a link's record, in ascending order. -/
def workingPorts (s : State) (x : Link) : List Nat := (portsOf x.mask).filter fun p => !s.plat.portFailed.contains p

/-- The largest of 1, 2, 4, 8 and 16 that does not exceed `n`, or 0. -/
def widthFor (n : Nat) : Nat := ([16, 8, 4, 2, 1].find? fun w => decide (w ≤ n)).getD 0

/-- The link's direction: 0 outbound, 1 inbound. -/
def dirOf (x : Link) (d : Nat) : LinkDir := if d = 0 then x.out else x.inn
def setDir (x : Link) (d : Nat) (y : LinkDir) : Link := if d = 0 then { x with out := y } else { x with inn := y }

/-! ### A dead link (R334) -/

/-- A unit travels on link `k`, or its answer does. -/
def onLink (s : State) (k : Nat) (u : MUnit) : Bool := isPeer u.pa && u.sent && linkFor s u.pa == some k

/-- The units of an operation that travel on a dead link are dealt with. -/
def lostUnits (s : State) (k : Nat) (o : PendOp) : PendOp :=
  { o with units := o.units.map fun u => if onLink s k u then { u with done := true, sent := false } else u }

/-- The tile waits for the answer to a lock request on link `k` (R200). -/
def asksOn (s : State) (k : Nat) (o : PendOp) : Bool :=
  o.ask != 0 && ((o.toLock.take 1 ++ o.locked.take 1).any fun l => isPeer l && linkFor s l == some k)

/-- What a dead link does to an operation. A store or reduction is lost, but for what the peer has performed, which counts as
acknowledged (R263; assumption 14). A load or an atomic with return consumes poison. -/
def loseOp (k : Nat) (s : State) (e : Nat × Nat) : State :=
  withOp s e.1 e.2 fun o =>
    match o.units.find? (onLink s k) with
    | none => if isTile o.kind then tileLost s e.1 o (if o.ask = 3 then o.locked.headD 0 else o.toLock.headD 0) else s
    | some u =>
      let lost : State := if o.units.any fun u => onLink s k u && !u.done then noteEvent s e.1 .lost else s
      match o.kind with
      | .store => storeDone lost e.1 (lostUnits s k o)
      | .red _ => atomicDone lost e.1 (lostUnits s k o)
      | .atomic _ _ op =>
        atomicDone (raiseTrap s e.1 ⟨18, o.frag, u.lane, u.va, 0, o.pc⟩) e.1 { lostUnits s k o with kind := .red op }
      | .tload .. => tilePoison s e.1 o u
      | .tstore => if o.finished then storeDone s e.1 (lostUnits s k o) else tileLost s e.1 o (u.pa / 128 * 128)
      | .monRead f => mwaitBad s e.1 f 18 u.va
      | _ => consumePoison s e.1 o u

/-- The operations with a unit or a lock request on a link. -/
def opsOn (s : State) (k : Nat) : List (Nat × Nat) :=
  s.warps.flatMap fun w => (w.2.pend.filter fun o => o.units.any (onLink s k) || asksOn s k o).map fun o => (w.1, o.id)

def emptyDir (d : LinkDir) : LinkDir := { d with replay := [], waiting := [], flying := [], held := [], unacked := 0, acks := [] }

/-- The link is taken down as dead. -/
def linkDie (s : State) (k : Nat) : State :=
  let x := linkOf s k
  let s1 := setLink s k { x with dead := true, training := false, out := emptyDir x.out, inn := emptyDir x.inn }
  (opsOn s1 k).foldl (loseOp k) s1

/-! ### Records (R361, R362) -/

/-- The record breaks a rule of R361: the records that other links have, and those that wait for them, count. -/
def linkBad (s : State) (k : Nat) (mask : BitVec 72) (node window : Nat) : Bool :=
  let l := portsOf mask
  !(l.isEmpty || [1, 2, 4, 8, 16].contains l.length) || l.any (fun p => decide (portCount s ≤ p)) ||
    l.any (fun p => portDie p != portDie (l.headD 0)) || l.any (fun p => s.plat.portFailed.contains p) ||
    decide (64 ≤ node) || node != window ||
    s.links.any fun e => e.1 != k && ((e.2.bound && (!(e.2.mask &&& mask == 0) || (!e.2.dead && e.2.window == window))) ||
      match e.2.waiting with
      | some (m, _, w) => !(m &&& mask == 0) || w == window
      | none => false)

/-- A record takes effect: what travels to another window is lost, a dead link gives its window up, and the link trains. -/
def bindLink (s : State) (k : Nat) (mask : BitVec 72) (node window : Nat) : State :=
  let old := linkOf s k
  let s1 := if old.bound && (old.node != node || old.window != window || mask == 0) then linkDie s k else s
  let s2 := { s1 with links := s1.links.map fun e => (e.1, if e.1 ≠ k ∧ e.2.window = window ∧ e.2.dead = true
    then { e.2 with bound := false } else e.2) }
  setLink s2 k { linkOf s2 k with
    bound := mask != 0, mask := mask, node := node, window := window, width := (portsOf mask).length, training := mask != 0
    dead := false, waiting := none }

/-- Headland writes a link's record; during a training it waits for the end (R361, R362). -/
def execLinkRecordWrite (link : Nat) (mask : BitVec 72) (node window : Nat) (s : State) : Result :=
  .next <|
    let x := linkOf s link
    if s.part = .gx9h ∧ (portsOf mask).any (fun p => decide (36 ≤ p)) = true then reply s (.absent link)
    else if linkBad s link mask node window then reply s (.error link)
    else if x.training then setLink s link { x with waiting := some (mask, node, window) }
    else bindLink s link mask node window

/-! ### Training (R334, R339) -/

/-- The lanes of a link: its lowest working ports. -/
def lanePorts (s : State) (x : Link) : List Nat := (workingPorts s x).take x.width

/-- A link begins a retraining; what is in flight on it is spoiled. -/
def startTraining (s : State) (k : Nat) : State :=
  let x := linkOf s k
  setLink s k { x with training := true, out := { x.out with flying := [] }, inn := { x.inn with flying := [] } }

/-- A port fails: the link of which it is a lane begins to retrain (R334). -/
def execLaneLoss (port : Nat) (s : State) : Result :=
  .next <|
    if portCount s ≤ port ∨ s.plat.portFailed.contains port = true then s
    else
      let s1 := { s with plat := { s.plat with portFailed := port :: s.plat.portFailed } }
      match s.links.find? fun e => e.2.bound && !e.2.dead && (lanePorts s e.2).contains port with
      | some (k, _) => startTraining s1 k
      | none => s1

/-- A replay touches a packet: REPLAY enters the fence records of the warp that sent it, wherever that is by now (R217, R334). -/
def noteReplayed (s : State) (p : Packet) : State :=
  if p.warp < 16 then noteEvent s p.warp .replay
  else
    let b := blockOf s p.blk
    match b.warps[p.index]? with
    | some w => if (warpOf s w).status = .absent then s else noteEvent s w .replay
    | none => setBlock s p.blk { b with saved := b.saved.map fun w => if w.index = p.index then warpEvent w .replay else w }

def noteReplays (s : State) (l : List Packet) : State := l.foldl noteReplayed s

/-- The direction sends all that is not acknowledged again. -/
def resend (d : LinkDir) : LinkDir := { d with flying := d.replay }

/-- A waiting record applies after the training, to the ports that still work, unless another link has taken a port of it or its
window meanwhile (R361, R362). -/
def applyWaiting (s : State) (k : Nat) : State :=
  match (linkOf s k).waiting with
  | some (m, n, w) =>
    let x := linkOf s k
    let t := setLink s k { x with waiting := none }
    if t.links.any fun e => e.1 != k && e.2.bound && (!(e.2.mask &&& m == 0) || (!e.2.dead && e.2.window == w)) then t
    else bindLink t k m n w
  | none => s

/-- A link has trained: fresh keys, and all that is not acknowledged is sent again; or it is dead (R334, R339). -/
def execLinkRetrainComplete (link : Nat) (ok : Bool) (s : State) : Result :=
  .next <|
    let x := linkOf s link
    if x.training = false then s
    else
      let n := widthFor (min (workingPorts s x).length x.width)
      if ok = false ∨ n = 0 then applyWaiting (linkDie s link) link
      else
        let y := rekey { x with width := n, training := false, out := resend x.out, inn := resend x.inn }
        applyWaiting (noteReplays (setLink s link y) (x.out.replay ++ x.inn.replay)) link

/-- An access of a warp crosses a sealed link inside the package: its HBM channel, or the UCIe links between its die and the home. -/
def crosses (s : State) (k link : Nat) (u : MUnit) : Bool :=
  let die := if k < 16 then k / 4 else (warpOf s k).core / 40
  !u.done && ((isHbm s u.pa && hbmLink s u.pa == link) || (dieLinks s die u.pa).contains link)

/-- A flit group fails authentication inside the package: it is replayed, and the warps with an access on the link learn of it; the
sixteenth successive replay of a direction that fails takes the link down (R288). -/
def innerAuthFail (s : State) (link dir : Nat) : State :=
  let x := innerOf s link
  if x.dead then s
  else if 16 ≤ (if dir = 0 then x.failOut else x.failIn) then setInner s link { x with dead := true }
  else
    let t := setInner s link (if dir = 0 then { x with failOut := x.failOut + 1 } else { x with failIn := x.failIn + 1 })
    ((s.warps.filter fun w => w.2.pend.any fun o => o.units.any (crosses s w.1 link)).map Prod.fst).foldl
      (fun t w => noteEvent t w .replay) t

/-- The same on a Strandline link. -/
def linkAuthFail (s : State) (link dir : Nat) : State :=
  let x := linkOf s link
  let d := dirOf x dir
  if x.bound = false ∨ x.dead = true ∨ x.training = true then s
  else if 16 ≤ d.fails then linkDie s link
  else noteReplays (setLink s link (setDir x dir { resend d with fails := d.fails + 1 })) d.replay

/-- A flit group fails authentication: it is discarded and replayed, and with the sixteenth successive replay that fails the link
is dead (R288). The number names the link, and from 1,024 on the inbound direction of link `n - 1024` (assumption 14). -/
def execFlitAuthFail (n : Nat) (s : State) : Result :=
  .next <|
    if innerLinks ≤ n % 1024 then innerAuthFail s (n % 1024) (n / 1024) else linkAuthFail s (n % 1024) (n / 1024)

/-! ### Packets (R337, R338) -/

/-- The packet at the port takes the next number, enters the replay buffer and is sent (R337, R338). -/
def execPacketSend (link dir : Nat) (s : State) : Result :=
  .next <|
    let x := linkOf s link
    let d := dirOf x dir
    match d.waiting with
    | [] => s
    | p :: rest =>
      if x.bound = false ∨ x.dead = true ∨ x.training = true ∨ 4096 ≤ d.replay.length ∨ 2 ^ 48 - 1 ≤ d.keys.toNat then s
      else
        let q := { p with seq := d.next }
        setLink s link (setDir x dir { d with
          waiting := rest, next := (d.next + 1) % 2 ^ 32, replay := d.replay ++ [q], flying := d.flying ++ [q], keys := d.keys + 1 })

/-- A unit of an operation takes its place in the warp's list. -/
def putUnit (s : State) (wk : Nat) (o : PendOp) (u : Nat) (x : MUnit) : State := setWarp s wk (setOp (warpOf s wk) (setUnit o u x))

/-- The peer meets poison at the home of a request (R205): a load's data cannot be used, an atomic with return raises its trap, and a
reduction changes nothing. -/
def performPoison (s : State) (wk : Nat) (o : PendOp) (u : Nat) (x : MUnit) : State :=
  match o.kind with
  | .atomic _ _ op => atomicPoison s wk o op u x
  | .red _ => putUnit (noteEvent s wk .poison) wk o u { x with done := true }
  | .monRead e => mwaitBad s wk e 18 x.va
  | _ => consumePoison s wk o x

/-- The peer performs unit `u` of a request, on the link's acceptance of it: a read, or a read-modify-write, which changes memory
outside the stash and enters an audited block's signature (R323, R328, R337). Its answer then travels. -/
def performUnit (wk op : Nat) (s : State) (u : Nat) : State :=
  withOp s wk op fun o =>
    match o.units[u]? with
    | none => s
    | some x =>
      if isPoison s x.pa then performPoison s wk o u x
      else
        match rmwOf o.kind with
        | some f =>
          let k := (warpOf s wk).blk
          let r := rmwRemote s f x
          let t := noteAudit r.1 k (snoop s none x.pa x.len true).mem r.1.mem x.pa x.len
          putUnit (ineligible t k) wk { o with flags := o.flags ||| r.2.2 } u r.2.1
        | none =>
          let t := snoop s none x.pa x.len false
          let y := { x with data := t.mem.reads x.pa x.len, done := true }
          putUnit (if isLoad o.kind then laneCount t wk (setUnit o u y) x.lane 3 else t) wk o u y

/-- The peer's home performs a write of a warp's packet: outside the stash, and part of an audited block's signature (R323,
R328). A poisoned line stays as it is (R205). -/
def performWrite (wk : Nat) (s : State) (w : Nat × List Byte) : State :=
  if isPoison s w.1 then noteEvent s wk .poison
  else
    let k := (warpOf s wk).blk
    noteAudit (writeBytes s w.1 w.2) k (snoop s none w.1 w.2.length true).mem (writeBytes s w.1 w.2).mem w.1 w.2.length

/-- Units of an operation have been performed at the peer, or, with `sent` false, are acknowledged too. -/
def unitsDone (o : PendOp) (l : List Nat) (sent : Bool) : PendOp :=
  { o with units := o.units.zipIdx.map fun e => if l.contains e.2 then { e.1 with done := true, sent := sent } else e.1 }

/-- A response leaves the peer. -/
def respond (s : State) (k : Nat) (p : Packet) : State :=
  let x := linkOf s k
  setLink s k { x with inn := { x.inn with waiting := x.inn.waiting ++ [{ p with performed := true }] } }

/-- The lines of a packet are free at their homes. A lock request and a tile's request, whose tile holds its locks, wait for nothing
there; a tile's bytes have waited long enough when the tile is performed (R198, R199, R338). -/
def packetFree (s : State) (p : Packet) : Bool :=
  match opOf (warpOf s p.warp) p.op with
  | none => true
  | some o =>
    if p.lock.isSome then true
    else if isTile o.kind then p.writes.isEmpty || o.finished
    else p.units.all fun u => match o.units[u]? with
      | some x => unitFree s p.warp o x
      | none => true

/-- The peer fills the stash line that a request names, unless it is poisoned: the unit's own turn then meets that (R193, R205). -/
def performFill (s : State) (p : Packet) : State :=
  withOp s p.warp p.op fun o =>
    match o.units[p.units.headD 0]? with
    | some x => if isPoison s x.pa then s else fillLine s (warpOf s p.warp).blk x
    | none => s

/-- The bytes of a tile have arrived at the peer; with the last of them the tile is performed (R198). -/
def tileArrives (s : State) (p : Packet) : State :=
  withOp s p.warp p.op fun o =>
    let o' := unitsDone o p.units true
    let t := setWarp s p.warp (setOp (warpOf s p.warp) o')
    if o.kind == .tstore && !o.finished && !awaitsPeer o' then performTile t p.warp o' else t

/-- An accepted packet is performed at the peer; a request is answered on the other direction. The bytes of a tile have been
performed with the tile (R198). -/
def performPacket (s : State) (k : Nat) (p : Packet) : State :=
  withOp s p.warp p.op fun o =>
    let put (t : State) (o : PendOp) : State := setWarp t p.warp (setOp (warpOf t p.warp) o)
    if p.lock.isSome then put s { o with ask := 2 }
    else if p.fill then respond (performFill s p) k p
    else if !p.writes.isEmpty then
      if isTile o.kind then s
      else
        let o' := unitsDone o p.units true
        let t := ineligible (put (p.writes.foldl (performWrite p.warp) s) o') (warpOf s p.warp).blk
        ((p.units.filterMap fun u => o.units[u]?).map (·.lane)).dedup.foldl (fun q l => laneCount q p.warp o' l 4) t
    else if isTile o.kind then respond (put s (unitsDone o p.units true)) k p
    else respond (p.units.foldl (performUnit p.warp p.op) s) k p

/-- An operation goes on once units of it are answered. -/
def unitsBack (s : State) (wk : Nat) (o : PendOp) : State :=
  let t := setWarp s wk (setOp (warpOf s wk) o)
  match o.kind with
  | .tstore => if o.finished then storeDone s wk o else t
  | .tload .. => if awaitsPeer o then t else performTile t wk o
  | .monRead e => monGot t wk e (BitVec.ofNat 64 (leNat (o.units.head?.elim [] fun x => x.data)))
  | k => if (rmwOf k).isSome then atomicDone s wk o else if isLoad k then loadDone s wk o else storeDone s wk o

/-- A stash line has been filled from a peer: the unit that asked for it goes on, and an `MWAIT` reads the line later. -/
def fillBack (s : State) (wk : Nat) (o : PendOp) (p : Packet) : State :=
  match o.kind with
  | .monRead _ => setWarp s wk (dropOp (warpOf s wk) o)
  | _ => setWarp s wk (setOp (warpOf s wk) { o with
    units := o.units.zipIdx.map fun e => if p.units.contains e.2 then { e.1 with sent := false } else e.1 })

/-- A response completes the units that it answers, or brings a tile its lock. -/
def takeResponse (s : State) (p : Packet) : State :=
  withOp s p.warp p.op fun o =>
    if p.lock.isSome then
      let o' := { o with ask := 0 }
      let t := setWarp s p.warp (setOp (warpOf s p.warp) o')
      if o'.toLock.isEmpty then performTile t p.warp o' else t
    else if p.fill then fillBack s p.warp o p
    else unitsBack s p.warp (unitsDone o p.units false)

/-- The receiver acknowledges all packets below the first that it has not accepted and performed (R338). -/
def sendAck (d : LinkDir) : LinkDir :=
  { d with unacked := 0, acks := d.acks ++ [match d.held with
    | p :: _ => p.seq
    | [] => d.expect] }

/-- One more accepted packet has been performed; with the 64th that is not acknowledged an acknowledgement goes out (R338). -/
def countPacket (d : LinkDir) : LinkDir := if 63 ≤ d.unacked then sendAck d else { d with unacked := d.unacked + 1 }

/-- What the receiver performs: a packet at the peer's homes, or a response here. -/
def performAt (s : State) (k dir : Nat) (p : Packet) : State :=
  let t := if dir = 0 then performPacket s k p else takeResponse s p
  setLink t k (setDir (linkOf t k) dir (countPacket (dirOf (linkOf t k) dir)))

/-- A packet waits for its homes: behind those that wait already, and, with a tile's bytes, at once known to them. -/
def holdPacket (s : State) (k : Nat) (p : Packet) : State :=
  let x := linkOf s k
  let t := setLink s k { x with out := { x.out with held := x.out.held ++ [p] } }
  match opOf (warpOf s p.warp) p.op with
  | some o => if o.kind == .tstore && !p.writes.isEmpty then tileArrives t p else t
  | none => t

/-- The receiver performs a packet that waits at a home, if it can now; else it accepts the packet of the next number and
performs it, or lets it wait. It discards any other (R338). -/
def execPacketReceive (link dir : Nat) (s : State) : Result :=
  .next <|
    let x := linkOf s link
    let d := dirOf x dir
    match d.held.find? (packetFree s) with
    | some p => performAt (setLink s link (setDir x dir { d with held := d.held.filter fun q => q.seq != p.seq })) link dir p
    | none =>
      match d.flying with
      | [] => s
      | p :: rest =>
        if p.seq ≠ d.expect then setLink s link (setDir x dir { d with flying := rest })
        else
          let y : LinkDir := { d with flying := rest, expect := (d.expect + 1) % 2 ^ 32, fails := 0 }
          let t := setLink s link (setDir x dir y)
          if dir = 0 ∧ packetFree s p = false then holdPacket t link p else performAt t link dir p

/-- The receiver acknowledges what it has performed, within the microsecond (R338). -/
def execAckSend (link dir : Nat) (s : State) : Result :=
  .next <|
    let x := linkOf s link
    let d := dirOf x dir
    if d.unacked = 0 ∨ x.training = true then s else setLink s link (setDir x dir (sendAck d))

/-- An acknowledged write packet completes its units. -/
def ackPacket (s : State) (p : Packet) : State :=
  if p.writes.isEmpty then s else withOp s p.warp p.op fun o => unitsBack s p.warp (unitsDone o p.units false)

/-- Number `n` is below the acknowledged one `a`, modulo 2^32. -/
def ackedBy (a n : Nat) : Bool := decide (0 < (a + 2 ^ 32 - n) % 2 ^ 32 ∧ (a + 2 ^ 32 - n) % 2 ^ 32 ≤ 2 ^ 31)

/-- An acknowledgement frees packets from the replay buffer, and their stores complete (R204, R338). -/
def execAckReceive (link dir : Nat) (s : State) : Result :=
  .next <|
    let x := linkOf s link
    let d := dirOf x dir
    match d.acks with
    | [] => s
    | a :: rest =>
      let got := d.replay.filter fun p => ackedBy a p.seq
      let t := setLink s link (setDir x dir { d with acks := rest, acked := a, replay := d.replay.filter fun p => !ackedBy a p.seq })
      got.foldl ackPacket t

end Sys2Proof.Machine
end

