-- ==== Sys2Proof/Machine/Outside.lean ====
section
/-! DEFINITION. What reaches the package from the host port and the debug ports: host accesses, JTAG, the debugger, trace,
and requests for features that are absent or for the device's identity (R13, R14, R292 to R294, R316). -/

namespace Sys2Proof.Machine

/-! ### Host accesses (R292) -/

/-- An access of 1, 2, 4 or 8 bytes, aligned, to HBM or the second tier, or of the host to its own memory (R262; assumption 33). -/
def outsideGood (s : State) (peer : Bool) (pa size : Nat) : Bool :=
  (size == 1 || size == 2 || size == 4 || size == 8) && decide (pa % size = 0) &&
    (isHbm s pa || isTier s pa || (!peer && isHost pa))

/-- A saturating 32-bit count of one more event. -/
def countUp (v : Word) : Word := if v = 0xFFFFFFFF then v else v + 1

/-- The home die counts an access to a frame of a protected world. -/
def countHostDrop (s : State) (pa : Nat) : State :=
  let d := homeDie s pa
  setDie s d { dieOf s d with hostDrops := countUp (dieOf s d).hostDrops }

/-- A read by an outside agent: the state after the snoop, and the answer. -/
def outsideRead (s : State) (pa n : Nat) : State :=
  if isPoison s pa then reply s .poison
  else
    let t := snoop s none pa n false
    reply t (.read (BitVec.ofNat 64 (t.mem.rd pa n)))

/-- A write by an outside agent; a poisoned line takes none (R205). -/
def outsideWrite (s : State) (pa n v : Nat) : State :=
  if isPoison s pa then s
  else
    let t := physPut s pa n v
    -- the GX9's cached copy of a host line that the host writes is dropped (R190)
    if isHost pa then { t with caches := dropCached t.caches pa n } else t

/-- The host reaches a frame of a protected world (R292). -/
def hostBarred (s : State) (r : OutsideReq) : Bool :=
  !r.peer && (isHbm s r.pa || isTier s r.pa) && teWorld (typeOf s (r.pa / 65536)) != 0

/-- An access from outside is performed at its home; the host's to a frame of a protected world is answered with poison, or
dropped, and counted (R262, R292). -/
def outsidePerform (s : State) (r : OutsideReq) : State :=
  if hostBarred s r then (if r.write then countHostDrop s r.pa else reply (countHostDrop s r.pa) .poison)
  else if r.write then outsideWrite s r.pa r.size r.val.toNat
  else outsideRead s r.pa r.size

/-- It may be performed now: nothing holds its line, and no earlier one waits for the line (R195, R196, R262). -/
def outsideFree (s : State) (r : OutsideReq) (l : List OutsideReq) : Bool :=
  homeOpen s noWarp 0 r.pa && !l.any fun x => x.pa / 128 == r.pa / 128

/-- An access from outside: performed, or waiting at its home. One that no frame holds up is barred at once (R292). -/
def outsideAccess (s : State) (r : OutsideReq) : State :=
  if outsideGood s r.peer r.pa r.size = false then s
  else if hostBarred s r || outsideFree s r s.outside then outsidePerform s r
  else { s with outside := s.outside ++ [r] }

/-- Position of the first waiting access that may go on. -/
def outsideNext (s : State) (seen : List OutsideReq) : List OutsideReq → Option Nat
  | [] => none
  | r :: l => if outsideFree s r seen then some seen.length else outsideNext s (seen ++ [r]) l

def histOf (s : State) (d n : Nat) : Hist := Tbl.get Hist.blank (dieOf s d).hists n

/-- A register of a histogram monitor: its control, MIN, MAX, and its bins (R368). -/
def histWord (h : Hist) (i : Nat) : Word :=
  if i = 0 then (if h.en then 1#1 else 0#1) ++ 0#7 ++ h.isl ++ h.ten ++ 0#4 ++ h.src
  else if i = 1 then h.min
  else if i = 2 then h.max
  else if i < 19 then Tbl.get 0 h.bins (i - 3)
  else 0

/-- What the physical function reads: `FEAT` at 0, `CAP0` to `CAP7` at 1 to 8, the status register at 9, 8 bytes at a time of
the receipt at 64 on and of the report at 128 on, and register `i` of monitor `n` of die `d` at 4096 + 512 d + 32 n + i (R296, R365,
R366, R368, R370; assumption 31). -/
def functionWord (s : State) (n : Nat) : Dword :=
  let part (l : List Byte) (i : Nat) : Dword := BitVec.ofNat 64 (leNat ((l.drop (8 * i)).take 8))
  if n = 0 then (featWord s false false false).setWidth 64
  else if n ≤ 8 then (capWord s (n - 1)).setWidth 64
  else if n = 9 then BitVec.ofNat 64 s.plat.statusReg
  else if 4096 ≤ n then (histWord (histOf s ((n - 4096) / 512) (n % 512 / 32)) (n % 32)).setWidth 64
  else if 128 ≤ n then part s.plat.report (n - 128)
  else if 64 ≤ n then part s.plat.receipt (n - 64)
  else 0

/-- A read by the physical function, whose registers stand once bring-up has presented it; the status register always does (R365,
R370). -/
def functionRead (s : State) (n : Nat) : State :=
  if s.plat.step < 7 ∧ n ≠ 9 then reply s (.error 64) else reply s (.read (functionWord s n))

/-- A configuration access to a second-tier port: *unit absent* where the part has none, else the expander's own answer, which is
a free value (R25, R360; assumption 31). -/
def tierPortAccess (s : State) (write : Bool) (port : Nat) : State :=
  if s.part = .gx9h ∨ 14 ≤ port then reply s (.absent port)
  else if write then s
  else reply (freeDword s).1 (.read (freeDword s).2)

/-- An access from outside: of the host, once bring-up has presented its functions (R365), or a peer to memory, of the physical
function, or to a port's configuration; or the oldest waiting access that may go on (R25, R262, R292, R370). -/
def execHostAccess (access : OutsideAccess) (pa size : Nat) (v : BitVec 64) (s : State) : Result :=
  .next <|
    match access.agent with
    | .host => if s.plat.step < 7 then reply s (.error 64) else outsideAccess s ⟨false, access.write, pa, size, v, s.stamp⟩
    | .peer => outsideAccess s ⟨true, access.write, pa, size, v, s.stamp⟩
    | .physical => if access.write then s else functionRead s pa
    | .tierPort => tierPortAccess s access.write pa
    | .queued =>
      match outsideNext s [] s.outside with
      | some i => (match s.outside[i]? with
        | some r => outsidePerform { s with outside := s.outside.eraseIdx i } r
        | none => s)
      | none => s

/-! ### Debug and trace (R293, R294, R316) -/

/-- A frame that a debug access reaches: of world 0, and neither CONTEXT nor FIRMWARE. -/
def debugReaches (s : State) (pa : Nat) : Bool :=
  let e := typeOf s (pa / 65536)
  hasType s (pa / 65536) && teWorld e == 0 && teType e != 6 && teType e != 8

/-- A warp whose core a debug access reaches: of a Headland or Tidemark core, or of a core latched to world 0 (R293). -/
def debugReachesWarp (s : State) (w : Nat) : Bool :=
  decide (w < 16) || ((coreOf s ((w - 16) / 64)).latch == .latched && (coreOf s ((w - 16) / 64)).world == 0)

/-- A debug access beyond its reach: it reads zero, changes nothing and sets DBGDENY. -/
def debugDenied (s : State) (die : Nat) (write : Bool) : State :=
  let t := setDie s die { dieOf s die with dbgdeny := true }
  if write then t else reply t (.read 0)

/-- A debug access that reaches a tenant core attaches the debugger to it (R316; assumption 32). -/
def attachDebugger (s : State) (w : Nat) : State :=
  if w < 16 then s else setCore s ((w - 16) / 64) { coreOf s ((w - 16) / 64) with debugger := true }

/-- A debug access to the byte at physical address `place`, or to scalar register `place` of a warp (R293; assumption 32). -/
def execJtagAccess (die : Nat) (write : Bool) (warp : Option Nat) (place : Nat) (v : BitVec 32) (s : State) : Result :=
  .next <|
    match warp with
    | none =>
      if debugReaches s place = false then debugDenied s die write
      else if homeOpen s noWarp 0 place = false then s
      else if write then outsideWrite s place 1 (v.toNat % 256)
      else outsideRead s place 1
    | some w =>
      let x := warpOf s w
      if debugReachesWarp s w = false ∨ 192 ≤ place then debugDenied s die write
      else
        let t := attachDebugger s w
        if write then (if x.status = .absent then t else setWarp t w { x with scalars := Tbl.set x.scalars place v })
        else reply t (.read ((Tbl.get 0 x.scalars place).setWidth 64))

/-- A TRAPPED warp goes on at the clause after the word of its trap. -/
def resumeAfter (w : Warp) (t : Trap) (status : WStatus) : Warp :=
  setEntry { w with trap := none, status := status } t.frag
    { entryOf w t.frag with pc := refAt t.pc (refOff t.pc + 1), left := 0 }

/-- The debugger continues a warp that is held at a `BKPT`, in world 0 (R293, R316). -/
def execDebugContinue (w : Nat) (s : State) : Result :=
  .next <|
    let v := warpOf s w
    let b := blockOf s v.blk
    match v.trap with
    | some t =>
      if v.status ≠ .trapped ∨ t.cause ≠ 11 ∨ b.world ≠ 0 ∨ (coreOf s v.core).debugger = false ∨
          (b.status ≠ .running ∧ b.status ≠ .halting) then s
      else
        let s1 := takeRecord s (v.core / 40) fun r => recordOfWarp b v.index r && r.take 2 == leBytes 2 11
        setWarp s1 w (resumeAfter v t (if b.status = .running then .running else .halting))
    | none => s

/-- A trace record leaves its die, or is dropped and counted when its world is not 0 (R294). -/
def execTraceRecord (die world : Nat) (v : BitVec 64) (s : State) : Result :=
  .next <|
    if world = 0 then reply s (.trace v) else setDie s die { dieOf s die with drops := countUp (dieOf s die).drops }

/-! ### Other requests (R13, R14) -/

/-- A request for an absent feature receives the standard's response and has no other effect (R14). -/
def execUnsupportedRequest (port code : Nat) (s : State) : Result :=
  .next <|
    reply s (.unsupported port code)
/-- The device answers an SPDM request (R13). -/
def execSpdmRequest (request : List Nat) (s : State) : Result := .next <| reply s (.spdm (Config.spdmAnswer request))

end Sys2Proof.Machine
end

