-- ==== Sys2Proof/Machine/Overlays.lean ====
section
/-! DEFINITION. Overlay words, major 0x45 (R177 to R179), and the events of the instruction store (R159 to R163, R178). A
store is numbered as in `storeOf`: 0 to 15 for the service cores, 16 + the core for a tenant core. -/

namespace Sys2Proof.Machine

/-! ### The words -/

/-- The reference of an overlay id with no slot (R158). -/
def noSlotRef (id : Nat) : Dword := mkRef id 0xFE 0 0

/-- The `CO` operation of an `OVLD` enters the list; the flag clears with the reference (R178). -/
def pushLoad (s : State) (slot : Nat) (begins : Bool) : State :=
  pushOp (setCur s (counterAdd (curWarp s) 1)) .a true { newOp s (.ovload slot begins) with counter := some 1 }

/-- The newest operation of the current warp has completed. -/
def finishNewest (s : State) : State :=
  match (curWarp s).pend.getLast? with
  | some o => finishCounted s s.cur o
  | none => s

/-- `OVLD` (R178). -/
def ovloadWord (s : State) (d : Nat) (v : Word) : State :=
  let sid := storeOf s.cur (curWarp s)
  let r := runnerOf s s.cur
  let id := (v.extractLsb' 0 20).toNat
  let k := (v.extractLsb' 20 2).toNat + 1
  match findSlot s (slotsOf s sid) r (noSlotRef id) with
  | some i =>
    let s1 := setSlots s sid (useSlot (slotsOf s sid) i r.tenant)
    let x := slotAt (slotsOf s1 sid) i
    let s2 := writeP (pushLoad s1 i false) d (mkRef id i x.gen 0)
    if x.state = .loading then s2 else finishNewest s2
  | none =>
    match chooseRun s sid r.mask k with
    | .run f =>
      let s1 := allocate s sid f k r id
      writeP (pushLoad s1 f true) d (mkRef id f (slotAt (slotsOf s1 sid) f).gen 0)
    | _ => finishNewest (writeP (pushLoad s 0xFE false) d (noSlotRef id))

/-- A word that reads a code reference without a transfer: a nonzero field stated as zero is *illegal instruction* (R8; R158
names *bad target* for transfers). -/
def refWord (s : State) (c : Dword) (k : State) : State :=
  if refBad c then takeTrap s 1 noLane ((codeWord s (curEntry s).here).setWidth 64) 0 else k

/-- `OVEVICT`: a current reference's overlay, unpinned, is evicted (R177). -/
def evictWord (s : State) (c : Dword) : State :=
  let sid := storeOf s.cur (curWarp s)
  let t := slotsOf s sid
  if isCurrent t (runnerOf s s.cur) c && !isPinned s sid (refSlot c) then setSlots s sid (evict t (refSlot c)) else s

/-- The `OVQ` status of a reference (R179). -/
def ovqStatus (s : State) (c : Dword) : Word :=
  let t := slotsOf s (storeOf s.cur (curWarp s))
  let x := slotAt t (refSlot c)
  if isCurrent t (runnerOf s s.cur) c then
    BitVec.ofNat 32 (256 * refSlot c + match x.state with
      | .ready => 0
      | .loading => 1
      | .poison => 7
      | .failed => x.code
      | .free => 2)
  else if refSlot c = 0xFE then 3 else 2

/-- Begins the load of an overlay and writes its reference (R178). -/
noncomputable def execOvld (p : Option Prefix) (d a : BitVec 7) (s : State) : Result :=
  word (.ovld p d a) s fun s => ovloadWord s (numD p d) (scaA s p a)
/-- Calls through a code reference (R177). -/
noncomputable def execOvcall (p : Option Prefix) (a : BitVec 7) (s : State) : Result :=
  word (.ovcall p a) s fun s => transferRef s (pairA s p a) (some (linkRef s))
/-- Jumps through a code reference (R177). -/
noncomputable def execOvjmp (p : Option Prefix) (a : BitVec 7) (s : State) : Result :=
  word (.ovjmp p a) s fun s => transferRef s (pairA s p a) none
/-- Returns through the link pair, in any overlay (R177). -/
noncomputable def execOvret (p : Option Prefix) (s : State) : Result :=
  word (.ovret p) s fun s => transferRef s (readP s 190) none
/-- Frees the slots of a current, unpinned overlay (R177). -/
noncomputable def execOvevict (p : Option Prefix) (a : BitVec 7) (s : State) : Result :=
  word (.ovevict p a) s fun s => refWord s (pairA s p a) (evictWord s (pairA s p a))
/-- The status of a code reference (R179). -/
noncomputable def execOvq (p : Option Prefix) (d a : BitVec 7) (s : State) : Result :=
  word (.ovq p d a) s fun s => refWord s (pairA s p a) (writeS s (numD p d) (ovqStatus s (pairA s p a)))

/-! ### Waiting references (R159, R161, R162) -/

/-- A fragment that waits for an overlay resolves its reference again. -/
def resumeReload (s : State) (w e : Nat) : State :=
  match (entryOf (warpOf s w) e).wait with
  | .reload c link own pop =>
    let t := asWarp s w e
    (match resolvePc t (storeOf w (curWarp t)) (runnerOf t w) (w, e) (curEntry t).left c with
      | (t', .go pc) =>
        let t2 := writeLink (if pop then popShelf t' w else t') link
        setFrag t2 { curEntry t2 with
          state := .leaf, wait := .none, pc := pc, fresh := false, aside := (curEntry t2).left != 0, readyAt := t2.stamp }
      | (t', .park) => t'
      | (t', .trap cause aux v) =>
        takeTrapAt (setFrag t' { curEntry t' with state := .leaf, wait := .none }) own cause noLane v aux)
  | _ => s

/-- A fragment that waits for its overlay tries again (R159, R162). -/
def execDemandReloadRetry (w e : Nat) (s : State) : Result := .next <| resumeReload s w e

/-- The fragments on a store that wait for the overlay in slot `i`. -/
def waitersFor (s : State) (sid i : Nat) : List (Nat × Nat) :=
  s.warps.flatMap fun w =>
    if storeOf w.1 w.2 = sid then
      (w.2.split.filter fun e => match e.2.wait with
        | .reload c _ _ _ => findSlot s (slotsOf s sid) (runnerOf s w.1) c == some i
        | _ => false).map fun e => (w.1, e.1)
    else []

/-- The `CO` operations of a store that wait for the load of slot `i`. -/
def loadsFor (s : State) (sid i : Nat) : List (Nat × PendOp) :=
  s.warps.flatMap fun w =>
    if storeOf w.1 w.2 = sid then
      (w.2.pend.filter fun o => !o.finished && match o.kind with
        | .ovload j _ => j == i
        | _ => false).map fun o => (w.1, o)
    else []

/-- The slots of an overlay that has been filled are used now (R162). -/
def noteFill (t : Tbl Slot) (i n stamp : Nat) : Tbl Slot :=
  (List.range n).foldl (fun m j => Tbl.set m (i + j) { slotAt m (i + j) with used := stamp }) t

/-- A load of slot `i` has ended: `CO` operations complete, and waiting fragments resolve in the same step (R161). -/
def loadEnds (s : State) (sid i : Nat) (x : Slot) : State :=
  let t := Tbl.set (slotsOf s sid) i { x with loads := 0 }
  let s1 := setSlots { s with stamp := s.stamp + 1 } sid (if x.state = .ready then noteFill t i x.count (s.stamp + 1) else t)
  let l := waitersFor s1 sid i
  let s2 := (loadsFor s1 sid i).foldl (fun t e => finishCounted t e.1 e.2) s1
  l.foldl (fun t e => resumeReload t e.1 e.2) s2

/-- For whom the load of a slot translates: the tenant that began it (R160). -/
def loaderOf (sid : Nat) (x : Slot) : Runner :=
  ⟨x.sharers.getLast?.getD 0, x.world, 0xFFFF, if sid < 16 then some (sid / 4) else none⟩

/-- The load of a slot waits for the accesses that the warp of the `OVLD` that began it issued before it (R225). -/
def loadWaits (s : State) (sid i : Nat) : Bool :=
  (loadsFor s sid i).any fun e => e.2.kind == .ovload i true && !olderPerformed (warpOf s e.1) e.2.id

/-- A load ends: the slot becomes READY, or FAILED with its code (R157, R160, R161). -/
def execSlotLoadComplete (core slot : Nat) (s : State) : Result :=
  .next <|
    let x := slotAt (slotsOf s core) slot
    if x.state ≠ .loading ∨ x.first ≠ slot ∨ x.count = 0 ∨ loadWaits s core slot = true then s
    else
      match loadImage s (loaderOf core x) x with
      | .ok ws => loadEnds s core slot { x with state := .ready, words := ws }
      | .error e => loadEnds s core slot { x with state := .failed, code := e }
/-- The store is that of a Tidemark core, which an error in it stops (R305, R343). -/
def isTideStore (core : Nat) : Bool := decide (core < 16 ∧ 2 ≤ core % 4)

/-- An uncorrectable error in a READY slot makes it POISON, and its reload begins (R160, R311); a Tidemark core stops, and its
reload waits (R343). -/
def execSlotError (core slot : Nat) (s : State) : Result :=
  .next <|
    let x := slotAt (slotsOf s core) slot
    if x.state ≠ .ready ∨ x.first ≠ slot ∨ x.count = 0 then s
    else
      let t := setSlots s core (Tbl.set (slotsOf s core) slot { x with state := .poison, loads := 1 })
      if isTideStore core && (svcOf s core).running then stopCore (setSvc t core { svcOf t core with failing := true }) core else t

/-- Bit 63 of HEARTBEAT is set, or a Tidemark core is still stopping: its store is not reloaded yet (R343). -/
def reloadHeld (s : State) (core : Nat) : Bool :=
  isTideStore core && ((svcOf s core).failing ||
    ((dieOf s (core / 4)).tcb != 0 && decide (2 ^ 63 ≤ leNat (readBytes s (dieOf s (core / 4)).tcb 8))))

/-- The words of an overlay read again from the frames of its image, line by line; none when a line is poison (R160). -/
def reloadWords (s : State) (x : Slot) (n : Nat) : Nat → Option (List Word)
  | 0 => some []
  | m + 1 =>
    match reloadWords s x n m with
    | none => none
    | some ws =>
      let pa := x.image.getD (128 * m / 0x4000) noPiece + 128 * m % 0x4000
      if isPoison s pa then none else some (ws ++ lineWords s pa m n)

/-- A reload in place ends: READY, or FAILED by poison in the frame (R160). -/
def execSlotReloadComplete (core slot : Nat) (s : State) : Result :=
  .next <|
    let x := slotAt (slotsOf s core) slot
    if x.state ≠ .poison ∨ x.first ≠ slot ∨ x.count = 0 ∨ reloadHeld s core = true then s
    else
      match reloadWords s x x.words.length ((x.words.length + 31) / 32) with
      | some ws => loadEnds s core slot { x with state := .ready, words := ws }
      | none => loadEnds s core slot { x with state := .failed, code := 8 }

end Sys2Proof.Machine
end

