-- ==== Sys2Proof/Machine/Services.lean ====
section
/-! DEFINITION. Headland and Tidemark as services: heartbeats, leaders, restarts and takeovers (R330 to R333, R340 to R346).
Headland acts through events, since the manual does not give the overlay at which its cores start; Tidemark's cores start at
overlay 0xFFFFE (R340; assumption 15). -/

namespace Sys2Proof.Machine

/-! ### Headland (R330 to R332) -/

/-- The lowest-numbered live instance. -/
def lowestLive (s : State) : Option Nat := (List.range (diesOf s)).find? fun d => (dieOf s d).live && !(dieOf s d).out

/-- Whom a reply concerns. -/
def replyWho (r : Reply) : Nat :=
  match r with
  | .accepted t _ => t
  | _ => 64

/-- A free nonce: an erasure that no hypervisor asked for has none (R332; assumption 1). -/
def freeNonce (s : State) : BitVec 256 :=
  (List.range 8).foldl (fun v i => v ||| ((Config.freeValue (s.freeCtr + i)).setWidth 256 <<< (32 * i))) 0

/-- A tenant is terminated and erased without a request (R332). -/
def eraseUnasked (s : State) (t : Nat) : State := startErasure { s with freeCtr := s.freeCtr + 8 } t (freeNonce s)

/-- A tenant's records become those of a replica again; a root moves as one that a memory record names (R276, R330). -/
def revertTenant (s : State) (t : Nat) (r : TenRec) : State :=
  let x := tenantOf s t
  if x.created && !r.created then eraseUnasked s t
  else moveRoot (setTenant s t { x with
    leaselim := r.leaselim, waymask := r.waymask, sched := r.sched, slotmask := r.slotmask, qtab := r.qtab
    world := if ownsFrame s t then x.world else r.world }) t r.root

/-- A change that the new leader's replica does not hold is undone (R330; assumption 37). -/
def revertChange (c : Change) (s : State) : State :=
  let s1 := { s with
    worlds := c.oldWorlds.foldl (fun t e => Tbl.set t e.1 e.2) s.worlds
    keys := c.oldKeys.foldl (fun t e => Tbl.set t e.1 e.2) s.keys }
  match c.tenant, c.oldRec with
  | some t, some r => revertTenant s1 t r
  | _, _ => s1

/-- A request in flight to the old leader is answered with an error, and the hypervisor sends it again. What the new leader `d` has
acknowledged is still replicated; what it has not, its replica does not hold (R330, R331). -/
def failRequests (s : State) (d : Nat) : State :=
  let s1 := s.tenants.foldl (fun u e =>
    if e.2.erasure.isSome then reply (setTenant u e.1 { tenantOf u e.1 with erasure := none }) (.error e.1) else u) s
  let s2 := s1.plat.changes.foldl (fun u c => match c.reply with
    | some r => reply u (.error (replyWho r))
    | none => u) s1
  let l := s2.plat.changes
  let s3 := { s2 with plat := { s2.plat with
    changes := (l.filter fun c => !c.left.contains d).map fun c => { c with reply := none } } }
  ((l.filter fun c => c.left.contains d).reverse).foldl (fun u c => revertChange c u) s3

/-- The lowest-numbered live instance becomes leader (R331). -/
def electLeader (s : State) : State :=
  match lowestLive s with
  | some d => if d = s.plat.leader then s else failRequests { s with plat := { s.plat with leader := d } } d
  | none => s

/-- The tenant runs on a die. -/
def tenantOnDie (s : State) (t d : Nat) : Bool := (List.range 5).any fun i => (tenantOf s t).sched.getLsbD (5 * d + i)

/-- A tenant of a die whose record was modified since its last replication is terminated and erased (R332). -/
def readopt (d : Nat) (s : State) (t : Nat) : State :=
  if (tenantOf s t).created && (tenantOf s t).modified && tenantOnDie s t d then
    eraseUnasked s t
  else s

/-- Every frame of a run of bytes is FIRMWARE. -/
def firmwareSpan (s : State) (a n : Nat) : Bool :=
  (List.range (n / 65536 + 2)).all fun i =>
    decide ((a + n - 1) / 65536 < a / 65536 + i) || teType (typeOf s (a / 65536 + i)) == 8

/-- Bytes of firmware images, placed in FIRMWARE frames. -/
def placeImages (s : State) (images : List (Nat × List (BitVec 8))) : State :=
  (images.filter fun e => firmwareSpan s e.1 e.2.length).foldl (fun t e => writeBytes t e.1 e.2) s

/-- The images on the flash are written into a die's firmware code window (R319). -/
def reloadImages (s : State) (d : Nat) : State :=
  let b := (dieOf s d).fwbase
  placeImages s (s.plat.images.filter fun e => decide (b ≤ e.1 ∧ e.1 + e.2.length ≤ b + 64 * 65536))

/-- A Headland core as it starts: its registers zero (R304; assumption 15). -/
def headlandWarp (role stamp : Nat) : Warp :=
  { Warp.blank with
    status := .running, width := 1, vregs := 1
    split := Tbl.set [] 0 { Entry.blank with
      state := .leaf, owned := 1, exec := 1, pc := Config.headlandStart role, parent := 15, readyAt := stamp, fresh := true } }

/-- A Headland core of a die starts, or is restarted: role 0 the pair, 1 the monitor (R304, R305, R318). -/
def startHeadland (s : State) (d role : Nat) : State :=
  let k := 4 * d + role
  setWarp (setSvc s k { SvcCore.blank with running := true, slots := (svcOf s k).slots, held := (svcOf s k).held }) k
    (headlandWarp role s.stamp)

/-- An instance that has failed is no longer live: its die's queues freeze, and it holds up no change (R330, R332). -/
def loseInstance (s : State) (d : Nat) : State :=
  electLeader (acknowledge (setDie s d { dieOf s d with live := false, frozen := true, beat := false }) d)

/-- An instance fails: its die's queues freeze. Then its images are written again, its pair starts again, and it re-adopts its
tenants (R318, R319, R330, R332). -/
def execHeadlandError (die : Nat) (s : State) : Result :=
  .next <|
    let x := dieOf s die
    if diesOf s ≤ die ∨ x.out = true then s
    else if x.live then loseInstance s die
    else
      let s1 := startHeadland (reloadImages (setDie s die { x with live := true, frozen := false }) die) die 0
      (List.range 64).foldl (readopt die) (electLeader s1)

/-- An instance sends a heartbeat, with its acknowledgement of the changes sent to it (R330, R331). -/
def execHeadlandHeartbeat (die : Nat) (s : State) : Result :=
  .next <|
    let x := dieOf s die
    if diesOf s ≤ die ∨ x.live = false ∨ x.out = true then s
    else acknowledge (setDie s die { x with beat := true }) die

/-- For 1 ms no heartbeat of the leader has come: it is no longer live, and the lowest live instance leads (R331). -/
def execLeaderLapse (s : State) : Result :=
  .next <|
    let d := s.plat.leader
    let x := dieOf s d
    if x.beat then setDie s d { x with beat := false } else loseInstance s d

/-- A die leaves service: its tenants' blocks are killed with cause 20 (R332). -/
def dieOut (s : State) (d : Nat) : State :=
  let s1 := loseInstance (setDie s d { dieOf s d with out := true }) d
  ((s1.blocks.filter fun e => isLive e.2 && e.2.core / 40 == d).map Prod.fst).foldl killMachine s1

/-- A failing monitor core is restarted by its pair; a second failure within 1 s takes the die out of service (R332). -/
def execMonitorCoreFailure (die : Nat) (again : Bool) (s : State) : Result :=
  .next <|
    let x := dieOf s die
    if diesOf s ≤ die then s
    else if again && x.monFail != 0 then dieOut s die
    else startHeadland (setDie s die { x with monFail := 1 }) die 1

/-! ### Tidemark's cores (R340, R343, R344) -/

/-- A service core's warp as Headland starts it for Tidemark: `s0:s1` the control block, `s2` the role. -/
def tideWarp (tcb role stamp : Nat) : Warp :=
  { Warp.blank with
    status := .running, width := 1, vregs := 1
    scalars := [BitVec.ofNat 32 tcb, BitVec.ofNat 32 (tcb / 2 ^ 32), BitVec.ofNat 32 role].zipIdx.foldl (fun t e => Tbl.set t e.2 e.1) []
    split := Tbl.set [] 0 { Entry.blank with
      state := .leaf, owned := 1, exec := 1, pc := mkRef 0xFFFFE 0xFE 0 0, parent := 15, readyAt := stamp, fresh := true } }

/-- Headland starts core `k` of a die with a role; its store keeps its overlays. -/
def startTide (s : State) (k role : Nat) : State :=
  let c := svcOf s k
  setWarp (setSvc s k { SvcCore.blank with running := true, slots := c.slots, held := c.held }) k
    (tideWarp (dieOf s (k / 4)).tcb role s.stamp)

/-- HEARTBEAT of a die. -/
def heartbeat (s : State) (d : Nat) : Nat := physGet s (tcbOf s d) 8

/-- The die has a control block whose HEARTBEAT Tidemark can store to. -/
def tideReady (s : State) (d : Nat) : Bool := decide (d < diesOf s) && tcbOf s d != 0 && physGood s (tcbOf s d)

/-- A Tidemark core begins to stop on an error. -/
def failCore (s : State) (k : Nat) : State := stopCore (setSvc s k { svcOf s k with failing := true }) k

/-- The active core takes an uncorrectable error: it stops, and when it is still its error logic stores to HEARTBEAT (R343). -/
def execTidemarkErrorStop (die : Nat) (s : State) : Result :=
  .next <|
    let k := activeCore s die
    if tideReady s die = false ∨ (svcOf s k).running = false then s
    else if coreStill (warpOf s k) then
      physPut (setSvc s k { svcOf s k with running := false, failing := false }) (tcbOf s die) 8 (2 ^ 63)
    else failCore s k

/-- The standby core takes an uncorrectable error: it stops, and Headland restarts it as standby (R343). -/
def execTidemarkStandbyError (die : Nat) (s : State) : Result :=
  .next <|
    let k := standbyCore s die
    if tideReady s die = false ∨ (svcOf s k).running = false then s
    else if coreStill (warpOf s k) then startTide s k 3
    else failCore s k

/-- Headland restarts a stopped Tidemark core as standby, once bit 63 of HEARTBEAT is clear (R343). -/
def execTidemarkRestart (die : Nat) (s : State) : Result :=
  .next <|
    let k := standbyCore s die
    if tideReady s die = false ∨ (svcOf s k).running = true ∨ 2 ^ 63 ≤ heartbeat s die then s else startTide s k 3

/-! ### The takeover (R333, R344, R345) -/

/-- Journal record `n` of a tenant is stored again: VALUE at ADDR (R345). A PLACE has no location (R333). -/
def replayRecord (t : Nat) (s0 : State) (n : Nat) : State :=
  let s := mendJournal s0 t (recordOff n)
  let a := journalBase s t + recordOff n
  let kind := physGet s a 4
  let addr := physGet s (a + 8) 8
  let v := physGet s (a + 16) 8
  if kind = 1 then (if physGood s addr then physPut s addr 4 v else s)
  else if kind = 3 then (if physGood s addr then physPut s addr 8 v else s)
  else if kind = 4 ∧ addr ≠ 0 then stampWrites s t (BitVec.ofNat 64 addr) [leBytes 8 v]
  else s

/-- The journal of a tenant is replayed in ascending order. -/
def replayJournal (s0 : State) (t : Nat) : State :=
  let s := mendJournal s0 t 0
  if (tenantOf s t).jframe = 0 ∨ physGood s (journalBase s t) = false then s
  else (List.range (min 2046 (journalCount s t))).foldl (replayRecord t) s

/-- The tenants that exist. -/
def createdTenants (s : State) : List Nat := (List.range 64).filter fun t => (tenantOf s t).created

/-- Every queue is treated as kicked once, and the scan begins at word 0 (R333). -/
def kickAll (s : State) (d : Nat) : State :=
  setDie s d { dieOf s d with
    scan := 0, serve := (createdTenants s).flatMap fun t => (List.range 64).map fun q => (t, q, none) }

/-- The standby takes over: the other core stops, HEARTBEAT is stored, the journals are replayed and every queue is served (R333, R344, R345). -/
def execTidemarkTakeover (die : Nat) (s : State) : Result :=
  .next <|
    let j := activeCore s die
    if tideReady s die = false ∨ (dieOf s die).out = true ∨ coreServes s (standbyCore s die) = false then s
    else if (svcOf s j).running = true ∧ coreStill (warpOf s j) = false then stopCore s j
    else
      let s1 := makeActive (physPut s (tcbOf s die) 8 0) (standbyCore s die) j
      kickAll ((createdTenants s1).foldl replayJournal s1) die

end Sys2Proof.Machine
end

