-- ==== Sys2Proof/Machine/Platform.lean ====
section
/-! DEFINITION. Supply and clocks, reset, life cycle, bring-up, the self-test, and the monitors (R273, R300, R319, R335, R336, R340,
R360, R363 to R370; assumption 4). No island state changes any result (R55). -/

namespace Sys2Proof.Machine

/-! ### Islands (R335, R363) -/

def islandOf (s : State) (i : Nat) : Island := Tbl.get Island.blank s.islands i
def setIsland (s : State) (i : Nat) (x : Island) : State := { s with islands := Tbl.set s.islands i x }

/-- The quadrant of a core in its die, and its island (R17, R363). -/
def quadrantOfCore (c : Nat) : Nat := c % 40 / 10
def islandOfCore (c : Nat) : Nat := 4 * (c / 40) + quadrantOfCore c

/-- The part has the island. -/
def isIsland (s : State) (i : Nat) : Bool :=
  decide (i < 4 * diesOf s ∨ (16 ≤ i ∧ i < 16 + diesOf s) ∨ (20 ≤ i ∧ i ≤ 23))

/-- The clock at which an island runs, in eighths of nominal: that of its cap, or of its droop where that is lower (R335, R363). A
stretched cycle counts as one of nominal length (R6). -/
def islandClock (s : State) (i : Nat) : Nat := min (islandOf s i).cap ((islandOf s i).droop.getD 8)

/-- An island of the GX9 that the part lacks (R25, R363). -/
def islandGone (s : State) (i : Nat) : Bool := decide (i < 16 ∨ (16 ≤ i ∧ i < 20)) && !isIsland s i

/-- An island detects a droop and stretches its clock (R335, R363). -/
def execDroopDetect (i : Nat) (s : State) : Result :=
  .next <|
    let x := islandOf s i
    if isIsland s i && x.droop.isNone then setIsland s i { x with droop := some 8 } else s
/-- A droop lasts longer than 2 µs: the clock steps down by an eighth, to no less than half (R335). -/
def execDroopStepDown (i : Nat) (s : State) : Result :=
  .next <|
    let x := islandOf s i
    match x.droop with
    | some k => setIsland s i { x with droop := some (max 4 (k - 1)) }
    | none => s
/-- The supply has held for 100 µs: the clock returns to nominal (R335). -/
def execDroopRecover (i : Nat) (s : State) : Result :=
  .next <|
    setIsland s i { islandOf s i with droop := none }
/-- Headland caps an island's clock at *k* eighths (R363). -/
def execIslandCap (i k : Nat) (s : State) : Result :=
  .next <|
    if islandGone s i then reply s (.absent i)
    else if isIsland s i && decide (4 ≤ k ∧ k ≤ 7) then setIsland s i { islandOf s i with cap := k } else s
/-- Headland lifts an island's cap (R363). -/
def execIslandUncap (i : Nat) (s : State) : Result :=
  .next <| if islandGone s i then reply s (.absent i) else setIsland s i { islandOf s i with cap := 8 }

/-- The package power limit lies in the range of the part (R363). -/
def powerGood (s : State) (watts : Nat) : Bool := match s.part with
  | .gx9 => decide (1000 ≤ watts ∧ watts ≤ 3200)
  | .gx9h => decide (500 ≤ watts ∧ watts ≤ 1650)

/-- The power limit after a reset: the part's greatest (assumption 4). -/
def powerMost (s : State) : Nat := match s.part with
  | .gx9 => 3200
  | .gx9h => 1650

/-- The hypervisor sets the package power limit (R363). -/
def execPowerLimitWrite (watts : Nat) (s : State) : Result :=
  .next <|
    if powerGood s watts then { s with plat := { s.plat with powerLimit := watts } } else reply s (.error 64)

/-! ### Reset (R336, R364) -/

/-- Cores that have failed or are quarantined stay so until the self-test clears them (R326). -/
def keepCores (s : State) : Tbl CoreSt :=
  s.cores.map fun e => (e.1, { CoreSt.blank with failed := e.2.failed, quarantined := e.2.quarantined, dark := e.2.dark })

/-- The package after a reset: all state inside it is wiped, and bring-up begins (R364, R365). Memory outside the package
keeps its bytes; the second tier keeps its own sealed under keys that no longer exist, so that each line reads as poison until it is
written whole (R289, R312). -/
def packageReset (s : State) : State :=
  { State.reset with
    part := s.part
    mem := s.mem.filter fun e => !isHbm s e.1
    poison := s.poison.filter fun a => !isHbm s a
    tierKept := some []
    cores := keepCores s
    plat := { Platform.reset with
      life := s.plat.life, transport := s.plat.transport, stopRecord := s.plat.stopRecord, seq := s.plat.seq
      portFailed := s.plat.portFailed, images := s.plat.images, powerLimit := powerMost s }
    freeCtr := s.freeCtr, out := s.out, stamp := s.stamp }

/-- A reset (R364). -/
def execReset (s : State) : Result := .next <| packageReset s

/-- A deep or long droop: issue stops, a signed stop record is written to the flash if there is time, the
links go down, and the package resets (R336). -/
def execOrderlyStop (i : Nat) (recorded : Bool) (s : State) : Result :=
  .next <|
    if isIsland s i = false then s
    else
      let t := reply (packageReset { s with freeCtr := s.freeCtr + 1 }) .stopped
      if recorded then { t with plat := { t.plat with stopRecord := signed (Config.stopRecord s.freeCtr) } } else t

/-- The life-cycle state that a command names. -/
def lifeOf (n : Nat) : Option LifeCycle := match n with
  | 0 => some .manufacture
  | 1 => some .deployed
  | 2 => some .returned
  | _ => none

/-- A signed SPDM command moves the part to another life-cycle state, with a wipe (R364). -/
def execLifecycleChange (dest : Nat) (signed : Bool) (s : State) : Result :=
  .next <|
    match lifeOf dest, signed with
    | some l, true =>
      let t := packageReset s
      { t with plat := { t.plat with life := l } }
    | _, _ => reply s (.error 64)

/-- Power-up: the wipe and the first step of bring-up; a set transport flag takes effect, and the TRANSPORT pin sets it (R364 to R366). -/
def execPowerUp (pinLow : Bool) (s : State) : Result :=
  .next <|
    let t := packageReset s
    { t with plat := { t.plat with testing := s.plat.transport, transport := s.plat.transport || pinLow } }

/-! ### Bring-up (R300, R319, R340, R360, R365) -/

/-- A frame becomes FIRMWARE at bring-up. -/
def typeFirmware (s : State) (f : Nat) : State :=
  if hasType s f then setType s f (mkType 8 0 0 0 ((teGen (typeOf s f) + 1) % 256) 0 0) else s

/-- A window that boot logic may choose: 64 HBM frames that have type entries (R319). -/
def windowGood (s : State) (base : Nat) : Bool :=
  decide (base % 65536 = 0) && (List.range 64).all fun i => isHbm s (base + 65536 * i) && hasType s (base / 65536 + i)

/-- A control block that Headland may choose: an aligned place in an HBM frame that has a type entry (R341). -/
def controlGood (s : State) (tcb : Nat) : Bool := decide (tcb % 256 = 0) && isHbm s tcb && hasType s (tcb / 65536) && tcb != 0

/-- Rows of a stack that one copy of a die's type entries takes: 16 bytes for each frame of its HBM, of its share of the second
tier, and of host regions, at 1 MiB a row of each bank (R275; assumption 4). -/
def entryRows : Nat := 640

/-- The frames of one copy of a die's type entries, from a row of the stack that holds frame `f`. -/
def entryFrames (s : State) (f : Nat) : List Nat :=
  let n := stackCount s
  let h := hbmStack s (f * 65536)
  (List.range entryRows).flatMap fun i =>
    let r := f / 16 / n + i
    (List.range 16).map fun b => 16 * (n * r + (h + n - r % n) % n) + b

/-- The two copies of a die's type entries stand in different stacks of its own HBM (R275, R311). -/
def entriesGood (s : State) (d f g : Nat) : Bool :=
  let home (x : Nat) : Bool := isHbm s (x * 65536) && homeDie s (x * 65536) == d
  home f && home g && isHbm s ((entryFrames s f).getLastD 0 * 65536) && isHbm s ((entryFrames s g).getLastD 0 * 65536) &&
    hbmStack s (f * 65536) != hbmStack s (g * 65536)

/-- Every die has its choices: FWBASE, the control block, and a frame of each copy of its type entries, die by die. -/
def choicesGood (s : State) (l : List Nat) : Bool :=
  (List.range (diesOf s)).all fun d => windowGood s (l.getD (4 * d) 1) && controlGood s (l.getD (4 * d + 1) 0) &&
    entriesGood s d (l.getD (4 * d + 2) 0) (l.getD (4 * d + 3) 0)

/-- The frames of a die's choice are typed, and its registers take them. -/
def placeFirmware (l : List Nat) (s : State) (d : Nat) : State :=
  let base := l.getD (4 * d) 1
  let tcb := l.getD (4 * d + 1) 0
  let fs := (List.range 64).map (fun i => base / 65536 + i) ++ [tcb / 65536] ++ entryFrames s (l.getD (4 * d + 2) 0) ++
    entryFrames s (l.getD (4 * d + 3) 0)
  let s2 := fs.foldl (fun t f => if teType (typeOf t f) = 8 then t else typeFirmware t f) s
  setDie s2 d { dieOf s2 d with fwbase := base, tcb := tcb }

/-- Step 3: the type entries, the firmware windows and their images, which the flash keeps. -/
def bringFirmware (s : State) (windows : List Nat) (images : List (Nat × List (BitVec 8))) : State :=
  let t := placeImages ((List.range (diesOf s)).foldl (placeFirmware windows) s) images
  { t with plat := { t.plat with images := images } }

/-- Expanders in ascending port order, each from a 1 GiB boundary, as far as the second-tier range of 8 TiB goes (R186, R360). -/
def capTiers (l : List (Nat × Nat)) (room : Nat) : Tbl Nat :=
  match l with
  | [] => []
  | (n, p) :: t =>
    let k := min n room
    let r := room - (k + 2 ^ 30 - 1) / 2 ^ 30 * 2 ^ 30
    if k = 0 then capTiers t r else (p, k) :: capTiers t r

/-- Capacities of the second-tier ports: none on the GX9-H, and at most 14 (R359, R360). -/
def tierTable (s : State) (tiers : List Nat) : Tbl Nat := match s.part with
  | .gx9 => capTiers (tiers.take 14).zipIdx (2 ^ 43)
  | .gx9h => []

/-- Step 4: the second-tier ports train, an instance leads, and the service cores start. -/
def bringPorts (s : State) (tiers : List Nat) : State :=
  let t := electLeader { s with plat := { s.plat with
    tiers := tierTable s tiers, cap1 := BitVec.ofNat 32 (((tierTable s tiers).map Prod.snd).sum / 2 ^ 30) } }
  (List.range (diesOf t)).foldl (fun u d =>
    startHeadland (startHeadland (startTide (startTide u (tideCore d 2) 2) (tideCore d 3) 3) d 0) d 1) t

/-- Step 6: the host port presents its functions, and a stop record is reported (R336, R365). -/
def bringHost (s : State) : State :=
  if s.plat.stopRecord.isEmpty then s
  else reply { s with plat := { s.plat with stopRecord := [] } } (.report s.plat.stopRecord)

/-- The step of bring-up in progress has done its work. -/
def bringWork (s : State) (windows tiers : List Nat) (images : List (Nat × List (BitVec 8))) : State :=
  if s.plat.step = 3 then bringFirmware s windows images
  else if s.plat.step = 4 then bringPorts s tiers
  else if s.plat.step = 6 then bringHost s else s

/-- The step of bring-up in progress completes, and the next begins; or it fails, and bring-up stops with its number (R365). -/
def execBringupStepComplete (ok : Bool) (windows tiers : List Nat) (images : List (Nat × List (BitVec 8))) (s : State) : Result :=
  .next <|
    let n := s.plat.step
    if 7 ≤ n ∨ s.plat.failed = true ∨ (n = 5 ∧ ok = true ∧ s.plat.testing = true) ∨
      (n = 3 ∧ ok = true ∧ choicesGood s windows = false) then s
    else if ok = false then { s with plat := { s.plat with failed := true, statusReg := n } }
    else
      let t := bringWork s windows tiers images
      { t with plat := { t.plat with step := n + 1 } }

/-! ### Transport and the self-test (R366) -/

/-- An SPDM vendor command sets the transport flag (R366). -/
def execTransportFlagSet (s : State) : Result := .next <| { s with plat := { s.plat with transport := true } }

/-- The report: VERSION, SEQ, and the result words of cores, ports and stacks, signed. -/
def reportBytes (seq : Nat) (results : List Nat) : List Byte :=
  signed (leBytes 4 1 ++ leBytes 4 0 ++ leBytes 8 seq ++ ((List.range 244).flatMap fun i => leBytes 4 (results.getD i 0)) ++ zeros 32)

/-- A core that passes leaves quarantine; one that fails stays out of service. -/
def testCore (results : List Nat) (s : State) (c : Nat) : State :=
  let bad := results.getD c 0 != 0
  if bad then setCore s c { coreOf s c with quarantined := true }
  else setCore s c { coreOf s c with failed := false, quarantined := false, dark := false }

/-- The extended self-test ends: its report is written, the flag is cleared, and what passed leaves quarantine (R366). -/
def execSelfTestComplete (results : List Nat) (s : State) : Result :=
  .next <|
    if s.plat.step ≠ 5 ∨ s.plat.testing = false then s
    else
      let t := (List.range (coreCount s)).foldl (testCore results) s
      { t with plat := { t.plat with
        testing := false, transport := false, report := reportBytes s.plat.seq results
        portFailed := (List.range (portCount s)).filter fun p => results.getD (160 + p) 0 != 0 } }

/-! ### Monitors (R367 to R369) -/

/-- The hypervisor selects the events of a tenant's monitors (R367). -/
def execPmonSelectWrite (t : Nat) (v : BitVec 32) (s : State) : Result :=
  .next <|
    if isTenant t then setTenant s t { tenantOf s t with pmsel := v } else reply s (.error t)

/-- The dies that have monitors: every die of the part (R15, R16). -/
def isDie (s : State) (d : Nat) : Bool := decide (d < diesOf s ∨ d = 4 ∨ d = 5 ∨ (8 ≤ d ∧ d < 8 + stackCount s))

/-- A monitor of a die takes a value; a die that the part lacks answers *unit absent* (R2, R25). -/
def setHist (s : State) (d n : Nat) (h : Hist) : State :=
  if isDie s d = false then (if d < 4 ∨ (8 ≤ d ∧ d < 20) then reply s (.absent d) else s)
  else if n < 16 then setDie s d { dieOf s d with hists := Tbl.set (dieOf s d).hists n h } else s

/-- CLR: bins and MAX become 0, MIN all ones (R368). -/
def histClear (h : Hist) : Hist := { h with bins := [], min := 0xFFFFFFFF, max := 0 }

/-- A write of the control register (R368). -/
def histControl (h : Hist) (v : Word) : Hist :=
  let x := { h with en := v.getLsbD 31, isl := v.extractLsb' 16 8, ten := v.extractLsb' 8 8, src := v.extractLsb' 0 4 }
  if v.getLsbD 30 then histClear x else x

/-- The bin of a sample (R368). -/
def binOf (v : Word) : Nat := if v.toNat ≤ 1 then 0 else min 15 (Nat.log2 v.toNat)

/-- The monitor takes samples of a source, an island and a tenant. -/
def histTakes (h : Hist) (src isl t : Nat) : Bool :=
  h.en && decide (h.src.toNat = src ∧ src ≤ 4) && (h.ten == 0xFF#8 || h.ten.toNat == t) && (src != 4 || h.isl.toNat == isl)

/-- A sample enters a monitor (R368). -/
def histAdd (h : Hist) (v : Word) : Hist :=
  let b := Tbl.get 0 h.bins (binOf v)
  { h with
    bins := Tbl.set h.bins (binOf v) (countUp b)
    min := if v.toNat < h.min.toNat then v else h.min
    max := if h.max.toNat < v.toNat then v else h.max }

/-- The control register of a histogram monitor is written (R368). -/
def execHistogramControlWrite (die n : Nat) (v : BitVec 32) (s : State) : Result :=
  .next <|
    setHist s die n (histControl (histOf s die n) v)
/-- A write of CLR clears a monitor (R369). -/
def execHistogramClear (die n : Nat) (s : State) : Result := .next <| setHist s die n (histClear (histOf s die n))
/-- A monitor takes a sample, if it is enabled for it (R368, R369). -/
def execHistogramSample (die n src isl t : Nat) (v : BitVec 32) (s : State) : Result :=
  .next <|
    let h := histOf s die n
    if histTakes h src isl t then setHist s die n (histAdd h v) else s

end Sys2Proof.Machine
end

