-- ==== Sys2Proof/Machine/Rings.lean ====
section
/-! DEFINITION. The copy ring of a block (R227 to R234): NOTIFY, the checks of an entry, the copy, its stamp and its
swizzle tags. A copy is performed in one step (assumption 14). -/

namespace Sys2Proof.Machine

/-! ### Entries (R227, R229) -/

/-- Entries of the block's ring. -/
def ringN (b : Block) : Nat := b.cmd.ring

/-- The address of an offset of the ring region. -/
def ringVa (b : Block) (off : Nat) : Dword := BitVec.ofNat 64 (ringBase b + off)

/-- The block's ring is served: the block runs, and its region is mapped (R227, R248). -/
def ringServed (b : Block) : Bool := b.status == .running && ringMapped b

/-- A little-endian number in a run of bytes. -/
def fieldOf (l : List Byte) (off n : Nat) : Nat := leNat ((l.drop off).take n)

/-- Fields of CTL. -/
def ctlKind (c : Nat) : Nat := c % 16
def ctlStamp (c : Nat) : Bool := c.testBit 4
def ctlRec (c : Nat) : Nat := c / 256 % 16
def ctlMirror0 (c : Nat) : Bool := c.testBit 12
def ctlMirror1 (c : Nat) : Bool := c.testBit 13
def ctlSwz (c : Nat) : Nat := c / 65536 % 8
def ctlReserved (c : Nat) : Bool := c / 32 % 8 != 0 || c / 16384 % 4 != 0 || c / 2 ^ 19 != 0

/-- Fields of a layout record (R232). -/
def recBase (l : List Byte) : Nat := fieldOf l 0 8
def recD0 (l : List Byte) : Nat := fieldOf l 8 2
def recD1 (l : List Byte) : Nat := fieldOf l 10 2
def recStride (l : List Byte) : Nat := fieldOf l 12 4
def recEsz (l : List Byte) : Nat := fieldOf l 16 1
def recBoxW (l : List Byte) : Nat := fieldOf l 17 1 + 1
def recBoxH (l : List Byte) : Nat := fieldOf l 18 1 + 1
def recBorder (l : List Byte) : Bool := (fieldOf l 19 1).testBit 0

/-- A record breaks a rule of R232. -/
def recBad (l : List Byte) : Bool :=
  decide (3 < recEsz l) || decide (recBase l % 2 ^ recEsz l ≠ 0) || recD0 l == 0 || recD1 l == 0 ||
    decide (recStride l < recD0 l * 2 ^ recEsz l) || fieldOf l 19 1 / 2 != 0 || fieldOf l 20 12 != 0

/-- Payload bytes of an entry. -/
def payloadLen (c : RingCopy) : Nat :=
  if ctlKind c.ctl = 1 then recBoxW c.layout * recBoxH c.layout * 2 ^ recEsz c.layout else c.len

/-- Where the stamp goes (R231). -/
def stampVa (c : RingCopy) : Nat := c.dst + 8 * ((payloadLen c + 7) / 8)

/-! ### Checks (R230) -/

/-- The checks of code 1, and those of code 2 that need no translation. -/
def entryCode (c : RingCopy) : Nat :=
  if 3 ≤ ctlKind c.ctl then 1
  else if ctlReserved c.ctl || (ctlKind c.ctl == 1 && c.src != 0) || (ctlStamp c.ctl && c.dst % 8 != 0) ||
      (ctlKind c.ctl == 1 && recBad c.layout) ||
      (ctlSwz c.ctl != 0 && (c.dst % 128 != 0 || payloadLen c % 128 != 0)) then 2
  else 0

/-- Addresses at which a range of `n` bytes meets a page, in ascending order. -/
def pagesOf (va n : Nat) : List Nat :=
  if n = 0 then []
  else (List.range ((va + n - 1) / 65536 + 1 - va / 65536)).map fun i => max va ((va / 65536 + i) * 65536)

/-- Translation and permission of pages: the physical addresses, or code 3 or 5. -/
def checkPages (s : State) (c : Client) (store : Bool) : List Nat → Except Nat (List Nat)
  | [] => .ok []
  | p :: t =>
    match engUnit s c store (BitVec.ofNat 64 p) 1 with
    | .ok u => (checkPages s c store t).map (u.pa :: ·)
    | .poison => .error 5
    | _ => .error 3

/-- The bytes of the tensor of a record. -/
def tensorLen (l : List Byte) : Nat := recStride l * (recD1 l - 1) + recD0 l * 2 ^ recEsz l

/-- The ranges that an entry reads and writes; the stamp belongs to the destination. -/
def readPages (c : RingCopy) : List Nat :=
  if ctlKind c.ctl = 1 then [] else pagesOf c.src c.len
def writePages (c : RingCopy) : List Nat :=
  pagesOf c.dst (if ctlStamp c.ctl then stampVa c + 8 - c.dst else payloadLen c)
def tensorPages (c : RingCopy) : List Nat :=
  if ctlKind c.ctl = 1 then pagesOf (recBase c.layout) (tensorLen c.layout) else []

/-- The placement checks: sources outside the peer windows, the destination on its side of them (R229). -/
def placedWrong (c : RingCopy) (src dst ten : List Nat) : Bool :=
  src.any isPeer || ten.any isPeer || (if ctlKind c.ctl = 2 then dst.any fun p => !isPeer p else dst.any isPeer)

/-- Steps 2 to 5 of R230: a code, or 0. -/
def entryCheck (s : State) (k : Nat) (c : RingCopy) : Nat :=
  let e := entryCode c
  if e ≠ 0 then e
  else
    let cl := blockClient s k
    match checkPages s cl false (readPages c), checkPages s cl true (writePages c), checkPages s cl false (tensorPages c) with
    | .error x, _, _ => x
    | .ok _, .error x, _ => x
    | .ok _, .ok _, .error x => x
    | .ok src, .ok dst, .ok ten => if placedWrong c src dst ten then 2 else 0

/-! ### The ring's words -/

/-- A 4-byte number of the ring region, with the state after the read. -/
def ringGet (s : State) (k off : Nat) : State × Option Nat :=
  match engRead s (blockClient s k) (ringVa (blockOf s k) off) 4 with
  | (s', .ok l) => (s', some (leNat l))
  | _ => (s, none)

/-- The engine writes a 4-byte number of the ring region. -/
def ringPut (s : State) (k off v : Nat) : State :=
  match engWrite s (blockClient s k) (ringVa (blockOf s k) off) (leBytes 4 v) with
  | (s', _) => s'

def setRing (s : State) (k : Nat) (r : Ring) : State := setBlock s k { blockOf s k with ring := r }

/-- The ring stops with a code: ERROR is written, and no further entry is taken (R230). -/
def ringStop (s : State) (k code n : Nat) (skip : Bool) : State :=
  let s1 := ringPut s k (ringC (blockOf s k) + 8) (code * 2 ^ 24 + n % 2 ^ 24)
  setRing s1 k { (blockOf s1 k).ring with stopped := true, skip := skip }

/-- The line that the block wrote in the interval is read by the engine (R323). -/
def engineReads (s : State) (k va : Nat) : State :=
  if (blockOf s k).slog.any fun e => e.1 == va / 128 * 128 then ineligible s k else s

/-- A store to NOTIFY has been performed: the engine reads it, and a stopped ring whose ERROR is zero goes on (R228, R230). -/
def execRingNotify (blk : Nat) (s : State) : Result :=
  .next <|
    let b := blockOf s blk
    if ringServed b = false ∨ b.ring.stored = false then s
    else
      let c := ringC b
      match ringGet s blk c, ringGet s blk (c + 8), ringGet s blk (c + 4) with
      | (s1, some n), (_, some e), (_, some h) =>
        let s2 := engineReads s1 blk (ringBase b + c)
        let r : Ring := { (blockOf s2 blk).ring with notify := some n, stored := false }
        if r.stopped = true ∧ e = 0 then
          setRing (if r.skip then ringPut s2 blk (c + 4) ((h + 1) % 2 ^ 32) else s2) blk { r with stopped := false, skip := false }
        else setRing s2 blk r
      | _, _, _ => s

/-- An entry as read: its words, and for TILE its layout record. -/
def readCopy (s : State) (k n : Nat) : State × Option RingCopy :=
  let b := blockOf s k
  let cl := blockClient s k
  match engReads s cl (ringVa b (32 * (n % ringN b))) 32 with
  | (s1, .ok e) =>
    let c : RingCopy := ⟨n, fieldOf e 0 8, fieldOf e 8 8, fieldOf e 16 4, fieldOf e 20 4, fieldOf e 24 8, []⟩
    if ctlKind c.ctl = 1 then
      (match engReads s1 cl (ringVa b (ringC b + 128 + 32 * ctlRec c.ctl)) 32 with
        | (s2, .ok l) => (s2, some { c with layout := l })
        | _ => (s, none))
    else (s1, some c)
  | _ => (s, none)

/-- The engine takes the entry at HEAD: its checks, HEAD + 1, and the start of the copy (R228, R230, R323). -/
def execRingEntryTake (blk : Nat) (s : State) : Result :=
  .next <|
    let b := blockOf s blk
    if ringServed b = false ∨ b.ring.stopped = true then s
    else
      match ringGet s blk (ringC b + 4), b.ring.notify with
      | (s1, some h), some n =>
        if h = n then s
        else if ringN b < (n + 2 ^ 32 - h) % 2 ^ 32 then ringStop s1 blk 4 h true
        else
          (match readCopy s1 blk h with
            | (s2, some c) =>
              let code := entryCheck s2 blk c
              if code ≠ 0 then ringStop s2 blk code h true
              else
                let s3 := ineligible (ringPut s2 blk (ringC b + 4) ((h + 1) % 2 ^ 32)) blk
                setRing s3 blk { (blockOf s3 blk).ring with copies := (blockOf s3 blk).ring.copies ++ [c] }
            | _ => s)
      | _, _ => s

/-! ### The copy (R229, R231 to R234) -/

/-- A coordinate of extent `d` resolved (R233): none for an element of zeros. -/
def mirror (c : Int) (d : Nat) (bit border : Bool) : Option Nat :=
  if 0 ≤ c ∧ c < d then some c.toNat
  else if bit = false then none
  else if border then
    let m := (c % (2 * d : Nat)).toNat
    some (if m < d then m else 2 * d - 1 - m)
  else if d = 1 then some 0
  else
    let m := (c % (2 * d - 2 : Nat)).toNat
    some (if m < d then m else 2 * d - 2 - m)

/-- Addresses of the box elements, row after row: none for zeros. -/
def boxVas (c : RingCopy) : List (Option Nat) :=
  let l := c.layout
  let col : Int := (BitVec.ofNat 16 c.len).toInt
  let row : Int := (BitVec.ofNat 16 (c.len / 65536)).toInt
  (List.range (recBoxH l)).flatMap fun (y : Nat) => (List.range (recBoxW l)).map fun (x : Nat) =>
    match mirror (row + (y : Int)) (recD1 l) (ctlMirror1 c.ctl) (recBorder l),
        mirror (col + (x : Int)) (recD0 l) (ctlMirror0 c.ctl) (recBorder l) with
    | some r, some q => some (recBase l + r * recStride l + q * 2 ^ recEsz l)
    | _, _ => none

/-- The box elements are read. -/
def readBox (s : State) (cl : Client) (n : Nat) : List (Option Nat) → State × Eng (List Byte)
  | [] => (s, .ok [])
  | none :: t =>
    match readBox s cl n t with
    | (s1, .ok l) => (s1, .ok (List.replicate n 0 ++ l))
    | r => r
  | some a :: t =>
    match engReads s cl (BitVec.ofNat 64 a) n with
    | (s1, .ok d) =>
      (match readBox s1 cl n t with
        | (s2, .ok l) => (s2, .ok (d ++ l))
        | r => r)
    | r => r

/-- The payload of a copy. -/
def payload (s : State) (cl : Client) (c : RingCopy) : State × Eng (List Byte) :=
  if ctlKind c.ctl = 1 then readBox s cl (2 ^ recEsz c.layout) (boxVas c)
  else engReads s cl (BitVec.ofNat 64 c.src) c.len

/-- The payload as it lies at the destination: byte `x` of a line stands at its swizzled offset (R234). -/
def swizzled (sel : Nat) (d : List Byte) : List Byte :=
  if sel = 0 then d
  else d.zipIdx.map fun e => d.getD (e.2 / 128 * 128 + ((e.2 % 128 / 16) ^^^ sel) * 16 + e.2 % 16) e.1

/-- What a run of writes by the engine comes to: a refused line is logged and skipped (R281, R287; assumption 14), and a poisoned
one stays as it is (R205). -/
def engineWrites (s : State) (cl : Client) (va : Nat) (d : List Byte) : List (Nat × Nat) → State × Eng Unit
  | [] => (s, .ok ())
  | (o, n) :: t =>
    match engWrite s cl (BitVec.ofNat 64 (va + o)) ((d.drop o).take n) with
    | (s1, .ok _) => engineWrites s1 cl va d t
    | (s1, .refused e) =>
      let x := tenantOf s1 cl.tenant
      let s2 := setTenant s1 cl.tenant { x with vlog := vlogPush x.vlog (vlogEntry e (BitVec.ofNat 64 (va + o))) }
      engineWrites (pmonCount s2 cl.tenant 6 1) cl va d t
    | (s1, .poison) =>
      (match engUnit s cl true (BitVec.ofNat 64 (va + o)) n with
        | .ok _ => engineWrites s1 cl va d t
        | _ => (s1, .poison))
    | r => r

/-- Lines of the block's stash in a range take a tag; on a gang, those of the lower core, whose engine writes them (R227, R234). -/
def tagLines (s : State) (k va n tag : Nat) : State :=
  let b := blockOf s k
  setBlock s k { b with lines := b.lines.map fun l => if l.va < va + n ∧ va < l.va + 128 ∧ l.up = false then { l with tag := tag } else l }

/-- A destination in a peer whose link is dead (R230, R334). -/
def copyLost (s : State) (cl : Client) (c : RingCopy) : Bool :=
  ctlKind c.ctl == 2 && (writePages c).any fun p => match engUnit s cl true (BitVec.ofNat 64 p) 1 with
    | .ok u => !linkAlive s u.pa
    | _ => false

/-- The copy leaves the list of those under way. -/
def copyGone (s : State) (k : Nat) (c : RingCopy) : State :=
  let b := blockOf s k
  let s1 := setRing s k { b.ring with copies := b.ring.copies.filter fun x => x.id != c.id }
  blockEnd s1 k

/-- The whole copy with its stamp: the state, or a code; nothing while a line is leased or locked. -/
def runCopy (s : State) (k : Nat) (c : RingCopy) : Except Nat (Option State) :=
  let cl := blockClient s k
  if copyLost s cl c then .error 5
  else
    match payload s cl c with
    | (_, .wait) => .ok none
    | (_, .poison) => .error 5
    | (s1, .ok d) =>
      let d := swizzled (ctlSwz c.ctl) d
      (match engineWrites s1 cl c.dst d (linesOf c.dst d.length) with
        | (_, .wait) => .ok none
        | (s2, .ok _) =>
          let s3 := tagLines s2 k c.dst d.length (ctlSwz c.ctl)
          if ctlStamp c.ctl = false then .ok (some s3)
          else
            (match engineWrites s3 cl (stampVa c) (leBytes 8 c.stamp) [(0, 8)] with
              | (_, .wait) => .ok none
              | (s4, .ok _) => .ok (some s4)
              | (_, .poison) => .error 5
              | _ => .error 3)
        | (_, .poison) => .error 5
        | _ => .error 3)
    | _ => .error 3

/-- The copy with a number. -/
def copyOf (b : Block) (c : Nat) : Option RingCopy := b.ring.copies.find? fun x => x.id == c

/-- The engine's write of `ERROR` must wait for its line (R196, R199). -/
def ringWaits (s : State) (k : Nat) : Bool :=
  let cl := blockClient s k
  match engUnit s cl true (ringVa (blockOf s k) (ringC (blockOf s k) + 8)) 4 with
  | .ok x => engWaits s cl x.pa
  | _ => false

/-- A copy finishes and writes its stamp, or the ring stops behind its entry (R230, R231). A code 5 of a copy also stands over the
code of an entry that stopped the ring before: HEAD is then not advanced past that entry, which is taken again (assumption 72). -/
def execRingCopyComplete (blk c : Nat) (s : State) : Result :=
  .next <|
    match copyOf (blockOf s blk) c with
    | none => s
    | some x =>
      match runCopy s blk x with
      | .ok none => s
      | .ok (some s1) => copyGone s1 blk x
      | .error e => if ringWaits s blk then s else copyGone (ringStop s blk e x.id false) blk x

end Sys2Proof.Machine
end

