-- ==== Sys2Proof/Machine/Scalar.lean ====
section
/-! DEFINITION. Scalar words (R110, R111). -/

namespace Sys2Proof.Machine

/-- A scalar result of two scalars. -/
def sca2 (s : State) (p : Option Prefix) (d a b : BitVec 7) (g : Word → Word → Word) : State :=
  writeS s (numD p d) (g (scaA s p a) (scaB s p b))

/-- A scalar result of one scalar. -/
def sca1 (s : State) (p : Option Prefix) (d a : BitVec 7) (g : Word → Word) : State :=
  writeS s (numD p d) (g (scaA s p a))

/-- 1 or 0. -/
def bit32 (b : Bool) : Word := if b then 1 else 0

/-- The sum (R110). -/
def execSadd (p : Option Prefix) (d a b : BitVec 7) (s : State) : Result :=
  word (.sadd p d a b) s fun s => sca2 s p d a b fun x y => x + y
/-- The difference (R110). -/
def execSsub (p : Option Prefix) (d a b : BitVec 7) (s : State) : Result :=
  word (.ssub p d a b) s fun s => sca2 s p d a b fun x y => x - y
/-- The low word of the product (R110). -/
def execSmul (p : Option Prefix) (d a b : BitVec 7) (s : State) : Result :=
  word (.smul p d a b) s fun s => sca2 s p d a b fun x y => x * y
/-- Bitwise AND (R110). -/
def execSand (p : Option Prefix) (d a b : BitVec 7) (s : State) : Result :=
  word (.sand p d a b) s fun s => sca2 s p d a b fun x y => x &&& y
/-- Bitwise OR (R110). -/
def execSor (p : Option Prefix) (d a b : BitVec 7) (s : State) : Result :=
  word (.sor p d a b) s fun s => sca2 s p d a b fun x y => x ||| y
/-- Bitwise XOR (R110). -/
def execSxor (p : Option Prefix) (d a b : BitVec 7) (s : State) : Result :=
  word (.sxor p d a b) s fun s => sca2 s p d a b fun x y => x ^^^ y
/-- A left shift (R84, R110). -/
def execSshl (p : Option Prefix) (d a b : BitVec 7) (s : State) : Result :=
  word (.sshl p d a b) s fun s => sca2 s p d a b fun x y => shl32 x (shiftCount y)
/-- A logical right shift (R84, R110). -/
def execSshr (p : Option Prefix) (d a b : BitVec 7) (s : State) : Result :=
  word (.sshr p d a b) s fun s => sca2 s p d a b fun x y => shr32 x (shiftCount y)
/-- An arithmetic right shift (R84, R110). -/
def execSsra (p : Option Prefix) (d a b : BitVec 7) (s : State) : Result :=
  word (.ssra p d a b) s fun s => sca2 s p d a b fun x y => sra32 x (shiftCount y)
/-- The signed minimum (R110). -/
def execSmin (p : Option Prefix) (d a b : BitVec 7) (s : State) : Result :=
  word (.smin p d a b) s fun s => sca2 s p d a b smin32
/-- The signed maximum (R110). -/
def execSmax (p : Option Prefix) (d a b : BitVec 7) (s : State) : Result :=
  word (.smax p d a b) s fun s => sca2 s p d a b smax32
/-- A copy (R110). -/
def execSmov (p : Option Prefix) (d a : BitVec 7) (s : State) : Result :=
  word (.smov p d a) s fun s => sca1 s p d a fun x => x
/-- 1 if less, signed (R110). -/
def execSslt (p : Option Prefix) (d a b : BitVec 7) (s : State) : Result :=
  word (.sslt p d a b) s fun s => sca2 s p d a b fun x y => bit32 (x.slt y)
/-- 1 if less, unsigned (R110). -/
def execSsltu (p : Option Prefix) (d a b : BitVec 7) (s : State) : Result :=
  word (.ssltu p d a b) s fun s => sca2 s p d a b fun x y => bit32 (x.ult y)
/-- 1 if equal (R110). -/
def execSseq (p : Option Prefix) (d a b : BitVec 7) (s : State) : Result :=
  word (.sseq p d a b) s fun s => sca2 s p d a b fun x y => bit32 (x == y)
/-- A scalar in every active lane (R110). -/
def execS2v (p : Option Prefix) (d a : BitVec 7) (s : State) : Result :=
  word (.s2v p d a) s fun s => putVec s p d fun _ => scaA s p a

/-! ### Major 0x0F (R111) -/

/-- The sum with the signed immediate (R111). -/
def execSaddi (p : Option Prefix) (d a i : BitVec 7) (s : State) : Result :=
  word (.saddi p d a i) s fun s => sca1 s p d a fun x => x + sext7 i
/-- A left shift by the immediate (R111). -/
def execSshli (p : Option Prefix) (d a i : BitVec 7) (s : State) : Result :=
  word (.sshli p d a i) s fun s => sca1 s p d a fun x => shl32 x i.toNat
/-- A logical right shift by the immediate (R111). -/
def execSshri (p : Option Prefix) (d a i : BitVec 7) (s : State) : Result :=
  word (.sshri p d a i) s fun s => sca1 s p d a fun x => shr32 x i.toNat
/-- AND with the signed immediate (R111). -/
def execSandi (p : Option Prefix) (d a i : BitVec 7) (s : State) : Result :=
  word (.sandi p d a i) s fun s => sca1 s p d a fun x => x &&& sext7 i
/-- OR with the signed immediate (R111). -/
def execSori (p : Option Prefix) (d a i : BitVec 7) (s : State) : Result :=
  word (.sori p d a i) s fun s => sca1 s p d a fun x => x ||| sext7 i
/-- The 64-bit sum with the signed immediate (R111). -/
def execSaddi64 (p : Option Prefix) (d a i : BitVec 7) (s : State) : Result :=
  word (.saddi64 p d a i) s fun s => writeP s (numD p d) (pairA s p a + i.signExtend 64)
/-- The 64-bit sum (R111). -/
def execSadd64 (p : Option Prefix) (d a b : BitVec 7) (s : State) : Result :=
  word (.sadd64 p d a b) s fun s => writeP s (numD p d) (pairA s p a + pairB s p b)
/-- The 64-bit difference (R111). -/
def execSsub64 (p : Option Prefix) (d a b : BitVec 7) (s : State) : Result :=
  word (.ssub64 p d a b) s fun s => writeP s (numD p d) (pairA s p a - pairB s p b)
/-- A copy of a pair (R111). -/
def execSmov64 (p : Option Prefix) (d a : BitVec 7) (s : State) : Result :=
  word (.smov64 p d a) s fun s => writeP s (numD p d) (pairA s p a)
/-- A 64-bit left shift by the immediate; 0 for 64 or more (R111). -/
def execSshli64 (p : Option Prefix) (d a i : BitVec 7) (s : State) : Result :=
  word (.sshli64 p d a i) s fun s => writeP s (numD p d) (pairA s p a <<< i.toNat)

end Sys2Proof.Machine
end

