-- ==== Sys2Proof/Machine/Dispatch.lean ====
section
/-! DEFINITION. Dispatch: one arm per constructor, each one call of the meaning. -/

namespace Sys2Proof.Machine

open Host in noncomputable
def exec (i : Instr) (s : State) : Host.Outcome State Fault Refusal :=
  match i with
  | .clause w a b l => Sys2Proof.Machine.execClause w a b l s
  | .iadd p d a b => Sys2Proof.Machine.execIadd p d a b s
  | .isub p d a b => Sys2Proof.Machine.execIsub p d a b s
  | .imul p d a b => Sys2Proof.Machine.execImul p d a b s
  | .imulh p d a b => Sys2Proof.Machine.execImulh p d a b s
  | .umulh p d a b => Sys2Proof.Machine.execUmulh p d a b s
  | .imin p d a b => Sys2Proof.Machine.execImin p d a b s
  | .imax p d a b => Sys2Proof.Machine.execImax p d a b s
  | .umin p d a b => Sys2Proof.Machine.execUmin p d a b s
  | .umax p d a b => Sys2Proof.Machine.execUmax p d a b s
  | .iabs p d a => Sys2Proof.Machine.execIabs p d a s
  | .ineg p d a => Sys2Proof.Machine.execIneg p d a s
  | .iadds p d a b => Sys2Proof.Machine.execIadds p d a b s
  | .isubs p d a b => Sys2Proof.Machine.execIsubs p d a b s
  | .uadds p d a b => Sys2Proof.Machine.execUadds p d a b s
  | .usubs p d a b => Sys2Proof.Machine.execUsubs p d a b s
  | .imad p d a b => Sys2Proof.Machine.execImad p d a b s
  | .and p d a b => Sys2Proof.Machine.execAnd p d a b s
  | .or p d a b => Sys2Proof.Machine.execOr p d a b s
  | .xor p d a b => Sys2Proof.Machine.execXor p d a b s
  | .andn p d a b => Sys2Proof.Machine.execAndn p d a b s
  | .not p d a => Sys2Proof.Machine.execNot p d a s
  | .shl p d a b => Sys2Proof.Machine.execShl p d a b s
  | .shr p d a b => Sys2Proof.Machine.execShr p d a b s
  | .sra p d a b => Sys2Proof.Machine.execSra p d a b s
  | .rol p d a b => Sys2Proof.Machine.execRol p d a b s
  | .popc p d a => Sys2Proof.Machine.execPopc p d a s
  | .clz p d a => Sys2Proof.Machine.execClz p d a s
  | .brev p d a => Sys2Proof.Machine.execBrev p d a s
  | .bfe p d a b => Sys2Proof.Machine.execBfe p d a b s
  | .bfi p d a b => Sys2Proof.Machine.execBfi p d a b s
  | .mov p d a => Sys2Proof.Machine.execMov p d a s
  | .sel p d a b => Sys2Proof.Machine.execSel p d a b s
  | .iaddi p d a imm => Sys2Proof.Machine.execIaddi p d a imm s
  | .shli p d a imm => Sys2Proof.Machine.execShli p d a imm s
  | .shri p d a imm => Sys2Proof.Machine.execShri p d a imm s
  | .srai p d a imm => Sys2Proof.Machine.execSrai p d a imm s
  | .andi p d a imm => Sys2Proof.Machine.execAndi p d a imm s
  | .ori p d a imm => Sys2Proof.Machine.execOri p d a imm s
  | .xori p d a imm => Sys2Proof.Machine.execXori p d a imm s
  | .roli p d a imm => Sys2Proof.Machine.execRoli p d a imm s
  | .imuli p d a imm => Sys2Proof.Machine.execImuli p d a imm s
  | .movi p d imm => Sys2Proof.Machine.execMovi p d imm s
  | .movhi p d imm => Sys2Proof.Machine.execMovhi p d imm s
  | .smovi p d imm => Sys2Proof.Machine.execSmovi p d imm s
  | .smovhi p d imm => Sys2Proof.Machine.execSmovhi p d imm s
  | .laneid p d => Sys2Proof.Machine.execLaneid p d s
  | .icmpEq p c d a b => Sys2Proof.Machine.execIcmpEq p c d a b s
  | .icmpNe p c d a b => Sys2Proof.Machine.execIcmpNe p c d a b s
  | .icmpLt p c d a b => Sys2Proof.Machine.execIcmpLt p c d a b s
  | .icmpLe p c d a b => Sys2Proof.Machine.execIcmpLe p c d a b s
  | .icmpGt p c d a b => Sys2Proof.Machine.execIcmpGt p c d a b s
  | .icmpGe p c d a b => Sys2Proof.Machine.execIcmpGe p c d a b s
  | .icmpLtu p c d a b => Sys2Proof.Machine.execIcmpLtu p c d a b s
  | .icmpLeu p c d a b => Sys2Proof.Machine.execIcmpLeu p c d a b s
  | .icmpGtu p c d a b => Sys2Proof.Machine.execIcmpGtu p c d a b s
  | .icmpGeu p c d a b => Sys2Proof.Machine.execIcmpGeu p c d a b s
  | .fcmpEq p c d a b => Sys2Proof.Machine.execFcmpEq p c d a b s
  | .fcmpNe p c d a b => Sys2Proof.Machine.execFcmpNe p c d a b s
  | .fcmpLt p c d a b => Sys2Proof.Machine.execFcmpLt p c d a b s
  | .fcmpLe p c d a b => Sys2Proof.Machine.execFcmpLe p c d a b s
  | .fcmpGt p c d a b => Sys2Proof.Machine.execFcmpGt p c d a b s
  | .fcmpGe p c d a b => Sys2Proof.Machine.execFcmpGe p c d a b s
  | .fcmpOrd p c d a b => Sys2Proof.Machine.execFcmpOrd p c d a b s
  | .fcmpUno p c d a b => Sys2Proof.Machine.execFcmpUno p c d a b s
  | .kand p d a b => Sys2Proof.Machine.execKand p d a b s
  | .kor p d a b => Sys2Proof.Machine.execKor p d a b s
  | .kxor p d a b => Sys2Proof.Machine.execKxor p d a b s
  | .kandn p d a b => Sys2Proof.Machine.execKandn p d a b s
  | .knot p d a => Sys2Proof.Machine.execKnot p d a s
  | .kmov p d a => Sys2Proof.Machine.execKmov p d a s
  | .ktos p d a => Sys2Proof.Machine.execKtos p d a s
  | .stok p d a => Sys2Proof.Machine.execStok p d a s
  | .kpopc p d a => Sys2Proof.Machine.execKpopc p d a s
  | .kffs p d a => Sys2Proof.Machine.execKffs p d a s
  | .xrd p d => Sys2Proof.Machine.execXrd p d s
  | .xwr p a => Sys2Proof.Machine.execXwr p a s
  | .kset p d a b => Sys2Proof.Machine.execKset p d a b s
  | .fadd p d a b => Sys2Proof.Machine.execFadd p d a b s
  | .fsub p d a b => Sys2Proof.Machine.execFsub p d a b s
  | .fmul p d a b => Sys2Proof.Machine.execFmul p d a b s
  | .ffma p d a b => Sys2Proof.Machine.execFfma p d a b s
  | .fmin p d a b => Sys2Proof.Machine.execFmin p d a b s
  | .fmax p d a b => Sys2Proof.Machine.execFmax p d a b s
  | .fabs p d a => Sys2Proof.Machine.execFabs p d a s
  | .fneg p d a => Sys2Proof.Machine.execFneg p d a s
  | .ffms p d a b => Sys2Proof.Machine.execFfms p d a b s
  | .fnfma p d a b => Sys2Proof.Machine.execFnfma p d a b s
  | .fclass p d a => Sys2Proof.Machine.execFclass p d a s
  | .ffloor p d a => Sys2Proof.Machine.execFfloor p d a s
  | .fceil p d a => Sys2Proof.Machine.execFceil p d a s
  | .ftrunc p d a => Sys2Proof.Machine.execFtrunc p d a s
  | .frint p d a => Sys2Proof.Machine.execFrint p d a s
  | .fscale p d a b => Sys2Proof.Machine.execFscale p d a b s
  | .frcp p d a => Sys2Proof.Machine.execFrcp p d a s
  | .frsq p d a => Sys2Proof.Machine.execFrsq p d a s
  | .fsqrt p d a => Sys2Proof.Machine.execFsqrt p d a s
  | .fexp2 p d a => Sys2Proof.Machine.execFexp2 p d a s
  | .flog2 p d a => Sys2Proof.Machine.execFlog2 p d a s
  | .fsin p d a => Sys2Proof.Machine.execFsin p d a s
  | .fcos p d a => Sys2Proof.Machine.execFcos p d a s
  | .ftanh p d a => Sys2Proof.Machine.execFtanh p d a s
  | .specialFunctionResult w op => Sys2Proof.Machine.execSpecialFunctionResult w op s
  | .cvtfi p d a => Sys2Proof.Machine.execCvtfi p d a s
  | .cvtfu p d a => Sys2Proof.Machine.execCvtfu p d a s
  | .cvtif p d a => Sys2Proof.Machine.execCvtif p d a s
  | .cvtuf p d a => Sys2Proof.Machine.execCvtuf p d a s
  | .cvtfh p d a => Sys2Proof.Machine.execCvtfh p d a s
  | .cvthf p d a => Sys2Proof.Machine.execCvthf p d a s
  | .cvtfb p d a => Sys2Proof.Machine.execCvtfb p d a s
  | .cvtbf p d a => Sys2Proof.Machine.execCvtbf p d a s
  | .qexp p d a b => Sys2Proof.Machine.execQexp p d a b s
  | .qman p d a b => Sys2Proof.Machine.execQman p d a b s
  | .dq p d a b => Sys2Proof.Machine.execDq p d a b s
  | .packm p d a b => Sys2Proof.Machine.execPackm p d a b s
  | .unpkm p d a b => Sys2Proof.Machine.execUnpkm p d a b s
  | .hadd2 p d a b => Sys2Proof.Machine.execHadd2 p d a b s
  | .hsub2 p d a b => Sys2Proof.Machine.execHsub2 p d a b s
  | .hmul2 p d a b => Sys2Proof.Machine.execHmul2 p d a b s
  | .hfma2 p d a b => Sys2Proof.Machine.execHfma2 p d a b s
  | .hmin2 p d a b => Sys2Proof.Machine.execHmin2 p d a b s
  | .hmax2 p d a b => Sys2Proof.Machine.execHmax2 p d a b s
  | .badd2 p d a b => Sys2Proof.Machine.execBadd2 p d a b s
  | .bsub2 p d a b => Sys2Proof.Machine.execBsub2 p d a b s
  | .bmul2 p d a b => Sys2Proof.Machine.execBmul2 p d a b s
  | .bfma2 p d a b => Sys2Proof.Machine.execBfma2 p d a b s
  | .bmin2 p d a b => Sys2Proof.Machine.execBmin2 p d a b s
  | .bmax2 p d a b => Sys2Proof.Machine.execBmax2 p d a b s
  | .shfl p d a b => Sys2Proof.Machine.execShfl p d a b s
  | .shflx p d a b => Sys2Proof.Machine.execShflx p d a b s
  | .shflu p d a b => Sys2Proof.Machine.execShflu p d a b s
  | .shfld p d a b => Sys2Proof.Machine.execShfld p d a b s
  | .nbl p d a => Sys2Proof.Machine.execNbl p d a s
  | .nbr p d a => Sys2Proof.Machine.execNbr p d a s
  | .nbx p d a => Sys2Proof.Machine.execNbx p d a s
  | .neighbourLatchComplete w op => Sys2Proof.Machine.execNeighbourLatchComplete w op s
  | .blut p d a b => Sys2Proof.Machine.execBlut p d a b s
  | .bluth p d a b => Sys2Proof.Machine.execBluth p d a b s
  | .bprm p d a b => Sys2Proof.Machine.execBprm p d a b s
  | .vredadd p d a => Sys2Proof.Machine.execVredadd p d a s
  | .vredmin p d a => Sys2Proof.Machine.execVredmin p d a s
  | .vredmax p d a => Sys2Proof.Machine.execVredmax p d a s
  | .vredfadd p d a => Sys2Proof.Machine.execVredfadd p d a s
  | .vscan p d a => Sys2Proof.Machine.execVscan p d a s
  | .vbcast p d a b => Sys2Proof.Machine.execVbcast p d a b s
  | .sadd p d a b => Sys2Proof.Machine.execSadd p d a b s
  | .ssub p d a b => Sys2Proof.Machine.execSsub p d a b s
  | .smul p d a b => Sys2Proof.Machine.execSmul p d a b s
  | .sand p d a b => Sys2Proof.Machine.execSand p d a b s
  | .sor p d a b => Sys2Proof.Machine.execSor p d a b s
  | .sxor p d a b => Sys2Proof.Machine.execSxor p d a b s
  | .sshl p d a b => Sys2Proof.Machine.execSshl p d a b s
  | .sshr p d a b => Sys2Proof.Machine.execSshr p d a b s
  | .ssra p d a b => Sys2Proof.Machine.execSsra p d a b s
  | .smin p d a b => Sys2Proof.Machine.execSmin p d a b s
  | .smax p d a b => Sys2Proof.Machine.execSmax p d a b s
  | .smov p d a => Sys2Proof.Machine.execSmov p d a s
  | .sslt p d a b => Sys2Proof.Machine.execSslt p d a b s
  | .ssltu p d a b => Sys2Proof.Machine.execSsltu p d a b s
  | .sseq p d a b => Sys2Proof.Machine.execSseq p d a b s
  | .s2v p d a => Sys2Proof.Machine.execS2v p d a s
  | .saddi p d a imm => Sys2Proof.Machine.execSaddi p d a imm s
  | .sshli p d a imm => Sys2Proof.Machine.execSshli p d a imm s
  | .sshri p d a imm => Sys2Proof.Machine.execSshri p d a imm s
  | .sandi p d a imm => Sys2Proof.Machine.execSandi p d a imm s
  | .sori p d a imm => Sys2Proof.Machine.execSori p d a imm s
  | .saddi64 p d a imm => Sys2Proof.Machine.execSaddi64 p d a imm s
  | .sadd64 p d a b => Sys2Proof.Machine.execSadd64 p d a b s
  | .ssub64 p d a b => Sys2Proof.Machine.execSsub64 p d a b s
  | .smov64 p d a => Sys2Proof.Machine.execSmov64 p d a s
  | .sshli64 p d a imm => Sys2Proof.Machine.execSshli64 p d a imm s
  | .ldb p d a b => Sys2Proof.Machine.execLdb p d a b s
  | .ldbu p d a b => Sys2Proof.Machine.execLdbu p d a b s
  | .ldh p d a b => Sys2Proof.Machine.execLdh p d a b s
  | .ldhu p d a b => Sys2Proof.Machine.execLdhu p d a b s
  | .ldw p d a b => Sys2Proof.Machine.execLdw p d a b s
  | .ldd p d a b => Sys2Proof.Machine.execLdd p d a b s
  | .ldq p d a b => Sys2Proof.Machine.execLdq p d a b s
  | .ldacq p d a b => Sys2Proof.Machine.execLdacq p d a b s
  | .stb p d a b => Sys2Proof.Machine.execStb p d a b s
  | .sth p d a b => Sys2Proof.Machine.execSth p d a b s
  | .stw p d a b => Sys2Proof.Machine.execStw p d a b s
  | .std p d a b => Sys2Proof.Machine.execStd p d a b s
  | .stq p d a b => Sys2Proof.Machine.execStq p d a b s
  | .strel p d a b => Sys2Proof.Machine.execStrel p d a b s
  | .sldw p d a imm => Sys2Proof.Machine.execSldw p d a imm s
  | .sldd p d a imm => Sys2Proof.Machine.execSldd p d a imm s
  | .sstw p d a imm => Sys2Proof.Machine.execSstw p d a imm s
  | .sstd p d a imm => Sys2Proof.Machine.execSstd p d a imm s
  | .sldacq p d a imm => Sys2Proof.Machine.execSldacq p d a imm s
  | .sstrel p d a imm => Sys2Proof.Machine.execSstrel p d a imm s
  | .tld p d a b => Sys2Proof.Machine.execTld p d a b s
  | .tst p d a b => Sys2Proof.Machine.execTst p d a b s
  | .tlda p d a b => Sys2Proof.Machine.execTlda p d a b s
  | .tstr p d a b => Sys2Proof.Machine.execTstr p d a b s
  | .tileLockAcquire w op => Sys2Proof.Machine.execTileLockAcquire w op s
  | .tileLockRetry w op => Sys2Proof.Machine.execTileLockRetry w op s
  | .aadd p d a b => Sys2Proof.Machine.execAadd p d a b s
  | .amin p d a b => Sys2Proof.Machine.execAmin p d a b s
  | .amax p d a b => Sys2Proof.Machine.execAmax p d a b s
  | .aumin p d a b => Sys2Proof.Machine.execAumin p d a b s
  | .aumax p d a b => Sys2Proof.Machine.execAumax p d a b s
  | .aand p d a b => Sys2Proof.Machine.execAand p d a b s
  | .aor p d a b => Sys2Proof.Machine.execAor p d a b s
  | .axor p d a b => Sys2Proof.Machine.execAxor p d a b s
  | .axchg p d a b => Sys2Proof.Machine.execAxchg p d a b s
  | .acas p d a b => Sys2Proof.Machine.execAcas p d a b s
  | .afadd p d a b => Sys2Proof.Machine.execAfadd p d a b s
  | .aadd64 p d a b => Sys2Proof.Machine.execAadd64 p d a b s
  | .acas64 p d a b => Sys2Proof.Machine.execAcas64 p d a b s
  | .redadd p d a b => Sys2Proof.Machine.execRedadd p d a b s
  | .redmin p d a b => Sys2Proof.Machine.execRedmin p d a b s
  | .redmax p d a b => Sys2Proof.Machine.execRedmax p d a b s
  | .redumin p d a b => Sys2Proof.Machine.execRedumin p d a b s
  | .redumax p d a b => Sys2Proof.Machine.execRedumax p d a b s
  | .redand p d a b => Sys2Proof.Machine.execRedand p d a b s
  | .redor p d a b => Sys2Proof.Machine.execRedor p d a b s
  | .redxor p d a b => Sys2Proof.Machine.execRedxor p d a b s
  | .redfadd p d a b => Sys2Proof.Machine.execRedfadd p d a b s
  | .redadd64 p d a b => Sys2Proof.Machine.execRedadd64 p d a b s
  | .fence p d => Sys2Proof.Machine.execFence p d s
  | .mon p a => Sys2Proof.Machine.execMon p a s
  | .mwait p d a b => Sys2Proof.Machine.execMwait p d a b s
  | .lease p d a b => Sys2Proof.Machine.execLease p d a b s
  | .lrel p => Sys2Proof.Machine.execLrel p s
  | .stashmap p a b => Sys2Proof.Machine.execStashmap p a b s
  | .stashwb p a b => Sys2Proof.Machine.execStashwb p a b s
  | .stashinv p a b => Sys2Proof.Machine.execStashinv p a b s
  | .pref p d a b => Sys2Proof.Machine.execPref p d a b s
  | .mzero p a b => Sys2Proof.Machine.execMzero p a b s
  | .mcopy p d a b => Sys2Proof.Machine.execMcopy p d a b s
  | .minv p a b => Sys2Proof.Machine.execMinv p a b s
  | .gath p a => Sys2Proof.Machine.execGath p a s
  | .scat p a => Sys2Proof.Machine.execScat p a s
  | .strm p a => Sys2Proof.Machine.execStrm p a s
  | .qstop p a => Sys2Proof.Machine.execQstop p a s
  | .qstat p d a => Sys2Proof.Machine.execQstat p d a s
  | .sendm p a b => Sys2Proof.Machine.execSendm p a b s
  | .qpop p d a => Sys2Proof.Machine.execQpop p d a s
  | .cwait p a imm => Sys2Proof.Machine.execCwait p a imm s
  | .crd p d a => Sys2Proof.Machine.execCrd p d a s
  | .mma p sp z nb na t a b => Sys2Proof.Machine.execMma p sp z nb na t a b s
  | .accz p d => Sys2Proof.Machine.execAccz p d s
  | .accrd p d a b => Sys2Proof.Machine.execAccrd p d a b s
  | .accwr p d a b => Sys2Proof.Machine.execAccwr p d a b s
  | .accadd p d a b => Sys2Proof.Machine.execAccadd p d a b s
  | .mstatrd p d => Sys2Proof.Machine.execMstatrd p d s
  | .mctx p d a b => Sys2Proof.Machine.execMctx p d a b s
  | .matrixEngineEntry core => Sys2Proof.Machine.execMatrixEngineEntry core s
  | .matrixOpComplete core ctx => Sys2Proof.Machine.execMatrixOpComplete core ctx s
  | .br n m o => Sys2Proof.Machine.execBr n m o s
  | .call o => Sys2Proof.Machine.execCall o s
  | .rcv o => Sys2Proof.Machine.execRcv o s
  | .brx p a => Sys2Proof.Machine.execBrx p a s
  | .callx p a => Sys2Proof.Machine.execCallx p a s
  | .ret p => Sys2Proof.Machine.execRet p s
  | .exit p => Sys2Proof.Machine.execExit p s
  | .yield p => Sys2Proof.Machine.execYield p s
  | .yieldWake w e => Sys2Proof.Machine.execYieldWake w e s
  | .nop p => Sys2Proof.Machine.execNop p s
  | .winb p a => Sys2Proof.Machine.execWinb p a s
  | .wina p a => Sys2Proof.Machine.execWina p a s
  | .syscall p a => Sys2Proof.Machine.execSyscall p a s
  | .syscallReply w e results => Sys2Proof.Machine.execSyscallReply w e results s
  | .trap p a => Sys2Proof.Machine.execTrap p a s
  | .bkpt p => Sys2Proof.Machine.execBkpt p s
  | .barw => Sys2Proof.Machine.execBarw s
  | .barb imm => Sys2Proof.Machine.execBarb imm s
  | .barc imm => Sys2Proof.Machine.execBarc imm s
  | .barg imm => Sys2Proof.Machine.execBarg imm s
  | .arrb d imm => Sys2Proof.Machine.execArrb d imm s
  | .arrc d imm => Sys2Proof.Machine.execArrc d imm s
  | .arrg d imm => Sys2Proof.Machine.execArrg d imm s
  | .wbarb a imm => Sys2Proof.Machine.execWbarb a imm s
  | .wbarc a imm => Sys2Proof.Machine.execWbarc a imm s
  | .wbarg a imm => Sys2Proof.Machine.execWbarg a imm s
  | .barrierTimeout lvl key n => Sys2Proof.Machine.execBarrierTimeout lvl key n s
  | .ovld p d a => Sys2Proof.Machine.execOvld p d a s
  | .ovcall p a => Sys2Proof.Machine.execOvcall p a s
  | .ovjmp p a => Sys2Proof.Machine.execOvjmp p a s
  | .ovret p => Sys2Proof.Machine.execOvret p s
  | .ovevict p a => Sys2Proof.Machine.execOvevict p a s
  | .ovq p d a => Sys2Proof.Machine.execOvq p d a s
  | .demandReloadRetry w e => Sys2Proof.Machine.execDemandReloadRetry w e s
  | .slotLoadComplete core slot => Sys2Proof.Machine.execSlotLoadComplete core slot s
  | .slotError core slot => Sys2Proof.Machine.execSlotError core slot s
  | .slotReloadComplete core slot => Sys2Proof.Machine.execSlotReloadComplete core slot s
  | .csrrd p d imm => Sys2Proof.Machine.execCsrrd p d imm s
  | .csrwr p d imm => Sys2Proof.Machine.execCsrwr p d imm s
  | .wstatWrite w v => Sys2Proof.Machine.execWstatWrite w v s
  | .mstatWrite w v => Sys2Proof.Machine.execMstatWrite w v s
  | .vlogClear t n => Sys2Proof.Machine.execVlogClear t n s
  | .svstWrite core v => Sys2Proof.Machine.execSvstWrite core v s
  | .shelfWrite core reg v => Sys2Proof.Machine.execShelfWrite core reg v s
  | .svpendClear core v => Sys2Proof.Machine.execSvpendClear core v s
  | .svmsgPop core d => Sys2Proof.Machine.execSvmsgPop core d s
  | .fstoWrite v => Sys2Proof.Machine.execFstoWrite v s
  | .audfracWrite v => Sys2Proof.Machine.execAudfracWrite v s
  | .retype p d a b => Sys2Proof.Machine.execRetype p d a b s
  | .frq p d a => Sys2Proof.Machine.execFrq p d a s
  | .eret p => Sys2Proof.Machine.execEret p s
  | .wfi p => Sys2Proof.Machine.execWfi p s
  | .wfiWake core => Sys2Proof.Machine.execWfiWake core s
  | .ipi p a b => Sys2Proof.Machine.execIpi p a b s
  | .ipiDeliver core => Sys2Proof.Machine.execIpiDeliver core s
  | .serviceInterrupt core => Sys2Proof.Machine.execServiceInterrupt core s
  | .ctxsv p a b => Sys2Proof.Machine.execCtxsv p a b s
  | .ctxld p d a b => Sys2Proof.Machine.execCtxld p d a b s
  | .wlatch p a b => Sys2Proof.Machine.execWlatch p a b s
  | .keyrev p a b => Sys2Proof.Machine.execKeyrev p a b s
  | .warpPromotion w => Sys2Proof.Machine.execWarpPromotion w s
  | .loadReturn w op u => Sys2Proof.Machine.execLoadReturn w op u s
  | .storePerform w op u => Sys2Proof.Machine.execStorePerform w op u s
  | .atomicPerform w op u => Sys2Proof.Machine.execAtomicPerform w op u s
  | .fenceComplete w op => Sys2Proof.Machine.execFenceComplete w op s
  | .mwaitReread w e => Sys2Proof.Machine.execMwaitReread w e s
  | .mwaitTimeout w e => Sys2Proof.Machine.execMwaitTimeout w e s
  | .leaseGrant w e => Sys2Proof.Machine.execLeaseGrant w e s
  | .leaseExpiry w => Sys2Proof.Machine.execLeaseExpiry w s
  | .sendmAccept w op target => Sys2Proof.Machine.execSendmAccept w op target s
  | .countedOpComplete w op => Sys2Proof.Machine.execCountedOpComplete w op s
  | .ringNotify blk => Sys2Proof.Machine.execRingNotify blk s
  | .ringEntryTake blk => Sys2Proof.Machine.execRingEntryTake blk s
  | .ringCopyComplete blk c => Sys2Proof.Machine.execRingCopyComplete blk c s
  | .streamEntryProduce w q => Sys2Proof.Machine.execStreamEntryProduce w q s
  | .doorbellWrite t q => Sys2Proof.Machine.execDoorbellWrite t q s
  | .tidemarkScan die => Sys2Proof.Machine.execTidemarkScan die s
  | .commandLaunch die => Sys2Proof.Machine.execCommandLaunch die s
  | .commandMark die => Sys2Proof.Machine.execCommandMark die s
  | .journalTruncate t => Sys2Proof.Machine.execJournalTruncate t s
  | .taskDispatch t => Sys2Proof.Machine.execTaskDispatch t s
  | .blockPlace t task core ctx => Sys2Proof.Machine.execBlockPlace t task core ctx s
  | .doneEventPost die => Sys2Proof.Machine.execDoneEventPost die s
  | .taskComplete t task => Sys2Proof.Machine.execTaskComplete t task s
  | .quantumEnd g used => Sys2Proof.Machine.execQuantumEnd g used s
  | .forcedSaveTimeout blk => Sys2Proof.Machine.execForcedSaveTimeout blk s
  | .blockSave blk => Sys2Proof.Machine.execBlockSave blk s
  | .blockRestore blk core ctx => Sys2Proof.Machine.execBlockRestore blk core ctx s
  | .worldLatchDrained core => Sys2Proof.Machine.execWorldLatchDrained core s
  | .schedRecordWrite t v => Sys2Proof.Machine.execSchedRecordWrite t v s
  | .memoryRecordWrite t v => Sys2Proof.Machine.execMemoryRecordWrite t v s
  | .isolationRecordWrite t v => Sys2Proof.Machine.execIsolationRecordWrite t v s
  | .queueTableWrite t addr => Sys2Proof.Machine.execQueueTableWrite t addr s
  | .hostRegionAdd t imm first len type grant => Sys2Proof.Machine.execHostRegionAdd t imm first len type grant s
  | .hostRegionRemove t imm => Sys2Proof.Machine.execHostRegionRemove t imm s
  | .tenantCreate t root l1 l0 journal dbell => Sys2Proof.Machine.execTenantCreate t root l1 l0 journal dbell s
  | .worldCreate world roster slot t => Sys2Proof.Machine.execWorldCreate world roster slot t s
  | .rosterWrite world roster => Sys2Proof.Machine.execRosterWrite world roster s
  | .admissionCheck n => Sys2Proof.Machine.execAdmissionCheck n s
  | .admissionRetire n => Sys2Proof.Machine.execAdmissionRetire n s
  | .keySlotAssign slot t => Sys2Proof.Machine.execKeySlotAssign slot t s
  | .keySlotFlushed slot => Sys2Proof.Machine.execKeySlotFlushed slot s
  | .keyDestroy slot => Sys2Proof.Machine.execKeyDestroy slot s
  | .linkRekey link => Sys2Proof.Machine.execLinkRekey link s
  | .flitAuthFail link => Sys2Proof.Machine.execFlitAuthFail link s
  | .hostAccess access pa size v => Sys2Proof.Machine.execHostAccess access pa size v s
  | .jtagAccess die write warp place v => Sys2Proof.Machine.execJtagAccess die write warp place v s
  | .debugContinue w => Sys2Proof.Machine.execDebugContinue w s
  | .traceRecord die world v => Sys2Proof.Machine.execTraceRecord die world v s
  | .erasureRequest t nonce => Sys2Proof.Machine.execErasureRequest t nonce s
  | .erasureStepComplete t ok => Sys2Proof.Machine.execErasureStepComplete t ok s
  | .trapRecordWrite w e => Sys2Proof.Machine.execTrapRecordWrite w e s
  | .blockKill blk => Sys2Proof.Machine.execBlockKill blk s
  | .blockRollback blk => Sys2Proof.Machine.execBlockRollback blk s
  | .correctableError t => Sys2Proof.Machine.execCorrectableError t s
  | .cleanLineError blk unit => Sys2Proof.Machine.execCleanLineError blk unit s
  | .stateError w e kind at_ => Sys2Proof.Machine.execStateError w e kind at_ s
  | .memoryLineError pa => Sys2Proof.Machine.execMemoryLineError pa s
  | .typeEntryError frame => Sys2Proof.Machine.execTypeEntryError frame s
  | .journalRecordError t n => Sys2Proof.Machine.execJournalRecordError t n s
  | .coreFail core => Sys2Proof.Machine.execCoreFail core s
  | .schedulerRebuild g => Sys2Proof.Machine.execSchedulerRebuild g s
  | .headlandError die => Sys2Proof.Machine.execHeadlandError die s
  | .headlandHeartbeat die => Sys2Proof.Machine.execHeadlandHeartbeat die s
  | .leaderLapse => Sys2Proof.Machine.execLeaderLapse s
  | .tidemarkErrorStop die => Sys2Proof.Machine.execTidemarkErrorStop die s
  | .tidemarkTakeover die => Sys2Proof.Machine.execTidemarkTakeover die s
  | .tidemarkRestart die => Sys2Proof.Machine.execTidemarkRestart die s
  | .auditReplay die n core => Sys2Proof.Machine.execAuditReplay die n core s
  | .auditEnd die n index => Sys2Proof.Machine.execAuditEnd die n index s
  | .laneLoss port => Sys2Proof.Machine.execLaneLoss port s
  | .linkRetrainComplete link ok => Sys2Proof.Machine.execLinkRetrainComplete link ok s
  | .packetSend link dir => Sys2Proof.Machine.execPacketSend link dir s
  | .packetReceive link dir => Sys2Proof.Machine.execPacketReceive link dir s
  | .ackSend link dir => Sys2Proof.Machine.execAckSend link dir s
  | .ackReceive link dir => Sys2Proof.Machine.execAckReceive link dir s
  | .linkRecordWrite link mask node window => Sys2Proof.Machine.execLinkRecordWrite link mask node window s
  | .droopDetect imm => Sys2Proof.Machine.execDroopDetect imm s
  | .droopStepDown imm => Sys2Proof.Machine.execDroopStepDown imm s
  | .droopRecover imm => Sys2Proof.Machine.execDroopRecover imm s
  | .orderlyStop imm recorded => Sys2Proof.Machine.execOrderlyStop imm recorded s
  | .islandCap imm k => Sys2Proof.Machine.execIslandCap imm k s
  | .islandUncap imm => Sys2Proof.Machine.execIslandUncap imm s
  | .powerLimitWrite watts => Sys2Proof.Machine.execPowerLimitWrite watts s
  | .reset => Sys2Proof.Machine.execReset s
  | .lifecycleChange dest signed => Sys2Proof.Machine.execLifecycleChange dest signed s
  | .powerUp pinLow => Sys2Proof.Machine.execPowerUp pinLow s
  | .bringupStepComplete ok windows tiers images => Sys2Proof.Machine.execBringupStepComplete ok windows tiers images s
  | .transportFlagSet => Sys2Proof.Machine.execTransportFlagSet s
  | .selfTestComplete results => Sys2Proof.Machine.execSelfTestComplete results s
  | .pmonSelectWrite t v => Sys2Proof.Machine.execPmonSelectWrite t v s
  | .histogramControlWrite die n v => Sys2Proof.Machine.execHistogramControlWrite die n v s
  | .histogramClear die n => Sys2Proof.Machine.execHistogramClear die n s
  | .histogramSample die n src isl t v => Sys2Proof.Machine.execHistogramSample die n src isl t v s
  | .unsupportedRequest port code => Sys2Proof.Machine.execUnsupportedRequest port code s
  | .tidemarkStandbyError die => Sys2Proof.Machine.execTidemarkStandbyError die s
  | .monitorCoreFailure die again => Sys2Proof.Machine.execMonitorCoreFailure die again s
  | .spdmRequest request => Sys2Proof.Machine.execSpdmRequest request s

end Sys2Proof.Machine
end

