-- ==== Sys2Proof/Machine/Turns.lean ====
section
/-! DEFINITION. Whose turn it is (assumption 5). The manual leaves the order of what happens open, but for what its rules
order. The agenda in the state names turns; with an empty agenda a fragment that can issue has the turn, else the first
event of a list that changes the state: what the machine does by itself, in an order that this file fixes. -/

namespace Sys2Proof.Machine

/-! ### Words -/

/-- Fragment `e` of warp `k` has its turn: of the starts, only its pipe's choice has one (R137). -/
noncomputable def issueTurn (s : State) (k e : Nat) : Result :=
  if (entryOf (warpOf s k) e).left = 0 ∧ mayStart s k e = false then .next s
  else
    match fetch s k e with
    | .word i t => exec i t
    | .done t => .next t

/-- A word, which only a fragment executes; every other constructor is an event. -/
def isWord (i : Instr) : Bool := (form i).isSome || isHeaderInstr i

/-! ### What the machine does by itself -/

/-- Numbers of the units of an operation that are not done; 0 when all are. -/
def unitsLeft (o : PendOp) : List Nat :=
  let l := (o.units.zipIdx.filter fun e => !e.1.done).map fun e => e.2
  if l.isEmpty then [0] else l

/-- Events that carry a pending operation on. -/
noncomputable def opEvents (w : Nat) (v : Warp) (o : PendOp) : List Instr :=
  match o.kind with
  | .load .. => (unitsLeft o).map fun u => .loadReturn w o.id u
  | .sload .. => (unitsLeft o).map fun u => .loadReturn w o.id u
  | .store => (unitsLeft o).map fun u => .storePerform w o.id u
  | .tload .. => [.tileLockAcquire w o.id]
  | .tstore => [.tileLockAcquire w o.id]
  | .atomic .. => (unitsLeft o).map fun u => .atomicPerform w o.id u
  | .red _ => (unitsLeft o).map fun u => .atomicPerform w o.id u
  | .fence _ => [.fenceComplete w o.id]
  | .special _ => [.specialFunctionResult w o.id]
  | .neighbour .. => [.neighbourLatchComplete w o.id]
  | .sendm l => l.map fun t => .sendmAccept w o.id t
  | .matrix => [.matrixEngineEntry v.core, .matrixOpComplete v.core 0, .matrixOpComplete v.core 1]
  | .mzero => [.countedOpComplete w o.id]
  | .mcopy _ => [.countedOpComplete w o.id]
  | .minv => [.countedOpComplete w o.id]
  | .gather .. => [.countedOpComplete w o.id]
  | .ovload slot _ => [.slotLoadComplete (storeOf w v) slot, .countedOpComplete w o.id]
  | .point => []
  | .monRead _ => []
  | .ctxsv b _ => [.blockSave b]

/-- Events that end the wait of a fragment. -/
noncomputable def entryEvents (s : State) (w : Nat) (v : Warp) (e : Nat) (x : Entry) : List Instr :=
  let sid := storeOf w v
  (match x.wait with
    | .reload .. => (List.range 16).flatMap (fun i => match (slotAt (slotsOf s sid) i).state with
        | .loading => [.slotLoadComplete sid i]
        | .poison => [.slotReloadComplete sid i]
        | _ => []) ++ [.demandReloadRetry w e]
    | .mwait .. => [.mwaitReread w e]
    | .lease .. => [.leaseGrant w e]
    | .wfi => [.wfiWake w]
    | .syscall _ _ _ false => [.trapRecordWrite w e]
    | _ => []) ++ (if x.notReady then [.yieldWake w e] else [])

/-- Events of one warp. -/
noncomputable def warpEvents (s : State) (w : Nat) (v : Warp) : List Instr :=
  v.pend.flatMap (opEvents w v) ++ (v.split.flatMap fun e => entryEvents s w v e.1 e.2) ++
    ((v.streams.filter fun q => q.2.active).map fun q => .streamEntryProduce w q.1) ++
    (match v.trap with
      | some t => [.trapRecordWrite w t.frag]
      | none => []) ++
    (if w < 16 then [.serviceInterrupt w, .ipiDeliver w] else [])

/-- Events of one block. -/
noncomputable def blockEvents (k : Nat) (b : Block) : List Instr :=
  (if ringMapped b then [.ringNotify k, .ringEntryTake k] ++ b.ring.copies.map fun c => .ringCopyComplete k c.id else []) ++
    (match b.status with
      | .halting => [.blockSave k]
      | .forced => [.blockSave k]
      | .saving => [.blockSave k]
      | .killing => [.blockKill k]
      | .rolling => [.blockRollback k]
      | _ => [])

/-- Slots that load, latches that change, admissions, keys and packets. -/
noncomputable def memoryEvents (s : State) : List Instr :=
  (s.cores.flatMap fun c => (c.2.slots.filter fun x => x.2.state == .loading).map fun x => .slotLoadComplete (16 + c.1) x.1) ++
    (s.cores.flatMap fun c => if c.2.latch = .latched then [] else [.worldLatchDrained c.1]) ++
    (s.admissions.flatMap fun a => [.admissionCheck a.id, .admissionRetire a.id]) ++
    ((s.keys.filter fun x => x.2.state == .flushing).map fun x => .keySlotFlushed x.1) ++
    (s.links.flatMap fun l => [.packetSend l.1 0, .packetReceive l.1 0, .packetSend l.1 1, .packetReceive l.1 1,
      .ackSend l.1 0, .ackReceive l.1 0, .ackSend l.1 1, .ackReceive l.1 1]) ++
    ((s.links.filter fun l => l.2.training).map fun l => .linkRetrainComplete l.1 true)

/-- Placements of a grid's next block on the cores of groups in which its tenant runs. -/
noncomputable def placeEvents (s : State) (t task : Nat) : List Instr :=
  (List.range (groupCount s)).flatMap fun g =>
    if (groupOf s g).running = some t then
      (List.range 8).flatMap fun i => [.blockPlace t task (8 * g + i) 0, .blockPlace t task (8 * g + i) 1]
    else []

/-- Restores of a saved block on the cores of its group. -/
noncomputable def restoreEvents (k : Nat) (b : Block) : List Instr :=
  if b.status = .saved then
    (List.range 8).flatMap fun i => [.blockRestore k (8 * b.group + i) 0, .blockRestore k (8 * b.group + i) 1]
  else []

/-- What Tidemark and the groups do. -/
noncomputable def launchEvents (s : State) : List Instr :=
  (s.dies.flatMap fun d => (if d.2.dones.isEmpty then [] else [.doneEventPost d.1]) ++
    (if d.2.serve.isEmpty then [] else [.commandLaunch d.1, .commandMark d.1])) ++
    (s.tenants.flatMap fun t => t.2.bells.map fun q => .doorbellWrite t.1 q) ++
    ((s.tenants.filter fun t => !t.2.pending.isEmpty).map fun t => .taskDispatch t.1) ++
    ((s.grids.filter fun g => g.2.live && g.2.dispatched).flatMap fun g =>
      .taskComplete (g.1 / 2 ^ 32) (g.1 % 2 ^ 32) :: placeEvents s (g.1 / 2 ^ 32) (g.1 % 2 ^ 32)) ++
    (s.blocks.flatMap fun b => restoreEvents b.1 b.2) ++
    ((List.range (groupCount s)).filter fun g => match (groupOf s g).running with
      | some t => !runnable s t g
      | none => !(runnables s g).isEmpty).map (fun g => .quantumEnd g 0) ++
    ((s.tenants.filter fun t => decide (1024 ≤ journalCount s t.1 ∧ t.2.created = true)).map fun t => .journalTruncate t.1)

/-- Headland's action on a block with a TRAPPED warp: a rollback where it may, else a kill (R316). -/
noncomputable def trapEvents (s : State) : List Instr :=
  (s.blocks.filter fun b => isLive b.2).flatMap fun b =>
    (if rollDue s b.1 then [.blockRollback b.1] else []) ++ (if killDue s b.1 then [.blockKill b.1] else [])

/-- Scans that find a kick, stops and restarts of Tidemark cores, erasures, and the steps of bring-up that need no choice. -/
noncomputable def upkeepEvents (s : State) : List Instr :=
  ((List.range (diesOf s)).flatMap fun d =>
    (if (svcOf s (activeCore s d)).failing then [.tidemarkErrorStop d] else []) ++
    (if (svcOf s (standbyCore s d)).failing then [.tidemarkStandbyError d] else []) ++
    (if (warpOf s (standbyCore s d)).status == .stopped then [.tidemarkRestart d] else []) ++
    (if (dieOf s d).live = false ∨ (warpOf s (4 * d)).status = .stopped then [.headlandError d] else []) ++
    (if (warpOf s (4 * d + 1)).status = .stopped then [.monitorCoreFailure d false] else []) ++
    (if s.plat.changes.any (fun c => c.left.contains d) then [.headlandHeartbeat d] else []) ++
    ((List.range (dieOf s d).audits.length).flatMap fun n => (match (dieOf s d).audits[n]? with
      | some a => .auditEnd d n a.index ::
        (if auditWaits s a then (List.range (coreCount s)).map fun c => .auditReplay d n c else [])
      | none => []))) ++
    (if s.outside.isEmpty then [] else [.hostAccess ⟨.queued, false⟩ 0 0 0]) ++
  (((List.range (diesOf s)).filter fun d => scanDue s d).map fun d => .tidemarkScan d) ++
    ((s.tenants.filter fun t => t.2.erasure.isSome).map fun t => .erasureStepComplete t.1 true) ++
    (if s.plat.step = 3 ∨ 4 < s.plat.step then [] else [.bringupStepComplete true [] [] []])

/-- Waits that only time ends. -/
noncomputable def lateEvents (s : State) : List Instr :=
  (s.warps.flatMap fun w => w.2.split.flatMap fun e => match e.2.wait with
      | .mwait .. => [.mwaitTimeout w.1 e.1]
      | .barrier lvl n _ => [.barrierTimeout lvl (barrierKey s lvl w.2.blk) n]
      | .barw _ => [.barrierTimeout 3 w.1 0]
      | _ => []) ++
    ((s.warps.filter fun w => w.2.lease.isSome).map fun w => .leaseExpiry w.1) ++
    ((s.blocks.filter fun b => b.2.status == .halting || b.2.status == .rolling).map fun b => .forcedSaveTimeout b.1)

/-- The events of the state, in the order in which they are tried: it begins at another event as clauses are issued, so
that no loop keeps the machine from the others, and the waits that only time ends come last. -/
noncomputable def ownEvents (s : State) : List Instr :=
  ((s.warps.flatMap fun w => warpEvents s w.1 w.2) ++ (s.blocks.flatMap fun b => blockEvents b.1 b.2) ++ memoryEvents s ++
    launchEvents s ++ trapEvents s ++ upkeepEvents s).rotateLeft s.stamp ++ lateEvents s

/-- The first event of a list that changes more than the word that the machine last looked at. -/
noncomputable def firstChange (s : State) : List Instr → Result
  | [] => .next s
  | i :: l =>
    match exec i s with
    | .next t => if asWarp t s.cur s.frag = s then firstChange s l else .next t
    | r => r

/-! ### The turn -/

/-- The turn that the agenda names, or the machine's own. An agenda names no word as an event. -/
noncomputable def takeTurn (s : State) : Result :=
  match s.agenda with
  | .event i :: l => if isWord i then .next { s with agenda := l } else exec i { s with agenda := l }
  | .issue w e :: l => issueTurn { s with agenda := l } w e
  | [] =>
    match pick s with
    | some (w, e) => issueTurn s w e
    | none => firstChange s (ownEvents s)

/-- Lines whose lease has ended between two states. -/
def endedLeases (old new : State) : List Nat :=
  old.warps.filterMap fun w => match w.2.lease with
    | some l => if (warpOf new w.1).lease = some l then none else some l.1
    | none => none

/-- Something that waits takes its place among others by age. -/
def insertAge (x : Nat × List Instr) : List (Nat × List Instr) → List (Nat × List Instr)
  | [] => [x]
  | y :: l => if x.1 < y.1 then x :: y :: l else y :: insertAge x l

/-- Events that carry on an operation whose access waits at a home: at its link's far end, at the admission checker, or here. -/
noncomputable def homeEvents (s : State) (w : Nat) (o : PendOp) : List Instr :=
  ((o.units.filter fun u => u.sent && isPeer u.pa).filterMap fun u => (linkFor s u.pa).map fun k => .packetReceive k 0) ++
    ((s.admissions.filter fun a => a.warp == w && a.op == o.id).map fun a => .admissionCheck a.id) ++ opEvents w (warpOf s w) o

/-- A fragment waits for a line: for its lease, or with an `MWAIT` on it. -/
def entryWaitsOn (x : Entry) (line : Nat) : Bool :=
  match x.wait with
  | .lease _ _ l _ => l == line
  | .mwait .. => x.spot.any fun u => u.pa / 128 * 128 == line
  | _ => false

/-- What waits for a line at its home, with its age: operations of warps, leases and `MWAIT`s, and accesses from outside. An
engine's access reaches the home only in the step in which it is performed (assumption 14). -/
noncomputable def waitingOn (s : State) (line : Nat) : List (Nat × List Instr) :=
  ((s.warps.flatMap fun w => (w.2.pend.filter fun o => o.units.any fun u => !u.done && u.pa / 128 * 128 == line).map fun o =>
      (o.age, homeEvents s w.1 o)) ++
    (s.warps.flatMap fun w => (w.2.split.filter fun e => entryWaitsOn e.2 line).map fun e =>
      (e.2.readyAt, entryEvents s w.1 w.2 e.1 e.2)) ++
    (s.outside.filter fun r => r.pa / 128 * 128 == line).map fun r => (r.age, [Instr.hostAccess ⟨.queued, false⟩ 0 0 0])).foldl
      (fun l x => insertAge x l) []

/-- The accesses that waited for an ended lease have the next turns, oldest first (R196). -/
noncomputable def leaseTurns (old new : State) : List Turn :=
  (endedLeases old new).flatMap fun line => (waitingOn new line).flatMap fun e => e.2.map .event

/-- What follows a turn: the turns of waiting accesses, and the cluster groups' (R149, R196). -/
noncomputable def afterTurn (old new : State) : State := settleGroups old { new with agenda := leaseTurns old new ++ new.agenda }

/-! ### Placing one word for the next step (host interface) -/

/-- The first warp of core 0 as the placed word finds it. -/
def placedWarp (v : Warp) (blk left : Nat) (off : BitVec 16) : Warp :=
  { v with
    status := .running, width := if v.width = 0 then 16 else v.width, vregs := if v.vregs = 0 then 512 else v.vregs, blk := blk
    core := 0, slot := 0, trap := none
    split := Tbl.set v.split 0 { Entry.blank with
      state := .leaf, owned := 0xFFFF, exec := 0xFFFF, pc := mkRef 0 0 0 off, parent := 15, left := left } }

/-- The block of that warp: of the blank tenant 0, one warp, bound to a matrix context. -/
def placedBlock : Block :=
  { Block.blank with
    status := .running, cmd := { Command.blank with warps := 1, width := 16, vregs := 512, grid := 1, flags := 4 }
    warps := [16], ctx := some 0 }

/-- The overlay that holds the words from offset 16 on. -/
def placedSlot (l : List Word) : Slot :=
  { Slot.blank with state := .ready, count := 1, sharers := [0], words := List.replicate 16 0 ++ l }

/-- The words `l` stand in the instruction store of core 0, and its first warp issues them next. -/
def placeWords (s : State) (l : List Word) (left : Nat) (off : BitVec 16) : State :=
  let blk := if (warpOf s 16).blk = 0 then s.nextBlk else (warpOf s 16).blk
  let s1 := setSlots s 16 (Tbl.set (slotsOf s 16) 0 (placedSlot l))
  let s2 := if (warpOf s 16).blk = 0 then setBlock { s1 with nextBlk := blk + 1 } blk placedBlock else s1
  { setWarp s2 16 (placedWarp (warpOf s 16) blk left off) with agenda := .issue 16 0 :: s.agenda }

/-- An instruction's bits, numbered from bit 0 of its first word, as words to place: a header stands where a clause begins,
and any other word within a clause. -/
def placeInstr (s : State) (w : Nat) : State :=
  let a := BitVec.ofNat 32 w
  let b := BitVec.ofNat 32 (w / 2 ^ 32)
  if isHeader a then placeWords s [a, b] 0 16
  else if fmaj a == 0x7E#7 then placeWords s [0xFE001FE1, a, b] 2 17
  else placeWords s [0xFE001FE0, a, b] 1 17

end Sys2Proof.Machine
end

