-- ==== Sys2Proof/Machine/Step.lean ====
section
/-! DEFINITION. One step of the machine: the next turn (R38, R136, R137; assumption 5). -/

namespace Sys2Proof.Machine

/-- One step: the fragments whose clause has become ready are marked, a turn is taken, and what follows from it happens. -/
noncomputable def step (s : State) : Result :=
  match takeTurn (markReady s) with
  | .next t => .next (afterTurn s t)
  | r => r

/-- The state in which the very next step fetches and runs one instruction, whose bits are `w` (host interface;
assumption 16 says how programs come to run). -/
def State.withFetchWord (s : State) (nbits w : Nat) : State :=
  match nbits with
  | 0 => s
  | _ => placeInstr s w

end Sys2Proof.Machine
end

