-- ==== Sys2Proof/Safety.lean ====
section
/-! DEFINITION. The terms in which claims about the machine are made: when a word issues, what an
instruction leaves unchanged, and the invariants of the state. -/

namespace Sys2Proof.Machine

/-! ### When a word issues -/

/-- The word passes the checks of R49 and nothing holds it at issue: it takes its own effect. -/
def Issues (i : Instr) (s : State) : Prop := issueFault i s = none ∧ heldBack i s = false

/-- Lane `l` is active for a word with prefix `p` (R44). -/
def Active (s : State) (p : Option Prefix) (l : Nat) : Prop :=
  (execMask s).getLsbD l = true ∧ (readK s (pfx p).k.toNat).getLsbD l = true

/-- Lane `l` is cleared by a zeroing prefix (R45). -/
def Zeroed (s : State) (p : Option Prefix) (l : Nat) : Prop :=
  (pfx p).z = true ∧ (execMask s).getLsbD l = true ∧ (readK s (pfx p).k.toNat).getLsbD l = false

/-! ### What stays as it is -/

/-- Outside the warp whose word is in execution nothing changes: memory byte by byte, the other warps, and
every other part of the state. -/
structure OnlyWarp (s t : State) : Prop where
  memory : ∀ a, Memory.byte t.mem a = Memory.byte s.mem a
  others : ∀ k, k ≠ s.cur → warpOf t k = warpOf s k
  rest : { t with warps := s.warps } = s

/-- The same for a word that writes vector registers or pops queues: the undo log of the block may
overflow (R323), and a free value may be drawn (assumption 1). -/
structure OnlyWarpLog (s t : State) : Prop where
  memory : ∀ a, Memory.byte t.mem a = Memory.byte s.mem a
  others : ∀ k, k ≠ s.cur → warpOf t k = warpOf s k
  blocks : ∀ k, { blockOf t k with overflow := (blockOf s k).overflow, eligible := (blockOf s k).eligible } = blockOf s k
  rest : { t with warps := s.warps, blocks := s.blocks, freeCtr := s.freeCtr } = s

/-- The queues after the word `i`: those that its operands name have lost their oldest entry (R47). -/
def QueuesPopped (i : Instr) (s t : State) : Prop :=
  ∀ q, queueOf (curWarp t) q =
    if ∃ f, form i = some f ∧ q ∈ queueOpds f then (queueOf (curWarp s) q).tail else queueOf (curWarp s) q

/-- Register `r` of the current warp after a write of lanes: the lanes of `act` hold `f`, those of `zer` hold zero, and
every other lane and every other register is as before. -/
structure LanesWritten (r : Nat) (act zer : Nat → Prop) (f : Nat → Word) (s t : State) : Prop where
  active : ∀ l, l < (curWarp s).width → act l → readV t r l = f l
  zeroed : ∀ l, l < (curWarp s).width → zer l → readV t r l = 0
  kept : ∀ l, l < (curWarp s).width → ¬ act l → ¬ zer l → readV t r l = readV s r l
  others : ∀ x l, l < 64 → x ≠ r ∨ (curWarp s).width ≤ l → readV t x l = readV s x l

/-- Register `d` after a word under the common frame of R80: the active lanes hold `f`, a zeroing prefix clears the
others of `EXEC`, and every other lane and every other register is as before. -/
abbrev VecWritten (p : Option Prefix) (d : BitVec 7) (f : Nat → Word) (s t : State) : Prop :=
  LanesWritten (regD s p d) (Active s p) (Zeroed s p) f s t

/-- Nothing of the warp changes but its vector registers, their undo log and its queues: no scalar, no mask, no
special register, no flag, no counter, no fragment. -/
def OnlyVecs (w w' : Warp) : Prop := { w' with vecs := w.vecs, vlog := w.vlog, queues := w.queues } = w

/-- The same, with the floating-point flags of `WSTAT` bits 7:3 merged (R64, R65). -/
def OnlyVecsFlags (w w' : Warp) (f : Flags) : Prop :=
  { w' with vecs := w.vecs, vlog := w.vlog, queues := w.queues } =
    { w with ctl := { w.ctl with wstat := w.ctl.wstat ||| (f.setWidth 32 <<< 3) } }

/-- A word under R80 that raises no flag. -/
structure VecResult (i : Instr) (p : Option Prefix) (d : BitVec 7) (f : Nat → Word) (s t : State) : Prop where
  written : VecWritten p d f s t
  queues : QueuesPopped i s t
  warp : OnlyVecs (curWarp s) (curWarp t)
  outside : OnlyWarpLog s t

/-- A word under R80 and R64: each active lane gives a value and flags, and the flags of the active lanes merge. -/
structure VecFlagResult (i : Instr) (p : Option Prefix) (d : BitVec 7) (f : Nat → Word × Flags) (s t : State) :
    Prop where
  written : VecWritten p d (fun l => (f l).1) s t
  queues : QueuesPopped i s t
  warp : ∃ g : Flags, OnlyVecsFlags (curWarp s) (curWarp t) g ∧
    ∀ b, g.getLsbD b = true ↔ ∃ l, l < (curWarp s).width ∧ Active s p l ∧ (f l).2.getLsbD b = true
  outside : OnlyWarpLog s t

/-- Scalar `n` of the current warp holds `v` afterwards, and nothing else has changed. -/
structure ScalarResult (n : Nat) (v : Word) (s t : State) : Prop where
  value : readS t n = v
  others : ∀ m, m ≠ n → readS t m = readS s m
  warp : { curWarp t with scalars := (curWarp s).scalars } = curWarp s
  outside : OnlyWarp s t

/-- The pair at `n` holds `v` afterwards, and nothing else has changed. -/
structure PairResult (n : Nat) (v : Dword) (s t : State) : Prop where
  value : readP t n = v
  others : ∀ m, m ≠ n → m ≠ n + 1 → readS t m = readS s m
  warp : { curWarp t with scalars := (curWarp s).scalars } = curWarp s
  outside : OnlyWarp s t

/-- Mask register `d` holds the bits of `f` on the lanes of `on` and its old bits elsewhere below the width; no other
mask changes, and `k0` never does (R91). -/
structure MaskWritten (d : Nat) (on : Nat → Prop) (f : Nat → Bool) (s t : State) : Prop where
  written : ∀ l, l < (curWarp s).width → d ≠ 0 → on l → (readK t d).getLsbD l = (f l && decide (l < 64))
  kept : ∀ l, ¬ on l ∨ d = 0 → (readK t d).getLsbD l = (readK s d).getLsbD l
  others : ∀ m, m ≠ d → readK t m = readK s m

/-- A mask word: its mask, and nothing else. -/
structure MaskResult (d : Nat) (on : Nat → Prop) (f : Nat → Bool) (s t : State) : Prop where
  written : MaskWritten d on f s t
  warp : { curWarp t with masks := (curWarp s).masks } = curWarp s
  outside : OnlyWarp s t

/-! ### Families of words by operand form: the word completes with the lane function given -/

/-- One vector source (R80). -/
def VecOp1 (mk : Option Prefix → BitVec 7 → BitVec 7 → Instr) (f : Word → Word) : Prop :=
  ∀ p d a s, Issues (mk p d a) s → ∃ t, exec (mk p d a) s = .next t ∧
    VecResult (mk p d a) p d (fun l => f (srcA s p a l)) s t

/-- Two vector sources (R80). -/
def VecOp2 (mk : Option Prefix → BitVec 7 → BitVec 7 → BitVec 7 → Instr) (f : Word → Word → Word) : Prop :=
  ∀ p d a b s, Issues (mk p d a b) s → ∃ t, exec (mk p d a b) s = .next t ∧
    VecResult (mk p d a b) p d (fun l => f (srcA s p a l) (srcB s p b l)) s t

/-- Two vector sources and the addend (R48, R80). -/
def VecOp3 (mk : Option Prefix → BitVec 7 → BitVec 7 → BitVec 7 → Instr) (f : Word → Word → Word → Word) : Prop :=
  ∀ p d a b s, Issues (mk p d a b) s → ∃ t, exec (mk p d a b) s = .next t ∧
    VecResult (mk p d a b) p d (fun l => f (srcA s p a l) (srcB s p b l) (srcC s p d l)) s t

/-- A vector source and an immediate (R87). -/
def VecImm (mk : Option Prefix → BitVec 7 → BitVec 7 → BitVec 7 → Instr) (f : Word → BitVec 7 → Word) : Prop :=
  ∀ p d a i s, Issues (mk p d a i) s → ∃ t, exec (mk p d a i) s = .next t ∧
    VecResult (mk p d a i) p d (fun l => f (srcA s p a l) i) s t

/-- One vector source, with flags, under the effective rounding mode (R63, R64). -/
def VecFlag1 (mk : Option Prefix → BitVec 7 → BitVec 7 → Instr) (f : Nat → Word → Word × Flags) : Prop :=
  ∀ p d a s, Issues (mk p d a) s → ∃ t, exec (mk p d a) s = .next t ∧
    VecFlagResult (mk p d a) p d (fun l => f (modeOf s p) (srcA s p a l)) s t

/-- Two vector sources, with flags (R63, R64). -/
def VecFlag2 (mk : Option Prefix → BitVec 7 → BitVec 7 → BitVec 7 → Instr) (f : Nat → Word → Word → Word × Flags) :
    Prop :=
  ∀ p d a b s, Issues (mk p d a b) s → ∃ t, exec (mk p d a b) s = .next t ∧
    VecFlagResult (mk p d a b) p d (fun l => f (modeOf s p) (srcA s p a l) (srcB s p b l)) s t

/-- Two vector sources and the addend, with flags (R48, R63, R64). -/
def VecFlag3 (mk : Option Prefix → BitVec 7 → BitVec 7 → BitVec 7 → Instr)
    (f : Nat → Word → Word → Word → Word × Flags) : Prop :=
  ∀ p d a b s, Issues (mk p d a b) s → ∃ t, exec (mk p d a b) s = .next t ∧
    VecFlagResult (mk p d a b) p d (fun l => f (modeOf s p) (srcA s p a l) (srcB s p b l) (srcC s p d l)) s t

/-- Two scalar sources (R110). -/
def ScaOp2 (mk : Option Prefix → BitVec 7 → BitVec 7 → BitVec 7 → Instr) (f : Word → Word → Word) : Prop :=
  ∀ p d a b s, Issues (mk p d a b) s → ∃ t, exec (mk p d a b) s = .next t ∧
    ScalarResult (numD p d) (f (readS s (numA p a)) (readS s (numB p b))) s t

/-- A scalar source and an immediate (R111). -/
def ScaImm (mk : Option Prefix → BitVec 7 → BitVec 7 → BitVec 7 → Instr) (f : Word → BitVec 7 → Word) : Prop :=
  ∀ p d a i s, Issues (mk p d a i) s → ∃ t, exec (mk p d a i) s = .next t ∧
    ScalarResult (numD p d) (f (readS s (numA p a)) i) s t

/-- Two pairs (R111). -/
def PairOp2 (mk : Option Prefix → BitVec 7 → BitVec 7 → BitVec 7 → Instr) (f : Dword → Dword → Dword) : Prop :=
  ∀ p d a b s, Issues (mk p d a b) s → ∃ t, exec (mk p d a b) s = .next t ∧
    PairResult (numD p d) (f (readP s (numA p a)) (readP s (numB p b))) s t

/-- A pair and an immediate (R111). -/
def PairImm (mk : Option Prefix → BitVec 7 → BitVec 7 → BitVec 7 → Instr) (f : Dword → BitVec 7 → Dword) : Prop :=
  ∀ p d a i s, Issues (mk p d a i) s → ∃ t, exec (mk p d a i) s = .next t ∧
    PairResult (numD p d) (f (readP s (numA p a)) i) s t

/-- The bit that a compare writes in an active lane, by its combine mode: set, and, or (R52, R89). -/
def combined (c : BitVec 2) (old t : Bool) : Bool :=
  if c = 0#2 then t else if c = 1#2 then old && t else old || t

/-- The lanes that a compare writes, and the bits it writes there (R89). -/
structure CompareWritten (p : Option Prefix) (c : BitVec 2) (d : BitVec 3) (f : Nat → Bool) (s t : State) : Prop where
  active : ∀ l, l < (curWarp s).width → Active s p l →
    (readK t d.toNat).getLsbD l = combined c ((readK s d.toNat).getLsbD l) (f l)
  zeroed : ∀ l, Zeroed s p l → c = 0#2 → (readK t d.toNat).getLsbD l = false
  kept : ∀ l, ¬ Active s p l → ¬ (Zeroed s p l ∧ c = 0#2) → (readK t d.toNat).getLsbD l = (readK s d.toNat).getLsbD l
  others : ∀ m, m ≠ d.toNat → readK t m = readK s m

/-- An integer compare (R89): no flag, no other register. -/
def IntCompare (mk : Option Prefix → BitVec 2 → BitVec 3 → BitVec 7 → BitVec 7 → Instr) (f : Word → Word → Bool) : Prop :=
  ∀ p c d a b s, Issues (mk p c d a b) s → ∃ t, exec (mk p c d a b) s = .next t ∧
    CompareWritten p c d (fun l => f (srcA s p a l) (srcB s p b l)) s t ∧
    QueuesPopped (mk p c d a b) s t ∧
    { curWarp t with masks := (curWarp s).masks, queues := (curWarp s).queues } = curWarp s ∧ OnlyWarpLog s t

/-- A binary32 compare (R90): `nv` says when a lane raises NV, and no other flag is raised. -/
def FloatCompare (mk : Option Prefix → BitVec 2 → BitVec 3 → BitVec 7 → BitVec 7 → Instr) (f nv : Fp → Fp → Bool) :
    Prop :=
  ∀ p c d a b s, Issues (mk p c d a b) s →
    let x (l : Nat) : Fp := unpack binary32 (srcA s p a l).toNat
    let y (l : Nat) : Fp := unpack binary32 (srcB s p b l).toNat
    ∃ t, exec (mk p c d a b) s = .next t ∧
      CompareWritten p c d (fun l => f (x l) (y l)) s t ∧
      QueuesPopped (mk p c d a b) s t ∧ OnlyWarpLog s t ∧
      ∃ g : Bool, (g = true ↔ ∃ l, l < (curWarp s).width ∧ Active s p l ∧ nv (x l) (y l) = true) ∧
        { curWarp t with masks := (curWarp s).masks, queues := (curWarp s).queues } =
          { curWarp s with ctl := { (curWarp s).ctl with
            wstat := (curWarp s).ctl.wstat ||| (if g then 0x80 else 0) } }

/-- A mask word (R92): it writes the bits of the lanes of `EXEC`. -/
def MaskOp2 (mk : Option Prefix → BitVec 3 → BitVec 3 → BitVec 3 → Instr) (f : Bool → Bool → Bool) : Prop :=
  ∀ p d a b s, Issues (mk p d a b) s → ∃ t, exec (mk p d a b) s = .next t ∧
    MaskResult d.toNat (fun l => (execMask s).getLsbD l = true)
      (fun l => f ((readK s a.toNat).getLsbD l) ((readK s b.toNat).getLsbD l)) s t

/-! ### Operations that issue and complete later (R39) -/

/-- The word `i` of class `c` issues as the pending operation `o` and changes nothing else: `o` enters the warp's list
under the flag of its class (or, `early`, under none, and that flag loses one operation), the clause has one word of
the class less to issue, and no register, mask, special register, other fragment or byte of memory changes. -/
structure OpIssued (i : Instr) (c : Cls) (early : Bool) (o : PendOp) (s t : State) : Prop where
  pending : (curWarp t).pend =
    (curWarp s).pend ++ [{ o with flag := (if early then 15 else clsFlag (curEntry s) c) }]
  number : (curWarp t).nextOp = (curWarp s).nextOp + 1
  flags : ∀ f, flagCount (curWarp t) f = flagCount (curWarp s) f -
    (if early = true ∧ clsFlag (curEntry s) c ≠ 15#4 ∧ f = (clsFlag (curEntry s) c).toNat then 1 else 0)
  queues : QueuesPopped i s t
  entry : { curEntry t with remA := (curEntry s).remA, remB := (curEntry s).remB, holds := (curEntry s).holds } = curEntry s
  others : ∀ e, e ≠ s.frag → entryOf (curWarp t) e = entryOf (curWarp s) e
  warp : { curWarp t with
    pend := (curWarp s).pend, nextOp := (curWarp s).nextOp, flags := (curWarp s).flags
    queues := (curWarp s).queues, split := (curWarp s).split } = curWarp s
  outside : OnlyWarpLog s t

/-- Operation `o` of the current warp is complete: it has left the list (and reconvergence points with nothing before
them have left too), and its flag has one operation less (R39). -/
structure OpRetired (o : PendOp) (s t : State) : Prop where
  gone : (curWarp t).pend = ((curWarp s).pend.filter fun x => x.id != o.id).dropWhile fun x => x.kind == .point
  flags : ∀ f, flagCount (curWarp t) f = flagCount (curWarp s) f - (if o.flag ≠ 15#4 ∧ f = o.flag.toNat then 1 else 0)

/-- A scalar result of a word that reads vector sources: the scalar, the pops, the merged flags `g` (R64, R109). -/
structure ScalarPopResult (i : Instr) (n : Nat) (v : Word) (g : Flags) (s t : State) : Prop where
  value : readS t n = v
  others : ∀ m, m ≠ n → readS t m = readS s m
  queues : QueuesPopped i s t
  warp : { curWarp t with scalars := (curWarp s).scalars, queues := (curWarp s).queues } =
    { curWarp s with ctl := { (curWarp s).ctl with wstat := (curWarp s).ctl.wstat ||| (g.setWidth 32 <<< 3) } }
  outside : OnlyWarpLog s t

/-- A special function issues (R77, R97): the value and the flags of each lane are fixed now and arrive later; a lane
whose value the manual leaves open takes some value in [−1, 1] (assumption 1). -/
def SpecialOp (mk : Option Prefix → BitVec 7 → BitVec 7 → Instr) (g : Spec) : Prop :=
  ∀ p d a s, Issues (mk p d a) s → ∃ (t : State) (r : Nat → Word × Flags) (fl : Flags),
    exec (mk p d a) s = .next t ∧
    OpIssued (mk p d a) .a false { newOp s (.special (regD s p d)) with
      active := activeMask s (pfx p), zeroed := zeroMask s (pfx p)
      vals := (List.range (curWarp s).width).map fun l => (r l).1, flags := fl } s t ∧
    (∀ l, specOpen g (srcA s p a l) = false → r l = special g (srcA s p a l)) ∧
    (∀ l, specOpen g (srcA s p a l) = true → ∃ v, r l = (openUnit v, openFlags v)) ∧
    ∀ b, fl.getLsbD b = true ↔ ∃ l, l < (curWarp s).width ∧ Active s p l ∧ (r l).2.getLsbD b = true

/-! ### Control -/

/-- The current fragment goes on at `pc`, with the link pair written if there is a link, and nothing else changes
(R159, R164, R167). -/
structure Moved (pc : Dword) (link : Option Dword) (s t : State) : Prop where
  pc : (curEntry t).pc = pc
  left : (curEntry t).left = 0
  entry : { curEntry t with pc := (curEntry s).pc, left := (curEntry s).left } = curEntry s
  others : ∀ e, e ≠ s.frag → entryOf (curWarp t) e = entryOf (curWarp s) e
  linked : ∀ v, link = some v → readP t 190 = v
  scalars : ∀ n, (link = none ∨ (n ≠ 190 ∧ n ≠ 191)) → readS t n = readS s n
  warp : { curWarp t with split := (curWarp s).split, scalars := (curWarp s).scalars } = curWarp s
  outside : OnlyWarp s t

/-- Outside the warp a trap changes nothing, but that *poison consumed* notes an erroneous location of the block (R323, R324). -/
structure TrapOutside (cause : Nat) (value : Dword) (s t : State) : Prop where
  memory : ∀ a, Memory.byte t.mem a = Memory.byte s.mem a
  others : ∀ k, k ≠ s.cur → warpOf t k = warpOf s k
  block : curBlock t =
    if cause = 18 then { curBlock s with bad := ((curWarp s).index, 7, value.toNat) :: (curBlock s).bad } else curBlock s
  otherBlocks : ∀ k, k ≠ (curWarp s).blk → blockOf t k = blockOf s k
  rest : { t with warps := s.warps, blocks := s.blocks } = s

/-- A tenant's warp takes a precise trap at the word in execution (R314): its record is held, it drains, the fragment
stands at the faulting word, and no register, special register or byte of memory changes. -/
structure TenantTrapTaken (cause lane : Nat) (value : Dword) (aux : Word) (s t : State) : Prop where
  trap : (curWarp t).trap = some ⟨cause, s.frag, lane, value, aux, refAt (curEntry s).pc (curEntry s).here⟩
  status : (curWarp t).status = .trapping
  lease : (curWarp t).lease = none
  pc : (curEntry t).pc = refAt (curEntry s).pc (curEntry s).here
  left : (curEntry t).left = 0
  others : ∀ e, e ≠ s.frag → entryOf (curWarp t) e = entryOf (curWarp s) e
  warp : { curWarp t with
    trap := (curWarp s).trap, status := (curWarp s).status, lease := (curWarp s).lease, flags := (curWarp s).flags
    split := (curWarp s).split } = curWarp s
  outside : TrapOutside cause value s t

/-- A word whose own effect is to trap (R168, R170): on a tenant's warp the trap of R314, on a service core the entry of
R318, which `takeTrap` is. -/
def Traps (i : Instr) (cause : Nat) (aux : Word) (s : State) : Prop :=
  ∃ t, exec i s = .next t ∧ t = takeTrap s cause 255 0 aux ∧
    (16 ≤ s.cur → (curWarp s).trap = none → TenantTrapTaken cause 255 0 aux s t)

/-- Only the entry of the current fragment changes, and becomes `x`. -/
structure OnlyEntry (x : Entry) (s t : State) : Prop where
  entry : curEntry t = x
  others : ∀ e, e ≠ s.frag → entryOf (curWarp t) e = entryOf (curWarp s) e
  warp : { curWarp t with split := (curWarp s).split } = curWarp s
  outside : OnlyWarp s t

/-! ### Memory words -/

/-- Effective address of lane `l` of a vector form: base pair plus the sign-extended lane offset (R201). -/
def vectorAddress (s : State) (p : Option Prefix) (a b : BitVec 7) (l : Nat) : Dword :=
  readP s (numA p a) + (srcB s p b l).signExtend 64

/-- The accesses of a vector form: `n` bytes for each active lane in ascending order (R201, R203). -/
def vectorAccesses (s : State) (p : Option Prefix) (a b : BitVec 7) (n : Nat) (data data2 : Nat → List Byte) : List LaneAcc :=
  ((List.range (curWarp s).width).filter fun l => (activeMask s (pfx p)).getLsbD l).map fun l =>
    ⟨l, vectorAddress s p a b l, n, data l, data2 l⟩

/-- The first `n` bytes of the registers from `r` on at lane `l`, low byte first (R4, R207). -/
def storedBytes (s : State) (r n l : Nat) : List Byte :=
  (List.range n).map fun i => (readV s (r + i / 4) l).extractLsb' (8 * (i % 4)) 8

/-- The current block is the replay of an audited one, and a unit of the access makes it unauditable (R328). -/
def SpoilsReplay (s : State) (a : Acc) (accs : List LaneAcc) (k : PKind) : Prop :=
  (curBlock s).replay = true ∧ ∃ u ∈ unitsFor s a accs, spoilsReplay (isRmw k) u = true

/-- A memory word that issues either takes the trap of its first failing access (R203), or enters the warp's list with
the units of its accesses; in the replay of an audited block, one that the audit cannot follow ends the replay (R328). -/
def AccessIssue (i : Instr) (c : Cls) (early : Bool) (a : Acc) (align swz : Bool) (accs : List LaneAcc) (o : PendOp)
    (s : State) : Prop :=
  (accFault s a align swz accs = none → ¬ SpoilsReplay s a accs o.kind → ∃ t, exec i s = .next t ∧
    OpIssued i c early { o with units := unitsFor s a accs } s t) ∧
  (accFault s a align swz accs = none → SpoilsReplay s a accs o.kind →
    exec i s = .next (abandonReplay s (curWarp s).blk)) ∧
  (∀ cause lane va, accFault s a align swz accs = some (cause, lane, va) → exec i s = .next (takeTrap s cause lane va 0))

/-- A vector load of `n` bytes a lane into `regs` registers (R206). -/
def VectorLoad (mk : Option Prefix → BitVec 7 → BitVec 7 → BitVec 7 → Instr) (n regs : Nat) (signed acq : Bool) : Prop :=
  ∀ p d a b s, Issues (mk p d a b) s → AccessIssue (mk p d a b) .a false .load acq true
    (vectorAccesses s p a b n (fun _ => []) fun _ => [])
    { newOp s (.load (regD s p d) regs n signed) with
      scope := (pfx p).scope, acq := acq, active := activeMask s (pfx p), zeroed := zeroMask s (pfx p) } s

/-- A vector store of `n` bytes a lane (R206): its flag clears at once, because it has read its registers. -/
def VectorStore (mk : Option Prefix → BitVec 7 → BitVec 7 → BitVec 7 → Instr) (n : Nat) (rel : Bool) : Prop :=
  ∀ p d a b s, Issues (mk p d a b) s → AccessIssue (mk p d a b) .b true (.store n) rel false
    (vectorAccesses s p a b n (storedBytes s (regD s p d) n) fun _ => [])
    { newOp s .store with scope := (pfx p).scope, rel := rel, active := activeMask s (pfx p) } s

/-- A scalar load of 4 or 8 bytes, aligned, at the base pair plus four times the signed immediate (R201, R210). -/
def ScalarLoad (mk : Option Prefix → BitVec 7 → BitVec 7 → BitVec 7 → Instr) (two acq : Bool) : Prop :=
  ∀ p d a i s, Issues (mk p d a i) s → AccessIssue (mk p d a i) .a false .load true false
    [⟨255, readP s (numA p a) + BitVec.ofInt 64 (4 * i.toInt), if two then 8 else 4, [], []⟩]
    { newOp s (.sload (numD p d) two) with scope := (pfx p).scope, acq := acq } s

/-- A scalar store of 4 or 8 bytes (R201, R210). -/
def ScalarStore (mk : Option Prefix → BitVec 7 → BitVec 7 → BitVec 7 → Instr) (two rel : Bool) : Prop :=
  ∀ p d a i s, Issues (mk p d a i) s → AccessIssue (mk p d a i) .b true (.store (if two then 8 else 4)) true false
    [⟨255, readP s (numA p a) + BitVec.ofInt 64 (4 * i.toInt), if two then 8 else 4,
      leBytes (if two then 8 else 4) (readP s (numD p d)).toNat, []⟩]
    { newOp s .store with scope := (pfx p).scope, rel := rel } s

/-- An atomic of `n` bytes a lane that returns the old value (R213, R214). -/
def AtomicIssue (mk : Option Prefix → BitVec 7 → BitVec 7 → BitVec 7 → Instr) (n : Nat) (cas : Bool)
    (op : State → Option Prefix → Rmw) : Prop :=
  ∀ p d a b s, Issues (mk p d a b) s → AccessIssue (mk p d a b) .a false .rmw true false
    (vectorAccesses s p a b n (storedBytes s (regD s p d) n)
      (if cas then storedBytes s (physReg s (pfx p).c (pfx p).ch) n else fun _ => []))
    { newOp s (.atomic (regD s p d) (n / 4) (op s p)) with
      scope := (pfx p).scope, active := activeMask s (pfx p), zeroed := zeroMask s (pfx p) } s

/-- A reduction of `n` bytes a lane (R213, R214). -/
def ReductionIssue (mk : Option Prefix → BitVec 7 → BitVec 7 → BitVec 7 → Instr) (n : Nat)
    (op : State → Option Prefix → Rmw) : Prop :=
  ∀ p d a b s, Issues (mk p d a b) s → AccessIssue (mk p d a b) .b true .rmw true false
    (vectorAccesses s p a b n (storedBytes s (regD s p d) n) fun _ => [])
    { newOp s (.red (op s p)) with scope := (pfx p).scope, active := activeMask s (pfx p) } s

/-- No dirty stash line holds a byte of the range: memory itself is what an outside access meets (R193). -/
def NoDirtyLine (s : State) (a n : Nat) : Prop :=
  ∀ e ∈ s.blocks, ∀ l ∈ e.2.lines, l.dirty = true → a + n ≤ l.pa ∨ l.pa + 128 ≤ a

/-- The warp goes on after the operation: it still has a fragment (R171). -/
def StillRuns (s : State) (w : Nat) : Prop := (usedEntries (warpOf s w)).isEmpty = false

/-- Unit `u` of operation `op` of warp `w` has its turn (R251, R253, R209): it is not done and not on a link, no
reconvergence point and no release holds its operation, and no older access in program order meets it. -/
def UnitTurn (s : State) (w op u : Nat) (o : PendOp) (x : MUnit) : Prop :=
  opOf (warpOf s w) op = some o ∧ o.units[u]? = some x ∧ x.done = false ∧ x.sent = false ∧
    mayPerform s w o = true ∧ olderMeets (warpOf s w) op o.lanes x = []

/-- The operation stands in the list with unit `u` replaced by `y`. -/
def UnitNow (t : State) (w op u : Nat) (o : PendOp) (y : MUnit) : Prop :=
  opOf (warpOf t w) op = some { o with units := o.units.set u y }

/-- A tile word (R211, R212): the checks in their order (register range, operands, translation), then one pending
operation with the pieces of its rows and the lines that it locks. -/
def TileIssue (mk : Option Prefix → BitVec 7 → BitVec 7 → BitVec 7 → Instr) (isStore order : Bool) : Prop :=
  ∀ p d a b s, Issues (mk p d a b) s →
    let w := readS s (numB p b)
    let rows := w.toNat % 256 + 1
    let logb := w.toNat / 256 % 16
    let stride := 64 * (w.toNat / 4096)
    let r := regD s p d
    let n := max 1 (2 ^ logb / 4)
    let v := (curWarp s).vregs
    let acc : Acc := if isStore then .tstore else .tload
    let bad := logb < 2 ∨ 8 < logb ∨ 64 < rows ∨ (curWarp s).width < rows ∨ (1 < rows ∧ stride < 2 ^ logb) ∨
      ∃ k, k < rows ∧ (execMask s).getLsbD k = false
    let l : List LaneAcc := (List.range rows).map fun k =>
      ⟨k, readP s (numA p a) + BitVec.ofNat 64 (stride * k), 2 ^ logb, if isStore then storedBytes s r (2 ^ logb) k else [], []⟩
    (v < r + n → exec (mk p d a b) s = .next (takeTrap s 4 255 (BitVec.ofNat 64 (max r v)) 0)) ∧
    (r + n ≤ v → bad → exec (mk p d a b) s = .next (takeTrap s 15 255 (w.setWidth 64) 0)) ∧
    (r + n ≤ v → ¬ bad →
      (∀ cause row va, accFault s acc false (!isStore) l = some (cause, row, va) →
        exec (mk p d a b) s = .next (takeTrap s cause row va 0)) ∧
      let spoils : Prop := (curBlock s).replay = true ∧ ∃ u ∈ l.flatMap (rowUnits s acc), spoilsReplay false u = true
      (accFault s acc false (!isStore) l = none → spoils →
        exec (mk p d a b) s = .next (abandonReplay s (curWarp s).blk)) ∧
      (accFault s acc false (!isStore) l = none → ¬ spoils → ∃ t, exec (mk p d a b) s = .next t ∧
        OpIssued (mk p d a b) (if isStore then .b else .a) isStore
          { newOp s (if isStore then .tstore else .tload r n) with
            scope := (pfx p).scope, acq := order && !isStore, rel := order && isStore
            active := BitVec.ofNat 64 (2 ^ rows - 1), units := l.flatMap (rowUnits s acc)
            toLock := tileLines s (l.flatMap (rowUnits s acc)) } s t))

/-- A class A word that parked fragment `e` of warp `w` has ended: the fragment goes on, its flag A has one operation
less, and no other fragment is touched (R39, R135). -/
structure WaitEnds (w e : Nat) (s t : State) : Prop where
  entry : entryOf (warpOf t w) e = takesOver (entryOf (warpOf s w) e) s.stamp
  others : ∀ j, j ≠ e → entryOf (warpOf t w) j = entryOf (warpOf s w) j
  flags : ∀ f, flagCount (warpOf t w) f = flagCount (warpOf s w) f -
    (if (entryOf (warpOf s w) e).flagA ≠ 15#4 ∧ f = (entryOf (warpOf s w) e).flagA.toNat then 1 else 0)

/-- A long-latency word that completes as it issues (R39): its flag and its clause have one operation less. -/
structure OpAtOnce (c : Cls) (s t : State) : Prop where
  flags : ∀ f, flagCount (curWarp t) f = flagCount (curWarp s) f -
    (if clsFlag (curEntry s) c ≠ 15#4 ∧ f = (clsFlag (curEntry s) c).toNat then 1 else 0)
  entry : curEntry t = remIssued (curEntry s) c
  others : ∀ e, e ≠ s.frag → entryOf (curWarp t) e = entryOf (curWarp s) e

/-- Such a word of class A with a scalar result: scalar `n` holds `v`, and nothing else of the warp changes. -/
structure ScalarAtOnce (n : Nat) (v : Word) (s t : State) : Prop where
  value : readS t n = v
  scalars : ∀ m, m ≠ n → readS t m = readS s m
  now : OpAtOnce .a s t
  warp : { curWarp t with
    scalars := (curWarp s).scalars, flags := (curWarp s).flags, split := (curWarp s).split } = curWarp s

/-- A counted word issues under counter `c` (R224): the counter gains one, and no register, mask or byte of memory
changes. -/
structure CountedIssued (i : Instr) (c : Nat) (o : PendOp) (s t : State) : Prop where
  pending : (curWarp t).pend = (curWarp s).pend ++ [{ o with counter := some c, flag := 15 }]
  number : (curWarp t).nextOp = (curWarp s).nextOp + 1
  counter : ∀ x, counterOf (curWarp t) x = counterOf (curWarp s) x + (if x = c then 1 else 0)
  entries : ∀ e, entryOf (curWarp t) e = entryOf (curWarp s) e
  queues : QueuesPopped i s t
  warp : { curWarp t with
    pend := (curWarp s).pend, nextOp := (curWarp s).nextOp, counters := (curWarp s).counters
    queues := (curWarp s).queues, split := (curWarp s).split } = curWarp s
  outside : OnlyWarpLog s t

/-- Counted operation `o` of warp `w` has completed (R224): the oldest of its class leaves its counter, with those behind it
that had completed; any other waits, finished. -/
structure CountedDone (w : Nat) (o : PendOp) (s t : State) : Prop where
  oldest : ∀ c, o.counter = some c → (warpOf s w).pend.find? (fun q => q.counter == some c) = some o →
    opOf (warpOf t w) o.id = none ∧ ∃ m, 1 ≤ m ∧ counterOf (warpOf t w) c = counterOf (warpOf s w) c - m
  later : ∀ c q, o.counter = some c → (warpOf s w).pend.find? (fun q => q.counter == some c) = some q → q.id ≠ o.id →
    q.finished = false → opOf (warpOf t w) o.id = some { o with finished := true } ∧
      counterOf (warpOf t w) c = counterOf (warpOf s w) c

/-- A matrix word takes an entry of the queue of its block's context (R126) and enters the warp's list; no register, no
accumulator and no byte of memory changes yet; `checked` is the metadata that the check of `TRAPEN` has read (R122). -/
structure MatrixIssued (c : Cls) (act zer : Dword) (units : List MUnit) (checked : Option (List (List Word))) (m : MOp)
    (s t : State) : Prop where
  queue : matrixQueue (coreOf t (curWarp s).core) ((curBlock s).ctx.getD 0) =
    matrixQueue (coreOf s (curWarp s).core) ((curBlock s).ctx.getD 0) ++
      [⟨s.cur, (curWarp s).nextOp, m, act, false, checked, [], [], [], [], false⟩]
  core : { coreOf t (curWarp s).core with
    q0 := (coreOf s (curWarp s).core).q0, q1 := (coreOf s (curWarp s).core).q1 } = coreOf s (curWarp s).core
  cores : ∀ k, k ≠ (curWarp s).core → coreOf t k = coreOf s k
  pending : (curWarp t).pend = (curWarp s).pend ++ [{ newOp s .matrix with
    scope := 0, active := act, zeroed := zer, units := units, flag := clsFlag (curEntry s) c }]
  number : (curWarp t).nextOp = (curWarp s).nextOp + 1
  entry : { curEntry t with remA := (curEntry s).remA, remB := (curEntry s).remB, holds := (curEntry s).holds } = curEntry s
  others : ∀ e, e ≠ s.frag → entryOf (curWarp t) e = entryOf (curWarp s) e
  warp : { curWarp t with
    pend := (curWarp s).pend, nextOp := (curWarp s).nextOp, split := (curWarp s).split } = curWarp s
  warps : ∀ k, k ≠ s.cur → warpOf t k = warpOf s k
  rest : { t with warps := s.warps, cores := s.cores } = s

/-- Elements of a tile of context `ctx` after an operation over the active lanes: `f` of row, column and old element there,
the old element everywhere else (R121, R130). -/
def TileUpdated (core ctx tile width : Nat) (act : Dword) (f : Nat → Nat → Nat → Nat) (s t : State) : Prop :=
  (∀ i j, i < 64 → i < width → j < 16 → act.getLsbD i = true →
    Tbl.get 0 (coreOf t core).acc (accKey ctx tile i j) =
      BitVec.ofNat 34 (f i j (Tbl.get 0 (coreOf s core).acc (accKey ctx tile i j)).toNat)) ∧
  ∀ key, (∀ i j, i < 64 → i < width → j < 16 → act.getLsbD i = true → key ≠ accKey ctx tile i j) →
    Tbl.get 0 (coreOf t core).acc key = Tbl.get 0 (coreOf s core).acc key

/-- Nothing changes but one warp, and memory byte by byte stays as it is. -/
def OnlyOne (w : Nat) (s t : State) : Prop := (∀ k, k ≠ w → warpOf t k = warpOf s k) ∧ { t with warps := s.warps } = s

/-! ### Events -/

/-- Only tenant `k` changes. -/
def OnlyTenant (k : Nat) (s t : State) : Prop :=
  (∀ j, j ≠ k → tenantOf t j = tenantOf s j) ∧ { t with tenants := s.tenants } = s

/-- Only die `k` changes. -/
def OnlyDie (k : Nat) (s t : State) : Prop := (∀ j, j ≠ k → dieOf t j = dieOf s j) ∧ { t with dies := s.dies } = s

/-- Only link `k` changes. -/
def OnlyLink (k : Nat) (s t : State) : Prop := (∀ j, j ≠ k → linkOf t j = linkOf s j) ∧ { t with links := s.links } = s

/-- Only service core `k` changes. -/
def OnlySvc (k : Nat) (s t : State) : Prop := (∀ j, j ≠ k → svcOf t j = svcOf s j) ∧ { t with svcs := s.svcs } = s

/-- Only island `k` changes. -/
def OnlyIsland (k : Nat) (s t : State) : Prop :=
  (∀ j, j ≠ k → islandOf t j = islandOf s j) ∧ { t with islands := s.islands } = s

/-- The event answers with `r` and changes nothing else. -/
def OnlyReplies (i : Instr) (r : Reply) (s : State) : Prop := exec i s = .next { s with out := r :: s.out }

/-- A change of the records from `s` to `t`, of tenant `k` or of none, is replicated (R330): it has its reply at once when no other
instance is live, else when all of them have acknowledged it; till then their replicas hold the records as they were. -/
structure Announced (k : Option Nat) (r : Reply) (s t : State) : Prop where
  alone : ackers s = [] → t.out = r :: s.out ∧ t.plat = s.plat
  waits : ackers s ≠ [] → t.out = s.out ∧ t.plat = { s.plat with changes := s.plat.changes ++ [changeFrom s t k r (ackers s)] }

/-- The control blocks of the dies, where they do not meet, hold the doorbell frame, queue table and journal frame of tenant `k` as it
stands in `t` (R341; assumption 74). -/
def Told (s t : State) (k : Nat) : Prop :=
  ∀ d, d < diesOf s → tcbOf s d ≠ 0 →
    (∀ j, j < diesOf s → tcbOf s j ≠ 0 → NoDirtyLine s (tcbOf s j + 8) 24 ∧
      (j ≠ d → tcbOf s j + 24 ≤ tcbOf s d ∨ tcbOf s d + 24 ≤ tcbOf s j)) →
    physGet t (tcbOf s d + 8) 8 = (tenantOf t k).dbell * 65536 % 2 ^ 64 ∧
    physGet t (tcbOf s d + 0x10) 8 = (tenantOf t k).qtab % 2 ^ 64 ∧
    physGet t (tcbOf s d + 0x18) 8 = (tenantOf t k).jframe * 65536 % 2 ^ 64

/-- A tenant whose record has just changed is still marked as modified: some change of it is not acknowledged (R330). -/
def stillModified (s : State) (k : Nat) : Bool := !(ackers s).isEmpty || s.plat.changes.any fun c => c.tenant == some k

/-- The event is accepted with a value: tenant `k` becomes `x`, the change is replicated, and nothing else changes (R330). -/
def TenantAccepted (i : Instr) (k v : Nat) (x : Tenant) (s : State) : Prop :=
  ∃ t, exec i s = .next t ∧ tenantOf t k = { x with modified := stillModified s k } ∧ Announced (some k) (.accepted k v) s t ∧
    OnlyTenant k s { t with out := s.out, plat := s.plat }

/-- The journal of a tenant takes one more record now (R144): it does not fail, and no lease or lock holds its lines. -/
def JournalRoom (s : State) (t : Nat) : Prop :=
  journalFails s t = false ∧ ∀ a ∈ journalPlaces (mendNext s t) t, physFree (mendNext s t) a = true

/-- What follows a turn from state `s` that gave `r`: waiting accesses and the cluster groups have their turns (R149, R196). -/
noncomputable def afterStep (s : State) (r : Result) : Result :=
  match r with
  | .next t => .next (afterTurn s t)
  | r => r

/-- The registers of every warp stay as they are. -/
def WarpsKept (s t : State) : Prop := ∀ k, warpOf t k = warpOf s k

/-! ### Invariants -/

/-- The memory keeps its canonical form. -/
def State.memOk (s : State) : Prop := Memory.wf s.mem = true

end Sys2Proof.Machine
end

