-- ==== Sys2Proof/Certificates/Slice0/Obligations.lean ====
section
/-! DEFINITION. The statements for the provers. Each speaks of `exec`, `step`, `decode` or the state after reset in the
terms of Sys2Proof/Safety.lean. -/

open Sys2Proof Sys2Proof.Machine

/-- The vector integer words and their immediate forms write the lane function of R83, R87 and R88 under the common frame. Rests on: R80, R83, R87, R88. -/
def Obligations.VectorIntegerResults : Prop :=
  (VecOp2 .iadd (fun x y => BitVec.ofInt 32 (x.toInt + y.toInt)) ∧
    VecOp2 .isub (fun x y => BitVec.ofInt 32 (x.toInt - y.toInt)) ∧
    VecOp2 .imul (fun x y => BitVec.ofInt 32 (x.toInt * y.toInt)) ∧
    VecOp2 .imulh (fun x y => BitVec.ofInt 32 (x.toInt * y.toInt / 2 ^ 32)) ∧
    VecOp2 .umulh (fun x y => BitVec.ofNat 32 (x.toNat * y.toNat / 2 ^ 32)) ∧
    VecOp2 .imin (fun x y => BitVec.ofInt 32 (min x.toInt y.toInt)) ∧
    VecOp2 .imax (fun x y => BitVec.ofInt 32 (max x.toInt y.toInt)) ∧
    VecOp2 .umin (fun x y => BitVec.ofNat 32 (min x.toNat y.toNat)) ∧
    VecOp2 .umax (fun x y => BitVec.ofNat 32 (max x.toNat y.toNat)) ∧
    VecOp1 .iabs (fun x => BitVec.ofInt 32 |x.toInt|) ∧
    VecOp1 .ineg (fun x => BitVec.ofInt 32 (-x.toInt)) ∧
    VecOp2 .iadds (fun x y => BitVec.ofInt 32 (max (-2 ^ 31) (min (2 ^ 31 - 1) (x.toInt + y.toInt)))) ∧
    VecOp2 .isubs (fun x y => BitVec.ofInt 32 (max (-2 ^ 31) (min (2 ^ 31 - 1) (x.toInt - y.toInt)))) ∧
    VecOp2 .uadds (fun x y => BitVec.ofNat 32 (min (2 ^ 32 - 1) (x.toNat + y.toNat))) ∧
    VecOp2 .usubs (fun x y => BitVec.ofNat 32 (x.toNat - y.toNat)) ∧
    VecOp3 .imad (fun x y z => BitVec.ofInt 32 (x.toInt * y.toInt + z.toInt))) ∧
  (VecImm .iaddi (fun x i => BitVec.ofInt 32 (x.toInt + i.toInt)) ∧
    VecImm .shli (fun x i => if 32 ≤ i.toNat then 0 else BitVec.ofNat 32 (x.toNat * 2 ^ i.toNat)) ∧
    VecImm .shri (fun x i => if 32 ≤ i.toNat then 0 else BitVec.ofNat 32 (x.toNat / 2 ^ i.toNat)) ∧
    VecImm .srai (fun x i => if 32 ≤ i.toNat then (if x.msb then 0xFFFFFFFF else 0)
      else BitVec.ofInt 32 (x.toInt / 2 ^ i.toNat)) ∧
    VecImm .andi (fun x i => x &&& BitVec.ofInt 32 i.toInt) ∧
    VecImm .ori (fun x i => x ||| BitVec.ofInt 32 i.toInt) ∧
    VecImm .xori (fun x i => x ^^^ BitVec.ofInt 32 i.toInt) ∧
    VecImm .roli (fun x i => BitVec.ofNat 32 (x.toNat * 2 ^ (i.toNat % 32) + x.toNat / 2 ^ (32 - i.toNat % 32))) ∧
    VecImm .imuli (fun x i => BitVec.ofInt 32 (x.toInt * i.toInt)) ∧
    (∀ p d i s, Issues (.movi p d i) s → ∃ t, exec (.movi p d i) s = .next t ∧
      VecResult (.movi p d i) p d (fun _ => BitVec.ofInt 32 i.toInt) s t) ∧
    (∀ p d i s, Issues (.movhi p d i) s → ∃ t, exec (.movhi p d i) s = .next t ∧
      VecResult (.movhi p d i) p d (fun l => BitVec.ofNat 32 ((readV s (regD s p d) l).toNat * 2 ^ 14 + i.toNat)) s t) ∧
    (∀ p d s, Issues (.laneid p d) s → ∃ t, exec (.laneid p d) s = .next t ∧
      VecResult (.laneid p d) p d (fun l => BitVec.ofNat 32 l) s t) ∧
    (∀ p d i s, Issues (.smovi p d i) s → ∃ t, exec (.smovi p d i) s = .next t ∧
      ScalarResult (numD p d) (BitVec.ofInt 32 i.toInt) s t) ∧
    (∀ p d i s, Issues (.smovhi p d i) s → ∃ t, exec (.smovhi p d i) s = .next t ∧
      ScalarResult (numD p d) (BitVec.ofNat 32 ((readS s (numD p d)).toNat * 2 ^ 14 + i.toNat)) s t))

/-- The vector logic, shift and bit-field words write the result of R84 and R85 in every active lane and change nothing else. Rests on: R80, R84, R85. -/
def Obligations.VectorLogicResults : Prop :=
  VecOp2 .and (fun x y => x &&& y) ∧
  VecOp2 .or (fun x y => x ||| y) ∧
  VecOp2 .xor (fun x y => x ^^^ y) ∧
  VecOp2 .andn (fun x y => x &&& ~~~ y) ∧
  VecOp1 .not (fun x => ~~~ x) ∧
  VecOp2 .shl (fun x y => if 32 ≤ y.toNat % 256 then 0 else BitVec.ofNat 32 (x.toNat * 2 ^ (y.toNat % 256))) ∧
  VecOp2 .shr (fun x y => if 32 ≤ y.toNat % 256 then 0 else BitVec.ofNat 32 (x.toNat / 2 ^ (y.toNat % 256))) ∧
  VecOp2 .sra (fun x y => if 32 ≤ y.toNat % 256 then (if x.msb then 0xFFFFFFFF else 0)
    else BitVec.ofInt 32 (x.toInt / 2 ^ (y.toNat % 256))) ∧
  VecOp2 .rol (fun x y => BitVec.ofNat 32 (x.toNat * 2 ^ (y.toNat % 32) + x.toNat / 2 ^ (32 - y.toNat % 32))) ∧
  VecOp1 .popc (fun x => BitVec.ofNat 32 ((List.range 32).filter fun i => x.getLsbD i).length) ∧
  VecOp1 .clz (fun x => if x = 0 then 32 else BitVec.ofNat 32 (31 - Nat.log2 x.toNat)) ∧
  VecOp1 .brev (fun x => x.reverse) ∧
  VecOp2 .bfe (fun x y => BitVec.ofNat 32
    (x.toNat / 2 ^ (y.toNat % 32) % 2 ^ min (y.toNat / 256 % 64) (32 - y.toNat % 32))) ∧
  VecOp3 .bfi (fun x y z =>
    let n := min (y.toNat / 256 % 64) (32 - y.toNat % 32)
    BitVec.ofNat 32 (z.toNat - z.toNat / 2 ^ (y.toNat % 32) % 2 ^ n * 2 ^ (y.toNat % 32) +
      x.toNat % 2 ^ n * 2 ^ (y.toNat % 32))) ∧
  VecOp1 .mov (fun x => x)

/-- SEL writes every lane of EXEC, from a where the prefix mask is set and from b elsewhere. Formalises: R86. -/
def Obligations.SelectResult : Prop :=
  ∀ p d a b s, Issues (.sel p d a b) s → ∃ t, exec (.sel p d a b) s = .next t ∧
    LanesWritten (regD s p d) (fun l => (execMask s).getLsbD l = true) (fun _ => False)
      (fun l => if (readK s (pfx p).k.toNat).getLsbD l then srcA s p a l else srcB s p b l) s t ∧
    QueuesPopped (.sel p d a b) s t ∧ OnlyVecs (curWarp s) (curWarp t) ∧ OnlyWarpLog s t ∧
    (pfx p).z = false ∧ (p = none → ∀ l, l < (curWarp s).width → (execMask s).getLsbD l = true → (curWarp s).width ≤ 64 →
      readV t (regD s p d) l = srcA s p a l)

/-- The scalar words write the value of R110 and R111 once per issue and change nothing else. Formalises: R110, R111. -/
def Obligations.ScalarResults : Prop :=
  ScaOp2 .sadd (fun x y => BitVec.ofInt 32 (x.toInt + y.toInt)) ∧
  ScaOp2 .ssub (fun x y => BitVec.ofInt 32 (x.toInt - y.toInt)) ∧
  ScaOp2 .smul (fun x y => BitVec.ofInt 32 (x.toInt * y.toInt)) ∧
  ScaOp2 .sand (fun x y => x &&& y) ∧
  ScaOp2 .sor (fun x y => x ||| y) ∧
  ScaOp2 .sxor (fun x y => x ^^^ y) ∧
  ScaOp2 .sshl (fun x y => if 32 ≤ y.toNat % 256 then 0 else BitVec.ofNat 32 (x.toNat * 2 ^ (y.toNat % 256))) ∧
  ScaOp2 .sshr (fun x y => if 32 ≤ y.toNat % 256 then 0 else BitVec.ofNat 32 (x.toNat / 2 ^ (y.toNat % 256))) ∧
  ScaOp2 .ssra (fun x y => if 32 ≤ y.toNat % 256 then (if x.msb then 0xFFFFFFFF else 0)
    else BitVec.ofInt 32 (x.toInt / 2 ^ (y.toNat % 256))) ∧
  ScaOp2 .smin (fun x y => BitVec.ofInt 32 (min x.toInt y.toInt)) ∧
  ScaOp2 .smax (fun x y => BitVec.ofInt 32 (max x.toInt y.toInt)) ∧
  ScaOp2 .sslt (fun x y => if x.toInt < y.toInt then 1 else 0) ∧
  ScaOp2 .ssltu (fun x y => if x.toNat < y.toNat then 1 else 0) ∧
  ScaOp2 .sseq (fun x y => if x = y then 1 else 0) ∧
  (∀ p d a s, Issues (.smov p d a) s → ∃ t, exec (.smov p d a) s = .next t ∧
    ScalarResult (numD p d) (readS s (numA p a)) s t) ∧
  (∀ p d a s, Issues (.s2v p d a) s → ∃ t, exec (.s2v p d a) s = .next t ∧
    VecResult (.s2v p d a) p d (fun _ => readS s (numA p a)) s t) ∧
  ScaImm .saddi (fun x i => BitVec.ofInt 32 (x.toInt + i.toInt)) ∧
  ScaImm .sshli (fun x i => if 32 ≤ i.toNat then 0 else BitVec.ofNat 32 (x.toNat * 2 ^ i.toNat)) ∧
  ScaImm .sshri (fun x i => if 32 ≤ i.toNat then 0 else BitVec.ofNat 32 (x.toNat / 2 ^ i.toNat)) ∧
  ScaImm .sandi (fun x i => x &&& BitVec.ofInt 32 i.toInt) ∧
  ScaImm .sori (fun x i => x ||| BitVec.ofInt 32 i.toInt) ∧
  PairImm .saddi64 (fun x i => BitVec.ofInt 64 (x.toInt + i.toInt)) ∧
  PairOp2 .sadd64 (fun x y => BitVec.ofInt 64 (x.toInt + y.toInt)) ∧
  PairOp2 .ssub64 (fun x y => BitVec.ofInt 64 (x.toInt - y.toInt)) ∧
  PairImm .sshli64 (fun x i => if 64 ≤ i.toNat then 0 else BitVec.ofNat 64 (x.toNat * 2 ^ i.toNat)) ∧
  (∀ p d a s, Issues (.smov64 p d a) s → ∃ t, exec (.smov64 p d a) s = .next t ∧
    PairResult (numD p d) (readP s (numA p a)) s t) ∧
  (∀ p d a i b, numD p d % 2 = 1 → Instr.wf (.saddi64 p d a i) = false ∧ Instr.wf (.sshli64 p d a i) = false ∧
    Instr.wf (.sadd64 p d a b) = false ∧ Instr.wf (.ssub64 p d a b) = false ∧ Instr.wf (.smov64 p d a) = false)

/-- The compares write their mask under the combine mode; ICMP sets no flag, and FCMP raises NV as R90 says. Formalises: R89, R90. -/
def Obligations.Compares : Prop :=
  IntCompare .icmpEq (fun x y => decide (x = y)) ∧
  IntCompare .icmpNe (fun x y => decide (x ≠ y)) ∧
  IntCompare .icmpLt (fun x y => decide (x.toInt < y.toInt)) ∧
  IntCompare .icmpLe (fun x y => decide (x.toInt ≤ y.toInt)) ∧
  IntCompare .icmpGt (fun x y => decide (x.toInt > y.toInt)) ∧
  IntCompare .icmpGe (fun x y => decide (x.toInt ≥ y.toInt)) ∧
  IntCompare .icmpLtu (fun x y => decide (x.toNat < y.toNat)) ∧
  IntCompare .icmpLeu (fun x y => decide (x.toNat ≤ y.toNat)) ∧
  IntCompare .icmpGtu (fun x y => decide (x.toNat > y.toNat)) ∧
  IntCompare .icmpGeu (fun x y => decide (x.toNat ≥ y.toNat)) ∧
  (∀ p c a b, Instr.wf (.icmpEq p c 0 a b) = false ∧ Instr.wf (.fcmpEq p c 0 a b) = false) ∧
  let nan (x y : Fp) : Bool := x.isNan || y.isNan
  let sig (x y : Fp) : Bool := x.isSnan || y.isSnan
  FloatCompare .fcmpEq (fun x y => !nan x y && eqFp x y) sig ∧
  FloatCompare .fcmpNe (fun x y => nan x y || !eqFp x y) sig ∧
  FloatCompare .fcmpLt (fun x y => !nan x y && ltFp x y) nan ∧
  FloatCompare .fcmpLe (fun x y => !nan x y && (ltFp x y || eqFp x y)) nan ∧
  FloatCompare .fcmpGt (fun x y => !nan x y && ltFp y x) nan ∧
  FloatCompare .fcmpGe (fun x y => !nan x y && (ltFp y x || eqFp x y)) nan ∧
  FloatCompare .fcmpOrd (fun x y => !nan x y) sig ∧
  FloatCompare .fcmpUno nan sig ∧
  eqFp (unpack binary32 0) (unpack binary32 0x80000000) = true

/-- Mask words write only the lanes of EXEC, k0 ignores writes; XWR sets EXEC to the pair restricted to the owned lanes. Rests on: R91, R92, R93. -/
def Obligations.MaskWords : Prop :=
  (MaskOp2 .kand (fun x y => x && y) ∧
    MaskOp2 .kor (fun x y => x || y) ∧
    MaskOp2 .kxor (fun x y => x ^^ y) ∧
    MaskOp2 .kandn (fun x y => x && !y) ∧
    (∀ p d a s, Issues (.knot p d a) s → ∃ t, exec (.knot p d a) s = .next t ∧
      MaskResult d.toNat (fun l => (execMask s).getLsbD l = true) (fun l => !(readK s a.toNat).getLsbD l) s t) ∧
    (∀ p d a s, Issues (.kmov p d a) s → ∃ t, exec (.kmov p d a) s = .next t ∧
      MaskResult d.toNat (fun l => (execMask s).getLsbD l = true) (fun l => (readK s a.toNat).getLsbD l) s t) ∧
    (∀ p d a s, Issues (.stok p d a) s → ∃ t, exec (.stok p d a) s = .next t ∧
      MaskResult d.toNat (fun l => (execMask s).getLsbD l = true) (fun l => (readP s (numA p a)).getLsbD l) s t) ∧
    (∀ p d a b s, Issues (.kset p d a b) s → ∃ t, exec (.kset p d a b) s = .next t ∧
      MaskResult d.toNat (fun l => (execMask s).getLsbD l = true)
        (fun l => decide ((readS s (numA p a)).toNat ≤ l ∧ l < (readS s (numB p b)).toNat)) s t) ∧
    (∀ p d a s, Issues (.ktos p d a) s → ∃ t, exec (.ktos p d a) s = .next t ∧
      PairResult (numD p d) (readK s a.toNat) s t) ∧
    (∀ p d s, Issues (.xrd p d) s → ∃ t, exec (.xrd p d) s = .next t ∧ PairResult (numD p d) (execMask s) s t) ∧
    (∀ p d a s, Issues (.kpopc p d a) s → ∃ t, exec (.kpopc p d a) s = .next t ∧
      ScalarResult (numD p d)
        (BitVec.ofNat 32 ((List.range 64).filter fun l => (readK s a.toNat &&& execMask s).getLsbD l).length) s t) ∧
    (∀ p d a s, Issues (.kffs p d a) s → ∃ t, exec (.kffs p d a) s = .next t ∧ ∃ v, ScalarResult (numD p d) v s t ∧
      ((v = 0xFFFFFFFF ∧ readK s a.toNat &&& execMask s = 0) ∨
        ((readK s a.toNat &&& execMask s).getLsbD v.toNat = true ∧
          ∀ l, l < v.toNat → (readK s a.toNat &&& execMask s).getLsbD l = false))) ∧
    (∀ s l, (curWarp s).width ≤ 64 → (readK s 0).getLsbD l = decide (l < (curWarp s).width)) ∧
    (∀ s n l, (curWarp s).width ≤ l → (curWarp s).width ≤ 64 → (readK s n).getLsbD l = false)) ∧
  (∀ p a s, Issues (.xwr p a) s → ∃ t, exec (.xwr p a) s = .next t ∧
      execMask t = readP s (numA p a) &&& (curEntry s).owned ∧
      { curEntry t with exec := (curEntry s).exec } = curEntry s ∧
      (∀ e, e ≠ s.frag → entryOf (curWarp t) e = entryOf (curWarp s) e) ∧
      { curWarp t with split := (curWarp s).split } = curWarp s ∧ OnlyWarp s t)

/-- The binary32 words write the rounded result of each active lane and merge the flags of the active lanes. Rests on: R63, R64, R78, R94, R95, R96. -/
def Obligations.Binary32Results : Prop :=
  VecFlag2 .fadd (fun m x y => w32 (fadd binary32 m x.toNat y.toNat)) ∧
  VecFlag2 .fsub (fun m x y => w32 (fadd binary32 m x.toNat (y ^^^ 0x80000000).toNat)) ∧
  VecFlag2 .fmul (fun m x y => w32 (fmul binary32 m x.toNat y.toNat)) ∧
  VecFlag3 .ffma (fun m x y z => w32 (ffma binary32 m false false x.toNat y.toNat z.toNat)) ∧
  VecFlag3 .ffms (fun m x y z => w32 (ffma binary32 m false true x.toNat y.toNat z.toNat)) ∧
  VecFlag3 .fnfma (fun m x y z => w32 (ffma binary32 m true false x.toNat y.toNat z.toNat)) ∧
  VecFlag2 .fmin (fun _ x y => w32 (fminmax binary32 false x.toNat y.toNat)) ∧
  VecFlag2 .fmax (fun _ x y => w32 (fminmax binary32 true x.toNat y.toNat)) ∧
  VecOp1 .fabs (fun x => BitVec.ofNat 32 (x.toNat % 2 ^ 31)) ∧
  VecOp1 .fneg (fun x => x ^^^ 0x80000000) ∧
  VecOp1 .fclass (fun x => BitVec.ofNat 32 (fclass binary32 x.toNat)) ∧
  VecFlag1 .ffloor (fun _ x => w32 (fintegral binary32 2 false x.toNat)) ∧
  VecFlag1 .fceil (fun _ x => w32 (fintegral binary32 3 false x.toNat)) ∧
  VecFlag1 .ftrunc (fun _ x => w32 (fintegral binary32 1 false x.toNat)) ∧
  VecFlag1 .frint (fun m x => w32 (fintegral binary32 m true x.toNat)) ∧
  VecFlag2 .fscale (fun m x y => w32 (fscale binary32 m x.toNat y.toInt))

/-- Special operands of the binary32 words: NaNs, infinities and zeros. Rests on: R59, R94, R95, R96. -/
def Obligations.FloatSpecialOperands : Prop :=
  let nan (x : Word) : Bool := decide (0x7F800000 < x.toNat % 2 ^ 31)
  let sig (x : Word) : Bool := nan x && !x.getLsbD 22
  (∀ m (x y : Word), nan x || nan y → fadd binary32 m x.toNat y.toNat =
    (0x7FC00000, if sig x || sig y then flagNV else 0)) ∧
  (∀ m (x y : Word), nan x || nan y → fmul binary32 m x.toNat y.toNat =
    (0x7FC00000, if sig x || sig y then flagNV else 0)) ∧
  (∀ m (n : Bool), fadd binary32 m (if n then 0x7F800000 else 0xFF800000) (if n then 0xFF800000 else 0x7F800000) =
    (0x7FC00000, flagNV)) ∧
  (∀ m (x y : Word), x.toNat % 2 ^ 31 = 0 → y.toNat % 2 ^ 31 = 0x7F800000 →
    fmul binary32 m x.toNat y.toNat = (0x7FC00000, flagNV) ∧ fmul binary32 m y.toNat x.toNat = (0x7FC00000, flagNV)) ∧
  (∀ m np nc (x y z : Word), nan x || nan y || nan z → ffma binary32 m np nc x.toNat y.toNat z.toNat =
    (0x7FC00000, if sig x || sig y || sig z || (decide (x.toNat % 2 ^ 31 = 0) && decide (y.toNat % 2 ^ 31 = 0x7F800000)) ||
      (decide (x.toNat % 2 ^ 31 = 0x7F800000) && decide (y.toNat % 2 ^ 31 = 0)) then flagNV else 0)) ∧
  (∀ m np nc (x y : Word), x.toNat % 2 ^ 31 = 0 → y.toNat % 2 ^ 31 = 0x7F800000 →
    ∀ z : Word, ffma binary32 m np nc y.toNat x.toNat z.toNat = (0x7FC00000, flagNV) ∧
      ffma binary32 m np nc x.toNat y.toNat z.toNat = (0x7FC00000, flagNV)) ∧
  (∀ g (x y : Word), nan x = true → nan y = false →
    fminmax binary32 g x.toNat y.toNat = (y.toNat, if sig x then flagNV else 0) ∧
    fminmax binary32 g y.toNat x.toNat = (y.toNat, if sig x then flagNV else 0)) ∧
  (∀ g (x y : Word), nan x = true → nan y = true → (fminmax binary32 g x.toNat y.toNat).1 = 0x7FC00000) ∧
  (∀ x : Word, ∃ b, b < 10 ∧ fclass binary32 x.toNat = 2 ^ b)

/-- The conversions write the converted value of each active lane and merge the flags of the active lanes. Rests on: R63, R64, R72, R98. -/
def Obligations.ConversionResults : Prop :=
  VecFlag1 .cvtfi (fun m x =>
    let r := ftoint m (-2 ^ 31) (2 ^ 31 - 1) (unpack binary32 x.toNat)
    (BitVec.ofInt 32 r.1, r.2)) ∧
  VecFlag1 .cvtfu (fun m x =>
    let r := ftoint m 0 (2 ^ 32 - 1) (unpack binary32 x.toNat)
    (BitVec.ofInt 32 r.1, r.2)) ∧
  VecFlag1 .cvtif (fun m x => w32 (intToF binary32 m x.toInt)) ∧
  VecFlag1 .cvtuf (fun m x => w32 (intToF binary32 m x.toNat)) ∧
  VecFlag1 .cvtfh (fun m x => w32 (fconv binary32 binary16 m x.toNat)) ∧
  VecFlag1 .cvthf (fun _ x => w32 (fconv binary16 binary32 0 (x.toNat % 2 ^ 16))) ∧
  VecFlag1 .cvtfb (fun m x => w32 (fconv binary32 bfloat16 m x.toNat)) ∧
  VecFlag1 .cvtbf (fun _ x => w32 (fconv bfloat16 binary32 0 (x.toNat % 2 ^ 16)))

/-- The packed-half words compute both halves of each active lane, and the flags of both halves merge. Rests on: R64, R78, R103. -/
def Obligations.PackedHalfResults : Prop :=
  let two (g : Nat → Nat → Nat × Flags) (x y : Word) : Word × Flags :=
    let lo := g (x.toNat % 2 ^ 16) (y.toNat % 2 ^ 16)
    let hi := g (x.toNat / 2 ^ 16) (y.toNat / 2 ^ 16)
    (BitVec.ofNat 16 hi.1 ++ BitVec.ofNat 16 lo.1, lo.2 ||| hi.2)
  let three (g : Nat → Nat → Nat → Nat × Flags) (x y z : Word) : Word × Flags :=
    let lo := g (x.toNat % 2 ^ 16) (y.toNat % 2 ^ 16) (z.toNat % 2 ^ 16)
    let hi := g (x.toNat / 2 ^ 16) (y.toNat / 2 ^ 16) (z.toNat / 2 ^ 16)
    (BitVec.ofNat 16 hi.1 ++ BitVec.ofNat 16 lo.1, lo.2 ||| hi.2)
  VecFlag2 .hadd2 (fun m => two (fadd binary16 m)) ∧ VecFlag2 .badd2 (fun m => two (fadd bfloat16 m)) ∧
  VecFlag2 .hsub2 (fun m => two (fsub binary16 m)) ∧ VecFlag2 .bsub2 (fun m => two (fsub bfloat16 m)) ∧
  VecFlag2 .hmul2 (fun m => two (fmul binary16 m)) ∧ VecFlag2 .bmul2 (fun m => two (fmul bfloat16 m)) ∧
  VecFlag3 .hfma2 (fun m => three (ffma binary16 m false false)) ∧
  VecFlag3 .bfma2 (fun m => three (ffma bfloat16 m false false)) ∧
  VecFlag2 .hmin2 (fun _ => two (fminmax binary16 false)) ∧ VecFlag2 .bmin2 (fun _ => two (fminmax bfloat16 false)) ∧
  VecFlag2 .hmax2 (fun _ => two (fminmax binary16 true)) ∧ VecFlag2 .bmax2 (fun _ => two (fminmax bfloat16 true))

/-- Shift counts are the low 8 bits of the count operand, or imm7, and act as R84 says in every shift word. Formalises: R84. -/
def Obligations.ShiftRule : Prop :=
  let left (x : Word) (n : Nat) : Word := if 32 ≤ n then 0 else BitVec.ofNat 32 (x.toNat * 2 ^ n)
  let right (x : Word) (n : Nat) : Word := if 32 ≤ n then 0 else BitVec.ofNat 32 (x.toNat / 2 ^ n)
  let arith (x : Word) (n : Nat) : Word :=
    if 32 ≤ n then (if x.msb then 0xFFFFFFFF else 0) else BitVec.ofInt 32 (x.toInt / 2 ^ n)
  let rot (x : Word) (n : Nat) : Word := BitVec.ofNat 32 (x.toNat * 2 ^ (n % 32) + x.toNat / 2 ^ (32 - n % 32))
  let count (y : Word) : Nat := (y.extractLsb' 0 8).toNat
  VecOp2 .shl (fun x y => left x (count y)) ∧ VecImm .shli (fun x i => left x i.toNat) ∧
  VecOp2 .shr (fun x y => right x (count y)) ∧ VecImm .shri (fun x i => right x i.toNat) ∧
  VecOp2 .sra (fun x y => arith x (count y)) ∧ VecImm .srai (fun x i => arith x i.toNat) ∧
  VecOp2 .rol (fun x y => rot x (count y)) ∧ VecImm .roli (fun x i => rot x i.toNat) ∧
  ScaOp2 .sshl (fun x y => left x (count y)) ∧ ScaImm .sshli (fun x i => left x i.toNat) ∧
  ScaOp2 .sshr (fun x y => right x (count y)) ∧ ScaImm .sshri (fun x i => right x i.toNat) ∧
  ScaOp2 .ssra (fun x y => arith x (count y))

/-- FMIN and FMAX choose by R95, and FCLASS sets the one bit of R96. Formalises: R95, R96. -/
def Obligations.MinMaxAndClass : Prop :=
  let nan (x : Word) : Bool := decide (0x7F800000 < x.toNat % 2 ^ 31)
  let sig (x : Word) : Bool := nan x && !x.getLsbD 22
  let key (x : Word) : Int := if x.msb then -((x.toNat % 2 ^ 31 : Nat) : Int) - 1 else x.toNat
  let pick (small : Bool) (x y : Word) : Word × Flags :=
    (if nan x && nan y then 0x7FC00000 else if nan x then y else if nan y then x
      else if decide (key x ≤ key y) = small then x else y, if sig x || sig y then flagNV else 0)
  let bit (x : Word) : Nat :=
    let m := x.toNat % 2 ^ 31
    if 0x7F800000 < m then (if x.getLsbD 22 then 9 else 8)
    else if m = 0x7F800000 then (if x.msb then 0 else 7)
    else if 0x00800000 ≤ m then (if x.msb then 1 else 6)
    else if m ≠ 0 then (if x.msb then 2 else 5)
    else (if x.msb then 3 else 4)
  VecFlag2 .fmin (fun _ x y => pick true x y) ∧
  VecFlag2 .fmax (fun _ x y => pick false x y) ∧
  VecOp1 .fclass (fun x => BitVec.ofNat 32 (2 ^ bit x))

/-- The special functions issue with the results of their lanes fixed, which arrive later and write the active lanes. Rests on: R39, R54, R77, R97, R65, R80. -/
def Obligations.SpecialFunctionIssue : Prop :=
  (SpecialOp .frcp .rcp ∧ SpecialOp .frsq .rsq ∧ SpecialOp .fsqrt .sqrt ∧ SpecialOp .fexp2 .exp2 ∧
    SpecialOp .flog2 .log2 ∧ SpecialOp .fsin .sin ∧ SpecialOp .fcos .cos ∧ SpecialOp .ftanh .tanh) ∧
  (∀ (w op : Nat) (o : PendOp) (d : Nat) (s : State), opOf (warpOf s w) op = some o → o.kind = .special d →
      (usedEntries (warpOf s w)).isEmpty = false →
      ∃ t, exec (.specialFunctionResult w op) s = .next t ∧
        LanesWritten d (fun l => o.active.getLsbD l = true)
          (fun l => o.active.getLsbD l = false ∧ o.zeroed.getLsbD l = true) (fun l => o.vals.getD l 0)
          (asWarp s w o.frag) t ∧
        OpRetired o (asWarp s w o.frag) t ∧ OnlyWarpLog (asWarp s w o.frag) t ∧
        { warpOf t w with
          vecs := (warpOf s w).vecs, vlog := (warpOf s w).vlog, pend := (warpOf s w).pend, flags := (warpOf s w).flags } =
          { warpOf s w with
            ctl := { (warpOf s w).ctl with wstat := (warpOf s w).ctl.wstat ||| (o.flags.setWidth 32 <<< 3) } })

/-- The special operands of the special functions give the results and flags of R97. Rests on: R97. -/
def Obligations.SpecialFunctionSpecials : Prop :=
  (∀ (g : Spec) (x : Word), 0x7F800000 < x.toNat % 2 ^ 31 →
    special g x = (0x7FC00000, if x.getLsbD 22 then 0 else flagNV)) ∧
  special .rcp 0 = (0x7F800000, flagDZ) ∧ special .rcp 0x80000000 = (0xFF800000, flagDZ) ∧
  special .rcp 0x7F800000 = (0, 0) ∧ special .rcp 0xFF800000 = (0x80000000, 0) ∧
  special .rsq 0 = (0x7F800000, flagDZ) ∧ special .rsq 0x80000000 = (0xFF800000, flagDZ) ∧
  special .rsq 0x7F800000 = (0, 0) ∧
  (∀ x : Word, x.msb = true → x ≠ 0x80000000 → x.toNat ≤ 0xFF800000 →
    special .rsq x = (0x7FC00000, flagNV) ∧ special .sqrt x = (0x7FC00000, flagNV) ∧
    special .log2 x = (0x7FC00000, flagNV)) ∧
  special .sqrt 0x80000000 = (0x80000000, 0) ∧ special .sqrt 0x7F800000 = (0x7F800000, 0) ∧
  special .exp2 0xFF800000 = (0, 0) ∧ special .exp2 0x7F800000 = (0x7F800000, 0) ∧
  (∀ x : Word, 0x43000000 ≤ x.toNat → x.toNat < 0x7F800000 → special .exp2 x = (0x7F800000, flagOF ||| flagNX)) ∧
  special .log2 0 = (0xFF800000, flagDZ) ∧ special .log2 0x80000000 = (0xFF800000, flagDZ) ∧
  special .log2 0x7F800000 = (0x7F800000, 0) ∧
  (∀ x : Word, x = 0x7F800000 ∨ x = 0xFF800000 →
    special .sin x = (0x7FC00000, flagNV) ∧ special .cos x = (0x7FC00000, flagNV)) ∧
  special .tanh 0x7F800000 = (0x3F800000, 0) ∧ special .tanh 0xFF800000 = (0xBF800000, 0)

/-- The block-FP words: quantisation, mantissas, packed runs, and the operand fault on a bad quantisation word. Rests on: R72, R99, R100, R101, R102. -/
def Obligations.BlockFloatWords : Prop :=
  (∀ p d a b s, Issues (.qman p d a b) s →
    (∀ l, l < (curWarp s).width → Active s p l → 2 ≤ qFmt (srcB s p b l) ∧ qFmt (srcB s p b l) ≤ 8) →
    ∃ t, exec (.qman p d a b) s = .next t ∧ VecFlagResult (.qman p d a b) p d
      (fun l => quantMan (modeOf s p) (srcA s p a l) (srcB s p b l)) s t) ∧
  (∀ p d a b s, Issues (.dq p d a b) s →
    (∀ l, l < (curWarp s).width → Active s p l → 2 ≤ qFmt (srcB s p b l) ∧ qFmt (srcB s p b l) ≤ 8) →
    ∃ t, exec (.dq p d a b) s = .next t ∧ VecResult (.dq p d a b) p d
      (fun l => dequant (srcA s p a l) (srcB s p b l)) s t) ∧
  (∀ p d a b s l, l < (curWarp s).width → Active s p l → (qFmt (srcB s p b l) < 2 ∨ 8 < qFmt (srcB s p b l)) →
    (∀ k, k < l → Active s p k → 2 ≤ qFmt (srcB s p b k) ∧ qFmt (srcB s p b k) ≤ 8) →
    (Issues (.qman p d a b) s → exec (.qman p d a b) s = .next (takeTrap s 15 l ((srcB s p b l).setWidth 64) 0)) ∧
    (Issues (.dq p d a b) s → exec (.dq p d a b) s = .next (takeTrap s 15 l ((srcB s p b l).setWidth 64) 0))) ∧
  (∀ p d a b s, Issues (.qexp p d a b) s → 2 ≤ qFmt (readS s (numB p b)) → qFmt (readS s (numB p b)) ≤ 8 →
    8 * 2 ^ qLen (readS s (numB p b)) ≤ (curWarp s).width →
    let g := 8 * 2 ^ qLen (readS s (numB p b))
    let blk (l : Nat) : List Fp := ((List.range g).filter fun i => (activeMask s (pfx p)).getLsbD (l / g * g + i)).map
      fun i => unpack binary32 (srcA s p a (l / g * g + i)).toNat
    ∃ t, exec (.qexp p d a b) s = .next t ∧ VecFlagResult (.qexp p d a b) p d
      (fun l => (BitVec.ofNat 32 (quantExp (blk l) + 256 * qFmt (readS s (numB p b)) + 4096 * qLen (readS s (numB p b))),
        snanFlags (blk l))) s t) ∧
  (∀ p d a b s, Issues (.packm p d a b) s → 2 ≤ qFmt (readS s (numB p b)) → qFmt (readS s (numB p b)) ≤ 8 →
    ∃ t f, exec (.packm p d a b) s = .next t ∧ VecResult (.packm p d a b) p d f s t ∧
      ∀ l j, j < 32 → (f l).getLsbD j =
        (decide ((32 * l + j) / qFmt (readS s (numB p b)) < (curWarp s).width) &&
          (activeMask s (pfx p)).getLsbD ((32 * l + j) / qFmt (readS s (numB p b))) &&
          (srcA s p a ((32 * l + j) / qFmt (readS s (numB p b)))).getLsbD ((32 * l + j) % qFmt (readS s (numB p b))))) ∧
  (∀ p d a b s, Issues (.unpkm p d a b) s → 2 ≤ qFmt (readS s (numB p b)) → qFmt (readS s (numB p b)) ≤ 8 →
    ∃ t f, exec (.unpkm p d a b) s = .next t ∧ VecResult (.unpkm p d a b) p d f s t ∧
      ∀ l j, j < 32 →
        let x := qFmt (readS s (numB p b)) * l + min j (qFmt (readS s (numB p b)) - 1)
        (f l).getLsbD j = (decide (x / 32 < (curWarp s).width) && (srcA s p a (x / 32)).getLsbD (x % 32))) ∧
  (∀ p d a b s, (qFmt (readS s (numB p b)) < 2 ∨ 8 < qFmt (readS s (numB p b))) →
    (Issues (.qexp p d a b) s → exec (.qexp p d a b) s = .next (takeTrap s 15 255 ((readS s (numB p b)).setWidth 64) 0)) ∧
    (Issues (.packm p d a b) s → exec (.packm p d a b) s = .next (takeTrap s 15 255 ((readS s (numB p b)).setWidth 64) 0)) ∧
    (Issues (.unpkm p d a b) s → exec (.unpkm p d a b) s = .next (takeTrap s 15 255 ((readS s (numB p b)).setWidth 64) 0))) ∧
  (∀ p d a b s, Issues (.qexp p d a b) s → (curWarp s).width < 8 * 2 ^ qLen (readS s (numB p b)) →
    exec (.qexp p d a b) s = .next (takeTrap s 15 255 ((readS s (numB p b)).setWidth 64) 0))

/-- The shuffles read the source lane of R104 whatever its mask, and the byte words replace bytes as R108 says. Formalises: R80, R104, R108. -/
def Obligations.ShuffleAndByteWords : Prop :=
  (∀ p d a b s, Issues (.shfl p d a b) s → (∃ k, (curWarp s).width = 2 ^ k ∧ k ≤ 6) →
    ∃ t, exec (.shfl p d a b) s = .next t ∧ VecResult (.shfl p d a b) p d
      (fun l => srcA s p a ((srcB s p b l).toNat &&& ((curWarp s).width - 1))) s t) ∧
  (∀ p d a b s, Issues (.shflx p d a b) s → (∃ k, (curWarp s).width = 2 ^ k ∧ k ≤ 6) →
    ∃ t, exec (.shflx p d a b) s = .next t ∧ VecResult (.shflx p d a b) p d
      (fun l => srcA s p a (l ^^^ ((readS s (numB p b)).toNat &&& ((curWarp s).width - 1)))) s t) ∧
  (∀ p d a b s, Issues (.shflu p d a b) s → ∃ t, exec (.shflu p d a b) s = .next t ∧ VecResult (.shflu p d a b) p d
    (fun l => srcA s p a (if l < (readS s (numB p b)).toNat then l else l - (readS s (numB p b)).toNat)) s t) ∧
  (∀ p d a b s, Issues (.shfld p d a b) s → ∃ t, exec (.shfld p d a b) s = .next t ∧ VecResult (.shfld p d a b) p d
    (fun l => srcA s p a (if (curWarp s).width ≤ l + (readS s (numB p b)).toNat then l
      else l + (readS s (numB p b)).toNat)) s t) ∧
  (∀ p d a b s, Issues (.vbcast p d a b) s → (∃ k, (curWarp s).width = 2 ^ k ∧ k ≤ 6) →
    ∃ t, exec (.vbcast p d a b) s = .next t ∧ VecResult (.vbcast p d a b) p d
      (fun _ => srcA s p a ((readS s (numB p b)).toNat &&& ((curWarp s).width - 1))) s t) ∧
  (∀ p d a b s, Issues (.blut p d a b) s → ∃ t f, exec (.blut p d a b) s = .next t ∧ VecResult (.blut p d a b) p d f s t ∧
    ∀ l i, i < 4 →
      let x := (srcA s p a l).toNat / 256 ^ i % 16
      (f l).toNat / 256 ^ i % 256 = (readV s (regB s p b + x / 4) l).toNat / 256 ^ (x % 4) % 256) ∧
  (∀ p d a b s, Issues (.bluth p d a b) s →
    ∃ t f, exec (.bluth p d a b) s = .next t ∧ VecResult (.bluth p d a b) p d f s t ∧
    ∀ l i, i < 4 →
      let x := (srcA s p a l).toNat / 256 ^ i % 256 / 16
      (f l).toNat / 256 ^ i % 256 = (readV s (regB s p b + x / 4) l).toNat / 256 ^ (x % 4) % 256) ∧
  (∀ p d a b s, Issues (.bprm p d a b) s → ∃ t f, exec (.bprm p d a b) s = .next t ∧ VecResult (.bprm p d a b) p d f s t ∧
    ∀ l i, i < 4 →
      let c := (srcB s p b l).toNat / 256 ^ i % 256
      (f l).toNat / 256 ^ i % 256 =
        if 128 ≤ c then 0 else (readV s (regA s p a + c % 8 / 4) l).toNat / 256 ^ (c % 4) % 256)

/-- The reductions write one scalar from the active lanes, and the scan writes the running sums. Rests on: R64, R79, R109. -/
def Obligations.ReductionResults : Prop :=
  let lanes (s : State) (p : Option Prefix) (n : Nat) : List Nat :=
    (List.range n).filter fun l => (activeMask s (pfx p)).getLsbD l
  (∀ p d a s, Issues (.vredadd p d a) s → ∃ t, exec (.vredadd p d a) s = .next t ∧ ScalarPopResult (.vredadd p d a)
    (numD p d) (BitVec.ofNat 32 ((lanes s p (curWarp s).width).map fun l => (srcA s p a l).toNat).sum) 0 s t) ∧
  (∀ p d a s, Issues (.vredmin p d a) s → ∃ t, exec (.vredmin p d a) s = .next t ∧ ScalarPopResult (.vredmin p d a)
    (numD p d) (BitVec.ofInt 32 (((lanes s p (curWarp s).width).map fun l => (srcA s p a l).toInt).foldl min
      (2 ^ 31 - 1))) 0 s t) ∧
  (∀ p d a s, Issues (.vredmax p d a) s → ∃ t, exec (.vredmax p d a) s = .next t ∧ ScalarPopResult (.vredmax p d a)
    (numD p d) (BitVec.ofInt 32 (((lanes s p (curWarp s).width).map fun l => (srcA s p a l).toInt).foldl max
      (-2 ^ 31))) 0 s t) ∧
  (∀ p d a s, Issues (.vredfadd p d a) s → 
    let r := redFadd (modeOf s p) ((List.range (curWarp s).width).map fun l =>
      if (activeMask s (pfx p)).getLsbD l then some (srcA s p a l) else none)
    ∃ t, exec (.vredfadd p d a) s = .next t ∧ ScalarPopResult (.vredfadd p d a) (numD p d) r.1 r.2 s t) ∧
  (∀ p d a s, Issues (.vscan p d a) s → ∃ t, exec (.vscan p d a) s = .next t ∧ VecResult (.vscan p d a) p d
    (fun l => BitVec.ofNat 32 ((lanes s p (l + 1)).map fun i => (srcA s p a i).toNat).sum) s t)

/-- The neighbour words issue as class A operations, and on completion write their lanes and the latches of the neighbours. Rests on: R39, R80, R105, R106, R107. -/
def Obligations.NeighbourLinks : Prop :=
  (∀ p d a s, Issues (.nbl p d a) s → ∃ t, exec (.nbl p d a) s = .next t ∧ OpIssued (.nbl p d a) .a false
    { newOp s (.neighbour 0 (regD s p d)) with
      active := activeMask s (pfx p), zeroed := zeroMask s (pfx p)
      vals := (List.range (curWarp s).width).map (srcA s p a) } s t) ∧
  (∀ p d a s, Issues (.nbr p d a) s → ∃ t, exec (.nbr p d a) s = .next t ∧ OpIssued (.nbr p d a) .a false
    { newOp s (.neighbour 1 (regD s p d)) with
      active := activeMask s (pfx p), zeroed := zeroMask s (pfx p)
      vals := (List.range (curWarp s).width).map (srcA s p a) } s t) ∧
  (∀ p d a s, Issues (.nbx p d a) s → ∃ t, exec (.nbx p d a) s = .next t ∧ OpIssued (.nbx p d a) .a false
    { newOp s (.neighbour 2 (regD s p d)) with
      active := activeMask s (pfx p), zeroed := zeroMask s (pfx p)
      vals := (List.range (curWarp s).width).map (srcA s p a) } s t) ∧
  (∀ (w op n d : Nat) (o : PendOp) (s : State), opOf (warpOf s w) op = some o → o.kind = .neighbour n d →
    (olderLatch (warpOf s w) o = true ∨ pointBefore (warpOf s w) op = true →
      exec (.neighbourLatchComplete w op) s = .next s) ∧
    (olderLatch (warpOf s w) o = false → pointBefore (warpOf s w) op = false →
    (usedEntries (warpOf s w)).isEmpty = false →
    ∃ t, exec (.neighbourLatchComplete w op) s = .next t ∧
      LanesWritten d (fun l => o.active.getLsbD l = true)
        (fun l => o.active.getLsbD l = false ∧ o.zeroed.getLsbD l = true)
        (fun l =>
          if n = 0 then (if l = 0 then Tbl.get 0 (warpOf s w).edgeL ((warpOf s w).width - 1) else o.vals.getD (l - 1) 0)
          else if n = 1 then
            (if l = (warpOf s w).width - 1 then Tbl.get 0 (warpOf s w).edgeR 0 else o.vals.getD (l + 1) 0)
          else o.vals.getD (l ^^^ 1) 0) (asWarp s w o.frag) t ∧
      OpRetired o (asWarp s w o.frag) t ∧
      (n ≠ 2 → OnlyWarpLog (asWarp s w o.frag) t ∧ (warpOf t w).edgeL = (warpOf s w).edgeL ∧
        (warpOf t w).edgeR = (warpOf s w).edgeR) ∧
      (∀ k, n = 2 → k ≠ w → peerWarp (asWarp s w o.frag) ((warpOf s w).index + 1) = some k →
        ∀ l, Tbl.get 0 (warpOf t k).edgeL l = o.vals.getD l 0) ∧
      (∀ k, n = 2 → k ≠ w → 0 < (warpOf s w).index →
        peerWarp (asWarp s w o.frag) ((warpOf s w).index - 1) = some k →
        ∀ l, Tbl.get 0 (warpOf t k).edgeR l = o.vals.getD l 0) ∧
      ∀ a, Memory.byte t.mem a = Memory.byte s.mem a))

/-- Every word first runs the checks of R49 in order, then waits while held (the model's choices: the prefix's trap, assumption 7, set-aside clauses, 53). Rests on: R49, R50, R65, R209, R226, R313. -/
def Obligations.WordIssueRule : Prop :=
  (∀ i s f, encode i ≠ [] → (∀ w a b l, i ≠ .clause w a b l) → issueFault i s = some f →
    exec i s = .next (takeIssueFault s (curEntry s).here f)) ∧
  (∀ i s, encode i ≠ [] → (∀ w a b l, i ≠ .clause w a b l) → issueFault i s = none → heldBack i s = true →
    ∃ t, exec i s = .next t ∧ OnlyEntry { curEntry s with
      pc := refAt (curEntry s).pc ((curEntry s).here + 1 - BitVec.ofNat 16 (curEntry s).size)
      left := (curEntry s).left + (curEntry s).size, aside := !(matrixWord i && matrixFull s) } s t) ∧
  (∀ i s, Instr.wf i = false → ∃ f, issueFault i s = some f ∧ f.cause = 1) ∧
  (∀ i s, Instr.wf i = true → (s.cur < 16 → (svcOf s s.cur).priv = false) →
    (∀ p, i = .eret p ∨ i = .wfi p ∨ (∃ a b, i = .ipi p a b ∨ i = .ctxsv p a b ∨ i = .wlatch p a b ∨ i = .keyrev p a b) ∨
      (∃ d a b, i = .ctxld p d a b) ∨ (∃ d r, (i = .csrrd p d r ∨ i = .csrwr p d r) ∧ 0x800 ≤ r.toNat) →
      issueFault i s = some ⟨2, false, none⟩)) ∧
  (∀ i s, Instr.wf i = true → matrixWord i = true → s.cur < 16 ∨ (curBlock s).ctx = none →
    issueFault i s = some ⟨3, false, none⟩) ∧
  (∀ p d r s i, i = .csrrd p d r ∨ i = .csrwr p d r → Instr.wf i = true →
    (r.toNat = 0x820 ∧ s.part = .gx9h ∧ s.cur < 16 ∧ (svcOf s s.cur).priv = true) ∨ (r.toNat = 1 ∧ s.cur < 16) →
    issueFault i s = some ⟨3, false, none⟩) ∧
  (∀ i s f r, Instr.wf i = true → (serviceOnly i = true → s.cur < 16 ∧ (svcOf s s.cur).priv = true) → unitAbsent s i = false →
    form i = some f → rangeFault (curEntry s).wb.toNat (curWarp s).vregs f = some r →
    issueFault i s = some ⟨4, false, some r⟩) ∧
  (∀ p d a b s, Instr.wf (.iadd p d a b) = true → (curWarp s).vregs ≤ regD s p d →
    issueFault (.iadd p d a b) s = some ⟨4, false, some (regD s p d)⟩) ∧
  (∀ d a b s, Instr.wf (.iadd none d a b) = true → (curWarp s).vregs ≤ regA s none a ∨ (curWarp s).vregs ≤ regB s none b →
    ∃ r, issueFault (.iadd none d a b) s = some ⟨4, false, some r⟩) ∧
  (∀ p d a b s, Instr.wf (.ldq p d a b) = true → (curWarp s).vregs < regD s p d + 4 →
    issueFault (.ldq p d a b) s = some ⟨4, false, some (max (regD s p d) (curWarp s).vregs)⟩)

/-- A tenant's warp that traps stops and holds its record; a service core pushes a shelf and enters its handler. Rests on: R314, R304, R318. -/
def Obligations.TakingTraps : Prop :=
  ((∀ s cause lane v aux, 16 ≤ s.cur → (curWarp s).trap = none →
      TenantTrapTaken cause lane v aux s (takeTrap s cause lane v aux) ∧
      (∀ f, flagCount (curWarp (takeTrap s cause lane v aux)) f = flagCount (curWarp s) f -
        (if (curEntry s).flagA ≠ 15#4 ∧ f = (curEntry s).flagA.toNat then (curEntry s).remA else 0) -
        (if (curEntry s).flagB ≠ 15#4 ∧ f = (curEntry s).flagB.toNat then (curEntry s).remB else 0))) ∧
    (∀ s cause lane v aux x, 16 ≤ s.cur → (curWarp s).trap = some x →
      (curWarp (takeTrap s cause lane v aux)).trap = some x ∧ TrapOutside cause v s (takeTrap s cause lane v aux))) ∧
  ((∀ s cause lane v aux, s.cur < 16 → (svcOf s s.cur).shelves.length < 4 →
      let t := takeTrap s cause lane v aux
      (∃ more, (svcOf t s.cur).shelves = more ++ ⟨refAt (curEntry s).pc (curEntry s).here,
        causeWord (svcOf s s.cur).priv 0 false cause, v, (svcOf s s.cur).hold⟩ :: (svcOf s s.cur).shelves) ∧
      (svcOf t s.cur).hold = 15 ∧ (svcOf t s.cur).priv = true ∧
      (warpOf t s.cur).scalars = (curWarp s).scalars ∧ (warpOf t s.cur).masks = (curWarp s).masks ∧
      (warpOf t s.cur).ctl = (curWarp s).ctl ∧ ∀ a, Memory.byte t.mem a = Memory.byte s.mem a) ∧
    (∀ s cause lane v aux, s.cur < 16 → 4 ≤ (svcOf s s.cur).shelves.length →
      let t := takeTrap s cause lane v aux
      (svcOf t s.cur).shelves = (svcOf s s.cur).shelves ∧ (svcOf t s.cur).running = false ∧
      (warpOf t s.cur).status = .stopped ∧ ∀ a, Memory.byte t.mem a = Memory.byte s.mem a))

/-- BR moves, continues or diverges by its taken set, and with no active lane only the plain branch is taken. Rests on: R164, R165. -/
def Obligations.BranchRules : Prop :=
  ∀ n m o s, Issues (.br n m o) s →
    let off := labelOff s o
    let ref := refAt (curEntry s).pc (BitVec.ofNat 16 off)
    let taken := takenLanes s n m
    (((execMask s ≠ 0 ∧ taken = execMask s) ∨ (execMask s = 0 ∧ m = 0#3 ∧ n = 0#1)) →
      (goodTarget (curSlot s) off = true → ∃ t, exec (.br n m o) s = .next t ∧ Moved ref none s t) ∧
      (goodTarget (curSlot s) off = false → exec (.br n m o) s = .next (takeTrap s 5 255 ref 0))) ∧
    (((execMask s ≠ 0 ∧ taken = 0) ∨ (execMask s = 0 ∧ ¬ (m = 0#3 ∧ n = 0#1))) → exec (.br n m o) s = .next s) ∧
    (execMask s ≠ 0 → taken ≠ 0 → taken ≠ execMask s →
      (goodTarget (curSlot s) off = false → exec (.br n m o) s = .next (takeTrap s 5 255 ref 0)) ∧
      (goodTarget (curSlot s) off = true →
        (∀ w, diverge (curWarp s) s.stamp s.frag taken ref (branchRcv (curEntry s)) = some w →
          exec (.br n m o) s = .next (setCur s w)) ∧
        (diverge (curWarp s) s.stamp s.frag taken ref (branchRcv (curEntry s)) = none →
          exec (.br n m o) s = .next (takeTrap s 6 255 0 0))))

/-- A divergent branch splits by the number of FREE entries as the table of R133 says. Formalises: R133. -/
def Obligations.DivergentBranch : Prop :=
  ∀ (w : Warp) (stamp e : Nat) (tk tgt : Dword) (r : BitVec 16), e < 8 → (entryOf w e).state ≠ .free →
    let x := entryOf w e
    let join := { x with state := .join, pc := refAt x.pc r, holds := [], left := 0 }
    (∀ i j rest, freeEntries w = i :: j :: rest → ∃ v, diverge w stamp e tk tgt r = some v ∧ entryOf v e = join ∧
      (entryOf v i).state = .leaf ∧ (entryOf v i).owned = tk ∧ (entryOf v i).exec = tk ∧ (entryOf v i).pc = tgt ∧
      (entryOf v i).parent = BitVec.ofNat 4 e ∧ (entryOf v i).rcvOff = r ∧ (entryOf v i).ser = 0 ∧
      (entryOf v j).state = .leaf ∧ (entryOf v j).owned = x.owned &&& ~~~ tk ∧ (entryOf v j).exec = x.exec &&& ~~~ tk ∧
      (entryOf v j).pc = x.pc ∧ (entryOf v j).parent = BitVec.ofNat 4 e ∧ (entryOf v j).rcvOff = r ∧
      (entryOf v j).ser = 0 ∧ (∀ k, k ≠ e → k ≠ i → k ≠ j → entryOf v k = entryOf w k) ∧
      { v with split := w.split } = w) ∧
    (∀ i, freeEntries w = [i] → ∃ v, diverge w stamp e tk tgt r = some v ∧ entryOf v e = join ∧
      (entryOf v i).state = .leaf ∧ (entryOf v i).owned = tk ∧ (entryOf v i).exec = tk ∧ (entryOf v i).pc = tgt ∧
      (entryOf v i).parent = BitVec.ofNat 4 e ∧ (entryOf v i).rcvOff = r ∧ (entryOf v i).ser = 1 ∧
      (entryOf v i).pend = x.owned &&& ~~~ tk ∧ (entryOf v i).pendx = x.exec &&& ~~~ tk ∧
      (entryOf v i).altOff = refOff x.pc ∧ (∀ k, k ≠ e → k ≠ i → entryOf v k = entryOf w k) ∧
      { v with split := w.split } = w) ∧
    (freeEntries w = [] → x.ser = 0 → ∃ v, diverge w stamp e tk tgt r = some v ∧
      entryOf v e = { x with
        owned := tk, exec := tk, pc := tgt, ser := 2, srcv := r, pend := x.owned &&& ~~~ tk, pendx := x.exec &&& ~~~ tk
        altOff := refOff x.pc, left := 0, readyAt := stamp } ∧
      (∀ k, k ≠ e → entryOf v k = entryOf w k) ∧ { v with split := w.split } = w) ∧
    (freeEntries w = [] → x.ser ≠ 0 → diverge w stamp e tk tgt r = none) ∧
    (branchRcv x = match x.rcv with
      | some o => o
      | none => if x.parent = 15 then 0xFFFF else x.rcvOff) ∧
    (∀ n m o s, Issues (.br n m o) s → execMask s ≠ 0 → takenLanes s n m ≠ 0 → takenLanes s n m ≠ execMask s →
      goodTarget (curSlot s) (labelOff s o) = true →
      (match diverge (curWarp s) s.stamp s.frag (takenLanes s n m)
          (refAt (curEntry s).pc (BitVec.ofNat 16 (labelOff s o))) (branchRcv (curEntry s)) with
        | some v => exec (.br n m o) s = .next (setCur s v)
        | none => exec (.br n m o) s = .next (takeTrap s 6 255 0 0)))

/-- CALL, BRX and CALLX move the whole fragment within its overlay, with the link of R167, and RCV names an offset. Rests on: R43, R166, R167, R168. -/
def Obligations.TransferWords : Prop :=
  (∀ o s, Issues (.call o) s → goodTarget (curSlot s) (labelOff s o) = true → ∃ t, exec (.call o) s = .next t ∧
    Moved (refAt (curEntry s).pc (BitVec.ofNat 16 (labelOff s o)))
      (some (refAt (curEntry s).pc ((curEntry s).here + 1))) s t) ∧
  (∀ o s, Issues (.call o) s → goodTarget (curSlot s) (labelOff s o) = false →
    exec (.call o) s = .next (takeTrap s 5 255 (refAt (curEntry s).pc (BitVec.ofNat 16 (labelOff s o))) 0)) ∧
  (∀ p a s, Issues (.brx p a) s → (readS s (numA p a)).toNat < 2 ^ 16 →
    goodTarget (curSlot s) (readS s (numA p a)).toNat = true → ∃ t, exec (.brx p a) s = .next t ∧
    Moved (refAt (curEntry s).pc (BitVec.ofNat 16 (readS s (numA p a)).toNat)) none s t) ∧
  (∀ p a s, Issues (.callx p a) s → (readS s (numA p a)).toNat < 2 ^ 16 →
    goodTarget (curSlot s) (readS s (numA p a)).toNat = true → ∃ t, exec (.callx p a) s = .next t ∧
    Moved (refAt (curEntry s).pc (BitVec.ofNat 16 (readS s (numA p a)).toNat))
      (some (refAt (curEntry s).pc ((curEntry s).here + 1))) s t) ∧
  (∀ p a s, (2 ^ 16 ≤ (readS s (numA p a)).toNat ∨ goodTarget (curSlot s) (readS s (numA p a)).toNat = false) →
    let ref := refAt (curEntry s).pc ((readS s (numA p a)).setWidth 16)
    (Issues (.brx p a) s → exec (.brx p a) s = .next (takeTrap s 5 255 ref 0)) ∧
    (Issues (.callx p a) s → exec (.callx p a) s = .next (takeTrap s 5 255 ref 0))) ∧
  (∀ o s, Issues (.rcv o) s → goodTarget (curSlot s) (labelOff s o) = true → ∃ t, exec (.rcv o) s = .next t ∧
    OnlyEntry { curEntry s with rcv := some (BitVec.ofNat 16 (labelOff s o)) } s t) ∧
  (∀ o s, Issues (.rcv o) s → goodTarget (curSlot s) (labelOff s o) = false →
    exec (.rcv o) s = .next (takeTrap s 5 255 (refAt (curEntry s).pc (BitVec.ofNat 16 (labelOff s o))) 0)) ∧
  (∀ x off, goodTarget x off = true ↔ 16 ≤ off ∧ off < x.words.length ∧ (wordAt x off).extractLsb' 25 7 = 0x7F#7)

/-- NOP, YIELD, WINB, WINA, TRAP, BKPT and SYSCALL, with the replies and the wake that end their waits. Rests on: R168, R169, R170, R172. -/
def Obligations.ControlGroup : Prop :=
  (∀ p s, Issues (.nop p) s → exec (.nop p) s = .next s) ∧
  (∀ p s, Issues (.yield p) s → ∃ t, exec (.yield p) s = .next t ∧
    OnlyEntry { curEntry s with notReady := true, left := 0 } s t) ∧
  (∀ w e s, (entryOf (warpOf s w) e).notReady = true → ∃ t, exec (.yieldWake w e) s = .next t ∧
    entryOf (warpOf t w) e = { entryOf (warpOf s w) e with notReady := false, readyAt := s.stamp } ∧
    (∀ j, j ≠ e → entryOf (warpOf t w) j = entryOf (warpOf s w) j) ∧
    { warpOf t w with split := (warpOf s w).split } = warpOf s w ∧ (∀ k, k ≠ w → warpOf t k = warpOf s k) ∧
    { t with warps := s.warps } = s) ∧
  (∀ p a s (x : Int),
    (x % 8 = 0 ∧ 0 ≤ x ∧ x < (curWarp s).vregs →
      (x = (readS s (numA p a)).toNat → Issues (.winb p a) s → ∃ t, exec (.winb p a) s = .next t ∧
        curWarp t = { curWarp s with ctl := { (curWarp s).ctl with wb := BitVec.ofInt 10 x } } ∧ OnlyWarp s t) ∧
      (x = (curWarp s).ctl.wb.toNat + (readS s (numA p a)).toInt → Issues (.wina p a) s →
        ∃ t, exec (.wina p a) s = .next t ∧
        curWarp t = { curWarp s with ctl := { (curWarp s).ctl with wb := BitVec.ofInt 10 x } } ∧ OnlyWarp s t)) ∧
    (¬ (x % 8 = 0 ∧ 0 ≤ x ∧ x < (curWarp s).vregs) →
      (x = (readS s (numA p a)).toNat → Issues (.winb p a) s →
        exec (.winb p a) s = .next (takeTrap s 4 255 (BitVec.ofInt 64 x) 0)) ∧
      (x = (curWarp s).ctl.wb.toNat + (readS s (numA p a)).toInt → Issues (.wina p a) s →
        exec (.wina p a) s = .next (takeTrap s 4 255 (BitVec.ofInt 64 x) 0)))) ∧
  (∀ p a s, Issues (.trap p a) s → Traps (.trap p a) 10 (readS s (numA p a)) s) ∧
  (∀ p s, Issues (.bkpt p) s → Traps (.bkpt p) 11 0 s) ∧
  (∀ p a s, Issues (.syscall p a) s → s.cur < 16 → exec (.syscall p a) s = .next (takeTrap s 19 255 0 (readS s (numA p a)))) ∧
  (∀ p a s, Issues (.syscall p a) s → 16 ≤ s.cur → (curWarp s).blk ≠ 0 → (curBlock s).replay = false →
    ∃ t, exec (.syscall p a) s = .next t ∧
    curEntry t = { curEntry s with
      state := .parked, left := 0
      wait := .syscall (readS s (numA p a)) (refAt (curEntry s).pc (curEntry s).here) (curWarp s).nextOp false } ∧
    (∀ e, e ≠ s.frag → entryOf (curWarp t) e = entryOf (curWarp s) e) ∧
    { curWarp t with split := (curWarp s).split, lease := (curWarp s).lease } = curWarp s ∧ (curWarp t).lease = none ∧
    blockOf t (curWarp s).blk = { curBlock s with eligible := false } ∧
    (∀ k, k ≠ (curWarp s).blk → blockOf t k = blockOf s k) ∧ (∀ k, k ≠ s.cur → warpOf t k = warpOf s k) ∧
    { t with warps := s.warps, blocks := s.blocks } = s) ∧
  (∀ w e results s a r n, (entryOf (warpOf s w) e).wait = .syscall a r n true →
    ((dieOf s ((warpOf s w).core / 40)).live = false → exec (.syscallReply w e results) s = .next s) ∧
    ((dieOf s ((warpOf s w).core / 40)).live = true → ∃ t, exec (.syscallReply w e results) s = .next t ∧
      (entryOf (warpOf t w) e).state = .leaf ∧ (entryOf (warpOf t w) e).wait = .none ∧
      (∀ k v, k < 192 → (results.scalars.filter fun x => x.1 == k).getLast? = some (k, v) →
        Tbl.get 0 (warpOf t w).scalars k = v) ∧
      (∀ k, (192 ≤ k ∨ ∀ x ∈ results.scalars, x.1 ≠ k) →
        Tbl.get 0 (warpOf t w).scalars k = Tbl.get 0 (warpOf s w).scalars k) ∧
      (∀ r l v, r < (warpOf s w).vregs → l < (warpOf s w).width → l < 64 →
        (results.vectors.filter fun x => x.1 == vecKey r l).getLast? = some (vecKey r l, v) →
        Tbl.get 0 (warpOf t w).vecs (vecKey r l) = v) ∧
      (∀ k, (∀ x ∈ results.vectors, x.1 ≠ k) → Tbl.get 0 (warpOf t w).vecs k = Tbl.get 0 (warpOf s w).vecs k) ∧
      (∀ k v, 1 ≤ k → k < 8 → (results.masks.filter fun x => x.1 == k).getLast? = some (k, v) →
        Tbl.get 0 (warpOf t w).masks k = v &&& widthMask (warpOf s w)) ∧
      (∀ k, (k = 0 ∨ 8 ≤ k ∨ ∀ x ∈ results.masks, x.1 ≠ k) → Tbl.get 0 (warpOf t w).masks k = Tbl.get 0 (warpOf s w).masks k) ∧
      { warpOf t w with
        split := (warpOf s w).split, scalars := (warpOf s w).scalars, vecs := (warpOf s w).vecs
        masks := (warpOf s w).masks } = warpOf s w ∧
      (∀ k, k ≠ w → warpOf t k = warpOf s k) ∧ ∀ a, Memory.byte t.mem a = Memory.byte s.mem a))

/-- EXIT frees the entry of its fragment or runs its pending path, and the warp ends with its last entry and its last operation. Rests on: R134, R171, R154, R248. -/
def Obligations.ExitWord : Prop :=
  (∀ p s i, Issues (.exit p) s → (curEntry s).ser = 0 → i < 8 → i ≠ s.frag → (entryOf (curWarp s) i).state = .leaf →
    ((curEntry s).parent = 15 ∨ (entryOf (curWarp s) i).parent = (curEntry s).parent) →
    ∃ t, exec (.exit p) s = .next t ∧ OnlyEntry Entry.blank s t) ∧
  (∀ p s j, Issues (.exit p) s → (curEntry s).ser = 0 → (curEntry s).parent.toNat = j → j < 8 → j ≠ s.frag →
    (entryOf (curWarp s) j).state = .join → (entryOf (curWarp s) j).parent.toNat ≠ j →
    (∀ i ∈ childrenOf (curWarp s) j, i ≠ s.frag → (entryOf (curWarp s) i).state = .arrived) →
    (∃ i b, i ∈ childrenOf (curWarp s) j ∧ i ≠ s.frag ∧ (entryOf (curWarp s) i).owned.getLsbD b = true) →
    ∃ t, exec (.exit p) s = .next t ∧ (entryOf (curWarp t) j).state = .leaf ∧
      (entryOf (curWarp t) j).pc = (entryOf (curWarp s) j).pc ∧
      (∀ b, (entryOf (curWarp t) j).owned.getLsbD b = true ↔
        ∃ i ∈ childrenOf (curWarp s) j, i ≠ s.frag ∧ (entryOf (curWarp s) i).owned.getLsbD b = true) ∧
      (∀ b, (entryOf (curWarp t) j).exec.getLsbD b = true ↔
        ∃ i ∈ childrenOf (curWarp s) j, i ≠ s.frag ∧ (entryOf (curWarp s) i).exec.getLsbD b = true) ∧
      (entryOf (curWarp t) s.frag).state = .free ∧
      (∀ i ∈ childrenOf (curWarp s) j, (entryOf (curWarp t) i).state = .free) ∧
      { curWarp t with
        split := (curWarp s).split, pend := (curWarp s).pend, nextOp := (curWarp s).nextOp } = curWarp s ∧ OnlyWarp s t) ∧
  (∀ p s, Issues (.exit p) s → s.frag < 8 → (curEntry s).ser ≠ 0 → (curEntry s).altOff ≠ 0xFFFF →
    ∃ t, exec (.exit p) s = .next t ∧ OnlyEntry { curEntry s with
      state := .leaf, wait := .none, spot := none, owned := (curEntry s).pend, exec := (curEntry s).pendx, pend := 0, pendx := 0
      pc := refAt (entryOf (curWarp s) (curEntry s).parent.toNat).pc (curEntry s).altOff, altOff := 0xFFFF, left := 0
      readyAt := s.stamp, fresh := true, aside := false } s t) ∧
  ∀ p s, Issues (.exit p) s → usedEntries (curWarp s) = [s.frag] → (curEntry s).ser = 0 → (curEntry s).parent = 15 →
    (curWarp s).status ≠ .exited → (curWarp s).status ≠ .absent →
    ((curWarp s).pend ≠ [] → ∃ t, exec (.exit p) s = .next t ∧ usedEntries (curWarp t) = [] ∧
      { curWarp t with split := (curWarp s).split } = curWarp s ∧ OnlyWarp s t) ∧
    ((curWarp s).pend = [] → (curWarp s).counters.all (fun e => e.2 == 0) = true → 16 ≤ s.cur →
      (∃ i, i ∈ liveWarps (curBlock s) ∧ i ≠ (curWarp s).index) →
      ∃ t, exec (.exit p) s = .next t ∧ (warpOf t s.cur).status = .exited ∧ usedEntries (warpOf t s.cur) = [] ∧
        (warpOf t s.cur).queues = [] ∧ (warpOf t s.cur).streams = [] ∧ (warpOf t s.cur).lease = none ∧
        (warpOf t s.cur).scalars = (curWarp s).scalars ∧ (warpOf t s.cur).vecs = (curWarp s).vecs ∧
        (blockOf t (curWarp s).blk).gone = (curWarp s).index :: (curBlock s).gone ∧
        ∀ a, Memory.byte t.mem a = Memory.byte s.mem a)

/-- A clause header waits, faults, or issues its clause: its flags count the long-latency words and its words follow. Rests on: R37, R38, R39, R49, R50. -/
def Obligations.ClauseIssue : Prop :=
  ∀ (w : BitVec 12) (a b : BitVec 4) (l : BitVec 5) (s : State),
    let x := curEntry s
    let back := setFrag s { x with pc := refAt x.pc x.here }
    let ws := clauseWords (curSlot s) (x.here.toNat + 1) (l.toNat + 1)
    x.state = .leaf → (curWarp s).status = .running → reach (curWarp back) s.stamp s.frag = none →
    (clauseReady (curWarp s) x w ws = false → exec (.clause w a b l) s = .next back) ∧
    (clauseReady (curWarp s) x w ws = true → illegal (.clause w a b l) = none →
      checkCWords s (curWarp s).ctl.wb.toNat [] ws = none →
      ∃ t, exec (.clause w a b l) s = .next t ∧
        (∀ f, flagCount (curWarp t) f = flagCount (curWarp s) f + (if a ≠ 15 ∧ f = a.toNat then classCount ws .a else 0) +
          (if b ≠ 15 ∧ f = b.toNat then classCount ws .b else 0)) ∧
        (curEntry t).left = l.toNat + 1 ∧ (curEntry t).wb = (curWarp s).ctl.wb ∧ (curEntry t).flagA = a ∧
        (curEntry t).flagB = b ∧ (curEntry t).pc = x.pc ∧ (curEntry t).exec = x.exec ∧ (curEntry t).owned = x.owned ∧
        { curWarp t with
          flags := (curWarp s).flags, split := (curWarp s).split, promoted := (curWarp s).promoted } = curWarp s ∧
        (∀ k, k ≠ s.cur → warpOf t k = warpOf s k) ∧ ∀ a, Memory.byte t.mem a = Memory.byte s.mem a) ∧
    (clauseReady (curWarp s) x w ws = true → illegal (.clause w a b l) = none →
      ∀ f, checkCWords s (curWarp s).ctl.wb.toNat [] ws = some f →
        exec (.clause w a b l) s = .next (takeClauseFault s f)) ∧
    (clauseReady (curWarp s) x w ws = true → illegal (.clause w a b l) ≠ none →
      exec (.clause w a b l) s = .next (takeClauseFault s ⟨x.here.toNat, 1, none, none⟩))

/-- The barrier words arrive, wait or both; the last arrival flips the phase; the faults of R175 record no arrival. Rests on: R153, R173, R174, R175, R154. -/
def Obligations.BarrierWords : Prop :=
  (
    let level (i : Instr) : Option (Nat × Nat) := match i with
      | .barb n => some (0, n.toNat)
      | .barc n => some (1, n.toNat)
      | .barg n => some (2, n.toNat)
      | .arrb _ n => some (0, n.toNat)
      | .arrc _ n => some (1, n.toNat)
      | .arrg _ n => some (2, n.toNat)
      | .wbarb _ n => some (0, n.toNat)
      | .wbarc _ n => some (1, n.toNat)
      | .wbarg _ n => some (2, n.toNat)
      | _ => none
    let dest (i : Instr) : Option Nat := match i with
      | .arrb d _ => some d.toNat
      | .arrc d _ => some d.toNat
      | .arrg d _ => some d.toNat
      | _ => none
    let source (i : Instr) : Option Nat := match i with
      | .wbarb a _ => some a.toNat
      | .wbarc a _ => some a.toNat
      | .wbarg a _ => some a.toNat
      | _ => none
    ∀ i lvl n s, level i = some (lvl, n) → Issues i s → ¬ (lvl = 0 ∧ (curBlock s).status = .rolling) →
        ¬ (lvl ≠ 0 ∧ (curBlock s).replay = true) →
      let key := barrierKey s lvl (curWarp s).blk
      let x := barrierOf s lvl key n
      let mine := arrivalCode lvl (curBlock s) (curWarp s).index
      (barrierFault s lvl n (source i).isNone = true → exec i s = .next (takeTrap s 8 255 (BitVec.ofNat 64 n) 0)) ∧
      (source i = none → barrierFault s lvl n true = false →
        ∃ t, exec i s = .next t ∧
          (barrierFull (recordArrival s lvl n) lvl key n = false →
            barrierOf t lvl key n = ⟨mine :: x.arrived, x.phase⟩ ∧
            (dest i = none → curEntry t = { curEntry s with state := .parked, wait := .barrier lvl n x.phase, left := 0 })) ∧
          (barrierFull (recordArrival s lvl n) lvl key n = true → barrierOf t lvl key n = ⟨[], !x.phase⟩ ∧
            (dest i = none → lvl = 0 → s.cur ∈ (curBlock s).warps →
              (curEntry t).state = .leaf ∧ (curEntry t).wait = .none)) ∧
          (∀ d, dest i = some d → Tbl.get 0 (warpOf t s.cur).scalars d = (if x.phase then 1 else 0) ∧
            ((curEntry s).state = .leaf → (curEntry t).state = .leaf)) ∧
          (∀ m, dest i ≠ some m → Tbl.get 0 (warpOf t s.cur).scalars m = readS s m) ∧
          (warpOf t s.cur).vecs = (curWarp s).vecs ∧ (warpOf t s.cur).masks = (curWarp s).masks ∧
          (warpOf t s.cur).ctl = (curWarp s).ctl ∧ ∀ a, Memory.byte t.mem a = Memory.byte s.mem a) ∧
      (∀ r, source i = some r → barrierFault s lvl n false = false →
        ∃ t, exec i s = .next t ∧ barrierOf t lvl key n = x ∧
          (x.phase ≠ (readS s r).getLsbD 0 → curEntry t = curEntry s) ∧
          (x.phase = (readS s r).getLsbD 0 →
            curEntry t = { curEntry s with state := .parked, wait := .barrier lvl n x.phase, left := 0 }) ∧
          { curWarp t with split := (curWarp s).split } = curWarp s ∧ ∀ a, Memory.byte t.mem a = Memory.byte s.mem a)) ∧
  (∀ s lvl n arrives, (s.cur < 16 → barrierFault s lvl n arrives = true) ∧
      (16 ≤ s.cur → (barrierFault s lvl n arrives = true ↔
        (lvl = 0 ∧ (curBlock s).cmd.bmemb ≠ 0 ∧ (curBlock s).cmd.bmemb.getLsbD (curWarp s).index = false) ∨
        (lvl = 2 ∧ (curBlock s).cmd.flags.testBit 3 = false) ∨
        (∀ i, (List.range 8).filter (fun e => decide ((entryOf (curWarp s) e).state ≠ .free)) ≠ [i]) ∨
        (arrives = true ∧ arrivalCode lvl (curBlock s) (curWarp s).index ∈
          (barrierOf s lvl (barrierKey s lvl (curWarp s).blk) n).arrived))))

/-- BARW parks its fragment and fuses the warp when every fragment waits there; BARLIM ends a wait with barrier timeout. Rests on: R155, R176. -/
def Obligations.WarpBarrierAndLimits : Prop :=
  (∀ s, Issues .barw s → usedEntries (curWarp s) = [s.frag] → (curEntry s).state = .leaf → (curEntry s).ser = 0 →
    (curEntry s).pend = 0 → (curEntry s).pendx = 0 → (curEntry s).side = none →
    ∃ t, exec .barw s = .next t ∧ usedEntries (curWarp t) = [0] ∧ (entryOf (curWarp t) 0).state = .leaf ∧
      (entryOf (curWarp t) 0).owned = (curEntry s).owned ∧ (entryOf (curWarp t) 0).exec = (curEntry s).exec ∧
      (entryOf (curWarp t) 0).pc = refAt (curEntry s).pc ((curEntry s).here + 1) ∧ (entryOf (curWarp t) 0).parent = 15 ∧
      (entryOf (curWarp t) 0).rcvOff = 0xFFFF ∧ (entryOf (curWarp t) 0).ser = 0 ∧
      { curWarp t with
        split := (curWarp s).split, pend := (curWarp s).pend, nextOp := (curWarp s).nextOp } = curWarp s ∧ OnlyWarp s t) ∧
  (∀ s, Issues .barw s → (curEntry s).ser = 0 →
    let ref := refAt (curEntry s).pc (curEntry s).here
    let w := setEntry (curWarp s) s.frag { curEntry s with state := .parked, wait := .barw ref, left := 0 }
    barwReady w = true →
    ((∀ y ∈ barwPlaces w, y = placeOf ref) → ∃ t, exec .barw s = .next t ∧ usedEntries (curWarp t) = [0] ∧
      (entryOf (curWarp t) 0).state = .leaf ∧ (entryOf (curWarp t) 0).parent = 15 ∧
      (∀ b, (entryOf (curWarp t) 0).owned.getLsbD b = true ↔
        ∃ i ∈ barwWaiters w, (entryOf w i).owned.getLsbD b = true ∨ (entryOf w i).pend.getLsbD b = true) ∧
      (∀ b, (entryOf (curWarp t) 0).exec.getLsbD b = true ↔
        ∃ i ∈ barwWaiters w, (entryOf w i).exec.getLsbD b = true ∨ (entryOf w i).pendx.getLsbD b = true) ∧
      placeOf (entryOf (curWarp t) 0).pc = (refId ref, refOff ref + 1) ∧
      { curWarp t with
        split := (curWarp s).split, pend := (curWarp s).pend, nextOp := (curWarp s).nextOp } = curWarp s ∧ OnlyWarp s t) ∧
    ((∃ y ∈ barwPlaces w, ∃ z ∈ barwPlaces w, y ≠ z) → 16 ≤ s.cur → (curWarp s).trap = none →
      ∃ t x, exec .barw s = .next t ∧ (curWarp t).trap = some x ∧ x.cause = 8 ∧ (curWarp t).status = .trapping ∧
        ∀ a, Memory.byte t.mem a = Memory.byte s.mem a)) ∧
  (∀ s e, Issues .barw s → (curEntry s).ser = 0 → e ≠ s.frag → e < 8 → (entryOf (curWarp s) e).state = .leaf →
    ∃ t, exec .barw s = .next t ∧ OnlyEntry { curEntry s with
      state := .parked, wait := .barw (refAt (curEntry s).pc (curEntry s).here), left := 0 } s t) ∧
  (∀ lvl key n s, lvl < 3 →
    let ks := (barrierBlocks s lvl key).flatMap fun k => (blockOf s k).warps
    (∀ k ∈ ks, 16 ≤ k) → barrierRuns s lvl key = true → (∃ k ∈ ks, waitersOf (warpOf s k) lvl n ≠ []) →
    ∃ t, exec (.barrierTimeout lvl key n) s = .next t ∧
      barrierOf t lvl key n = ⟨[], (barrierOf s lvl key n).phase⟩ ∧
      (∀ k ∈ ks, waitersOf (warpOf s k) lvl n ≠ [] → (warpOf s k).trap = none →
        ∃ x, (warpOf t k).trap = some x ∧ x.cause = 9 ∧ x.value = BitVec.ofNat 64 n ∧ (warpOf t k).status = .trapping) ∧
      (∀ k, k ∉ ks → warpOf t k = warpOf s k) ∧ ∀ a, Memory.byte t.mem a = Memory.byte s.mem a) ∧
  (∀ key s, 16 ≤ key → barrierRuns s 3 key = true → waitersOf (warpOf s key) 3 0 ≠ [] →
    ∃ t, exec (.barrierTimeout 3 key 0) s = .next t ∧
      ((warpOf s key).trap = none →
        ∃ x, (warpOf t key).trap = some x ∧ x.cause = 9 ∧ x.value = 0 ∧ (warpOf t key).status = .trapping) ∧
      (∀ k, k ≠ key → warpOf t k = warpOf s k) ∧ ∀ a, Memory.byte t.mem a = Memory.byte s.mem a) ∧
  (∀ lvl key n s, barrierRuns s lvl key = false → exec (.barrierTimeout lvl key n) s = .next s)

/-- Vector and scalar loads and stores issue as class A or B operations at the addresses of R201, or trap at their first failing lane. Rests on: R39, R201, R203, R204, R206, R207, R209, R210. -/
def Obligations.LoadStoreIssue : Prop :=
  VectorLoad .ldb 1 1 true false ∧ VectorLoad .ldbu 1 1 false false ∧ VectorLoad .ldh 2 1 true false ∧
  VectorLoad .ldhu 2 1 false false ∧ VectorLoad .ldw 4 1 false false ∧ VectorLoad .ldd 8 2 false false ∧
  VectorLoad .ldq 16 4 false false ∧ VectorLoad .ldacq 4 1 false true ∧
  ScalarLoad .sldw false false ∧ ScalarLoad .sldd true false ∧ ScalarLoad .sldacq false true ∧
  VectorStore .stb 1 false ∧ VectorStore .sth 2 false ∧ VectorStore .stw 4 false ∧ VectorStore .std 8 false ∧
  VectorStore .stq 16 false ∧ VectorStore .strel 4 true ∧
  ScalarStore .sstw false false ∧ ScalarStore .sstd true false ∧ ScalarStore .sstrel false true

/-- The atomics issue as class A and the reductions as class B operations with their operands, or trap at their first failing lane. Rests on: R39, R48, R63, R201, R203, R213, R214. -/
def Obligations.AtomicIssues : Prop :=
  let f (r : Rmw) : State → Option Prefix → Rmw := fun _ _ => r
  let g : State → Option Prefix → Rmw := fun s p => .fadd (BitVec.ofNat 3 (modeOf s p))
  AtomicIssue .aadd 4 false (f .add) ∧ AtomicIssue .amin 4 false (f .smin) ∧ AtomicIssue .amax 4 false (f .smax) ∧
  AtomicIssue .aumin 4 false (f .umin) ∧ AtomicIssue .aumax 4 false (f .umax) ∧ AtomicIssue .aand 4 false (f .and) ∧
  AtomicIssue .aor 4 false (f .or) ∧ AtomicIssue .axor 4 false (f .xor) ∧ AtomicIssue .axchg 4 false (f .xchg) ∧
  AtomicIssue .acas 4 true (f .cas) ∧ AtomicIssue .afadd 4 false g ∧ AtomicIssue .aadd64 8 false (f .add) ∧
  AtomicIssue .acas64 8 true (f .cas) ∧
  ReductionIssue .redadd 4 (f .add) ∧ ReductionIssue .redmin 4 (f .smin) ∧ ReductionIssue .redmax 4 (f .smax) ∧
  ReductionIssue .redumin 4 (f .umin) ∧ ReductionIssue .redumax 4 (f .umax) ∧ ReductionIssue .redand 4 (f .and) ∧
  ReductionIssue .redor 4 (f .or) ∧ ReductionIssue .redxor 4 (f .xor) ∧ ReductionIssue .redfadd 4 g ∧
  ReductionIssue .redadd64 8 (f .add)

/-- The faults of an access: the lowest failing lane, and the causes alignment, translation, permission and poison. Rests on: R180, R181, R183, R184, R203, R208. -/
def Obligations.AccessFaults : Prop :=
  (∀ s a al sw pre x post c, (∀ y ∈ pre, accCause s a al sw y = none) → accCause s a al sw x = some c →
    accFault s a al sw (pre ++ x :: post) = some (c, x.lane, x.va)) ∧
  (∀ s a al sw l, accFault s a al sw l = none ↔ ∀ y ∈ l, accCause s a al sw y = none) ∧
  (∀ s a sw x, x.va.toNat % x.len ≠ 0 → accCause s a true sw x = some 14) ∧
  (∀ s a (va : Dword), 16 ≤ s.cur → regionOf (curBlock s) va.toNat = none →
    (2 ^ 55 ≤ va.toNat ∨ translate s (curTenant s) va = .fault → checkAddr s a va = .bad 12) ∧
    (translate s (curTenant s) va = .poison → checkAddr s a va = .bad 18) ∧
    (∀ l, translate s (curTenant s) va = .leaf l → l.t = false →
      checkAddr s .load va = (if l.r then .ok l false else .bad 13) ∧
      (∀ n, checkAddr s (.store n) va = (if l.w then .ok l false else .bad 13)) ∧
      checkAddr s .rmw va = (if l.r && l.w then .ok l false else .bad 13))) ∧
  (∀ s va frame l, walk s va frame 0 = .leaf l →
    let e := BitVec.ofNat 64 (s.mem.rd (frame * 65536 + va / 65536 % 8192 * 8) 8)
    e.getLsbD 0 = true ∧ l.pa = (e.toNat / 65536 % 2 ^ 32) * 65536 + va % 65536 ∧ l.w = e.getLsbD 4 ∧ l.r = e.getLsbD 5 ∧
      l.x = e.getLsbD 3 ∧ l.t = e.getLsbD 6 ∧ l.m = e.getLsbD 7 ∧ l.sh = e.getLsbD 8)

/-- A unit of a load reads its bytes when its turn comes, and a load with all its data writes its registers. Rests on: R4, R39, R80, R204, R206, R207, R208, R210, R251. -/
def Obligations.LoadReturns : Prop :=
  (∀ s w op u o x, UnitTurn s w op u o x → isLoad o.kind = true → x.stash = false → isPeer x.pa = false →
    unitPoison s (warpOf s w).blk x = false → unitFree s w o x = true → NoDirtyLine s x.pa x.len →
    (blockOf s (warpOf s w).blk).replay = false →
    (∃ (v : Nat) (z : MUnit), v ≠ u ∧ o.units[v]? = some z ∧ z.done = false) →
    ∃ t, exec (.loadReturn w op u) s = .next t ∧
      UnitNow t w op u o { x with data := Memory.reads s.mem x.pa x.len, done := true } ∧
      (warpOf t w).scalars = (warpOf s w).scalars ∧ (warpOf t w).vecs = (warpOf s w).vecs ∧
      ∀ a, Memory.byte t.mem a = Memory.byte s.mem a) ∧
  (∀ s w op u o d regs n signed, opOf (warpOf s w) op = some o → o.kind = .load d regs n signed → isComplete o = true →
    StillRuns s w → 
    ∃ t, exec (.loadReturn w op u) s = .next t ∧ OpRetired o (asWarp s w o.frag) t ∧
      (∀ i l, i < regs → l < (warpOf s w).width → o.active.getLsbD l = true →
        readV t (d + i) l = (if signed then (if n = 1 then BitVec.ofInt 32 (BitVec.ofNat 8 (leNat (laneBytes o l n))).toInt
          else BitVec.ofInt 32 (BitVec.ofNat 16 (leNat (laneBytes o l n))).toInt)
          else BitVec.ofNat 32 (leNat (((laneBytes o l n).drop (4 * i)).take 4)))) ∧
      (∀ i l, i < regs → l < (warpOf s w).width → o.active.getLsbD l = false → o.zeroed.getLsbD l = true →
        readV t (d + i) l = 0) ∧
      (∀ r l, l < 64 → (r < d ∨ d + regs ≤ r ∨ (o.active.getLsbD l = false ∧ o.zeroed.getLsbD l = false)) →
        readV t r l = readV (asWarp s w o.frag) r l) ∧
      { warpOf t w with
        vecs := (warpOf s w).vecs, vlog := (warpOf s w).vlog, pend := (warpOf s w).pend, flags := (warpOf s w).flags } =
        warpOf s w ∧ OnlyWarpLog (asWarp s w o.frag) t) ∧
  (∀ s w op u o d two, opOf (warpOf s w) op = some o → o.kind = .sload d two → isComplete o = true → StillRuns s w →
    ∃ t, exec (.loadReturn w op u) s = .next t ∧ OpRetired o (asWarp s w o.frag) t ∧
      readS t d = BitVec.ofNat 32 (leNat ((laneBytes o 255 8).take 4)) ∧
      (two = true → readS t (d + 1) = BitVec.ofNat 32 (leNat ((laneBytes o 255 8).drop 4))) ∧
      (∀ m, m ≠ d → (m ≠ d + 1 ∨ two = false) → readS t m = readS (asWarp s w o.frag) m) ∧
      { warpOf t w with
        scalars := (warpOf s w).scalars, pend := (warpOf s w).pend, flags := (warpOf s w).flags } = warpOf s w ∧
      OnlyWarp (asWarp s w o.frag) t)

/-- A store unit writes exactly its bytes at its physical address; a refused, lost or poisoned one writes none. Rests on: R204, R205, R208, R251, R259, R281, R287. -/
def Obligations.StorePerforms : Prop :=
  ∀ s w op u o x, UnitTurn s w op u o x → o.kind = .store → x.stash = false → StillRuns s w →
    (blockOf s (warpOf s w).blk).replay = false →
    let k := (warpOf s w).blk
    let fate := storeFate s k (blockOf s k).world x
    let refused := laneRefusal s k o x.lane
    (∀ c, fate = .refuse c → refused ≠ none) ∧
    (fate = .perform → refused = none → isPeer x.pa = false → unitFree s w o x = true → takeoverFrom s w x = none →
      NoDirtyLine s x.pa x.data.length →
      ∃ t, exec (.storePerform w op u) s = .next t ∧
        (∀ a, Memory.byte t.mem a =
          if x.pa ≤ a ∧ a < x.pa + x.data.length then x.data.getD (a - x.pa) 0 else Memory.byte s.mem a) ∧
        (warpOf t w).scalars = (warpOf s w).scalars ∧ (warpOf t w).vecs = (warpOf s w).vecs ∧
        (warpOf t w).masks = (warpOf s w).masks ∧ (warpOf t w).ctl = (warpOf s w).ctl ∧
        (∀ j, j ≠ w → warpOf t j = warpOf s j) ∧
        ((∀ (v : Nat) (z : MUnit), v ≠ u → o.units[v]? = some z → z.done = true ∧ z.sent = false) →
          opOf (warpOf t w) op = none) ∧
        ((∃ (v : Nat) (z : MUnit), v ≠ u ∧ o.units[v]? = some z ∧ z.done = false) →
          UnitNow t w op u o { x with done := true })) ∧
    (∀ c, refused = some c → x.leafT = false → 1 ≤ c → c ≤ 8 → ∃ t, exec (.storePerform w op u) s = .next t ∧
      (∀ a, Memory.byte t.mem a = Memory.byte s.mem a) ∧ (warpOf t w).ctl.fDev.refused = true ∧
      (warpOf t w).refN = min 255 ((warpOf s w).refN + 1) ∧
      (opOf (warpOf t w) op = none ∨ opOf (warpOf t w) op = some (refusedUnits o x.lane)) ∧
      (warpOf t w).ctl.wstat.getLsbD (15 + c) = true ∧ (warpOf t w).scalars = (warpOf s w).scalars ∧
      (warpOf t w).vecs = (warpOf s w).vecs ∧ ∀ j, j ≠ w → warpOf t j = warpOf s j) ∧
    (fate = .poison → refused = none → ∃ t, exec (.storePerform w op u) s = .next t ∧
      (∀ a, Memory.byte t.mem a = Memory.byte s.mem a) ∧ (warpOf t w).ctl.fDev.poison = true ∧
      (warpOf t w).scalars = (warpOf s w).scalars ∧ (warpOf t w).vecs = (warpOf s w).vecs) ∧
    (fate = .lose → refused = none → ∃ t, exec (.storePerform w op u) s = .next t ∧
      (∀ a, Memory.byte t.mem a = Memory.byte s.mem a) ∧ (warpOf t w).ctl.fDev.lost = true ∧
      (warpOf t w).scalars = (warpOf s w).scalars ∧ (warpOf t w).vecs = (warpOf s w).vecs)

/-- A lane of an atomic reads, modifies and writes its location in one step, and the atomic returns the old values. Rests on: R64, R80, R205, R213, R214, R215. -/
def Obligations.AtomicPerforms : Prop :=
  (∀ s w op u o x f, UnitTurn s w op u o x → rmwOf o.kind = some f → isComplete o = false → x.stash = false →
    isPeer x.pa = false →
    storeFate s (warpOf s w).blk (blockOf s (warpOf s w).blk).world x = .perform →
    atomicStopped s (warpOf s w).blk o = false → unitFree s w o x = true → NoDirtyLine s x.pa x.len →
    (blockOf s (warpOf s w).blk).replay = false →
    (∃ (v : Nat) (z : MUnit), v ≠ u ∧ o.units[v]? = some z ∧ z.done = false) →
    let q := rmwNew f x.len (leNat (Memory.reads s.mem x.pa x.len)) (leNat x.data) (leNat x.data2)
    ∃ t, exec (.atomicPerform w op u) s = .next t ∧
      (∀ a, Memory.byte t.mem a =
        if x.pa ≤ a ∧ a < x.pa + x.len then (leBytes x.len q.1).getD (a - x.pa) 0 else Memory.byte s.mem a) ∧
      opOf (warpOf t w) op = some { o with
        units := o.units.set u { x with data := Memory.reads s.mem x.pa x.len, done := true }, flags := o.flags ||| q.2 } ∧
      (warpOf t w).scalars = (warpOf s w).scalars ∧ (warpOf t w).vecs = (warpOf s w).vecs) ∧
  (∀ s w op u o d regs f, opOf (warpOf s w) op = some o → o.kind = .atomic d regs f → isComplete o = true → StillRuns s w →
    ∃ t, exec (.atomicPerform w op u) s = .next t ∧ OpRetired o (asWarp s w o.frag) t ∧
      (∀ i l, i < regs → l < (warpOf s w).width → o.active.getLsbD l = true →
        readV t (d + i) l = BitVec.ofNat 32 (leNat (((laneBytes o l (4 * regs)).drop (4 * i)).take 4))) ∧
      (∀ r l, l < 64 → (r < d ∨ d + regs ≤ r ∨ (o.active.getLsbD l = false ∧ o.zeroed.getLsbD l = false)) →
        readV t r l = readV (asWarp s w o.frag) r l) ∧
      (warpOf t w).ctl.wstat = (warpOf s w).ctl.wstat ||| (o.flags.setWidth 32 <<< 3) ∧
      (warpOf t w).scalars = (warpOf s w).scalars ∧ OnlyWarpLog (asWarp s w o.frag) t) ∧
  (∀ s w op u o f, opOf (warpOf s w) op = some o → o.kind = .red f → isComplete o = true → StillRuns s w →
    ∃ t, exec (.atomicPerform w op u) s = .next t ∧ OpRetired o (asWarp s w o.frag) t ∧
      (warpOf t w).vecs = (warpOf s w).vecs ∧ (warpOf t w).scalars = (warpOf s w).scalars ∧
      (warpOf t w).ctl.wstat = (warpOf s w).ctl.wstat ||| (o.flags.setWidth 32 <<< 3) ∧ OnlyWarp (asWarp s w o.frag) t) ∧
  (∀ (old v v2 : BitVec 32) r,
    rmwNew .add 4 old.toNat v.toNat v2.toNat = ((old + v).toNat, 0) ∧
    rmwNew .smin 4 old.toNat v.toNat v2.toNat = ((BitVec.ofInt 32 (min old.toInt v.toInt)).toNat, 0) ∧
    rmwNew .smax 4 old.toNat v.toNat v2.toNat = ((BitVec.ofInt 32 (max old.toInt v.toInt)).toNat, 0) ∧
    rmwNew .umin 4 old.toNat v.toNat v2.toNat = (min old.toNat v.toNat, 0) ∧
    rmwNew .umax 4 old.toNat v.toNat v2.toNat = (max old.toNat v.toNat, 0) ∧
    rmwNew .and 4 old.toNat v.toNat v2.toNat = ((old &&& v).toNat, 0) ∧
    rmwNew .or 4 old.toNat v.toNat v2.toNat = ((old ||| v).toNat, 0) ∧
    rmwNew .xor 4 old.toNat v.toNat v2.toNat = ((old ^^^ v).toNat, 0) ∧
    rmwNew .xchg 4 old.toNat v.toNat v2.toNat = (v.toNat, 0) ∧
    rmwNew .cas 4 old.toNat v.toNat v2.toNat = ((if old = v then v2 else old).toNat, 0) ∧
    rmwNew (.fadd r) 4 old.toNat v.toNat v2.toNat = fadd binary32 r.toNat old.toNat v.toNat) ∧
  (∀ old v v2 : BitVec 64,
    rmwNew .add 8 old.toNat v.toNat v2.toNat = ((old + v).toNat, 0) ∧
    rmwNew .cas 8 old.toNat v.toNat v2.toNat = ((if old = v then v2 else old).toNat, 0))

/-- The tile words check and issue; a tile takes its locks one by one, is performed with the last, and releases them all. Rests on: R197, R198, R209, R211, R212, R199, R205. -/
def Obligations.TileWords : Prop :=
  (TileIssue .tld false false ∧ TileIssue .tst true false ∧ TileIssue .tlda false true ∧ TileIssue .tstr true true) ∧
  (∀ s w op o, opOf (warpOf s w) op = some o → isTile o.kind = true → o.finished = false →
      let k := (warpOf s w).blk
      let fate (x : MUnit) : StoreFate := storeFate s k (blockOf s k).world x
      let free (t : State) : Prop := opOf (warpOf t w) op = none ∧ ∀ l ∈ t.locks, ¬ (l.2.1 = w ∧ l.2.2 = op)
      let gets (line : Nat) : Prop := isPeer line = false ∧ lineFree s w o line = true ∧ tableFull s w o line = false
      (tileMayStart s w o = false → exec (.tileLockAcquire w op) s = .next s) ∧
      (∀ line rest, o.toLock = line :: rest → isPeer line = false →
        lineFree s w o line = false ∨ tableFull s w o line = true → exec (.tileLockAcquire w op) s = .next s) ∧
      (∀ line rest, o.toLock = line :: rest → isPeer line = true → tileMayStart s w o = true →
        (linkAlive s line = true → o.ask = 0 → ∃ t, exec (.tileLockAcquire w op) s = .next t ∧
          opOf (warpOf t w) op = some { o with ask := 1 } ∧ { t with warps := s.warps, links := s.links } = s) ∧
        (linkAlive s line = false → o.kind = .tstore → StillRuns s w → ∃ t, exec (.tileLockAcquire w op) s = .next t ∧
          free t ∧ (warpOf t w).ctl.fDev.lost = true ∧ ∀ a, Memory.byte t.mem a = Memory.byte s.mem a)) ∧
      (∀ line rest, o.toLock = line :: rest → rest ≠ [] → tileMayStart s w o = true → gets line →
        (∀ x ∈ o.units, x.stash = false) → ∃ t, exec (.tileLockAcquire w op) s = .next t ∧
          t.locks = (line, w, op) :: s.locks ∧
          opOf (warpOf t w) op = some { o with locked := line :: o.locked, toLock := rest, ask := 0 } ∧
          { warpOf t w with pend := (warpOf s w).pend } = warpOf s w ∧ (∀ j, j ≠ w → warpOf t j = warpOf s j) ∧
          { t with warps := s.warps, locks := s.locks } = s) ∧
      ((o.toLock = [] ∧ o.ask = 0) ∨ (∃ line, o.toLock = [line] ∧ gets line) → tileMayStart s w o = true →
        StillRuns s w → (∀ x ∈ o.units, x.stash = false) → (blockOf s k).replay = false →
        (o.kind = .tstore → (∀ x ∈ o.units, x.sent = false ∧ fate x = .perform ∧ NoDirtyLine s x.pa x.data.length) →
          ∃ t, exec (.tileLockAcquire w op) s = .next t ∧ free t ∧
            (∀ a, Memory.byte t.mem a =
              Memory.byte (o.units.foldl (fun m x => Memory.writes m x.pa x.data) s.mem) a) ∧
            (warpOf t w).scalars = (warpOf s w).scalars ∧ (warpOf t w).vecs = (warpOf s w).vecs ∧
            ∀ j, j ≠ w → warpOf t j = warpOf s j) ∧
        (o.kind = .tstore → (∃ x ∈ o.units, ∃ c, fate x = .refuse c) → ∃ t, exec (.tileLockAcquire w op) s = .next t ∧
          free t ∧ (∀ a, Memory.byte t.mem a = Memory.byte s.mem a) ∧ (warpOf t w).ctl.fDev.refused = true ∧
          (warpOf t w).scalars = (warpOf s w).scalars ∧ (warpOf t w).vecs = (warpOf s w).vecs) ∧
        (∀ d regs, o.kind = .tload d regs →
          (∀ x ∈ o.units, isPeer x.pa = false ∧ unitPoison s k x = false ∧ NoDirtyLine s x.pa x.len) →
          let o' := { o with units := o.units.map fun x => { x with data := Memory.reads s.mem x.pa x.len, done := true } }
          ∃ t, exec (.tileLockAcquire w op) s = .next t ∧ free t ∧ (∀ a, Memory.byte t.mem a = Memory.byte s.mem a) ∧
            (∀ i l, i < regs → l < (warpOf s w).width → o.active.getLsbD l = true →
              readV t (d + i) l = BitVec.ofNat 32 (leNat (((laneBytes o' l (4 * regs)).drop (4 * i)).take 4))) ∧
            (∀ r l, l < 64 → (r < d ∨ d + regs ≤ r ∨ (o.active.getLsbD l = false ∧ o.zeroed.getLsbD l = false)) →
              readV t r l = readV (asWarp s w o.frag) r l) ∧
            (warpOf t w).scalars = (warpOf s w).scalars ∧ (warpOf t w).ctl = (warpOf s w).ctl)) ∧
      (∀ line rest, o.toLock = line :: rest → tableFull s w o line = true → o.locked ≠ [] →
        (o.ask = 0 ∨ o.ask = 2) → ∃ t l, exec (.tileLockRetry w op) s = .next t ∧
          t.locks = s.locks.filter (fun x => !(x.2.1 == w && x.2.2 == op)) ∧
          opOf (warpOf t w) op = some { o with locked := [], toLock := l, ask := 0 } ∧ (∀ a, a ∈ l ↔ a ∈ o.locked ∨ a ∈ o.toLock) ∧
          { warpOf t w with pend := (warpOf s w).pend } = warpOf s w ∧ (∀ j, j ≠ w → warpOf t j = warpOf s j) ∧
          { t with warps := s.warps, locks := s.locks } = s))

/-- FENCE waits for the warp's earlier accesses and returns its record; MON arms a location and MWAIT waits for its value. Rests on: R209, R216, R217, R218, R219. -/
def Obligations.FenceAndMonitor : Prop :=
  (∀ p d s, Issues (.fence p d) s → ∃ t, exec (.fence p d) s = .next t ∧
    OpIssued (.fence p d) .a false { newOp s (.fence (numD p d)) with scope := (pfx p).scope } s t) ∧
  (∀ s w op o d, opOf (warpOf s w) op = some o → o.kind = .fence d →
    (olderComplete (warpOf s w) op = false → exec (.fenceComplete w op) s = .next s) ∧
    (olderComplete (warpOf s w) op = true → StillRuns s w →
      let c := (warpOf s w).ctl
      let n := o.scope.toNat
      let r := if n = 0 then c.fBlk else if n = 1 then c.fClu else if n = 2 then c.fDev else c.fSys
      ∃ t, exec (.fenceComplete w op) s = .next t ∧ OpRetired o (asWarp s w o.frag) t ∧
        readS t d = BitVec.ofNat 32 ((if r.refused then 1 else 0) + (if r.lost then 2 else 0) + (if r.replay then 4 else 0) +
          (if r.poison then 8 else 0) + 256 * r.count) ∧
        (∀ m, m ≠ d → readS t m = readS (asWarp s w o.frag) m) ∧
        (warpOf t w).ctl = { c with
          fBlk := FenceRec.blank, fClu := if n < 1 then c.fClu else FenceRec.blank
          fDev := if n < 2 then c.fDev else FenceRec.blank, fSys := if n < 3 then c.fSys else FenceRec.blank } ∧
        (warpOf t w).refN = (if n < 2 then (warpOf s w).refN else 0) ∧
        { warpOf t w with
          scalars := (warpOf s w).scalars, ctl := c, refN := (warpOf s w).refN, refVA := (warpOf s w).refVA
          pend := (warpOf s w).pend, flags := (warpOf s w).flags } = warpOf s w ∧
        OnlyWarp (asWarp s w o.frag) t)) ∧
  (∀ p a s, Issues (.mon p a) s →
    let va := readP s (numA p a)
    (va.toNat % 8 ≠ 0 → exec (.mon p a) s = .next (takeTrap s 14 255 va 0)) ∧
    (va.toNat % 8 = 0 → ∀ c, checkAddr s .mon va = .bad c → exec (.mon p a) s = .next (takeTrap s c 255 va 0)) ∧
    (va.toNat % 8 = 0 → ∀ l st, checkAddr s .mon va = .ok l st → ∃ t, exec (.mon p a) s = .next t ∧
      curWarp t = { curWarp s with ctl := { (curWarp s).ctl with mon := some va } } ∧ OnlyWarp s t)) ∧
  (∀ p d a b s, Issues (.mwait p d a b) s →
    ((curWarp s).ctl.mon = none → exec (.mwait p d a b) s = .next (takeTrap s 15 255 (readP s (numA p a)) 0)) ∧
    (∀ va c, (curWarp s).ctl.mon = some va → checkAddr s .mon va = .bad c →
      exec (.mwait p d a b) s = .next (takeTrap s c 255 va 0)) ∧
    (∀ va l st, (curWarp s).ctl.mon = some va → checkAddr s .mon va = .ok l st →
      ∃ t, exec (.mwait p d a b) s = .next t ∧ OnlyEntry { curEntry s with
        remA := (curEntry s).remA - 1, state := .parked
        wait := .mwait (numD p d) (readP s (numA p a)) none (decide (readS s (numB p b) = 0)) (pfx p).scope
        readyAt := s.stamp, spot := some (leafUnit 255 0 8 va l st (curWarp s).upper [] []) } s t)) ∧
  (∀ s w e d v0 last once scope x, (entryOf (warpOf s w) e).wait = .mwait d v0 last once scope →
    (entryOf (warpOf s w) e).spot = some x → x.done = false → x.stash = false → x.len = 8 →
    olderMeets (warpOf s w) (warpOf s w).nextOp (lanesAll (entryOf (warpOf s w) e)) x = [] →
    homeFree s w (warpOf s w).nextOp x.pa = true → (blockOf s (warpOf s w).blk).replay = false →
    isPeer x.pa = false → unitPoison s (warpOf s w).blk x = false → NoDirtyLine s x.pa 8 →
    let v := BitVec.ofNat 64 (s.mem.rd x.pa 8)
    ∃ t, exec (.mwaitReread w e) s = .next t ∧ (∀ a, Memory.byte t.mem a = Memory.byte s.mem a) ∧
      (∀ j, j ≠ w → warpOf t j = warpOf s j) ∧
      (v0.toNat ≤ v.toNat ∨ once = true → WaitEnds w e s t ∧ readP (asWarp t w e) d = v ∧
        (∀ m, m ≠ d → m ≠ d + 1 → readS (asWarp t w e) m = readS (asWarp s w e) m)) ∧
      (v.toNat < v0.toNat → once = false →
        entryOf (warpOf t w) e = { entryOf (warpOf s w) e with wait := .mwait d v0 (some v) once scope } ∧
        { warpOf t w with split := (warpOf s w).split } = warpOf s w)) ∧
  (∀ s w e d v0 v once scope, (entryOf (warpOf s w) e).wait = .mwait d v0 (some v) once scope →
    ∃ t, exec (.mwaitTimeout w e) s = .next t ∧ WaitEnds w e s t ∧ readP (asWarp t w e) d = v ∧
      (∀ m, m ≠ d → m ≠ d + 1 → readS (asWarp t w e) m = readS (asWarp s w e) m) ∧
      { warpOf t w with
        scalars := (warpOf s w).scalars, flags := (warpOf s w).flags, split := (warpOf s w).split
        pend := (warpOf s w).pend } = warpOf s w ∧
      OnlyWarp (asWarp s w e) t)

/-- LEASE (code 1 before 2: the model's choice, assumption 28), LREL, grant and end; the stash mapped, written back, dropped (at once, assumption 9), prefetched. Rests on: R193, R196, R220, R221, R222, R223, R227. -/
def Obligations.LeasesAndStash : Prop :=
  (∀ p d a b s, Issues (.lease p d a b) s → (curBlock s).replay = false →
    let va := readP s (numA p a)
    let lim := (recAt s (if s.cur < 16 then s.cur / 4 else (curWarp s).core / 40)
      (if s.cur < 16 then 64 else curTenant s)).leaselim.toNat
    let n := (readS s (numB p b)).toNat
    (∀ c, checkAddr s .lease va = .bad c → exec (.lease p d a b) s = .next (takeTrap s c 255 va 0)) ∧
    (∀ l st, checkAddr s .lease va = .ok l st →
      (lim = 0 → ∃ t, exec (.lease p d a b) s = .next t ∧ ScalarAtOnce (numD p d) 1 s t ∧ OnlyWarp s t) ∧
      (lim ≠ 0 → isPeer l.pa = true ∨ isHost l.pa = true → ∃ t, exec (.lease p d a b) s = .next t ∧
        ScalarAtOnce (numD p d) 2 s t ∧ OnlyWarp s t) ∧
      (lim ≠ 0 → isPeer l.pa = false → isHost l.pa = false → ∃ t, exec (.lease p d a b) s = .next t ∧
        curEntry t = { curEntry s with
          remA := (curEntry s).remA - 1, state := .parked
          wait := .lease (numD p d) va (l.pa / 128 * 128) (if n = 0 then lim else min n lim)
          readyAt := s.stamp } ∧
        (∀ e, e ≠ s.frag → entryOf (curWarp t) e = entryOf (curWarp s) e) ∧
        { curWarp t with split := (curWarp s).split } = { curWarp s with lease := none } ∧ OnlyWarp s t))) ∧
  (∀ p s, Issues (.lrel p) s → ∃ t, exec (.lrel p) s = .next t ∧ curWarp t = { curWarp s with lease := none } ∧ OnlyWarp s t) ∧
  (∀ s w e d va line n, (entryOf (warpOf s w) e).wait = .lease d va line n →
    (leasedByOther s w line = true ∨ (∃ l ∈ s.locks, l.1 = line) → exec (.leaseGrant w e) s = .next s) ∧
    (leasedByOther s w line = false → (∀ l ∈ s.locks, l.1 ≠ line) → ∃ t, exec (.leaseGrant w e) s = .next t ∧
      (warpOf t w).lease = some (line, n) ∧ WaitEnds w e s t ∧
      Tbl.get 0 (warpOf t w).scalars d = BitVec.ofNat 32 (65536 * n) ∧
      (∀ m, m ≠ d → Tbl.get 0 (warpOf t w).scalars m = Tbl.get 0 (warpOf s w).scalars m) ∧
      { warpOf t w with
        lease := (warpOf s w).lease, scalars := (warpOf s w).scalars, flags := (warpOf s w).flags
        split := (warpOf s w).split } = warpOf s w ∧ (∀ j, j ≠ w → warpOf t j = warpOf s j) ∧
      ((∀ l, checkAddr (asWarp s w e) .lease va ≠ .ok l true) → OnlyWarp (asWarp s w e) t) ∧
      (∀ l, checkAddr (asWarp s w e) .lease va = .ok l true → l.pa / 128 * 128 = line → isPoison s line = false →
        (lineOf (blockOf t (warpOf s w).blk) (warpOf s w).upper va.toNat).isSome = true))) ∧
  (∀ w s, ∃ t, exec (.leaseExpiry w) s = .next t ∧ warpOf t w = { warpOf s w with lease := none } ∧ OnlyOne w s t) ∧
  (∀ p a b s, Issues (.stashmap p a b) s →
    let va := readP s (numA p a)
    let v := (readS s (numB p b)).toNat
    let k := (curWarp s).blk
    let r := v / 2 ^ 24 % 16
    let off := v / 2 ^ 12 % 2 ^ 12
    let len := v % 2 ^ 12 + 1
    let old := Tbl.get ⟨0, 0, 0⟩ (curBlock s).regions r
    let old? (l : SLine) : Prop := old.base ≤ l.va ∧ l.va < old.base + 128 * old.len
    (v / 2 ^ 28 % 8 ≠ 0 → exec (.stashmap p a b) s = .next (takeTrap s 15 255 va 0)) ∧
    (v / 2 ^ 28 % 8 = 0 → v < 2 ^ 31 → (va.toNat % 128 ≠ 0 ∨ (curBlock s).cmd.stash * 8 < off + len) →
      exec (.stashmap p a b) s = .next (takeTrap s 15 255 va 0)) ∧
    (v / 2 ^ 28 % 8 = 0 → v < 2 ^ 31 → mapBad (curBlock s) r off len va.toNat = false → 2 ^ 55 ≤ va.toNat →
      exec (.stashmap p a b) s = .next (takeTrap s 12 255 va 0)) ∧
    (v / 2 ^ 28 % 8 = 0 → (v < 2 ^ 31 → mapBad (curBlock s) r off len va.toNat = false ∧ va.toNat < 2 ^ 55) → 16 ≤ s.cur →
      ∃ t, exec (.stashmap p a b) s = .next t ∧ OpAtOnce .b s t ∧
        (v < 2 ^ 31 → Tbl.get ⟨0, 0, 0⟩ (blockOf t k).regions r = ⟨off, len, va.toNat⟩) ∧
        (2 ^ 31 ≤ v → Tbl.get ⟨0, 0, 0⟩ (blockOf t k).regions r = ⟨0, 0, 0⟩) ∧
        (∀ j, j ≠ r → Tbl.get ⟨0, 0, 0⟩ (blockOf t k).regions j = Tbl.get ⟨0, 0, 0⟩ (curBlock s).regions j) ∧
        (∀ l, l ∈ (blockOf t k).lines ↔ l ∈ (curBlock s).lines ∧ ¬ old? l) ∧
        (∀ x, (∀ l ∈ (curBlock s).lines, l.dirty = true → old? l → x < l.pa ∨ l.pa + l.data.length ≤ x) →
          Memory.byte t.mem x = Memory.byte s.mem x) ∧
        { curWarp t with flags := (curWarp s).flags, split := (curWarp s).split } = curWarp s ∧
        ∀ j, j ≠ s.cur → warpOf t j = warpOf s j)) ∧
  (∀ p a b s, 
    let va := (readP s (numA p a)).toNat
    let n := (readS s (numB p b)).toNat
    let k := (curWarp s).blk
    let hit (l : SLine) : Prop := va ≤ l.va ∧ l.va < va + n
    (Issues (.stashwb p a b) s →
      (va % 128 ≠ 0 ∨ n % 128 ≠ 0 → exec (.stashwb p a b) s = .next (takeTrap s 15 255 (readP s (numA p a)) 0)) ∧
      (va % 128 = 0 → n % 128 = 0 → 2 ^ 55 ≤ va →
        exec (.stashwb p a b) s = .next (takeTrap s 12 255 (readP s (numA p a)) 0)) ∧
      (va % 128 = 0 → n % 128 = 0 → va < 2 ^ 55 → 16 ≤ s.cur → ∃ t, exec (.stashwb p a b) s = .next t ∧ OpAtOnce .b s t ∧
        (∀ l ∈ (blockOf t k).lines, hit l → l.dirty = false) ∧
        (∀ l ∈ (curBlock s).lines, (curBlock s).replay = false → hit l → l.dirty = true → isPoison s l.pa = false →
          (∀ m ∈ (curBlock s).lines, hit m → m.dirty = true → m = l ∨ m.pa + m.data.length ≤ l.pa ∨ l.pa + l.data.length ≤ m.pa) →
          ∀ i, i < l.data.length → Memory.byte t.mem (l.pa + i) = l.data.getD i 0) ∧
        (∀ x, (∀ l ∈ (curBlock s).lines, l.dirty = true → hit l → x < l.pa ∨ l.pa + l.data.length ≤ x) →
          Memory.byte t.mem x = Memory.byte s.mem x) ∧
        { curWarp t with flags := (curWarp s).flags, split := (curWarp s).split } = curWarp s)) ∧
    (Issues (.stashinv p a b) s →
      (va % 128 ≠ 0 ∨ n % 128 ≠ 0 → exec (.stashinv p a b) s = .next (takeTrap s 15 255 (readP s (numA p a)) 0)) ∧
      (va % 128 = 0 → n % 128 = 0 → 2 ^ 55 ≤ va →
        exec (.stashinv p a b) s = .next (takeTrap s 12 255 (readP s (numA p a)) 0)) ∧
      (va % 128 = 0 → n % 128 = 0 → va < 2 ^ 55 → 16 ≤ s.cur → ∃ t, exec (.stashinv p a b) s = .next t ∧ OpAtOnce .b s t ∧
        (∀ l, l ∈ (blockOf t k).lines ↔ l ∈ (curBlock s).lines ∧ ¬ hit l) ∧
        (∀ x, Memory.byte t.mem x = Memory.byte s.mem x) ∧
        { curWarp t with flags := (curWarp s).flags, split := (curWarp s).split } = curWarp s))) ∧
  (∀ p d a b s, Issues (.pref p d a b) s → ∃ t, exec (.pref p d a b) s = .next t ∧ QueuesPopped (.pref p d a b) s t ∧
    { curWarp t with queues := (curWarp s).queues } = curWarp s ∧ (∀ j, j ≠ s.cur → warpOf t j = warpOf s j) ∧
    ((∀ e ∈ s.blocks, ∀ l ∈ e.2.lines, l.dirty = false) → ∀ x, Memory.byte t.mem x = Memory.byte s.mem x))

/-- MZERO, MCOPY, MINV, GATH and SCAT issue under their counters (peer classes: the model's choice, assumption 11), or fault on a bad operand. Rests on: R224, R236, R238. -/
def Obligations.CountedWords : Prop :=
  let frames (i : Instr) (s : State) : Option (List Dword × Word × PKind) := match i with
    | .mzero p a b => some ([readP s (numA p a)], readS s (numB p b), .mzero)
    | .minv p a b => some ([readP s (numA p a)], readS s (numB p b), .minv)
    | .mcopy p d a b => some ([readP s (numA p a), readP s (numD p d)], readS s (numB p b), .mcopy [])
    | _ => none
  let spoils (s : State) (l : List MUnit) : Prop := (curBlock s).replay = true ∧ ∃ u ∈ l, spoilsReplay false u = true
  (∀ i s l (n : Word) k, frames i s = some (l, n, k) → Issues i s →
    (∀ x, l.find? (fun a => decide (a.toNat % 65536 ≠ 0)) = some x → exec i s = .next (takeTrap s 15 255 x 0)) ∧
    ((∀ x ∈ l, x.toNat % 65536 = 0) → 256 < n.toNat → exec i s = .next (takeTrap s 15 255 (n.setWidth 64) 0)) ∧
    ((∀ x ∈ l, x.toNat % 65536 = 0) → n = 0 → ∃ t, exec i s = .next t ∧
      ((curWarp s).pend.find? (fun o => o.counter == some 3) = none → counterOf (curWarp t) 3 = counterOf (curWarp s) 3 ∧
        ∀ o ∈ (curWarp t).pend, o ∈ (curWarp s).pend) ∧
      (∀ o, (curWarp s).pend.find? (fun o => o.counter == some 3) = some o → o.finished = false →
        counterOf (curWarp t) 3 = counterOf (curWarp s) 3 + 1 ∧
        (curWarp t).pend = (curWarp s).pend ++ [{ newOp s k with counter := some 3, finished := true }]) ∧
      (∀ c, c ≠ 3 → counterOf (curWarp t) c = counterOf (curWarp s) c) ∧
      (∀ e, entryOf (curWarp t) e = entryOf (curWarp s) e) ∧
      { curWarp t with
        pend := (curWarp s).pend, nextOp := (curWarp s).nextOp, counters := (curWarp s).counters
        flags := (curWarp s).flags, split := (curWarp s).split } = curWarp s ∧ OnlyWarp s t)) ∧
  (∀ i s (va : Dword) (n : Word) acc k, ((∃ p a b, i = .mzero p a b ∧ acc = .tstore ∧ k = .mzero ∧
        va = readP s (numA p a) ∧ n = readS s (numB p b)) ∨
      (∃ p a b, i = .minv p a b ∧ acc = .load ∧ k = .minv ∧ va = readP s (numA p a) ∧ n = readS s (numB p b))) →
    Issues i s → va.toNat % 65536 = 0 → n ≠ 0 → n.toNat ≤ 256 →
    (∀ c x, frameRun s acc va n.toNat = .error (c, x) → exec i s = .next (takeTrap s c 255 x 0)) ∧
    (∀ l, frameRun s acc va n.toNat = .ok l →
      (∀ u, outOfReach s false l = some u → exec i s = .next (takeTrap s 15 255 u.va 0)) ∧
      (outOfReach s false l = none → spoils s l → exec i s = .next (abandonReplay s (curWarp s).blk)) ∧
      (outOfReach s false l = none → ¬ spoils s l → ∃ t, exec i s = .next t ∧
        CountedIssued i (if l.any fun u => isPeer u.pa then 2 else 3) { newOp s k with units := l } s t))) ∧
  (∀ p d a b s, Issues (.mcopy p d a b) s →
    let src := readP s (numA p a)
    let dst := readP s (numD p d)
    let n := readS s (numB p b)
    src.toNat % 65536 = 0 → dst.toNat % 65536 = 0 → n ≠ 0 → n.toNat ≤ 256 →
    (∀ c x, frameRun s .load src n.toNat = .error (c, x) → exec (.mcopy p d a b) s = .next (takeTrap s c 255 x 0)) ∧
    (∀ l c x, frameRun s .load src n.toNat = .ok l → frameRun s .tstore dst n.toNat = .error (c, x) →
      exec (.mcopy p d a b) s = .next (takeTrap s c 255 x 0)) ∧
    (∀ l m u, frameRun s .load src n.toNat = .ok l → frameRun s .tstore dst n.toNat = .ok m →
      outOfReach s true (l ++ m) = some u → exec (.mcopy p d a b) s = .next (takeTrap s 15 255 u.va 0)) ∧
    (∀ l m, frameRun s .load src n.toNat = .ok l → frameRun s .tstore dst n.toNat = .ok m →
      outOfReach s true (l ++ m) = none → spoils s (l ++ m) →
      exec (.mcopy p d a b) s = .next (abandonReplay s (curWarp s).blk)) ∧
    (∀ l m, frameRun s .load src n.toNat = .ok l → frameRun s .tstore dst n.toNat = .ok m →
      outOfReach s true (l ++ m) = none → ¬ spoils s (l ++ m) →
      ((∃ u ∈ m, ∃ v ∈ l, v.pa = u.pa) → exec (.mcopy p d a b) s = .next (takeTrap s 15 255 dst 0)) ∧
      ((∀ u ∈ m, ∀ v ∈ l, v.pa ≠ u.pa) → ∃ t, exec (.mcopy p d a b) s = .next t ∧
        CountedIssued (.mcopy p d a b) (if (l ++ m).any fun u => isPeer u.pa then 2 else 3)
          { newOp s (.mcopy l) with units := m } s t))) ∧
  (∀ i s r scatter, ((∃ p a, i = .gath p a ∧ r = numA p a ∧ scatter = false) ∨
      (∃ p a, i = .scat p a ∧ r = numA p a ∧ scatter = true)) → Issues i s →
    let z := (readS s (r + 6)).toNat
    let table := readP s r
    let list := readP s (r + 2)
    let buf := readP s (r + 4)
    let n := z % 8192
    let esz := z / 65536 % 8
    let good := z / 8192 % 8 = 0 ∧ z < 2 ^ 19 ∧ 1 ≤ n ∧ n ≤ 4096 ∧ table.toNat % 2 ^ esz = 0 ∧ list.toNat % 4 = 0 ∧
      buf.toNat % 2 ^ esz = 0 ∧ 16 ≤ s.cur ∧ inOneRegion (curBlock s) list.toNat (4 * n + 4) = true ∧
      inOneRegion (curBlock s) buf.toNat (n * 2 ^ esz) = true
    (¬ good → ∃ v, exec i s = .next (takeTrap s 15 255 v 0)) ∧
    (good → ∃ t, exec i s = .next t ∧ CountedIssued i
      (match translateCur s table with
        | .leaf l => if isPeer l.pa then 2 else 0
        | _ => 0)
      (newOp s (.gather scatter table list buf n esz (readS s (r + 7)).toNat (tenantOf s (curTenant s)).root.toNat [])) s t))

/-- Counted operations run after earlier accesses, zero, copy, drop, or gather whole (the model's choice, assumption 14), and leave in issue order. Rests on: R224, R225, R237, R239, R284, R287. -/
def Obligations.CountedCompletions : Prop :=
  (∀ s w op o, opOf (warpOf s w) op = some o → o.finished = false → StillRuns s w →
    (blockOf s (warpClient s w).blk).replay = false →
    let c := warpClient s w
    let refusal (x : MUnit) : Option Nat := worldRefusal s (blockDie s c.blk c.up x.pa) c.world x
    (olderPerformed (warpOf s w) op = false → exec (.countedOpComplete w op) s = .next s) ∧
    (∀ src, ((o.kind = .mzero ∨ o.kind = .minv) ∧ src = [] ∨ o.kind = .mcopy src) → framesFree s (src ++ o.units) = false →
      exec (.countedOpComplete w op) s = .next s) ∧
    (olderPerformed (warpOf s w) op = true → o.kind = .mzero → framesFree s o.units = true →
      ∃ t, exec (.countedOpComplete w op) s = .next t ∧ CountedDone w o s t ∧
        (∀ a, (∃ x ∈ o.units, refusal x = none ∧ (isPeer x.pa = true → linkAlive s x.pa = true) ∧
            a / 65536 = x.pa / 65536) → Memory.byte t.mem a = 0) ∧
        (∀ a, (∀ x ∈ o.units, refusal x = none → (isPeer x.pa = true → linkAlive s x.pa = true) →
            a / 65536 ≠ x.pa / 65536) → Memory.byte t.mem a = Memory.byte s.mem a) ∧
        (warpOf t w).scalars = (warpOf s w).scalars ∧ (warpOf t w).vecs = (warpOf s w).vecs) ∧
    (olderPerformed (warpOf s w) op = true → ∀ v x, o.kind = .mcopy [v] → o.units = [x] → framesFree s [v, x] = true →
      let f := v.pa / 65536
      refusal x = none → isPeer x.pa = false → isPeer (f * 65536) = false → f ≠ x.pa / 65536 →
      NoDirtyLine s (f * 65536) 65536 → s.memOk →
      ∃ t, exec (.countedOpComplete w op) s = .next t ∧ CountedDone w o s t ∧
        (∀ a, Memory.byte t.mem a =
          if a / 65536 = x.pa / 65536 then Memory.byte s.mem (f * 65536 + a % 65536) else Memory.byte s.mem a) ∧
        (warpOf t w).scalars = (warpOf s w).scalars ∧ (warpOf t w).vecs = (warpOf s w).vecs) ∧
    (olderPerformed (warpOf s w) op = true → o.kind = .minv → framesFree s o.units = true →
      ∃ t, exec (.countedOpComplete w op) s = .next t ∧ CountedDone w o s t ∧
        (∀ e ∈ t.blocks, e.2.replay = false → ∀ l ∈ e.2.lines, ∀ x ∈ o.units,
          l.pa + 128 ≤ x.pa / 65536 * 65536 ∨ x.pa / 65536 * 65536 + 65536 ≤ l.pa) ∧
        ((∀ x ∈ o.units, NoDirtyLine s (x.pa / 65536 * 65536) 65536) →
          ∀ a, Memory.byte t.mem a = Memory.byte s.mem a) ∧
        (warpOf t w).scalars = (warpOf s w).scalars ∧ (warpOf t w).vecs = (warpOf s w).vecs) ∧
    (olderPerformed (warpOf s w) op = true → ∀ sc table list buf n esz bound root olds,
      o.kind = .gather sc table list buf n esz bound root olds →
      let g : Client := { c with tables := some (root, olds) }
      let q := (List.range n).foldl (gatherStep g w sc table list buf esz bound) (s, GStat.blank)
      let r := gput q.1 g w (list + BitVec.ofNat 64 (4 * n)) (leBytes 4 (gstatWord q.2).toNat) q.2
      (r.2.wait = true → exec (.countedOpComplete w op) s = .next s) ∧
      (r.2.wait = false → ∃ t, exec (.countedOpComplete w op) s = .next t ∧ CountedDone w o s t ∧ t.mem = r.1.mem ∧
        (warpOf t w).scalars = (warpOf s w).scalars ∧ (warpOf t w).vecs = (warpOf s w).vecs ∧
        ∀ k, k ≠ w → warpOf t k = warpOf s k))) ∧
  (∀ c wk table list buf esz bound s g i s1 jb, engRead s c (list + BitVec.ofNat 64 (4 * i)) 4 = (s1, .ok jb) →
    let j := leNat jb
    let n := 2 ^ esz
    let el := buf + BitVec.ofNat 64 (n * i)
    (∀ scatter, j = 0xFFFFFFFF → gatherStep c wk scatter table list buf esz bound (s, g) i = (s1, g)) ∧
    (∀ scatter, bound ≤ j → j ≠ 0xFFFFFFFF →
      (gatherStep c wk scatter table list buf esz bound (s, g) i).2.oor = true ∧
      (gatherStep c wk scatter table list buf esz bound (s, g) i).2.first = min g.first i) ∧
    (j < bound → j ≠ 0xFFFFFFFF → ∀ s2 d s3,
      engRead s1 { c with bare := true } (table + BitVec.ofNat 64 (n * j)) n = (s2, .ok d) → engWrite s2 c el d = (s3, .ok ()) →
      gatherStep c wk false table list buf esz bound (s, g) i = (s3, g)) ∧
    (j < bound → j ≠ 0xFFFFFFFF → ∀ s2 d s3, engRead s1 c el n = (s2, .ok d) →
      engWrite s2 { c with bare := true } (table + BitVec.ofNat 64 (n * j)) d = (s3, .ok ()) →
      gatherStep c wk true table list buf esz bound (s, g) i = (s3, g))) ∧
  (∀ c wk table list buf esz bound s g i s1 s3, engRead s c (list + BitVec.ofNat 64 (4 * i)) 4 = (s1, .poison) →
    engWrite s1 c (buf + BitVec.ofNat 64 (2 ^ esz * i)) (List.replicate (2 ^ esz) 0) = (s3, .ok ()) →
    gatherStep c wk false table list buf esz bound (s, g) i = (s3, { g with poison := true }))

/-- Streams start, produce and stop; QPOP, QSTAT and QSTOP; SENDM sends to q7 and waits for room; CWAIT and CRD. Rests on: R47, R224, R225, R241, R242, R243, R244, R245, R246, R247. -/
def Obligations.StreamsAndQueues : Prop :=
  (∀ p a s, Issues (.strm p a) s →
    let r := numA p a
    let x := readS s (r + 3)
    let esz := x.toNat / 2 ^ 24 % 4
    let q := x.toNat / 2 ^ 27 % 8
    let base := readP s r
    let ok := esz ≠ 3 ∧ q < 6 ∧ x.toNat < 2 ^ 30 ∧ base.toNat % 2 ^ esz = 0 ∧ (streamOf (curWarp s) q).active = false
    (¬ ok → ∃ v, exec (.strm p a) s = .next (takeTrap s 15 255 v 0)) ∧
    (ok → ∃ t, exec (.strm p a) s = .next t ∧
      streamOf (curWarp t) q = ⟨base, readS s (r + 2), x, (curWarp s).nextOp, 0, true, false, false⟩ ∧
      (∀ j, j ≠ q → streamOf (curWarp t) j = streamOf (curWarp s) j) ∧
      { curWarp t with streams := (curWarp s).streams } = curWarp s ∧ OnlyWarp s t)) ∧
  (∀ s w q, let v := warpOf s w
    let x := streamOf v q
    let total := ((x.shape.toNat % 4096 + 1) * (x.shape.toNat / 4096 % 4096 + 1) + v.width - 1) / max 1 v.width
    (x.active = false ∨ 16 ≤ (queueOf v q).length ∨ olderPerformed v x.after = false →
      exec (.streamEntryProduce w q) s = .next s) ∧
    (x.active = true → (queueOf v q).length < 16 → olderPerformed v x.after = true →
      (∀ s1 l, readEntry s { warpClient s w with bare := true } x (x.pos * v.width) v.width = (s1, .ok l) →
        ∃ t, exec (.streamEntryProduce w q) s = .next t ∧ queueOf (warpOf t w) q = queueOf v q ++ [l] ∧
          (streamOf (warpOf t w) q).pos = x.pos + 1 ∧
          (streamOf (warpOf t w) q).active = decide (x.pos + 1 < total) ∧
          (streamOf (warpOf t w) q).finished = decide (total ≤ x.pos + 1) ∧
          (∀ j, j ≠ q → queueOf (warpOf t w) j = queueOf v j ∧ streamOf (warpOf t w) j = streamOf v j) ∧
          { warpOf t w with queues := v.queues, streams := v.streams } = v ∧ ∀ j, j ≠ w → warpOf t j = warpOf s j) ∧
      (∀ s1, (blockOf s (warpClient s w).blk).replay = false →
          readEntry s { warpClient s w with bare := true } x (x.pos * v.width) v.width = (s1, .fault) ∨
          readEntry s { warpClient s w with bare := true } x (x.pos * v.width) v.width = (s1, .poison) →
        ∃ t, exec (.streamEntryProduce w q) s = .next t ∧
          streamOf (warpOf t w) q = { x with active := false, fault := true } ∧
          { warpOf t w with streams := v.streams } = v ∧ ∀ j, j ≠ w → warpOf t j = warpOf s j))) ∧
  (∀ x i, elementVa x i = x.base + BitVec.ofInt 64
    ((i % (x.shape.toNat % 4096 + 1) : Nat) * (x.strides.extractLsb' 0 16).toInt +
      (i / (x.shape.toNat % 4096 + 1) : Nat) * 16 * (x.strides.extractLsb' 16 16).toInt)) ∧
  (∀ p a s, Issues (.qstop p a) s → ∃ t, exec (.qstop p a) s = .next t ∧ queueOf (curWarp t) a.toNat = [] ∧
    streamOf (curWarp t) a.toNat = Stream.blank ∧
    (∀ j, j ≠ a.toNat → queueOf (curWarp t) j = queueOf (curWarp s) j ∧ streamOf (curWarp t) j = streamOf (curWarp s) j) ∧
    { curWarp t with queues := (curWarp s).queues, streams := (curWarp s).streams } = curWarp s ∧ OnlyWarp s t) ∧
  (∀ p d a s, Issues (.qstat p d a) s → ∃ t v, exec (.qstat p d a) s = .next t ∧ ScalarResult (numD p d) v s t ∧
    ((queueOf (curWarp s) a.toNat).length < 256 → v.toNat % 256 = (queueOf (curWarp s) a.toNat).length ∧
      (a.toNat ≠ 7 → (v.getLsbD 8 = (streamOf (curWarp s) a.toNat).active ∧
        v.getLsbD 9 = (streamOf (curWarp s) a.toNat).finished ∧ v.getLsbD 10 = (streamOf (curWarp s) a.toNat).fault)))) ∧
  (∀ p d a s, Issues (.qpop p d a) s → ∃ t, exec (.qpop p d a) s = .next t ∧
    VecWritten p d (queueFront s a.toNat) s t ∧
    (∀ q, queueOf (curWarp t) q =
      if q = a.toNat then (queueOf (curWarp s) q).tail else queueOf (curWarp s) q) ∧
    OnlyVecs (curWarp s) (curWarp t) ∧ OnlyWarpLog s t) ∧
  (∀ p a b s, Issues (.sendm p a b) s →
    let v := readS s (numA p a)
    let n := (curBlock s).cmd.warps
    ((∃ i, i < 32 ∧ n ≤ i ∧ v.getLsbD i = true) → exec (.sendm p a b) s = .next (takeTrap s 15 255 (v.setWidth 64) 0)) ∧
    (v = 0 → ∃ t, exec (.sendm p a b) s = .next t ∧ OpAtOnce .b s t ∧
      { curWarp t with flags := (curWarp s).flags, split := (curWarp s).split } = curWarp s ∧ OnlyWarp s t) ∧
    (v ≠ 0 → (∀ i, i < 32 → n ≤ i → v.getLsbD i = false) → ∃ t, exec (.sendm p a b) s = .next t ∧
      OpIssued (.sendm p a b) .b false
        { newOp s (.sendm ((List.range 32).filter fun i => v.getLsbD i)) with
          vals := (List.range (curWarp s).width).map fun l => readV s (regB s p b) l } s t)) ∧
  (∀ s w op o l i k, opOf (warpOf s w) op = some o → o.kind = .sendm l → i ∈ l → olderSend (warpOf s w) op i = false →
    olderPerformed (warpOf s w) op = true → StillRuns s w → warpIndexed s (warpOf s w).blk i = some k →
    (16 ≤ (queueOf (warpOf s k) 7).length → exec (.sendmAccept w op i) s = .next s) ∧
    ((queueOf (warpOf s k) 7).length < 16 → ∃ t, exec (.sendmAccept w op i) s = .next t ∧
      queueOf (warpOf t k) 7 = queueOf (warpOf s k) 7 ++ [o.vals] ∧
      (∀ j q, (j ≠ k ∨ q ≠ 7) → queueOf (warpOf t j) q = queueOf (warpOf s j) q) ∧
      ((∀ j ∈ l, j = i) → opOf (warpOf t w) op = none) ∧
      ((∃ j ∈ l, j ≠ i) → opOf (warpOf t w) op = some { o with kind := .sendm (l.filter fun j => j != i) }) ∧
      (∀ j, (warpOf t j).scalars = (warpOf s j).scalars ∧ (warpOf t j).vecs = (warpOf s j).vecs) ∧
      { t with warps := s.warps } = s)) ∧
  (∀ p a i s, Issues (.cwait p a i) s → exec (.cwait p a i) s = .next s) ∧
  (∀ p d a s, Issues (.crd p d a) s → ∃ t, exec (.crd p d a) s = .next t ∧
    ScalarResult (numD p d) (BitVec.ofNat 32 (counterOf (curWarp s) a.toNat)) s t)

/-- The matrix words enter the queue of their block's context; a bad format block, exponent range or run of MMA traps first. Rests on: R113, R114, R115, R116, R117, R119, R120, R126, R129, R130. -/
def Obligations.MatrixIssue : Prop :=
  (∀ p d s, Issues (.accz p d) s → ∃ t, exec (.accz p d) s = .next t ∧
    MatrixIssued .fixed (activeMask s (pfx p)) 0 [] none (.accz d.toNat) s t) ∧
  (∀ p d a b s, Issues (.accrd p d a b) s → ∃ t, exec (.accrd p d a b) s = .next t ∧
    MatrixIssued .a (activeMask s (pfx p)) (zeroMask s (pfx p)) [] none
      (.accrd (regD s p d) a.toNat b.toNat (BitVec.ofNat 3 (modeOf s p))) s t) ∧
  (∀ p d a b s, Issues (.accwr p d a b) s → ∃ t, exec (.accwr p d a b) s = .next t ∧
    MatrixIssued .b (activeMask s (pfx p)) 0 [] none (.accwr d.toNat (regA s p a) b.toNat) s t) ∧
  (∀ p d a b s, Issues (.accadd p d a b) s → ∃ t, exec (.accadd p d a b) s = .next t ∧
    MatrixIssued .b (activeMask s (pfx p)) 0 [] none (.accadd d.toNat (regA s p a) b.toNat) s t) ∧
  (∀ p d s, Issues (.mstatrd p d) s → ∃ t, exec (.mstatrd p d) s = .next t ∧
    MatrixIssued .a 0 0 [] none (.mstatrd (numD p d)) s t) ∧
  (∀ p d a b s, Issues (.mctx p d a b) s → ∃ t, exec (.mctx p d a b) s = .next t ∧
    MatrixIssued .fixed (activeMask s (pfx p)) 0 [] none (.mctx d.toNat a.toNat (decide (b = 1#1))) s t) ∧
  (∀ p sp z nb na tile a b s, Issues (.mma p sp z nb na tile a b) s →
    let i : Instr := .mma p sp z nb na tile a b
    let base := match p with
      | none => 120
      | some q => fieldNumber q.c q.ch
    let x := readP s base
    let y := readP s (base + 2)
    let fa := (x.extractLsb' 56 4).toNat
    let fb := (y.extractLsb' 56 4).toNat
    let la := (x.extractLsb' 60 2).toNat
    let lb := (y.extractLsb' 60 2).toNat
    let bfp (f : Nat) : Prop := f = 2 ∨ f = 4 ∨ f = 8
    let legal := x.extractLsb' 62 2 = 0 ∧ y.extractLsb' 62 2 = 0 ∧ x.getLsbD 55 = false ∧ y.getLsbD 55 = false ∧
      ((bfp fa ∧ bfp fb) ∨ (fa = 9 ∧ fb = 9) ∨ (fa = 10 ∧ fb = 10))
    let ra := regA s p a
    let rb := regB s p b
    let n := (curWarp s).width
    let v := (curWarp s).vregs
    let va := (x.extractLsb' 0 55).setWidth 64
    let vb := (y.extractLsb' 0 55).setWidth 64
    let ea := if fa = 9 ∨ fa = 10 then 0 else expBytesA fa fb la n
    let eb := if fa = 9 ∨ fa = 10 then 0 else expBytesB fa fb lb
    let fits := ra + regsA fa fb (decide (sp = 1#1)) ≤ v ∧ rb + regsB fa fb n ≤ v
    let mapped := fa = 9 ∨ fa = 10 ∨ (inOneRegion (curBlock s) va.toNat ea = true ∧ inOneRegion (curBlock s) vb.toNat eb = true)
    let op : MOp := .mma fa fb la lb (decide (sp = 1#1)) (decide (z = 1#1)) (decide (nb = 1#1)) (decide (na = 1#1))
      tile.toNat ra rb va vb
    (¬ legal → exec i s = .next (takeTrap s 16 255 0 0)) ∧
    (legal → v < ra + regsA fa fb (decide (sp = 1#1)) →
      exec i s = .next (takeTrap s 4 255 (BitVec.ofNat 64 (max ra v)) 0)) ∧
    (legal → ra + regsA fa fb (decide (sp = 1#1)) ≤ v → v < rb + regsB fa fb n →
      exec i s = .next (takeTrap s 4 255 (BitVec.ofNat 64 (max rb v)) 0)) ∧
    (legal → fits → ¬ mapped → exec i s = .next (takeTrap s 16 255 0 0)) ∧
    (legal → fits → mapped → sp = 0#1 ∨ (curWarp s).ctl.mstat.getLsbD 7 = false → ∃ t, exec i s = .next t ∧
      MatrixIssued .b (activeMask s (pfx p)) 0 (expUnits s va ea ++ expUnits s vb eb) none op s t) ∧
    (legal → fits → mapped → sp = 1#1 → (curWarp s).ctl.mstat.getLsbD 7 = true →
      (∀ l, badMeta s (activeMask s (pfx p)) ra fa fb = some l →
        exec i s = .next (takeTrap (noteMstat s s.cur 4) 16 l (BitVec.ofNat 64 l) 0)) ∧
      (badMeta s (activeMask s (pfx p)) ra fa fb = none → ∃ t, exec i s = .next t ∧
        MatrixIssued .b (activeMask s (pfx p)) 0 (expUnits s va ea ++ expUnits s vb eb)
          (some (runRows (curWarp s) ra (regsA fa fb true))) op s t)))

/-- The matrix engine takes entries in turn, reads their registers, and completes them on the tiles of their context. Rests on: R119, R121, R123, R124, R125, R126, R129, R130. -/
def Obligations.MatrixEngine : Prop :=
  (∀ s core e rest e', let c := coreOf s core
    let ctx := if headWaits c c.turn then c.turn else 1 - c.turn
    matrixQueue c ctx = e :: rest → e.started = false → exponentsReady s e = true →
    ((e.what matches .accz .. | .accrd .. | .mstatrd .. | .mctx ..) = true ∧ e' = { e with started := true } ∨
      (∃ tile a conv, (e.what = .accwr tile a conv ∨ e.what = .accadd tile a conv) ∧
        e' = { e with started := true, rows := runRows (warpOf s e.warp) a (convRegs (BitVec.ofNat 2 conv)) }) ∨
      (∃ f la lb sp z nb na tile ra rb sa sb, (f = 9 ∨ f = 10) ∧ e.what = .mma f f la lb sp z nb na tile ra rb sa sb ∧
        e' = { e with
          started := true, rows := e.checked.getD (runRows (warpOf s e.warp) ra (regsA f f sp))
          cols := runRows (warpOf s e.warp) rb (regsB f f (warpOf s e.warp).width), expA := [], expB := [], spoi := false })) →
    ∃ t, exec (.matrixEngineEntry core) s = .next t ∧ matrixQueue (coreOf t core) ctx = e' :: rest ∧
      (coreOf t core).turn = 1 - ctx ∧ (coreOf t core).acc = c.acc ∧ (∀ k, k ≠ core → coreOf t k = coreOf s k) ∧
      (∀ k, (warpOf t k).scalars = (warpOf s k).scalars ∧ (warpOf t k).vecs = (warpOf s k).vecs) ∧
      { t with warps := s.warps, cores := s.cores } = s) ∧
  (∀ s core e rest fa fb la lb sp z nb na tile ra rb sa sb, let c := coreOf s core
    let ctx := if headWaits c c.turn then c.turn else 1 - c.turn
    matrixQueue c ctx = e :: rest → e.started = false → exponentsReady s e = true →
    e.what = .mma fa fb la lb sp z nb na tile ra rb sa sb → (fa = 2 ∨ fa = 4 ∨ fa = 8) → (fb = 2 ∨ fb = 4 ∨ fb = 8) →
    let w := warpOf s e.warp
    let g : Client := { warpClient s e.warp with warp := e.warp, op := e.op }
    let ea := linesOf sa.toNat (expBytesA fa fb la w.width)
    let eb := linesOf sb.toNat (expBytesB fa fb lb)
    ((expRun s g sa ea).2 = none → exec (.matrixEngineEntry core) s = .next s) ∧
    (∀ s1 xa pa, expRun s g sa ea = (s1, some (xa, pa)) →
      ((expRun s1 g sb eb).2 = none → exec (.matrixEngineEntry core) s = .next s) ∧
      (∀ s2 xb pb, expRun s1 g sb eb = (s2, some (xb, pb)) → ∃ t, exec (.matrixEngineEntry core) s = .next t ∧
        matrixQueue (coreOf t core) ctx = { e with
          started := true, rows := e.checked.getD (runRows w ra (regsA fa fb sp)), cols := runRows w rb (regsB fa fb w.width)
          expA := xa, expB := xb, spoi := pa || pb } :: rest ∧
        (coreOf t core).turn = 1 - ctx ∧ (coreOf t core).acc = c.acc ∧ (∀ k, k ≠ core → coreOf t k = coreOf s k) ∧
        (∀ k, (warpOf t k).scalars = (warpOf s k).scalars ∧ (warpOf t k).vecs = (warpOf s k).vecs) ∧ t.mem = s2.mem))) ∧
  (∀ s core ctx e rest o, matrixQueue (coreOf s core) ctx = e :: rest → e.started = true →
    opOf (warpOf s e.warp) e.op = some o → StillRuns s e.warp →
    ∃ t, exec (.matrixOpComplete core ctx) s = .next t ∧ matrixQueue (coreOf t core) ctx = rest ∧
      opOf (warpOf t e.warp) e.op = none ∧ (∀ a, Memory.byte t.mem a = Memory.byte s.mem a) ∧
      (∀ k, k ≠ e.warp → warpOf t k = warpOf s k) ∧
      (∀ tile f,
        (e.what = .accz tile ∧ f = (fun _ _ _ => 0)) ∨
        (∃ a conv, e.what = .accwr tile a conv ∧ f = fun i j _ => elemIn (e.rows.getD i []) conv j) ∨
        (∃ a conv, e.what = .accadd tile a conv ∧
          f = fun i j x => (a34Add x (unpack a34 (elemIn (e.rows.getD i []) conv j))).1) ∨
        (∃ fa fb la lb sp z nb na ra rb sa sb, e.what = .mma fa fb la lb sp z nb na tile ra rb sa sb ∧
          f = fun i j x => (mmaElem fa fb la lb sp z (na != nb) (e.rows.getD i []) (rowBits e.cols.flatten) e.expA e.expB i j x).1) ∨
        (∃ a, e.what = .mctx tile a false ∧
          f = fun i j _ => (Tbl.get 0 (coreOf s core).acc (accKey ctx a i j)).toNat) →
        TileUpdated core ctx tile (warpOf s e.warp).width e.active f s t ∧
          (warpOf t e.warp).scalars = (warpOf s e.warp).scalars ∧ (warpOf t e.warp).vecs = (warpOf s e.warp).vecs) ∧
      (∀ d tile conv rnd, e.what = .accrd d tile conv rnd → conv < 4 →
        (coreOf t core).acc = (coreOf s core).acc ∧ (warpOf t e.warp).scalars = (warpOf s e.warp).scalars ∧
        (∀ r l, r < convRegs (BitVec.ofNat 2 conv) → l < (warpOf s e.warp).width → o.active.getLsbD l = true →
          readV t (d + r) l = rowOut (accRow s core ctx tile l) conv rnd.toNat r)) ∧
      (∀ d, e.what = .mstatrd d → (coreOf t core).acc = (coreOf s core).acc ∧
        readS t d &&& 0xFF = (warpOf s e.warp).ctl.mstat &&& 0x8F ∧
        (∀ m, m ≠ d → readS t m = readS (asWarp s e.warp o.frag) m) ∧
        (warpOf t e.warp).vecs = (warpOf s e.warp).vecs))

/-- RET, OVRET, OVCALL and OVJMP resolve their reference: they move, park or fault as the overlay that it finds stands. Rests on: R43, R158, R159, R162, R168, R177. -/
def Obligations.OverlayTransfers : Prop :=
  let target (i : Instr) (s : State) : Option (Dword × Option Dword) := match i with
    | .ret _ => some (readP s 190, none)
    | .ovret _ => some (readP s 190, none)
    | .ovjmp p a => some (readP s (numA p a), none)
    | .ovcall p a => some (readP s (numA p a), some (refAt (curEntry s).pc ((curEntry s).here + 1)))
    | _ => none
  ∀ i s c link, target i s = some (c, link) → Issues i s →
    let sid := storeOf s.cur (curWarp s)
    let r := runnerOf s s.cur
    let inside := ∀ p, i = .ret p → refId c = refId (curEntry s).pc
    (¬ inside → exec i s = .next (takeTrap s 5 255 c 0)) ∧
    (inside → refBad c = true → exec i s = .next (takeTrap s 5 255 c 0)) ∧
    (inside → refBad c = false → ∀ n, findSlot s (slotsOf s sid) r c = some n →
      let x := slotAt (slotsOf s sid) n
      let s' := setSlots s sid (useSlot (slotsOf s sid) n r.tenant)
      let off := (refOff c).toNat
      let entries := (wordAt x 2).toNat % 256
      let tgt := if off < 16 then headerHalf x (16 + 2 * off) else off
      let ok := (off < 16 → off < entries) ∧ goodTarget x tgt = true
      (x.state = .ready → ok → ∃ t, exec i s = .next t ∧ Moved (mkRef x.id n x.gen (BitVec.ofNat 16 tgt)) link s' t) ∧
      (x.state = .ready → ¬ ok → exec i s = .next (takeTrap s' 5 255 c 0)) ∧
      (x.state = .failed → exec i s = .next (takeTrap s' 7 255 c (BitVec.ofNat 32 x.code))) ∧
      (x.state = .loading ∨ x.state = .poison → ∃ t, exec i s = .next t ∧
        OnlyEntry { curEntry s with state := .parked, wait := .reload c link (curEntry s).here false, left := 0 } s' t)) ∧
    (inside → refBad c = false → findSlot s (slotsOf s sid) r c = none → imageByte s r (refId c) 0 = .fault →
      exec i s = .next (takeTrap s 7 255 c 4)) ∧
    (inside → refBad c = false → findSlot s (slotsOf s sid) r c = none → imageByte s r (refId c) 0 = .poison →
      exec i s = .next (takeTrap s 7 255 c 8)) ∧
    (inside → refBad c = false → findSlot s (slotsOf s sid) r c = none → ∀ l, imageByte s r (refId c) 0 = .leaf l →
      let len := leNat (readBytes s (l.pa + 4) 4)
      let k := (len + 4095) / 4096
      let choice := chooseRun (parkedState s (s.cur, s.frag)) sid r.mask k
      let parked : Entry := { curEntry s with state := .parked, wait := .reload c link (curEntry s).here false, left := 0 }
      (isPoison s l.pa = true → exec i s = .next (takeTrap s 7 255 c 8)) ∧
      (isPoison s l.pa = false → len < 17 ∨ 16384 < len → exec i s = .next (takeTrap s 7 255 c 5)) ∧
      (isPoison s l.pa = false → 17 ≤ len → len ≤ 16384 →
        (choice = .none → exec i s = .next (takeTrap s 7 255 c 3)) ∧
        (choice = .pinned → ∃ t, exec i s = .next t ∧ OnlyEntry parked s t) ∧
        (∀ f, choice = .run f → ∃ t, exec i s = .next t ∧ OnlyEntry parked (allocate s sid f k r (refId c)) t ∧
          (slotAt (slotsOf t sid) f).state = .loading ∧ (slotAt (slotsOf t sid) f).id = refId c ∧
          (slotAt (slotsOf t sid) f).count = k)))

/-- OVLD, OVEVICT and OVQ; a slot's load, error and reload end as its image stands; a waiting fragment goes on. Rests on: R157, R159, R160, R161, R162, R177, R178, R179, R311, R343. -/
def Obligations.OverlayLoads : Prop :=
  (∀ p d a s, Issues (.ovld p d a) s →
    let v := readS s (numA p a)
    let id := (v.extractLsb' 0 20).toNat
    let k := (v.extractLsb' 20 2).toNat + 1
    let sid := storeOf s.cur (curWarp s)
    let r := runnerOf s s.cur
    (∀ i, findSlot s (slotsOf s sid) r (mkRef id 0xFE 0 0) = some i →
      (slotAt (slotsOf s sid) i).state = .loading → ∃ t, exec (.ovld p d a) s = .next t ∧
        readP t (numD p d) = mkRef id i (slotAt (slotsOf s sid) i).gen 0 ∧
        counterOf (curWarp t) 1 = counterOf (curWarp s) 1 + 1) ∧
    (∀ i, findSlot s (slotsOf s sid) r (mkRef id 0xFE 0 0) = some i →
      (slotAt (slotsOf s sid) i).state ≠ .loading → StillRuns s s.cur →
      (∀ o ∈ (curWarp s).pend, o.id ≠ (curWarp s).nextOp) → ∃ t, exec (.ovld p d a) s = .next t ∧
        readP t (numD p d) = mkRef id i (slotAt (slotsOf s sid) i).gen 0 ∧
        (∀ m, m ≠ numD p d → m ≠ numD p d + 1 → readS t m = readS s m) ∧
        slotsOf t sid = useSlot (slotsOf s sid) i r.tenant ∧
        ((curWarp s).pend.find? (fun o => o.counter == some 1) = none →
          counterOf (curWarp t) 1 = counterOf (curWarp s) 1 ∧ ∀ o ∈ (curWarp t).pend, o ∈ (curWarp s).pend) ∧
        (∀ o, (curWarp s).pend.find? (fun o => o.counter == some 1) = some o → o.finished = false →
          counterOf (curWarp t) 1 = counterOf (curWarp s) 1 + 1) ∧
        (∀ k, k ≠ s.cur → warpOf t k = warpOf s k) ∧ ∀ a, Memory.byte t.mem a = Memory.byte s.mem a) ∧
    (findSlot s (slotsOf s sid) r (mkRef id 0xFE 0 0) = none → ∀ f, chooseRun s sid r.mask k = .run f →
      ∃ t, exec (.ovld p d a) s = .next t ∧
        readP t (numD p d) = mkRef id f ((slotAt (slotsOf s sid) f).gen + 1) 0 ∧
        counterOf (curWarp t) 1 = counterOf (curWarp s) 1 + 1 ∧
        (slotAt (slotsOf t sid) f).state = .loading ∧ (slotAt (slotsOf t sid) f).id = id ∧
        (slotAt (slotsOf t sid) f).count = k ∧
        (∀ m, m ≠ numD p d → m ≠ numD p d + 1 → readS t m = readS s m) ∧
        (∀ a, Memory.byte t.mem a = Memory.byte s.mem a)) ∧
    (findSlot s (slotsOf s sid) r (mkRef id 0xFE 0 0) = none → chooseRun s sid r.mask k = .none ∨
        chooseRun s sid r.mask k = .pinned → StillRuns s s.cur → ∃ t, exec (.ovld p d a) s = .next t ∧
      readP t (numD p d) = mkRef id 0xFE 0 0 ∧ (∀ m, m ≠ numD p d → m ≠ numD p d + 1 → readS t m = readS s m))) ∧
  (∀ p a s, Issues (.ovevict p a) s →
    let sid := storeOf s.cur (curWarp s)
    let c := readP s (numA p a)
    let live := isCurrent (slotsOf s sid) (runnerOf s s.cur) c = true ∧ isPinned s sid (refSlot c) = false
    (refBad c = true → exec (.ovevict p a) s = .next (takeTrap s 1 255 ((codeWord s (curEntry s).here).setWidth 64) 0)) ∧
    (refBad c = false → ¬ live → exec (.ovevict p a) s = .next s) ∧
    (refBad c = false → live → ∃ t, exec (.ovevict p a) s = .next t ∧ slotsOf t sid = evict (slotsOf s sid) (refSlot c) ∧
      (slotAt (slotsOf t sid) (refSlot c)).count = 0 ∧
      (slotAt (slotsOf t sid) (refSlot c)).gen = (slotAt (slotsOf s sid) (refSlot c)).gen ∧
      (∀ k, warpOf t k = warpOf s k) ∧ { t with cores := s.cores, svcs := s.svcs } = s)) ∧
  (∀ p d a s, Issues (.ovq p d a) s →
    let t := slotsOf s (storeOf s.cur (curWarp s))
    let c := readP s (numA p a)
    let x := slotAt t (refSlot c)
    (refBad c = true → exec (.ovq p d a) s = .next (takeTrap s 1 255 ((codeWord s (curEntry s).here).setWidth 64) 0)) ∧
    (refBad c = false → ∃ u v, exec (.ovq p d a) s = .next u ∧ ScalarResult (numD p d) v s u ∧
      (isCurrent t (runnerOf s s.cur) c = true →
        (x.state = .ready → v = BitVec.ofNat 32 (256 * refSlot c)) ∧
        (x.state = .loading → v = BitVec.ofNat 32 (256 * refSlot c + 1)) ∧
        (x.state = .poison → v = BitVec.ofNat 32 (256 * refSlot c + 7)) ∧
        (x.state = .failed → v = BitVec.ofNat 32 (256 * refSlot c + x.code))) ∧
      (isCurrent t (runnerOf s s.cur) c = false → v = if refSlot c = 0xFE then 3 else 2))) ∧
  (∀ s sid i, let x := slotAt (slotsOf s sid) i
    x.first = i → x.count ≠ 0 →
    (∀ w ∈ s.warps, (∀ e ∈ w.2.split, ∀ c l o q, e.2.wait ≠ .reload c l o q) ∧
      ∀ o ∈ w.2.pend, ∀ q, o.kind ≠ .ovload i q) →
    let ends (j : Instr) (y : Slot) : Prop := ∃ t, exec j s = .next t ∧
      slotAt (slotsOf t sid) i = { y with loads := 0, used := if y.state = .ready then s.stamp + 1 else x.used } ∧
      (∀ k, k ≠ i → slotAt (slotsOf t sid) k = if y.state = .ready ∧ i < k ∧ k < i + x.count then
        { slotAt (slotsOf s sid) k with used := s.stamp + 1 } else slotAt (slotsOf s sid) k) ∧ (∀ k, warpOf t k = warpOf s k) ∧
      ∀ a, Memory.byte t.mem a = Memory.byte s.mem a
    (x.state = .loading → ∀ ws, loadImage s (loaderOf sid x) x = .ok ws →
      ends (.slotLoadComplete sid i) { x with state := .ready, words := ws }) ∧
    (x.state = .loading → ∀ e, loadImage s (loaderOf sid x) x = .error e →
      ends (.slotLoadComplete sid i) { x with state := .failed, code := e }) ∧
    (x.state ≠ .loading → exec (.slotLoadComplete sid i) s = .next s) ∧
    (x.state = .ready → ∃ t, exec (.slotError sid i) s = .next t ∧
      slotAt (slotsOf t sid) i = { x with state := .poison, loads := 1 } ∧
      (16 ≤ sid ∨ sid % 4 < 2 ∨ (svcOf s sid).running = false → { t with cores := s.cores, svcs := s.svcs } = s) ∧
      (sid < 16 → 2 ≤ sid % 4 → (svcOf s sid).running = true → (svcOf t sid).failing = true ∧
        ((warpOf s sid).status = .running → (warpOf t sid).status = .stopped) ∧ (∀ k, k ≠ sid → warpOf t k = warpOf s k) ∧
        { t with svcs := s.svcs, warps := s.warps } = s)) ∧
    (x.state = .poison → reloadHeld s sid = true → exec (.slotReloadComplete sid i) s = .next s) ∧
    (x.state = .poison → reloadHeld s sid = false → let n := x.words.length
      (∀ ws, reloadWords s x n ((n + 31) / 32) = some ws →
        ends (.slotReloadComplete sid i) { x with state := .ready, words := ws }) ∧
      (reloadWords s x n ((n + 31) / 32) = none →
        ends (.slotReloadComplete sid i) { x with state := .failed, code := 8 }))) ∧
  (∀ s r x ws, loadImage s r x = .ok ws →
    ((ws.drop 12).take 4).flatMap (fun w : Word => leBytes 4 w.toNat) =
      (sha512 ((ws.take 12 ++ [0, 0, 0, 0] ++ ws.drop 16).flatMap fun w : Word => leBytes 4 w.toNat)).take 16) ∧
  (∀ s w e c link own pop, (entryOf (warpOf s w) e).wait = .reload c link own pop → refBad c = false →
    (entryOf (warpOf s w) e).left = 0 →
    let sid := storeOf w (warpOf s w)
    let r := runnerOf s w
    findSlot s (slotsOf s sid) r c = none → ∀ l, imageByte s r (refId c) 0 = .leaf l → isPoison s l.pa = false →
    let len := leNat (readBytes s (l.pa + 4) 4)
    let k := (len + 4095) / 4096
    17 ≤ len → len ≤ 16384 →
    (chooseRun (parkedState s (w, e)) sid r.mask k = .pinned → exec (.demandReloadRetry w e) s = .next (asWarp s w e)) ∧
    (∀ f, chooseRun (parkedState s (w, e)) sid r.mask k = .run f → ∃ t, exec (.demandReloadRetry w e) s = .next t ∧
      (slotAt (slotsOf t sid) f).state = .loading ∧ (slotAt (slotsOf t sid) f).id = refId c ∧
      (slotAt (slotsOf t sid) f).count = k ∧ (∀ j, warpOf t j = warpOf s j) ∧
      ∀ a, Memory.byte t.mem a = Memory.byte s.mem a)) ∧
  (∀ s w e c link own pop n, (entryOf (warpOf s w) e).wait = .reload c link own pop → refBad c = false →
    (entryOf (warpOf s w) e).left = 0 →
    let sid := storeOf w (warpOf s w)
    findSlot s (slotsOf s sid) (runnerOf s w) c = some n →
    let x := slotAt (slotsOf s sid) n
    let off := (refOff c).toNat
    let tgt := if off < 16 then headerHalf x (16 + 2 * off) else off
    x.state = .ready → (off < 16 → off < (wordAt x 2).toNat % 256) → goodTarget x tgt = true →
    ∃ t, exec (.demandReloadRetry w e) s = .next t ∧
      entryOf (warpOf t w) e = { entryOf (warpOf s w) e with
        state := .leaf, wait := .none, pc := mkRef x.id n x.gen (BitVec.ofNat 16 tgt), left := 0, readyAt := s.stamp
        fresh := false, aside := false } ∧
      (svcOf t w).shelves = (if pop then (svcOf s w).shelves.tail else (svcOf s w).shelves) ∧
      (∀ v, link = some v → readP (asWarp t w e) 190 = v) ∧
      (∀ m, (link = none ∨ (m ≠ 190 ∧ m ≠ 191)) → readS (asWarp t w e) m = readS (asWarp s w e) m) ∧
      (∀ k, k ≠ w → warpOf t k = warpOf s k) ∧ ∀ a, Memory.byte t.mem a = Memory.byte s.mem a)

/-- CSRRD writes the special register into its scalar or pair, pops only SVMSG, and changes nothing else. Rests on: R65, R123, R298, R299, R300, R301, R304, R305. -/
def Obligations.SpecialRegisterReads : Prop :=
  (∀ p d (i : BitVec 14) s, Issues (.csrrd p d i) s →
    let n := i.toNat
    let r := numD p d
    let w := curWarp s
    let c := svcOf s s.cur
    let top := c.shelves.headD ⟨0, 0, 0, 0⟩
    ∃ t, exec (.csrrd p d i) s = .next t ∧ OpAtOnce .a s t ∧
      (n = 0 → readS t r = w.ctl.wstat) ∧ (n = 1 → readS t r &&& 0xFF = w.ctl.mstat &&& 0x8F) ∧
      (n = 2 → readS t r = w.ctl.swzsel) ∧ (n = 0x10 → readS t r = BitVec.ofNat 32 (65536 * w.vregs + w.width)) ∧
      (n = 0x11 → 16 ≤ s.cur → readS t r = BitVec.ofNat 32 ((if w.upper then 2 ^ 19 else 0) + 2 ^ 17 * (w.core / 40) +
        2 ^ 11 * (w.core % 40) + 2 ^ 5 * w.slot + w.index)) ∧
      (0x20 ≤ n → n ≤ 0x28 → s.plat.step < 7 → readS t r = 0) ∧
      (n = 0x20 → 7 ≤ s.plat.step → (readS t r).getLsbD 4 = (decide (s.cur < 16) && c.priv) ∧ (readS t r).getLsbD 3 = decide (s.cur < 16) ∧
        (readS t r).getLsbD 0 = (decide (16 ≤ s.cur) && (curBlock s).ctx.isSome) ∧
        (readS t r).getLsbD 1 = decide (s.part = .gx9) ∧ (readS t r).getLsbD 2 = decide (s.part = .gx9)) ∧
      (n = 0x21 → 7 ≤ s.plat.step → readS t r = if s.part = .gx9 then 0x000BFA00 else 0x0005FD00) ∧ (n = 0x26 → 7 ≤ s.plat.step → readS t r = s.fsto) ∧
      (0x40 ≤ n → n ≤ 0x4F → 16 ≤ s.cur → readP t r = Tbl.get 0 (tenantOf s (curTenant s)).vlog (n - 0x40)) ∧
      (0x60 ≤ n → n ≤ 0x67 → 16 ≤ s.cur →
        readP t r = Tbl.get 0 (tenantOf t (curTenant s)).pmon (n - 0x60) ∧
        ((tenantOf s (curTenant s)).pmsel.toNat / 16 ^ (n - 0x60) % 16 ≠ 0 →
          readP t r = Tbl.get 0 (tenantOf s (curTenant s)).pmon (n - 0x60))) ∧
      (n = 0x800 → readS t r = BitVec.ofNat 32 (65536 * c.hold.toNat + 16 * c.shelves.length + (if c.priv then 1 else 0))) ∧
      (n = 0x801 → readP t r = top.pc) ∧ (n = 0x802 → readS t r = top.cause) ∧ (n = 0x803 → readP t r = top.value) ∧
      (n = 0x804 → readS t r = c.pend.setWidth 32) ∧
      (n = 0x805 → c.msgs = [] → readS t r = 0xFFFFFFFF) ∧
      (∀ m rest, n = 0x805 → c.msgs = m :: rest → readS t r = m ∧ svcOf t s.cur = { c with msgs := rest }) ∧
      (0x806 ≤ n → n ≤ 0x809 → readS t r = Tbl.get 0 c.work (n - 0x806)) ∧
      (n = 0x810 → readS t r = s.fsto) ∧ (n = 0x811 → readP t r = BitVec.ofNat 64 (dieOf s (s.cur / 4)).fwbase) ∧
      (n = 0x820 → readS t r = s.audfrac) ∧
      (∀ m, m ≠ r → (m ≠ r + 1 ∨ csrWide i ≠ some true) → readS t m = readS s m) ∧
      (n ≠ 0x805 → ∀ k, svcOf t k = svcOf s k) ∧ (∀ k, k ≠ s.cur → warpOf t k = warpOf s k) ∧
      { curWarp t with scalars := w.scalars, flags := w.flags, split := w.split } = w ∧
      (n < 0x60 ∨ 0x67 < n → { t with warps := s.warps, svcs := s.svcs, freeCtr := s.freeCtr } = s) ∧
      { t with warps := s.warps, svcs := s.svcs, tenants := s.tenants, freeCtr := s.freeCtr } = s) ∧
  (∀ core d s m rest, core < 16 → d < 192 → (svcOf s core).msgs = m :: rest → ∃ t, exec (.svmsgPop core d) s = .next t ∧
    Tbl.get 0 (warpOf t core).scalars d = m ∧ svcOf t core = { svcOf s core with msgs := rest } ∧
    (∀ j, j ≠ d → Tbl.get 0 (warpOf t core).scalars j = Tbl.get 0 (warpOf s core).scalars j) ∧
    { warpOf t core with scalars := (warpOf s core).scalars } = warpOf s core ∧
    (∀ k, k ≠ core → warpOf t k = warpOf s k ∧ svcOf t k = svcOf s k))

/-- CSRWR and the register writes obey the access of each field (a write of PMONn or SVMSG has no effect: the model's choice, assumption 57). Rests on: R7, R64, R65, R123, R148, R235, R282, R298, R301, R304, R305. -/
def Obligations.SpecialRegisterWrites : Prop :=
  let wstat (old v new : Word) : Prop := ∀ b, new.getLsbD b =
    if b < 3 then (if 5 ≤ v.toNat % 8 then old.getLsbD b else v.getLsbD b)
    else if b < 8 then v.getLsbD b else (decide (16 ≤ b ∧ b < 24) && old.getLsbD b && !v.getLsbD b)
  let mstat (old v new : Word) : Prop := ∀ b, new.getLsbD b =
    if b = 7 then v.getLsbD b else (decide (b < 4) && old.getLsbD b && !v.getLsbD b)
  let pend (c : SvcCore) (v : Word) (new : BitVec 4) : Prop := ∀ b, new.getLsbD b =
    (c.pend.getLsbD b && (!v.getLsbD b || decide (b = 0 ∧ c.msgs ≠ [])))
  let shelf (c : SvcCore) (n : Nat) (v : Dword) (new : List Shelf) : Prop :=
    (c.shelves = [] → new = []) ∧ ∀ x rest, c.shelves = x :: rest →
      (n = 0x801 → new = { x with pc := v } :: rest) ∧ (n = 0x803 → new = { x with value := v } :: rest) ∧
      (n = 0x802 → ∃ y : Word, new = { x with cause := y } :: rest ∧
        ∀ b, y.getLsbD b = if b = 31 then v.getLsbD 31 else x.cause.getLsbD b)
  let only (core : Nat) (s t : State) : Prop := (∀ k, k ≠ core → svcOf t k = svcOf s k) ∧ { t with svcs := s.svcs } = s
  (∀ p d (i : BitVec 14) s, Issues (.csrwr p d i) s →
    let n := i.toNat
    let lo := readS s (numD p d)
    let v := readP s (numD p d)
    let w := curWarp s
    let c := svcOf s s.cur
    ∃ t, exec (.csrwr p d i) s = .next t ∧
      (n = 0 → ∃ x, wstat w.ctl.wstat lo x ∧ curWarp t = { w with ctl := { w.ctl with wstat := x } } ∧ OnlyWarp s t) ∧
      (n = 1 → ∃ x, mstat w.ctl.mstat lo x ∧ curWarp t = { w with ctl := { w.ctl with mstat := x } } ∧ OnlyWarp s t) ∧
      (n = 2 → curWarp t = { w with ctl := { w.ctl with swzsel := lo &&& 7 } } ∧ OnlyWarp s t) ∧
      (0x40 ≤ n → n ≤ 0x4F → 16 ≤ s.cur → v.getLsbD 63 = true →
        (∀ j b, (Tbl.get 0 (tenantOf t (curTenant s)).vlog j).getLsbD b =
          ((Tbl.get 0 (tenantOf s (curTenant s)).vlog j).getLsbD b && !decide (j = n - 0x40 ∧ b = 63))) ∧
        { t with tenants := s.tenants } = s ∧ ∀ k, k ≠ curTenant s → tenantOf t k = tenantOf s k) ∧
      (0x40 ≤ n → n ≤ 0x4F → v.getLsbD 63 = false → t = s) ∧
      (n = 0x800 → svcOf t s.cur = { c with hold := lo.extractLsb' 16 4 } ∧ only s.cur s t) ∧
      (n = 0x801 ∨ n = 0x802 ∨ n = 0x803 → ∃ l, shelf c n (if n = 0x802 then lo.setWidth 64 else v) l ∧
        svcOf t s.cur = { c with shelves := l } ∧ only s.cur s t) ∧
      (n = 0x804 → ∃ x, pend c lo x ∧ svcOf t s.cur = { c with pend := x } ∧ only s.cur s t) ∧
      (0x806 ≤ n → n ≤ 0x809 → Tbl.get 0 (svcOf t s.cur).work (n - 0x806) = lo ∧
        (∀ j, j ≠ n - 0x806 → Tbl.get 0 (svcOf t s.cur).work j = Tbl.get 0 c.work j) ∧
        { svcOf t s.cur with work := c.work } = c ∧ only s.cur s t) ∧
      (n = 0x810 → t = if 5 ≤ lo.toNat ∧ lo.toNat ≤ 1000 then { s with fsto := lo } else s) ∧
      (n = 0x820 → t = { s with audfrac := BitVec.ofNat 32 (min 64 lo.toNat) }) ∧
      (n = 0x10 ∨ n = 0x11 ∨ (0x20 ≤ n ∧ n ≤ 0x28) ∨ (0x60 ≤ n ∧ n ≤ 0x67) ∨ n = 0x805 ∨ n = 0x811 → t = s)) ∧
  (∀ w v s, (warpOf s w).status ≠ .absent →
    (∃ t x, exec (.wstatWrite w v) s = .next t ∧ wstat (warpOf s w).ctl.wstat v x ∧
      warpOf t w = { warpOf s w with ctl := { (warpOf s w).ctl with wstat := x } } ∧ OnlyOne w s t) ∧
    (∃ t x, exec (.mstatWrite w v) s = .next t ∧ mstat (warpOf s w).ctl.mstat v x ∧
      warpOf t w = { warpOf s w with ctl := { (warpOf s w).ctl with mstat := x } } ∧ OnlyOne w s t)) ∧
  (∀ k n s, n < 16 → k < 64 → ∃ t, exec (.vlogClear k n) s = .next t ∧
    (∀ j b, (Tbl.get 0 (tenantOf t k).vlog j).getLsbD b =
      ((Tbl.get 0 (tenantOf s k).vlog j).getLsbD b && !decide (j = n ∧ b = 63))) ∧
    { t with tenants := s.tenants } = s ∧ ∀ j, j ≠ k → tenantOf t j = tenantOf s j) ∧
  (∀ core v s, core < 16 →
    (∃ t, exec (.svstWrite core v) s = .next t ∧ svcOf t core = { svcOf s core with hold := v.extractLsb' 16 4 } ∧ only core s t) ∧
    (∃ t x, exec (.svpendClear core v) s = .next t ∧ pend (svcOf s core) v x ∧
      svcOf t core = { svcOf s core with pend := x } ∧ only core s t)) ∧
  (∀ core n v s, core < 16 → 0x801 ≤ n → n ≤ 0x803 → ∃ t l, exec (.shelfWrite core n v) s = .next t ∧
    shelf (svcOf s core) n v l ∧ svcOf t core = { svcOf s core with shelves := l } ∧ only core s t) ∧
  (∀ v s, exec (.fstoWrite v) s = .next (if 5 ≤ v.toNat ∧ v.toNat ≤ 1000 then { s with fsto := v } else s) ∧
    exec (.audfracWrite v) s = .next (if s.part = .gx9h then { s with out := .absent 0x820 :: s.out }
      else { s with audfrac := BitVec.ofNat 32 (min 64 v.toNat) }))

/-- ERET, WFI, IPI and the interrupt of a service core, and what WLATCH and KEYREV begin. Rests on: R159, R286, R290, R304, R305, R308, R309, R318. -/
def Obligations.ServiceWords : Prop :=
  (∀ p s, Issues (.eret p) s → (svcOf s s.cur).shelves = [] → exec (.eret p) s = .next (takeTrap s 15 255 0 0)) ∧
  (∀ p s x rest, Issues (.eret p) s → (svcOf s s.cur).shelves = x :: rest → refBad x.pc = true →
    exec (.eret p) s = .next (takeTrap s 5 255 x.pc 0)) ∧
  (∀ p s x rest n, Issues (.eret p) s → (svcOf s s.cur).shelves = x :: rest → s.cur < 16 → refBad x.pc = false →
    let c := svcOf s s.cur
    findSlot s (slotsOf s s.cur) (runnerOf s s.cur) x.pc = some n →
    let y := slotAt (slotsOf s s.cur) n
    let off := (refOff x.pc).toNat
    y.state = .ready → 16 ≤ off → goodTarget y off = true →
    ∃ t, exec (.eret p) s = .next t ∧ svcOf t s.cur = { c with
        hold := x.hold, priv := x.cause.getLsbD 31, shelves := rest
        slots := useSlot (slotsOf s s.cur) n (runnerOf s s.cur).tenant } ∧
      (curEntry t).pc = mkRef y.id n y.gen (refOff x.pc) ∧ (curEntry t).left = 0 ∧
      { curEntry t with pc := (curEntry s).pc, left := (curEntry s).left } = curEntry s ∧
      { curWarp t with split := (curWarp s).split } = curWarp s ∧ (∀ a, Memory.byte t.mem a = Memory.byte s.mem a)) ∧
  (∀ p s, Issues (.wfi p) s →
    ((svcOf s s.cur).pend ≠ 0 → exec (.wfi p) s = .next s) ∧
    ((svcOf s s.cur).pend = 0 → ∃ t, exec (.wfi p) s = .next t ∧
      OnlyEntry { curEntry s with state := .parked, wait := .wfi } s t)) ∧
  (∀ k s, (entryOf (warpOf s k) 0).wait = .wfi →
    ((svcOf s k).pend = 0 → exec (.wfiWake k) s = .next s) ∧
    ((svcOf s k).pend ≠ 0 → ∃ t, exec (.wfiWake k) s = .next t ∧
      entryOf (warpOf t k) 0 = takesOver (entryOf (warpOf s k) 0) s.stamp ∧
      { warpOf t k with split := (warpOf s k).split } = warpOf s k ∧ OnlyOne k s t)) ∧
  (∀ p a b s, Issues (.ipi p a b) s →
    let k := (readS s (numA p a)).toNat
    let m := readS s (numB p b)
    let c := svcOf s k
    (15 < k → exec (.ipi p a b) s = .next (takeTrap s 15 255 ((readS s (numA p a)).setWidth 64) 0)) ∧
    (k ≤ 15 → diesOf s ≤ k / 4 → ∃ v, exec (.ipi p a b) s = .next (takeTrap s 3 255 v 0)) ∧
    (k ≤ 15 → k / 4 < diesOf s → m = 0xFFFFFFFF → exec (.ipi p a b) s = .next (takeTrap s 15 255 (m.setWidth 64) 0)) ∧
    (k ≤ 15 → k / 4 < diesOf s → m ≠ 0xFFFFFFFF → ∃ t, exec (.ipi p a b) s = .next t ∧
      (c.msgs.length < 16 → c.held = [] → svcOf t k = { c with msgs := c.msgs ++ [m], pend := c.pend ||| 1 }) ∧
      (16 ≤ c.msgs.length ∨ c.held ≠ [] → svcOf t k = { c with held := c.held ++ [(s.cur, m)] }) ∧
      (∀ j, j ≠ k → svcOf t j = svcOf s j) ∧ { t with svcs := s.svcs } = s)) ∧
  (∀ k s q m rest, (svcOf s k).held = (q, m) :: rest →
    let c := svcOf s k
    (16 ≤ c.msgs.length → exec (.ipiDeliver k) s = .next s) ∧
    (c.msgs.length < 16 → ∃ t, exec (.ipiDeliver k) s = .next t ∧
      svcOf t k = { c with held := rest, msgs := c.msgs ++ [m], pend := c.pend ||| 1 } ∧
      (∀ j, j ≠ k → svcOf t j = svcOf s j) ∧ { t with svcs := s.svcs } = s)) ∧
  (∀ k s i, let c := svcOf s k
    let x := entryOf (warpOf s k) 0
    k < 16 → c.running = true → (warpOf s k).status = .running → x.state = .leaf → x.left = 0 → c.shelves.length < 4 →
    i < 4 → c.pend.getLsbD i = true → c.hold.getLsbD i = false →
    (∀ j, j < i → c.pend.getLsbD j = true → c.hold.getLsbD j = true) →
    ∃ t l cause, exec (.serviceInterrupt k) s = .next t ∧ (svcOf t k).shelves = l ++ [⟨x.pc, cause, 0, c.hold⟩] ++ c.shelves ∧
      cause.getLsbD 31 = c.priv ∧ (cause.extractLsb' 9 3).toNat = i ∧ cause.getLsbD 8 = true ∧
      cause.extractLsb' 0 8 = 0#8 ∧ (svcOf t k).hold = 15 ∧ (svcOf t k).priv = true ∧ (svcOf t k).pend = c.pend ∧
      (warpOf t k).scalars = (warpOf s k).scalars ∧ (∀ j, j ≠ k → warpOf t j = warpOf s j) ∧
      ∀ a, Memory.byte t.mem a = Memory.byte s.mem a) ∧
  (∀ p a b s, Issues (.wlatch p a b) s →
    let v := (readS s (numA p a)).toNat
    let world := (readS s (numB p b)).toNat
    let x := 40 * (v / 64 % 4) + v % 64
    (39 < v % 64 → exec (.wlatch p a b) s = .next (takeTrap s 15 255 ((readS s (numA p a)).setWidth 64) 0)) ∧
    (v % 64 ≤ 39 → 255 < world → exec (.wlatch p a b) s = .next (takeTrap s 15 255 ((readS s (numB p b)).setWidth 64) 0)) ∧
    (v % 64 ≤ 39 → world ≤ 255 → diesOf s ≤ v / 64 % 4 → ∃ y, exec (.wlatch p a b) s = .next (takeTrap s 3 255 y 0)) ∧
    (v % 64 ≤ 39 → world ≤ 255 → v / 64 % 4 < diesOf s → ∃ t, exec (.wlatch p a b) s = .next t ∧
      ((coreOf s x).latch = .latched → (coreOf s x).world = world → coreOf t x = coreOf s x ∧
        (svcOf t s.cur).pend = (svcOf s s.cur).pend ||| 4 ∧ ∀ a, Memory.byte t.mem a = Memory.byte s.mem a) ∧
      ((coreOf s x).latch = .latched → (coreOf s x).world ≠ world →
        coreOf t x = { coreOf s x with latch := .draining, target := world, askers := [s.cur] }) ∧
      ((coreOf s x).latch ≠ .latched →
        coreOf t x = { coreOf s x with target := world, askers := (coreOf s x).askers ++ [s.cur] } ∧
          ∀ a, Memory.byte t.mem a = Memory.byte s.mem a))) ∧
  (∀ p a b s, Issues (.keyrev p a b) s →
    let n := (readS s (numA p a)).toNat
    (n = 0 ∨ 255 < n ∨ (keyOf s n).state ≠ .active →
      exec (.keyrev p a b) s = .next (takeTrap s 15 255 ((readS s (numA p a)).setWidth 64) 0)) ∧
    (n ≠ 0 → n ≤ 255 → (keyOf s n).state = .active → ∃ t, exec (.keyrev p a b) s = .next t ∧
      ((readS s (numB p b)).getLsbD 0 = false → keyOf t n = { keyOf s n with state := .flushing, asker := some s.cur }) ∧
      ((readS s (numB p b)).getLsbD 0 = true → keyOf t n = { keyOf s n with state := .revoked, asker := none } ∧
        (svcOf t s.cur).pend = (svcOf s s.cur).pend ||| 8 ∧ ∀ a, Memory.byte t.mem a = Memory.byte s.mem a) ∧
      (∀ j, j ≠ n → keyOf t j = keyOf s j) ∧ ∀ k, warpOf t k = warpOf s k))

/-- RETYPE and FRQ (the owner of a FREE frame: the model's choice, assumption 21); CTXSV begins a save, CTXLD loads an image (absent die: assumption 23). Rests on: R273, R284, R302, R303, R306, R307. -/
def Obligations.TypesAndContexts : Prop :=
  (∀ p d a b s, Issues (.retype p d a b) s →
    let f := (readS s (numA p a)).toNat
    let new := (readS s (numD p d)).toNat % 16
    let e := typeOf s f
    let code := retypeCode s f new
    let gen := (teGen e + 1) % 256
    ∃ t, exec (.retype p d a b) s = .next t ∧ OpAtOnce .a s t ∧ (∀ m, m ≠ numD p d → readS t m = readS s m) ∧
      (code ≠ 0 → readS t (numD p d) = BitVec.ofNat 32 (256 * (if code = 1 then 0 else teGen e) + code) ∧
        ScalarAtOnce (numD p d) (readS t (numD p d)) s t ∧ OnlyWarp s t) ∧
      (code = 0 → readS t (numD p d) = BitVec.ofNat 32 (256 * gen) ∧ teType (typeOf t f) = new ∧
        teGen (typeOf t f) = gen ∧ teCount (typeOf t f) = 0 ∧ (∀ j, j ≠ f → typeOf t j = typeOf s j) ∧
        (∀ x, Memory.byte t.mem x =
          if changeZeroes (teType e) new = true ∧ x / 65536 = f then 0 else Memory.byte s.mem x))) ∧
  (∀ s f new, retypeCode s f new =
    let e := typeOf s f
    let waived := s.cur < 16 ∧ (svcOf s s.cur).priv = true ∧ headlandMay (teType e) new = true
    if hasType s f = false then 1 else if isHost (f * 65536) = true then 5
    else if ¬ waived ∧ (s.cur < 16 ∨ teOwner e ≠ curTenant s) then 2
    else if ¬ waived ∧ ownerMay (teType e) new = false then 3 else if teCount e ≠ 0 then 4 else 0) ∧
  (∀ p d a s, Issues (.frq p d a) s →
    let f := (readS s (numA p a)).toNat
    let e := typeOf s f
    let r := numD p d
    let sees := hasType s f = true ∧ ((s.cur < 16 ∧ (svcOf s s.cur).priv = true) ∨
      (16 ≤ s.cur ∧ ((teType e ≠ 0 ∧ teOwner e = curTenant s) ∨ (teType e = 7 ∧ (teGrant e).getLsbD (curTenant s) = true))))
    ∃ t, exec (.frq p d a) s = .next t ∧ OpAtOnce .a s t ∧ OnlyWarp s t ∧
      (sees → readP t (r + 2) ++ readP t r = e) ∧ (¬ sees → readP t (r + 2) ++ readP t r = (0 : BitVec 128)) ∧
      (∀ m, m < r ∨ r + 4 ≤ m → readS t m = readS s m) ∧
      { curWarp t with
        scalars := (curWarp s).scalars, flags := (curWarp s).flags, split := (curWarp s).split } = curWarp s) ∧
  (∀ p a b s, Issues (.ctxsv p a b) s →
    let h := readS s (numB p b)
    let pa := readP s (numA p a)
    let ready (k : Nat) : Prop := savable s k = true
    let placed (k : Nat) : Prop := pa.toNat % 64 = 0 ∧ inContext s pa.toNat (imageLen (blockOf s k).cmd) = true
    (handleBlock s h = none → exec (.ctxsv p a b) s = .next (takeTrap s 15 255 (h.setWidth 64) 0)) ∧
    (∀ k, handleBlock s h = some k →
      (¬ ready k → exec (.ctxsv p a b) s = .next (takeTrap s 15 255 (h.setWidth 64) 0)) ∧
      (ready k → ¬ placed k → exec (.ctxsv p a b) s = .next (takeTrap s 15 255 pa 0)) ∧
      (ready k → placed k → ∃ t, exec (.ctxsv p a b) s = .next t ∧
        blockOf t k = { blockOf s k with status := .saving } ∧ (∀ j, j ≠ k → blockOf t j = blockOf s j) ∧
        (curWarp t).pend = (curWarp s).pend ++ [{ newOp s (.ctxsv k pa.toNat) with flag := (curEntry s).flagB }] ∧
        { curWarp t with
          pend := (curWarp s).pend, nextOp := (curWarp s).nextOp, split := (curWarp s).split } = curWarp s ∧
        (∀ j, j ≠ s.cur → warpOf t j = warpOf s j) ∧ ∀ x, Memory.byte t.mem x = Memory.byte s.mem x))) ∧
  (∀ p d a b s, Issues (.ctxld p d a b) s →
    let pa := (readP s (numA p a)).toNat
    let h := readS s (numB p b)
    let l := readBytes s pa (if inContext s pa 64 then num (readBytes s pa 64) 4 4 else 64)
    let code := loadStatus s pa l h
    (diesOf s ≤ h.toNat / 64 % 4 → ∃ v, exec (.ctxld p d a b) s = .next (takeTrap s 3 255 v 0)) ∧
    (h.toNat / 64 % 4 < diesOf s → ∃ t, exec (.ctxld p d a b) s = .next t ∧ ScalarAtOnce (numD p d) (BitVec.ofNat 32 code) s t ∧
      (code ≠ 0 → OnlyWarp s t) ∧
      (code = 0 → ∃ k, (blockOf t k).status = .saved ∧ (blockOf t k).core = handleCore h ∧
        (blockOf t k).slot = handleSlot h ∧ (blockOf t k).tenant = num l 16 1 ∧ (blockOf t k).world = num l 11 1 ∧
        (∀ j, j ≠ k → blockOf t j = blockOf s j) ∧ (∀ j, j ≠ s.cur → warpOf t j = warpOf s j) ∧
        ∀ x, Memory.byte t.mem x = Memory.byte s.mem x)))

/-- Copy rings take and finish entries; Tidemark takes kicks and commands, dispatches heads, places blocks, completes tasks (assumptions 14, 15, 73 to 77). Rests on: R140, R141, R142, R143, R144, R145, R146, R228, R229, R230, R231, R342. -/
def Obligations.RingsAndLaunch : Prop :=
  (∀ s k, let b := blockOf s k
    (ringServed b = false ∨ b.ring.stored = false → exec (.ringNotify k) s = .next s) ∧
    (∀ n h e, ringServed b = true → b.ring.stored = true → (ringGet s k (ringC b)).2 = some n →
      (ringGet s k (ringC b + 4)).2 = some h → (ringGet s k (ringC b + 8)).2 = some e →
      ∃ t, exec (.ringNotify k) s = .next t ∧ WarpsKept s t ∧ (blockOf t k).ring = { b.ring with
        notify := some n, stored := false, stopped := b.ring.stopped && e != 0, skip := b.ring.skip && !(b.ring.stopped && e == 0) }) ∧
    (ringServed b = false ∨ b.ring.stopped = true ∨ b.ring.notify = none → exec (.ringEntryTake k) s = .next s) ∧
    (∀ h n, k ≠ 0 → ringServed b = true → b.ring.stopped = false → b.ring.notify = some n → (ringGet s k (ringC b + 4)).2 = some h →
      let s1 := (ringGet s k (ringC b + 4)).1
      let stops : Prop := ∃ t, exec (.ringEntryTake k) s = .next t ∧ (blockOf t k).ring.stopped = true ∧
        (blockOf t k).ring.skip = true ∧ (blockOf t k).ring.copies = b.ring.copies
      (h = n → exec (.ringEntryTake k) s = .next s) ∧
      (h ≠ n → ringN b < (n + 2 ^ 32 - h) % 2 ^ 32 → stops) ∧
      (h ≠ n → (n + 2 ^ 32 - h) % 2 ^ 32 ≤ ringN b → ∀ c, (readCopy s1 k h).2 = some c →
        c.id = h ∧ (entryCheck (readCopy s1 k h).1 k c ≠ 0 → stops) ∧
        (entryCheck (readCopy s1 k h).1 k c = 0 → ∃ t, exec (.ringEntryTake k) s = .next t ∧ (blockOf t k).eligible = false ∧
          (blockOf t k).ring.copies = b.ring.copies ++ [c] ∧ (blockOf t k).ring.stopped = false)))) ∧
  (∀ s k c, let b := blockOf s k
    copyOf b c.id = some c → (liveWarps b).isEmpty = false →
    (runCopy s k c = .ok none → exec (.ringCopyComplete k c.id) s = .next s) ∧
    (∀ e, runCopy s k c = .error e → ringWaits s k = true → exec (.ringCopyComplete k c.id) s = .next s) ∧
    (∀ e, runCopy s k c = .error e → ringWaits s k = false → ∃ t, exec (.ringCopyComplete k c.id) s = .next t ∧
      (blockOf t k).ring.stopped = true ∧ (blockOf t k).ring.skip = false ∧ copyOf (blockOf t k) c.id = none) ∧
    (∀ u v, b.replay = false → ctlKind c.ctl = 0 → ctlStamp c.ctl = false → ctlSwz c.ctl = 0 → 0 < c.len → c.src % 128 + c.len ≤ 128 →
      c.dst % 128 + c.len ≤ 128 → engUnit s (blockClient s k) false (BitVec.ofNat 64 c.src) c.len = .ok u →
      engUnit s (blockClient s k) true (BitVec.ofNat 64 c.dst) c.len = .ok v → u.stash = false → v.stash = false →
      engWaits s (blockClient s k) u.pa = false → engWaits s (blockClient s k) v.pa = false → unitPoison s k u = false →
      storeFate s k b.world v = .perform → NoDirtyLine s u.pa c.len → NoDirtyLine s v.pa c.len →
      ∃ t, exec (.ringCopyComplete k c.id) s = .next t ∧ copyOf (blockOf t k) c.id = none ∧ WarpsKept s t ∧
        (∀ i, i < c.len → Memory.byte t.mem (v.pa + i) = Memory.byte s.mem (u.pa + i)) ∧
        ∀ a, (a < v.pa ∨ v.pa + c.len ≤ a) → Memory.byte t.mem a = Memory.byte s.mem a)) ∧
  (∀ s tn q, let pa := kickWord s tn q
    (64 ≤ q ∨ (tenantOf s tn).created = false ∨ physThere s pa = false → exec (.doorbellWrite tn q) s = .next s) ∧
    (q < 64 → (tenantOf s tn).created = true → physThere s pa = true → physFree s pa = false →
      ∃ t, exec (.doorbellWrite tn q) s = .next t ∧ q ∈ (tenantOf t tn).bells ∧ OnlyTenant tn s t) ∧
    (q < 64 → (tenantOf s tn).created = true → physGood s pa = true → ∃ t, exec (.doorbellWrite tn q) s = .next t ∧
      physGet t pa 4 = physGet s pa 4 ||| 2 ^ (q % 32) ∧ q ∉ (tenantOf t tn).bells ∧ WarpsKept s t ∧
      (NoDirtyLine s pa 4 → ∀ a, (a < pa ∨ pa + 4 ≤ a) → Memory.byte t.mem a = Memory.byte s.mem a))) ∧
  (∀ s tn, let b := journalBase s tn
    let good := physGood (mendJournal s tn 0) b = true ∧ physGood (mendJournal s tn 0) (journalCopy s tn) = true
    (b = 0 ∨ ¬ good → exec (.journalTruncate tn) s = .next s) ∧
    (b ≠ 0 → good → ∃ t, exec (.journalTruncate tn) s = .next t ∧ journalCount t tn = 0 ∧ WarpsKept s t)) ∧
  (∀ s d, (tideServes s d = false → exec (.tidemarkScan d) s = .next s) ∧
    (∀ j, tideServes s d = true → j < 128 → let pa := kickWord s (j / 2) (32 * (j % 2))
      (tenantOf s (j / 2)).created = true → physGood s pa = true → NoDirtyLine s pa 4 →
      (∀ i, i < 128 → i ≠ j → (tenantOf s (i / 2)).created = true → physGood s (kickWord s (i / 2) (32 * (i % 2))) = true →
        physGet s (kickWord s (i / 2) (32 * (i % 2))) 4 = 0) →
      (tcbOf s d = 0 ∨ (doneWaiting s d = 0 ∧ NoDirtyLine s (tcbOf s d) 8 ∧ (pa + 4 ≤ tcbOf s d ∨ tcbOf s d + 0x44 ≤ pa))) →
      ∃ t, exec (.tidemarkScan d) s = .next t ∧ (dieOf t d).scan = ((dieOf s d).scan + 1) % 128 ∧ physGet t pa 4 = 0 ∧
        ∀ q, q < 32 → (physGet s pa 4).testBit q = true → (j / 2, 32 * (j % 2) + q, none) ∈ (dieOf t d).serve)) ∧
  (∀ s d g n rest, (dieOf s d).dones = (g, n) :: rest → n < 2 ^ 32 →
    let b := tcbOf s d
    let p := physGet s (b + 0x40) 4
    let good := b ≠ 0 ∧ doneWaiting s d < 16 ∧ physGood s b = true ∧ physGood s (b + 0x80 + 8 * (p % 16)) = true
    (¬ good → exec (.doneEventPost d) s = .next s) ∧
    (good → NoDirtyLine s b 256 → ∃ t, exec (.doneEventPost d) s = .next t ∧
      physGet t (b + 0x40) 4 = (p + 1) % 2 ^ 32 ∧ physGet t (b + 0x80 + 8 * (p % 16)) 8 = g % 2 ^ 32 + 2 ^ 32 * n ∧
      (dieOf t d).dones = rest ∧ (dieOf t d).posted = (dieOf s d).posted ++ [g] ∧ gridOf t g = { gridOf s g with queue := (gridOf s g).queue - 1 } ∧ WarpsKept s t)) ∧
  (∀ s d tn q tail rest, (dieOf s d).serve = (tn, q, tail) :: rest → tideServes s d = true →
    (tenantOf s tn).created = true → physGood s (descAddr s tn q) = true →
    let a := descAddr s tn q
    (tail = none → ∃ t, exec (.commandLaunch d) s = .next t ∧ exec (.commandMark d) s = .next t ∧ OnlyDie d s t ∧
      dieOf t d = { dieOf s d with serve := (tn, q, some (physGet s (a + 16) 4)) :: rest }) ∧
    (∀ n m, tail = some n → (tenantOf s tn).stopped.contains q = false → (tenantOf s tn).halted.contains q = false →
      (tenantOf s tn).marks.find? (fun x => x.2.1 == q) = some m →
      let u := setTenant s tn { tenantOf s tn with marks := (tenantOf s tn).marks.filter fun x => x.2.1 != q }
      (isPending s tn m.2.2 = true → ∃ t, exec (.commandLaunch d) s = .next t ∧ exec (.commandMark d) s = .next t ∧ OnlyDie d s t ∧
        dieOf t d = { dieOf s d with serve := rest }) ∧
      (isPending s tn m.2.2 = false → JournalRoom u tn → ∃ t, exec (.commandLaunch d) s = .next t ∧ exec (.commandMark d) s = .next t ∧
        physGet t (a + 20) 4 = (physGet s (a + 20) 4 + 1) % 2 ^ 32 ∧ ∀ x ∈ (tenantOf t tn).marks, x.2.1 ≠ q)) ∧
    (∀ n, tail = some n → (tenantOf s tn).marks.find? (fun x => x.2.1 == q) = none →
      let head := physGet s (a + 20) 4
      let e := physGet s a 8 + 128 * (head % 2 ^ physGet s (a + 8) 1)
      let l := readBytes s e 128
      let c := commandOf l
      let c' := { c with pred := resolvePreds s tn c.pred }
      let code := refusalCode s tn l
      let mark := leNat (l.take 2) = 2
      let u := markNow (accept s tn q (min 3 (physGet s (a + 9) 1)) c) tn c
      let i : Instr := if mark then .commandMark d else .commandLaunch d
      (tenantOf s tn).stopped.contains q = false → (tenantOf s tn).halted.contains q = false → head ≠ n → 4 ≤ physGet s (a + 8) 1 → physGet s (a + 8) 1 ≤ 16 →
      physGet s a 8 % 128 = 0 → physGood s e = true →
      let stops (x : Nat) : Prop := ∃ t, exec i s = .next t ∧ physGet t (a + 24) 4 = x * 2 ^ 24 + head % 2 ^ 24 ∧
        q ∈ (tenantOf t tn).stopped ∧ (dieOf t d).serve = rest ∧ (tenantOf t tn).pending = (tenantOf s tn).pending
      (mark → exec (.commandLaunch d) s = .next s) ∧ (¬ mark → exec (.commandMark d) s = .next s) ∧
      let holds := mark ∧ isPending u tn c.task = true
      (code ≠ 0 → stops code) ∧ (code = 0 → ¬ holds → journalFails u tn = true → stops 6) ∧
      (code = 0 → holds → ∃ t, exec i s = .next t ∧ (dieOf t d).serve = rest ∧ t.mem = u.mem ∧ isPending t tn c.task = true ∧
        (tenantOf t tn).marks = (d, q, c.task) :: (tenantOf s tn).marks) ∧
      (code = 0 → ¬ holds → JournalRoom u tn → ∃ t, exec i s = .next t ∧ physGet t (a + 20) 4 = (head + 1) % 2 ^ 32 ∧
        (¬ mark → (tenantOf t tn).pending = (tenantOf s tn).pending ++ [⟨q, min 3 (physGet s (a + 9) 1), c'⟩] ∧
          gridOf t (gridKey tn c.task) = { Grid.blank with live := true, cmd := c' }) ∧
        (mark → isPending t tn c.task = false ∧ ∃ f, (c.task, f) ∈ (tenantOf t tn).completed)))) ∧
  (∀ s tn, let l := (tenantOf s tn).pending
    ((∀ d, tideServes s d = false) ∨ (doomed s tn = none ∧ chooseHead s tn l = none) → exec (.taskDispatch tn) s = .next s) ∧
    (∀ e p, doomed s tn = some (e, p) → e ∈ l ∧ entryWaits s tn e = true ∧ failedPred e = some p) ∧
    (doomed s tn = none → ∀ e ∈ l, entryWaits s tn e = true → failedPred e = none) ∧
    (∀ e, chooseHead s tn l = some e → e ∈ queueHeads s tn l ∧ dispatchable e = true ∧
      ∀ f, f ∈ queueHeads s tn l → dispatchable f = true → e.prio ≤ f.prio) ∧
    (∀ e p d, tideServes s d = true → doomed s tn = some (e, p) → stampWaits s tn e.cmd true = false → JournalRoom s tn →
      ∃ t, exec (.taskDispatch tn) s = .next t ∧ isPending t tn e.cmd.task = false ∧
        (e.cmd.task, true) ∈ (tenantOf t tn).completed) ∧
    (∀ e d, tideServes s d = true → doomed s tn = none → chooseHead s tn l = some e →
      (e.cmd.kind ≠ 2 → ∃ t, exec (.taskDispatch tn) s = .next t ∧ (gridOf t (gridKey tn e.cmd.task)).dispatched = true ∧
        Tbl.get 0 (tenantOf t tn).turn e.prio = e.queue ∧ (tenantOf t tn).pending = l) ∧
      (e.cmd.kind = 2 → stampWaits s tn e.cmd false = false → JournalRoom s tn →
        ∃ t, exec (.taskDispatch tn) s = .next t ∧ isPending t tn e.cmd.task = false ∧
          (e.cmd.task, false) ∈ (tenantOf t tn).completed))) ∧
  (∀ s tn task core ctx, let gk := gridKey tn task
    let g := gridOf s gk
    (g.live = false ∨ g.dispatched = false ∨ g.cmd.grid ≤ g.placed → exec (.blockPlace tn task core ctx) s = .next s) ∧
    (g.cmd.task = task → g.live = true → g.dispatched = true → g.placed = 0 → 0 < g.cmd.grid → g.cmd.flags.testBit 3 = true →
      g.cmd.grid % max 1 g.cmd.cluster = 0 → ∃ t, exec (.blockPlace tn task core ctx) s = .next t ∧
        ((gridOf t gk).placed = 0 ∨ (gridOf t gk).placed = g.cmd.grid))) ∧
  (∀ s tn task core ctx slot area, let gk := gridKey tn task
    let g := gridOf s gk
    let c := g.cmd
    let wd := (tenantOf s tn).world.toNat
    tideServes s (core / 40) = true → c.task = task → g.live = true → g.dispatched = true → g.placed < c.grid → c.flags.testBit 3 = false → (groupOf s (core / 8)).running = some tn →
    mayRunIn s tn (core / 8) = true → (dieOf s (core / 40)).out = false → coreTakes s core wd = true →
    (wantsGang c = true → coreTakes s (core + 1) wd = true) → placeRoom s c core ctx = true →
    clusterElsewhere s gk c g.placed (core / 8) = false → freeSlot s core = some slot →
    areaFor s tn c (areasUsed s) = some area → JournalRoom s tn →
    ∃ t, exec (.blockPlace tn task core ctx) s = .next t ∧ t.nextBlk = s.nextBlk + 1 ∧
      (gridOf t gk).placed = g.placed + 1 ∧ (let b := blockOf t s.nextBlk
        b.status = .running ∧ b.tenant = tn ∧ b.world = wd ∧ b.task = c.task ∧ b.index = g.placed ∧ b.cmd = c ∧
        b.core = core ∧ b.slot = slot ∧ b.ctx = (if wantsCtx c then some ctx else none) ∧ b.area = some area ∧ b.replay = false ∧ b.checkpoint.isSome = true ∧
        b.warps = (List.range c.warps).map (warpPlace s c core)) ∧
      ∀ i, i < c.warps → (∀ j, j < c.warps → warpPlace s c core j = warpPlace s c core i → j = i) →
        let w := warpOf t (warpPlace s c core i)
        w.status = .running ∧ w.width = c.width ∧ w.vregs = c.vregs ∧ w.blk = s.nextBlk ∧ w.index = i ∧
        Tbl.get 0 w.scalars 0 = c.args.extractLsb' 0 32 ∧ Tbl.get 0 w.scalars 1 = c.args.extractLsb' 32 32 ∧
        Tbl.get 0 w.scalars 2 = BitVec.ofNat 32 g.placed ∧ Tbl.get 0 w.scalars 3 = BitVec.ofNat 32 i ∧
        Tbl.get 0 w.scalars 4 = BitVec.ofNat 32 c.grid ∧
        Tbl.get 0 w.scalars 5 = BitVec.ofNat 32 (g.placed / max 1 c.cluster) ∧
        (∀ r, 6 ≤ r → Tbl.get 0 w.scalars r = 0) ∧ w.vecs = [] ∧ w.masks = [] ∧ w.pend = [] ∧
        (entryOf w 0).state = .leaf ∧ (entryOf w 0).pc = c.entry ∧ (entryOf w 0).exec = BitVec.ofNat 64 (2 ^ c.width - 1) ∧
        ∀ j, j ≠ 0 → entryOf w j = Entry.blank) ∧
  (∀ s tn task, let gk := gridKey tn task
    let g := gridOf s gk
    let v := g.cmd.stampVal.toNat % 2 ^ 63 + (if g.failed ∨ g.cmd.stampVal.getLsbD 63 then 2 ^ 63 else 0)
    let ended := (∃ d, tideServes s d = true) ∧ g.live = true ∧ g.dispatched = true ∧ g.cmd.grid ≤ g.exited ∧ g.queue = 0 ∧ g.audits = 0
    (¬ ended → exec (.taskComplete tn task) s = .next s) ∧
    (ended → g.cmd.task = task → stampWaits s tn g.cmd g.failed = false → isPending s tn task = true → journalFails s tn = true →
      exec (.taskComplete tn task) s = .next (stepFails s tn task)) ∧
    (ended → g.cmd.task = task → stampWaits s tn g.cmd g.failed = false → JournalRoom s tn →
      ∃ t, exec (.taskComplete tn task) s = .next t ∧ (gridOf t gk).live = false ∧ isPending t tn task = false ∧
        (task, g.failed) ∈ (tenantOf t tn).completed ∧
        ∀ s1 x, (blockOf s 0).replay = false → journalPut s tn 4 task g.cmd.stampAddr.toNat v = some s1 → g.cmd.stampAddr ≠ 0 → g.failed = false →
          engUnit s1 (tableClient s1 tn) true g.cmd.stampAddr 8 = .ok x → engWaits s1 (tableClient s1 tn) x.pa = false → x.stash = false →
          storeFate s1 0 (tenantOf s tn).world.toNat x = .perform → physGet t x.pa 8 = v))

/-- A quantum's end runs the runnable tenant of least pass and halts the others' blocks; timeouts, latches, promotion, rebuilding (assumptions 17, 37). Rests on: R137, R147, R149, R150, R151, R152, R286, R308, R326, R329. -/
def Obligations.SharingCores : Prop :=
  (∀ s g used, groupCount s ≤ g → exec (.quantumEnd g used) s = .next s) ∧
  (∀ s g used, g < groupCount s →
    let rec' (u : Nat) : TenRec := recAt s (g / 5) u
    let weight (u : Nat) : Nat := weightOf (rec' u).sched
    let runs (u : Nat) : Prop := (rec' u).sched.getLsbD g = true ∧
      ((∃ e ∈ s.blocks, e.2.tenant = u ∧ isLive e.2 = true ∧ e.2.group = g) ∨
        (∃ e ∈ s.grids, let n := max 1 e.2.cmd.cluster
          e.1 / 2 ^ 32 = u ∧ e.2.live = true ∧ e.2.dispatched = true ∧ e.2.placed < e.2.cmd.grid ∧
          (clusterElsewhere s e.1 e.2.cmd e.2.placed g = false ∨ (e.2.placed / n + 1) * n < e.2.cmd.grid)) ∨
        ∃ d ∈ s.dies, ∃ a ∈ d.2.audits, a.tenant = u ∧ auditWaits s a = true)
    ∃ t, exec (.quantumEnd g used) s = .next t ∧
      ((groupOf t g).running = none ↔ ∀ u, u < 64 → ¬ runs u) ∧
      (∀ u, (groupOf t g).running = some u → u < 64 ∧ runs u ∧ Tbl.get 0 (groupOf t g).masks u = (rec' u).slotmask ∧
        ∀ v, v < 64 → runs v → (0 < weight v → 0 < weight u) ∧ (0 < weight v ∨ weight u = 0 →
          (Tbl.get 0 (groupOf t g).pass u).toNat < (Tbl.get 0 (groupOf t g).pass v).toNat ∨
          ((Tbl.get 0 (groupOf t g).pass u).toNat = (Tbl.get 0 (groupOf t g).pass v).toNat ∧ u ≤ v))) ∧
      (∀ u, u < 64 → Tbl.get 0 (groupOf t g).recs u = (rec' u).sched) ∧
      (∀ r, (groupOf s g).running = some r → r < 64 → runnable s r g = true →
        let q := Tbl.get 0 (groupOf s g).recs r
        0 < weightOf q → Tbl.get 0 (groupOf t g).pass r =
          Tbl.get 0 (groupOf s g).pass r + BitVec.ofNat 64 (2 ^ 20 / weightOf q * used / max 1 (quantumOf q))) ∧
      (∀ r k, (groupOf s g).running = some r → (groupOf t g).running ≠ some r → (blockOf s k).status = .running →
        (blockOf s k).tenant = r → (blockOf s k).group = g → (blockOf t k).status = .halting)) ∧
  (∀ s k, let b := blockOf s k
    let stopped (t : State) : Prop := (∀ w, w ∉ b.warps → warpOf t w = warpOf s w) ∧
      ∀ w ∈ b.warps, (warpOf t w).status ≠ .running ∧ (warpOf t w).status ≠ .halting
    (b.status ≠ .rolling → b.status ≠ .halting ∨ blockStill s k = true → exec (.forcedSaveTimeout k) s = .next s) ∧
    (b.status = .halting → blockStill s k = false → ∃ t, exec (.forcedSaveTimeout k) s = .next t ∧
      (blockOf t k).status = .forced ∧ stopped t) ∧
    (b.status = .rolling → ∃ t, exec (.forcedSaveTimeout k) s = .next t ∧ (blockOf t k).status = .rolling ∧ stopped t)) ∧
  (∀ s x, let c := coreOf s x
    (c.latch = .latched ∨ (c.latch = .draining ∧ blocksOn s x ≠ []) → exec (.worldLatchDrained x) s = .next s) ∧
    (c.latch = .draining → blocksOn s x = [] → ∃ t, exec (.worldLatchDrained x) s = .next t ∧
      { t with cores := s.cores, caches := s.caches } = s ∧ (∀ j, j ≠ x → coreOf t j = coreOf s j) ∧ (coreOf t x).latch = .clearing ∧
      (∀ line, l1Has t x line = false) ∧ (∀ y line, y ≠ x → l1Has t y line = l1Has s y line) ∧ t.caches.l2 = s.caches.l2 ∧
      (coreOf t x).acc = [] ∧ (coreOf t x).q0 = [] ∧ (coreOf t x).q1 = [] ∧
      ∀ i, i < 16 → slotAt (coreOf t x).slots i = { Slot.blank with gen := (slotAt c.slots i).gen + 1 }) ∧
    (c.latch = .clearing → ∃ t, exec (.worldLatchDrained x) s = .next t ∧ { t with cores := s.cores, svcs := s.svcs } = s ∧
      coreOf t x = { c with latch := .latched, world := c.target, askers := [] } ∧
      (∀ k ∈ c.askers, (svcOf t k).pend.getLsbD 2 = true) ∧ ∀ k, k ∉ c.askers → svcOf t k = svcOf s k)) ∧
  (∀ s w, let v := warpOf s w
    let ready : Prop := ∃ e ∈ v.split, clauseStands s w e.1 = true
    (¬ ready → exec (.warpPromotion w) s = .next s) ∧
    (ready → ∃ t, exec (.warpPromotion w) s = .next t ∧ { t with warps := s.warps } = s ∧
      (∀ k, k ≠ w → warpOf t k = warpOf s k) ∧ warpOf t w = { v with promoted := true })) ∧
  (∀ s g, ∃ t, exec (.schedulerRebuild g) s = .next t ∧ { t with warps := s.warps } = s ∧
    (∀ k, 16 ≤ k → (warpOf s k).core / 8 = g → (warpOf t k).promoted = false ∧
      { warpOf t k with promoted := (warpOf s k).promoted, split := (warpOf s k).split } = warpOf s k ∧
      ∀ e, { entryOf (warpOf t k) e with readyAt := (entryOf (warpOf s k) e).readyAt } = entryOf (warpOf s k) e) ∧
    ∀ k, (k < 16 ∨ (warpOf s k).core / 8 ≠ g) → warpOf t k = warpOf s k)

/-- A drained block is saved and its image written; it is restored, killed or rolled back as its state and records ask (assumptions 1, 13, 39). Rests on: R152, R248, R306, R316, R317, R320, R321, R324, R326, R332. -/
def Obligations.SavingAndKilling : Prop :=
  (∀ s k, let b := blockOf s k
    let saving := (b.status = .halting ∨ b.status = .forced ∨ b.status = .saving) ∧ blockDrained s k = true ∧ ∀ e ∈ b.bad, e.2.1 = 7
    let img := imageBytes s b (b.warps.map (warpOf s)) (match b.ctx with
      | some c => bankOf s b.core c b.cmd.width 0
      | none => []) (b.warps.any fun w => (warpOf s w).status == .stopped)
    let clean := ∀ l ∈ b.lines, l.dirty = false
    (saving → savingOp s k = none → ∃ t, exec (.blockSave k) s = .next t ∧ (blockOf t k).status = .saved ∧
      (blockOf t k).lines = [] ∧ (blockOf t k).warps = [] ∧ (blockOf t k).ctx = none ∧ (blockOf t k).regions = b.regions ∧
      (blockOf t k).saved = b.warps.map (fun w => { warpOf s w with lease := none }) ∧
      (∀ w ∈ b.warps, warpOf t w = Warp.blank) ∧ (∀ w, w ∉ b.warps → warpOf t w = warpOf s w) ∧
      (clean → b.area = none → ∀ a, Memory.byte t.mem a = Memory.byte s.mem a) ∧
      (∀ x, b.area = some x → Memory.reads t.mem x img.length = img ∧
        (let c := Tbl.get Context.blank t.contexts x;
          c.header = img.take 64 ∧ c.lines = b.lines ∧ c.block.regions = b.regions ∧ c.block.saved = (blockOf t k).saved) ∧
        (clean → NoDirtyLine s x img.length → ∀ a, (a < x ∨ x + img.length ≤ a) → Memory.byte t.mem a = Memory.byte s.mem a))) ∧
    (∀ w o x, saving → savingOp s k = some (w, o, x) → ∃ t, exec (.blockSave k) s = .next t ∧ (blockOf t k).status = .saved ∧
      (blockOf t k).image = some x ∧ opOf (warpOf t w) o.id = none)) ∧
  (∀ s k core ctx, let b := blockOf s k
    let poisoned := (b.image.orElse fun _ => b.area).any fun a => runPoison s a (imageLen b.cmd)
    b.status = .saved → core / 8 = b.group → (groupOf s (core / 8)).running = some b.tenant →
    coreTakes s core b.world = true → (b.gang = true → coreTakes s (core + 1) b.world = true) → placeRoom s b.cmd core ctx = true →
    (poisoned = true → ∃ t, exec (.blockRestore k core ctx) s = .next t ∧
      ((blockOf t k).status = .killing ∨ (blockOf t k).status = .exited)) ∧
    (∀ slot, poisoned = false → restoreSlot s b core = some slot → ∃ t, exec (.blockRestore k core ctx) s = .next t ∧
      (blockOf t k).status = .running ∧ (blockOf t k).core = core ∧ (blockOf t k).slot = slot ∧ (blockOf t k).saved = [] ∧
      (blockOf t k).warps = b.saved.map (fun w => warpPlace s b.cmd core w.index) ∧
      (∀ w ∈ b.saved, (∀ v ∈ b.saved, warpPlace s b.cmd core v.index = warpPlace s b.cmd core w.index → v = w) →
        let x := warpOf t (warpPlace s b.cmd core w.index)
        { x with core := w.core, slot := w.slot, upper := w.upper, status := w.status, split := w.split } = w ∧
        (∀ e, { entryOf x e with fresh := (entryOf w e).fresh } = entryOf w e) ∧
        x.core = warpCore b.cmd core w.index ∧ (x.status = .running ∨ x.status = w.status)) ∧
      ∀ a, Memory.byte t.mem a = Memory.byte s.mem a)) ∧
  (∀ s k, let b := blockOf s k
    let gk := gridKey b.tenant b.task
    (b.status ≠ .killing → isLive b = false ∨ killDue s k = false → exec (.blockKill k) s = .next s) ∧
    (b.status ≠ .killing → isLive b = true → killDue s k = true → ∃ t, exec (.blockKill k) s = .next t ∧
      (gridOf t gk).failed = true ∧ ((blockOf t k).status = .killing ∨ (blockOf t k).status = .exited) ∧
      ∀ w ∈ b.warps, (warpOf t w).status = .stopped ∨ (warpOf t w).status = .exited ∨ (warpOf t w).status = .trapped ∨
        (warpOf t w).status = .absent) ∧
    (b.status = .killing → blockDrained s k = false → exec (.blockKill k) s = .next s) ∧
    (b.status = .killing → blockDrained s k = true → ∃ t, exec (.blockKill k) s = .next t ∧ (blockOf t k).status = .exited ∧
      (blockOf t k).lines = [] ∧ (∀ w ∈ b.warps, warpOf t w = Warp.blank) ∧
      (b.replay = false → (gridOf t gk).exited = (gridOf s gk).exited + 1))) ∧
  (∀ s k, let b := blockOf s k
    (b.status = .running ∨ b.status = .halting → rollDue s k = false → exec (.blockRollback k) s = .next s) ∧
    (b.status = .running ∨ b.status = .halting → rollDue s k = true →
      ∃ t, exec (.blockRollback k) s = .next t ∧ blockOf t k = { b with status := .rolling } ∧
        (∀ w ∈ b.warps, (warpOf t w).status ≠ .running ∧ (warpOf t w).status ≠ .halting ∧ (warpOf t w).status ≠ .halted ∧
          { warpOf t w with status := (warpOf s w).status, lease := (warpOf s w).lease } = warpOf s w) ∧
        (∀ w, w ∉ b.warps → warpOf t w = warpOf s w) ∧ { t with warps := s.warps, blocks := s.blocks } = s) ∧
    (b.status = .rolling → blockDrained s k = false → exec (.blockRollback k) s = .next s) ∧
    (b.status = .rolling → blockDrained s k = true → canRollBack s k = false → ∃ t, exec (.blockRollback k) s = .next t ∧
      ((blockOf t k).status = .killing ∨ (blockOf t k).status = .exited)) ∧
    (b.status = .rolling → blockDrained s k = true → canRollBack s k = true → onFailedCore s b = true → groupHasRoom s b = true →
      ∃ t, exec (.blockRollback k) s = .next t ∧ (blockOf t k).status = .saved) ∧
    (∀ c, b.status = .rolling → blockDrained s k = true → b.checkpoint = some c → canRollBack s k = true → onFailedCore s b = false →
      let stays := (groupOf s b.group).running = some b.tenant
      ∃ t, exec (.blockRollback k) s = .next t ∧ (stays → (blockOf t k).status = .running) ∧
        (¬ stays → (blockOf t k).status = .halting) ∧
        (blockOf t k).barriers = c.barriers ∧ (blockOf t k).bad = [] ∧ (stays → (blockOf t k).slog = [] ∧ (blockOf t k).rlog = [] ∧
        (∀ x ∈ c.warps, ∀ w, b.warps[x.index]? = some w → (∀ y ∈ c.warps, b.warps[y.index]? = some w → y = x) → let v := warpOf t w
          v.scalars = x.scalars ∧ v.masks = x.masks ∧ v.ctl = x.ctl ∧ v.vecs = undoVecs (warpOf s w) ∧ v.pend = [] ∧
          v.status = .running ∧ { entryOf v 0 with readyAt := x.entry.readyAt, fresh := x.entry.fresh } = x.entry ∧
          ∀ j, j ≠ 0 → entryOf v j = Entry.blank) ∧
        ∀ a, Memory.byte t.mem a = Memory.byte s.mem a)))

/-- Requests set the records they name or are rejected; page-table stores are checked; tenants are erased (assumptions 22, 37, 41, 42, 74). Rests on: R139, R148, R191, R270, R271, R272, R276, R278, R279, R288, R290, R291. -/
def Obligations.RecordsAndErasure : Prop :=
  (∀ s tn v, let x := tenantOf s tn
    (64 ≤ tn ∨ v.extractLsb' 56 20 = 0#20 → OnlyReplies (.schedRecordWrite tn v) (.error tn) s) ∧
    (tn < 64 → v.extractLsb' 56 20 ≠ 0#20 →
      let q := max (v.extractLsb' 56 20).toNat ((1800 * s.fsto.toNat + 256 + ((v.extractLsb' 96 32).toNat + 127) / 128 + 1799) / 1800)
      ∃ r : BitVec 128, r.extractLsb' 0 20 = v.extractLsb' 0 20 ∧ r.extractLsb' 20 20 = 0#20 ∧
        r.extractLsb' 40 16 = v.extractLsb' 40 16 ∧ r.extractLsb' 56 20 = BitVec.ofNat 20 q ∧
        r.extractLsb' 76 20 = v.extractLsb' 76 20 ∧ r.extractLsb' 96 32 = v.extractLsb' 96 32 ∧
        TenantAccepted (.schedRecordWrite tn v) tn (q % 2 ^ 20) { x with sched := r } s) ∧
    (64 ≤ tn → OnlyReplies (.memoryRecordWrite tn v) (.error tn) s) ∧
    (tn < 64 → let root := v.extractLsb' 96 32
      let x' := { x with
        root := root, leaselim := BitVec.ofNat 13 (min 4096 (v.extractLsb' 32 13).toNat), waymask := v.extractLsb' 0 32 }
      (root = x.root → TenantAccepted (.memoryRecordWrite tn v) tn 0 x' s) ∧
      (root ≠ x.root → ∃ t, exec (.memoryRecordWrite tn v) s = .next t ∧ Announced (some tn) (.accepted tn 0) s t ∧
        tenantOf t tn = { x' with modified := stillModified s tn } ∧ (∀ k, k ≠ tn → tenantOf t k = tenantOf s k) ∧
        (∀ k, { warpOf t k with split := (warpOf s k).split } = warpOf s k ∧
          ∀ e, { entryOf (warpOf t k) e with spot := (entryOf (warpOf s k) e).spot } = entryOf (warpOf s k) e) ∧
        t.admissions = s.admissions ++ [rootMove s tn x.root.toNat] ∧ (∀ f, f ≠ root.toNat → typeOf t f = typeOf s f) ∧
        (hasType s root.toNat = true → teCount (typeOf s root.toNat) < 0xFFFFFF →
          teCount (typeOf t root.toNat) = teCount (typeOf s root.toNat) + 1)))) ∧
  (∀ s tn (v : BitVec 64), let x := tenantOf s tn
    let wd := v.extractLsb' 56 8
    (64 ≤ tn ∨ (wd ≠ x.world ∧ ownsFrame s tn = true) → OnlyReplies (.isolationRecordWrite tn v) (.error tn) s) ∧
    (tn < 64 → wd = x.world ∨ ownsFrame s tn = false →
      TenantAccepted (.isolationRecordWrite tn v) tn 0 { x with world := wd, slotmask := v.extractLsb' 32 16 } s)) ∧
  (∀ s tn addr, (64 ≤ tn → OnlyReplies (.queueTableWrite tn addr) (.error tn) s) ∧
    (tn < 64 → (∀ d, d < diesOf s → tcbOf s d = 0) → TenantAccepted (.queueTableWrite tn addr) tn 0 { tenantOf s tn with qtab := addr } s) ∧
    (tn < 64 → ∃ t, exec (.queueTableWrite tn addr) s = .next t ∧ Announced (some tn) (.accepted tn 0) s t ∧ WarpsKept s t ∧
      tenantOf t tn = { tenantOf s tn with qtab := addr, modified := stillModified s tn } ∧
      (∀ k, k ≠ tn → tenantOf t k = tenantOf s k) ∧ Told s t tn)) ∧
  (∀ s tn i first len type grant, let x := tenantOf s tn
    (hostRegionBad s tn i first len type = true → OnlyReplies (.hostRegionAdd tn i first len type grant) (.error tn) s) ∧
    (hostRegionBad s tn i first len type = false → ∃ t, exec (.hostRegionAdd tn i first len type grant) s = .next t ∧
      tenantOf t tn = { x with hosts := Tbl.set x.hosts i ⟨first, len, type, grant⟩, modified := stillModified s tn } ∧
      (∀ f, first ≤ f → f < first + len → typeOf t f = mkType type tn x.world.toNat 0 0 0 (if type = 7 then grant else 0)) ∧
      (∀ f, (f < first ∨ first + len ≤ f) → typeOf t f = typeOf s f) ∧ Announced (some tn) (.accepted tn 0) s t ∧
      OnlyTenant tn s { t with types := s.types, out := s.out, plat := s.plat })) ∧
  (∀ s tn i, let x := tenantOf s tn
    let r := Tbl.get ⟨0, 0, 0, 0⟩ x.hosts i
    let counted := ∃ f, r.first ≤ f ∧ f < r.first + r.len ∧ teCount (typeOf s f) ≠ 0
    (r.len = 0 ∨ counted → OnlyReplies (.hostRegionRemove tn i) (.error tn) s) ∧
    (r.len ≠ 0 → ¬ counted → ∃ t, exec (.hostRegionRemove tn i) s = .next t ∧
      tenantOf t tn = { x with hosts := Tbl.del x.hosts i, modified := stillModified s tn } ∧
      (∀ f, r.first ≤ f → f < r.first + r.len → typeOf t f = 0) ∧
      (∀ f, (f < r.first ∨ r.first + r.len ≤ f) → typeOf t f = typeOf s f) ∧ Announced (some tn) (.accepted tn 0) s t)) ∧
  (∀ s tn root l1 l0 jf jc db, let l := [root, l1, l0, jf, jc, db]
    let old := (tenantOf s tn).root.toNat
    let hbm := isHbm s (db * 65536) = true ∧ isHbm s (jf * 65536) = true ∧ isHbm s (jc * 65536) = true ∧
      hbmStack s (jf * 65536) ≠ hbmStack s (jc * 65536)
    (64 ≤ tn ∨ (tenantOf s tn).created = true ∨ (tenantOf s tn).erasure.isSome = true ∨ (∃ f ∈ l, frameAvailable s f = false) ∨
        ¬ l.Nodup ∨ ¬ hbm →
      OnlyReplies (.tenantCreate tn root l1 l0 (jf, jc) db) (.error tn) s) ∧
    (tn < 64 → (tenantOf s tn).created = false → (tenantOf s tn).erasure = none →
      (∀ f ∈ l, frameAvailable s f = true ∧ f < 2 ^ 32) → l.Nodup → hbm → old ∉ l →
      (∀ d, d < diesOf s → tcbOf s d ≠ 0 → NoDirtyLine s (tcbOf s d + 8) 24 ∧
        ∀ f ∈ l, tcbOf s d + 32 ≤ f * 65536 ∨ (f + 1) * 65536 ≤ tcbOf s d) →
      ∃ t, exec (.tenantCreate tn root l1 l0 (jf, jc) db) s = .next t ∧ WarpsKept s t ∧
      Announced (some tn) (.accepted tn 0) s t ∧ (tenantOf t tn).jcopy = jc ∧ (tenantOf t tn).vlog = [] ∧ (tenantOf t tn).created = true ∧ (tenantOf t tn).root = BitVec.ofNat 32 root ∧
      (tenantOf t tn).jframe = jf ∧ (tenantOf t tn).dbell = db ∧ (tenantOf t tn).world = (tenantOf s tn).world ∧
      (∀ e ∈ [(root, 5, 2), (l1, 4, 2), (l0, 3, 2), (jf, 6, 0), (jc, 6, 0), (db, 1, 0)], teType (typeOf t e.1) = e.2.1 ∧
        teOwner (typeOf t e.1) = tn ∧ teWorld (typeOf t e.1) = (tenantOf s tn).world.toNat ∧
        teCount (typeOf t e.1) = (teCount (typeOf s e.1) + e.2.2) % 2 ^ 24) ∧
      (∀ f, f ∉ l → f ≠ old → typeOf t f = typeOf s f) ∧ Told s t tn ∧
      (hasType s old = true → teCount (typeOf t old) = teCount (typeOf s old) - 1) ∧
      (∀ i, i < 8192 → physGet t (root * 65536 + 8 * i) 8 = if i = 0x1C00 then 1 + 65536 * l1 else 0) ∧
      (∀ i, i < 8192 → physGet t (l1 * 65536 + 8 * i) 8 = if i = 0 then 1 + 65536 * l0 else 0) ∧
      (∀ i, i < 8192 → physGet t (l0 * 65536 + 8 * i) 8 = if i = 0 then 0x63 + 65536 * root
        else if i = 1 then 0x63 + 65536 * l1 else if i = 2 then 0x63 + 65536 * l0 else 0))) ∧
  (∀ s wd roster slot tn, let bad := wd = 0 ∨ 255 < wd ∨ (worldOf s wd).live = true ∨ slot = 0 ∨ 255 < slot ∨
      (keyOf s slot).state ≠ .empty ∨ 64 ≤ tn
    (bad → OnlyReplies (.worldCreate wd roster slot tn) (.error wd) s) ∧
    (¬ bad → ∃ t, exec (.worldCreate wd roster slot tn) s = .next t ∧ worldOf t wd = ⟨true, roster⟩ ∧
      keyOf t slot = ⟨.active, tn, none⟩ ∧ (∀ k, k ≠ slot → keyOf t k = keyOf s k) ∧ (∀ k, k ≠ wd → worldOf t k = worldOf s k) ∧
      Announced none (.accepted wd 0) s t ∧ { t with worlds := s.worlds, keys := s.keys, out := s.out, plat := s.plat } = s) ∧
    ((worldOf s wd).live = false → OnlyReplies (.rosterWrite wd roster) (.error wd) s) ∧
    ((worldOf s wd).live = true → ∃ t, exec (.rosterWrite wd roster) s = .next t ∧ worldOf t wd = ⟨true, roster⟩ ∧
      (∀ k, k ≠ wd → worldOf t k = worldOf s k) ∧ Announced none (.accepted wd 0) s t ∧
      { t with worlds := s.worlds, out := s.out, plat := s.plat } = s)) ∧
  (∀ s slot tn, let x := keyOf s slot
    let only (t : State) : Prop := ∀ k, k ≠ slot → keyOf t k = keyOf s k
    (slot = 0 ∨ 255 < slot ∨ x.state ≠ .empty ∨ 64 ≤ tn → OnlyReplies (.keySlotAssign slot tn) (.error tn) s) ∧
    (0 < slot → slot ≤ 255 → x.state = .empty → tn < 64 → ∃ t, exec (.keySlotAssign slot tn) s = .next t ∧
      keyOf t slot = ⟨.active, tn, none⟩ ∧ only t ∧ Announced none (.accepted tn slot) s t ∧
      { t with keys := s.keys, out := s.out, plat := s.plat } = s) ∧
    (x.state ≠ .flushing → exec (.keySlotFlushed slot) s = .next s) ∧
    (x.state = .flushing → ∃ t, exec (.keySlotFlushed slot) s = .next t ∧ keyOf t slot = { x with state := .revoked, asker := none } ∧
      only t ∧ WarpsKept s t ∧ (∀ k, x.asker = some k → (svcOf t k).pend.getLsbD 3 = true) ∧
      ∀ k, ∀ l ∈ (blockOf t k).lines, underKey s slot l.pa = false) ∧
    (x.state ≠ .revoked ∨ (∃ e ∈ s.types, teKey e.2 = slot) → exec (.keyDestroy slot) s = .next s) ∧
    (x.state = .revoked → (∀ e ∈ s.types, teKey e.2 ≠ slot) → ∃ t, exec (.keyDestroy slot) s = .next t ∧
      (keyOf t slot).state = .empty ∧ only t ∧ { t with keys := s.keys } = s)) ∧
  (∀ s k, 128 ≤ k → ∃ t, exec (.linkRekey k) s = .next t ∧ { t with inner := s.inner } = s ∧
    innerOf t k = { innerOf s k with keyOut := 0, keyIn := 0 } ∧ ∀ j, j ≠ k → innerOf t j = innerOf s j) ∧
  (∀ s k, k < 128 → ((linkOf s k).bound = false → exec (.linkRekey k) s = .next s) ∧
    ((linkOf s k).bound = true → ∃ t, exec (.linkRekey k) s = .next t ∧ OnlyLink k s t ∧ linkOf t k = { linkOf s k with
      out := { (linkOf s k).out with keys := 0 }, inn := { (linkOf s k).inn with keys := 0 } })) ∧
  (∀ s a, s.admissions.find? (fun x => x.id == a.id) = some a →
    let others := ∀ x ∈ s.admissions, x.id < a.id → x.root = none → x.addr / 65536 ≠ a.addr / 65536
    let left := unmappedSlots s a.tenant (codeUnmapped ((tableLevel s a.addr).getD 0) a)
    (a.committed = true ∨ ¬ others ∨ homeFree s a.warp a.op a.addr = false → exec (.admissionCheck a.id) s = .next s) ∧
    (∀ n, a.committed = false → others → homeFree s a.warp a.op a.addr = true → isPoison s a.addr = false → tableLevel s a.addr = some n →
      let code := admissionCode s a.tenant n a.new
      (code ≠ 0 → 16 ≤ a.warp → opOf (warpOf s a.warp) a.op = none → ∃ t, exec (.admissionCheck a.id) s = .next t ∧
        (∀ x ∈ t.admissions, x.id ≠ a.id) ∧ t.types = s.types ∧ t.mem = s.mem ∧ (warpOf t a.warp).ctl.fSys.refused = true ∧
        Tbl.get 0 (tenantOf t a.tenant).vlog 0 = 1#1 ++ 0#4 ++ BitVec.ofNat 4 code ++ a.va.extractLsb' 0 55) ∧
      (code = 0 → a.root = none → physGet s a.addr 8 = 0 → opOf (warpOf s a.warp) a.op = none → ∃ t, exec (.admissionCheck a.id) s = .next t ∧
        physGet t a.addr 8 = a.new.toNat ∧ (∀ x ∈ t.admissions, x.id ≠ a.id) ∧
        ((targetsOf n a.new).Nodup → ∀ f, teCount (typeOf t f) =
          teCount (typeOf s f) + (if f ∈ targetsOf n a.new then 1 else 0)))) ∧
    (a.committed = false ∨ (∃ w ∈ a.waits, stillUses s a w = true) ∨ (∃ e ∈ left, slotHolds s a.tenant e = true) →
      exec (.admissionRetire a.id) s = .next s) ∧
    (a.committed = true → a.waits = [] → a.old.getLsbD 0 = false →
      (a.root = none → opOf (warpOf s a.warp) a.op = none → ∃ t, exec (.admissionRetire a.id) s = .next t ∧
        (∀ x ∈ t.admissions, x.id ≠ a.id) ∧ t.types = s.types ∧ WarpsKept s t) ∧
      (∀ f, a.root = some f → f ∉ s.leaving → hasType s f = true → ∃ t, exec (.admissionRetire a.id) s = .next t ∧
        (∀ x ∈ t.admissions, x.id ≠ a.id) ∧ WarpsKept s t ∧ teCount (typeOf t f) = teCount (typeOf s f) - 1 ∧
        ∀ g, g ≠ f → typeOf t g = typeOf s g))) ∧
  (∀ s tn nonce, (64 ≤ tn → OnlyReplies (.erasureRequest tn nonce) (.error tn) s) ∧
    (tn < 64 → tenantBlocks s tn = [] → ∃ t, exec (.erasureRequest tn nonce) s = .next t ∧
      (tenantOf t tn).created = false ∧ (tenantOf t tn).pending = [] ∧ (tenantOf t tn).completed = [] ∧
      (∀ g, g < 20 → (tenantOf t tn).sched.getLsbD g = false) ∧
      (∃ e, (tenantOf t tn).erasure = some e ∧ e.step = 1 ∧ e.nonce = nonce ∧ e.world = (tenantOf s tn).world.toNat) ∧
      (∀ k, k ≠ tn → tenantOf t k = tenantOf s k) ∧ WarpsKept s t ∧ t.mem = s.mem)) ∧
  (∀ s tn e, (tenantOf s tn).erasure = some e →
    let i : Instr := .erasureStepComplete tn true
    let step (t : State) : Option Nat := (tenantOf t tn).erasure.map fun x => x.step
    OnlyReplies (.erasureStepComplete tn false) (.error tn) s ∧
    (e.step = 1 → tenantBlocks s tn ≠ [] → exec i s = .next s) ∧
    (e.step = 1 → tenantBlocks s tn = [] → ∃ t, exec i s = .next t ∧ step t = some 2 ∧
      ∀ k, k ≠ 0 → (keyOf s k).tenant = tn → (keyOf s k).state ≠ .empty → (keyOf t k).state = .revoked) ∧
    (e.step = 2 → ∃ t, exec i s = .next t ∧ step t = some 3 ∧ OnlyTenant tn s t) ∧
    (e.step = 3 → framesBusy s tn = true → exec i s = .next s) ∧
    (e.step = 3 → framesBusy s tn = false → ∃ t, exec i s = .next t ∧ step t = some 4 ∧ (tenantOf t tn).spaces = 0 ∧
      (tenantOf t tn).root = 0) ∧
    (e.step = 4 → ∃ t, exec i s = .next t ∧ step t = some 5 ∧ (tenantOf t tn).vlog = [] ∧ (tenantOf t tn).world = 0 ∧
      (∀ k, k ≠ tn → tenantOf t k = tenantOf s k) ∧ t.mem = s.mem ∧ WarpsKept s t) ∧
    (e.step = 5 → ∃ t, exec i s = .next t ∧ (tenantOf t tn).erasure = none ∧ t.plat.seq = s.plat.seq + 1 ∧
      t.plat.receipt = signed (receiptBytes tn (s.plat.seq + 1) e) ∧ Announced (some tn) (.accepted tn 0) (writeReceipt s tn e) t)) ∧
  (∀ s tn v, (tn < 64 → ∃ t, exec (.pmonSelectWrite tn v) s = .next t ∧ OnlyTenant tn s t ∧
      tenantOf t tn = { tenantOf s tn with pmsel := v }) ∧
    (64 ≤ tn → OnlyReplies (.pmonSelectWrite tn v) (.error tn) s))

/-- Trap records, storage errors, failing cores, host and debug accesses, trace, audits: what each event changes (assumptions 31 to 33, 40, 54). Rests on: R13, R14, R205, R292, R293, R294, R311, R315, R316, R326, R327, R328. -/
def Obligations.FaultsAndOutside : Prop :=
  (∀ s w e, (w < 16 ∨ 32 ≤ (dieOf s ((warpOf s w).core / 40)).traps.length → exec (.trapRecordWrite w e) s = .next s) ∧
    (∀ tr, 16 ≤ w → (dieOf s ((warpOf s w).core / 40)).traps.length < 32 → (warpOf s w).trap = some tr → tr.frag = e →
      (warpOf s w).status = .trapping → (entryOf (warpOf s w) e).wait = .none → warpStill (warpOf s w) = true →
      accessLeft (warpOf s w) = false →
      let d := (warpOf s w).core / 40
      ∃ t r, exec (.trapRecordWrite w e) s = .next t ∧ r = recordFor s w e tr.cause tr.lane tr.aux tr.pc tr.value ∧
        r.length = 128 ∧ leNat (r.take 2) = tr.cause % 65536 ∧ leNat ((r.drop 24).take 8) = tr.pc.toNat ∧
        leNat ((r.drop 32).take 8) = tr.value.toNat ∧ (dieOf t d).traps = (dieOf s d).traps ++ [r] ∧
        warpOf t w = { warpOf s w with status := .trapped } ∧ (svcOf t (4 * d)).pend.getLsbD 1 = true ∧
        (∀ k, k ≠ w → warpOf t k = warpOf s k) ∧
        { t with warps := s.warps, dies := s.dies, svcs := s.svcs, grids := s.grids } = s)) ∧
  (∀ s tn, ∃ t, exec (.correctableError tn) s = .next t ∧ OnlyTenant tn s t ∧
    { tenantOf t tn with pmon := (tenantOf s tn).pmon } = tenantOf s tn ∧
    ∀ i, i < 8 → Tbl.get 0 (tenantOf t tn).pmon i = Tbl.get 0 (tenantOf s tn).pmon i +
      (if (tenantOf s tn).pmsel.toNat / 16 ^ i % 16 = 7 then 1 else 0)) ∧
  (∀ s unit, exec (.cleanLineError 0 unit) s = .next { s with caches := dropCached s.caches (128 * unit) 128 }) ∧
  (∀ s k unit, k ≠ 0 → ∃ t, exec (.cleanLineError k unit) s = .next t ∧ { t with blocks := s.blocks } = s ∧
    (∀ j, j ≠ k → blockOf t j = blockOf s j) ∧ { blockOf t k with lines := (blockOf s k).lines } = blockOf s k ∧
    ∀ l, l ∈ (blockOf t k).lines ↔ l ∈ (blockOf s k).lines ∧ (l.dirty = true ∨ l.va / 128 ≠ unit)) ∧
  (∀ s w e kind n, let x := entryOf (warpOf s w) e
    16 ≤ w → mayFinish (warpOf s w) = true → x.state = .leaf → x.left ≠ 0 → (warpOf s w).trap = none →
    badPlace (blockOf s (warpOf s w).blk) (warpOf s w) kind n = true →
    (blockOf s (warpOf s w).blk).status = .running ∨ warpStill (warpOf s w) = false →
    ∃ t tr, exec (.stateError w e kind n) s = .next t ∧ (warpOf t w).trap = some tr ∧ tr.cause = 18 ∧ tr.frag = e ∧
      tr.lane = badLane kind n ∧ tr.value = (if kind = 2 then BitVec.ofNat 64 n else 0) ∧ (warpOf t w).status = .trapping ∧
      (blockOf t (warpOf s w).blk).bad = ((warpOf s w).index, kind, badNumber kind n) :: (blockOf s (warpOf s w).blk).bad ∧
      (entryOf (warpOf t w) e).left = 0 ∧ (warpOf t w).vecs = (warpOf s w).vecs ∧ (warpOf t w).scalars = (warpOf s w).scalars ∧
      { t with warps := s.warps, blocks := s.blocks, cur := s.cur, frag := s.frag } = s) ∧
  (∀ s w e kind n, let b := blockOf s (warpOf s w).blk
    16 ≤ w → badPlace b (warpOf s w) kind n = true → warpStill (warpOf s w) = true →
    b.status = .halting ∨ b.status = .forced ∨ b.status = .saving → ∃ t, exec (.stateError w e kind n) s = .next t ∧
      blockOf t (warpOf s w).blk = { b with bad := ((warpOf s w).index, kind, badNumber kind n) :: b.bad } ∧
      (∀ k, k ≠ (warpOf s w).blk → blockOf t k = blockOf s k) ∧ { t with blocks := s.blocks } = s) ∧
  (∀ s pa, ∃ t, exec (.memoryLineError pa) s = .next t ∧ { t with poison := s.poison } = s ∧
    ∀ a, a ∈ t.poison ↔ a ∈ s.poison ∨ (a = pa / 128 * 128 ∧ (isHbm s pa || isTier s pa) = true)) ∧
  (∀ s f, exec (.typeEntryError f) s = .next s) ∧
  (∀ s tn n, let a := journalBase s tn + recordOff n
    let b := journalCopy s tn + recordOff n
    ((tenantOf s tn).jframe = 0 ∨ 2046 ≤ n ∨ isPoison s a = isPoison s b → exec (.journalRecordError tn n) s = .next s) ∧
    ((tenantOf s tn).jframe ≠ 0 → n < 2046 → isPoison s a = true → isPoison s b = false → keyRevoked s a = false → keyLost s a = false →
      ∃ t, exec (.journalRecordError tn n) s = .next t ∧ isPoison t a = false ∧ WarpsKept s t ∧
        (∀ i, i < 128 → Memory.byte t.mem (a / 128 * 128 + i) = Memory.byte s.mem (b / 128 * 128 + i)) ∧
        ∀ i, (i < a / 128 * 128 ∨ a / 128 * 128 + 128 ≤ i) → Memory.byte t.mem i = Memory.byte s.mem i)) ∧
  (∀ s x, (coreCount s ≤ x ∨ (coreOf s x).failed = true → exec (.coreFail x) s = .next s) ∧
    (x < coreCount s → (coreOf s x).failed = false → residentOn s x = [] → ∃ t, exec (.coreFail x) s = .next t ∧
      coreOf t x = { coreOf s x with failed := true, quarantined := true, dark := (coreOf t x).dark } ∧ (∀ j, j ≠ x → coreOf t j = coreOf s j) ∧
      (∀ k e, 16 ≤ k → (warpOf s k).core = x → e < 8 → (entryOf (warpOf s k) e).state ≠ .free → k ∈ s.warps.map Prod.fst →
        (entryOf (warpOf t k) e).left = 0) ∧ (∀ k, (k < 16 ∨ (warpOf s k).core ≠ x) → warpOf t k = warpOf s k) ∧
      { t with cores := s.cores, warps := s.warps, freeCtr := s.freeCtr } = s)) ∧
  (∀ s peer pa n (v : BitVec 64), let i (w : Bool) : Instr := .hostAccess ⟨if peer then .peer else .host, w⟩ pa n v
    let d := homeDie s pa
    let far := peer = false ∧ (isHbm s pa = true ∨ isTier s pa = true) ∧ teWorld (typeOf s (pa / 65536)) ≠ 0
    let free := homeOpen s noWarp 0 pa = true ∧ ∀ x ∈ s.outside, x.pa / 128 ≠ pa / 128
    let counts (t : State) : Prop := OnlyDie d s t ∧ dieOf t d = { dieOf s d with hostDrops := countUp (dieOf s d).hostDrops }
    (peer = false → s.plat.step < 7 → ∀ w, OnlyReplies (i w) (.error 64) s) ∧
    (peer = true ∨ 7 ≤ s.plat.step → outsideGood s peer pa n = false → ∀ w, exec (i w) s = .next s) ∧
    (peer = true ∨ 7 ≤ s.plat.step → outsideGood s peer pa n = true →
      (far → ∃ t, exec (i true) s = .next t ∧ counts t) ∧
      (far → ∃ t, exec (i false) s = .next t ∧ t.out = .poison :: s.out ∧ counts { t with out := s.out }) ∧
      (∀ w, ¬ far → ¬ free → ∃ t, exec (i w) s = .next t ∧ t.outside = s.outside ++ [⟨peer, w, pa, n, v, s.stamp⟩] ∧
        { t with outside := s.outside } = s) ∧
      (¬ far → free → isPoison s pa = true → exec (i true) s = .next s ∧ OnlyReplies (i false) .poison s) ∧
      (¬ far → free → isPoison s pa = false → NoDirtyLine s pa n →
        (∃ t, exec (i false) s = .next t ∧ t.out = .read (BitVec.ofNat 64 (s.mem.rd pa n)) :: s.out ∧
          t.mem = s.mem ∧ WarpsKept s t) ∧
        ∃ t, exec (i true) s = .next t ∧ t.mem.rd pa n = v.toNat % 256 ^ n ∧ WarpsKept s t ∧ t.out = s.out ∧
          ∀ a, (a < pa ∨ pa + n ≤ a) → Memory.byte t.mem a = Memory.byte s.mem a))) ∧
  (∀ s w pa n (v : BitVec 64), let i : Instr := .hostAccess ⟨.queued, w⟩ pa n v
    (outsideNext s [] s.outside = none → exec i s = .next s) ∧
    (∀ k r, outsideNext s [] s.outside = some k → s.outside[k]? = some r →
      outsideFree s r (s.outside.take k) = true ∧ ∃ t, exec i s = .next t ∧ t.outside = s.outside.eraseIdx k)) ∧
  (∀ s n (v : BitVec 64), let i (w : Bool) (r : Nat) : Instr := .hostAccess ⟨.physical, w⟩ r n v
    let p (w : Bool) (r : Nat) : Instr := .hostAccess ⟨.tierPort, w⟩ r n v
    (∀ r, exec (i true r) s = .next s) ∧ (∀ r, s.plat.step < 7 → r ≠ 9 → OnlyReplies (i false r) (.error 64) s) ∧
    OnlyReplies (i false 9) (.read (BitVec.ofNat 64 s.plat.statusReg)) s ∧
    (7 ≤ s.plat.step → OnlyReplies (i false 0) (.read ((featWord s false false false).setWidth 64)) s ∧
      (∀ k, k < 8 → OnlyReplies (i false (k + 1)) (.read ((capWord s k).setWidth 64)) s) ∧
      ∀ d m j, m < 16 → j < 32 →
        OnlyReplies (i false (4096 + 512 * d + 32 * m + j)) (.read ((histWord (histOf s d m) j).setWidth 64)) s) ∧
    (∀ w r, s.part = .gx9h ∨ 14 ≤ r → OnlyReplies (p w r) (.absent r) s) ∧
    (∀ r, s.part = .gx9 → r < 14 → exec (p true r) s = .next s ∧
      ∃ t x, exec (p false r) s = .next t ∧ t.out = .read x :: s.out ∧ { t with out := s.out, freeCtr := s.freeCtr } = s)) ∧
  (∀ s d pa (v : BitVec 32), let i (w : Bool) : Instr := .jtagAccess d w none pa v
    let denied (i : Bool → Instr) : Prop :=
      (∃ t, exec (i true) s = .next t ∧ OnlyDie d s t ∧ dieOf t d = { dieOf s d with dbgdeny := true }) ∧
      ∃ t, exec (i false) s = .next t ∧ t.out = .read 0 :: s.out ∧ OnlyDie d s { t with out := s.out } ∧
        dieOf t d = { dieOf s d with dbgdeny := true }
    (debugReaches s pa = false → denied i) ∧
    (debugReaches s pa = true → homeOpen s noWarp 0 pa = false → ∀ w, exec (i w) s = .next s) ∧
    (debugReaches s pa = true → homeOpen s noWarp 0 pa = true → isPoison s pa = false → NoDirtyLine s pa 1 →
      (∃ t, exec (i false) s = .next t ∧ t.out = .read (BitVec.ofNat 64 (Memory.byte s.mem pa).toNat) :: s.out ∧
        t.mem = s.mem) ∧
      ∃ t, exec (i true) s = .next t ∧ Memory.byte t.mem pa = v.setWidth 8 ∧
        ∀ a, a ≠ pa → Memory.byte t.mem a = Memory.byte s.mem a) ∧
    (∀ w n, let r (b : Bool) : Instr := .jtagAccess d b (some w) n v
      let near := w < 16 ∨ ((coreOf s ((w - 16) / 64)).latch = .latched ∧ (coreOf s ((w - 16) / 64)).world = 0)
      let attached (t : State) : Prop := ∀ x, coreOf t x =
        if 16 ≤ w ∧ x = (w - 16) / 64 then { coreOf s x with debugger := true } else coreOf s x
      (¬ near ∨ 192 ≤ n → denied r) ∧
      (near → n < 192 → (∃ t, exec (r false) s = .next t ∧ attached t ∧
          t.out = .read ((Tbl.get 0 (warpOf s w).scalars n).setWidth 64) :: s.out ∧ { t with cores := s.cores, out := s.out } = s) ∧
        ((warpOf s w).status ≠ .absent → ∃ t, exec (r true) s = .next t ∧ attached t ∧
          warpOf t w = { warpOf s w with scalars := Tbl.set (warpOf s w).scalars n v } ∧
          (∀ k, k ≠ w → warpOf t k = warpOf s k) ∧ { t with warps := s.warps, cores := s.cores } = s)))) ∧
  (∀ s w tr, let x := warpOf s w
    let b := blockOf s x.blk
    let d := (coreOf s x.core).debugger
    x.trap = some tr → (x.status ≠ .trapped ∨ tr.cause ≠ 11 ∨ b.world ≠ 0 ∨ d = false → exec (.debugContinue w) s = .next s) ∧
      (x.status = .trapped → tr.cause = 11 → b.world = 0 → d = true → b.status = .running ∨ b.status = .halting →
        ∃ t, exec (.debugContinue w) s = .next t ∧ (warpOf t w).trap = none ∧
        (warpOf t w).status = (if b.status = .running then .running else .halting) ∧
        entryOf (warpOf t w) tr.frag = { entryOf x tr.frag with pc := refAt tr.pc (refOff tr.pc + 1), left := 0 } ∧
        (∀ e, e ≠ tr.frag → entryOf (warpOf t w) e = entryOf x e) ∧ (∀ k, k ≠ w → warpOf t k = warpOf s k) ∧
        { t with warps := s.warps, dies := s.dies } = s)) ∧
  (∀ s d wd v, (wd = 0 → OnlyReplies (.traceRecord d wd v) (.trace v) s) ∧
    (wd ≠ 0 → ∃ t, exec (.traceRecord d wd v) s = .next t ∧ OnlyDie d s t ∧
      dieOf t d = { dieOf s d with drops := if (dieOf s d).drops = 0xFFFFFFFF then 0xFFFFFFFF else (dieOf s d).drops + 1 })) ∧
  (∀ s port code q, OnlyReplies (.unsupportedRequest port code) (.unsupported port code) s ∧
    OnlyReplies (.spdmRequest q) (.spdm (Config.spdmAnswer q)) s) ∧
  (∀ s d n x a, (dieOf s d).audits[n]? = some a →
    let gk := gridKey a.tenant a.task
    let ctx := if placeRoom s a.cmd x 0 then 0 else 1
    (auditWaits s a = false ∨ wrongCore s a x = true ∨ coreOpen s a.tenant a.cmd x ctx = false →
      exec (.auditReplay d n x) s = .next s) ∧
    (∀ slot, auditWaits s a = true → wrongCore s a x = false → coreOpen s a.tenant a.cmd x ctx = true → freeSlot s x = some slot →
      ∃ t, exec (.auditReplay d n x) s = .next t ∧ (dieOf t d).audits[n]? = some { a with replay := some x } ∧
        (∀ m, m ≠ n → (dieOf t d).audits[m]? = (dieOf s d).audits[m]?) ∧ t.grids = s.grids ∧ t.mem = s.mem ∧
        let b := blockOf t s.nextBlk
        b.status = .running ∧ b.replay = true ∧ b.task = 0 ∧ b.tenant = a.tenant ∧ b.index = a.index ∧ b.cmd = a.cmd ∧
        b.core = x ∧ b.slot = slot ∧ b.area = none ∧ x ≠ a.core) ∧
    let live := ∃ e ∈ s.blocks, isReplayOf a e.2 = true ∧ isLive e.2 = true
    let gone (t : State) : Prop := (dieOf t d).audits = (dieOf s d).audits.eraseIdx n ∧
      (gridOf t gk).audits = (gridOf s gk).audits - 1
    (∀ k, k ≠ a.index ∨ a.verdict = .running ∨ live → exec (.auditEnd d n k) s = .next s) ∧
    (a.verdict = .unauditable → ¬ live → ∃ t, exec (.auditEnd d n a.index) s = .next t ∧ gone t ∧
      (dieOf t d).unauditable = (dieOf s d).unauditable + 1 ∧ (gridOf t gk).failed = (gridOf s gk).failed) ∧
    (a.verdict = .ended → ¬ live → a.rsig = a.sig → ∃ t, exec (.auditEnd d n a.index) s = .next t ∧ gone t ∧
      { t with dies := s.dies, grids := s.grids, blocks := s.blocks } = s ∧ (gridOf t gk).failed = (gridOf s gk).failed) ∧
    (∀ c, a.verdict = .ended → ¬ live → a.rsig ≠ a.sig → a.replay = some c → blocksOn s a.core = [] → blocksOn s c = [] →
      ∃ t, exec (.auditEnd d n a.index) s = .next t ∧ gone t ∧ (coreOf t a.core).quarantined = true ∧ (coreOf t c).quarantined = true ∧
        (gridOf t gk).failed = true ∧ (∀ j, j ≠ a.core → j ≠ c → coreOf t j = coreOf s j) ∧ WarpsKept s t))

/-- Headland fails, leads and re-adopts; Tidemark cores stop, start, take over; links train, carry packets, acknowledge, die (assumptions 14, 37). Rests on: R288, R330, R331, R332, R333, R334, R337, R338, R339, R343, R344, R361. -/
def Obligations.ServicesAndLinks : Prop :=
  let lead (t : State) : Prop := ∀ l, lowestLive t = some l → t.plat.leader = l
  let started (k role : Nat) (s t : State) : Prop :=
    svcOf t k = { SvcCore.blank with running := true, slots := (svcOf s k).slots, held := (svcOf s k).held } ∧
    Tbl.get 0 (warpOf t k).scalars 0 = BitVec.ofNat 32 (tcbOf s (k / 4)) ∧
    Tbl.get 0 (warpOf t k).scalars 1 = BitVec.ofNat 32 (tcbOf s (k / 4) / 2 ^ 32) ∧
    Tbl.get 0 (warpOf t k).scalars 2 = BitVec.ofNat 32 role ∧ (warpOf t k).status = .running ∧ (warpOf t k).width = 1 ∧
    (entryOf (warpOf t k) 0).pc = mkRef 0xFFFFE 0xFE 0 0 ∧ (∀ j, j ≠ k → warpOf t j = warpOf s j ∧ svcOf t j = svcOf s j) ∧
    { t with warps := s.warps, svcs := s.svcs } = s
  let failing (k : Nat) (s t : State) : Prop := (svcOf t k).failing = true ∧ (warpOf t k).status ≠ .running ∧
    (∀ j, j ≠ k → warpOf t j = warpOf s j ∧ svcOf t j = svcOf s j) ∧ { t with warps := s.warps, svcs := s.svcs } = s
  (∀ s d, let x := dieOf s d
    (diesOf s ≤ d ∨ x.out = true → exec (.headlandError d) s = .next s) ∧
    (d < diesOf s → x.out = false → x.live = true → ∃ t, exec (.headlandError d) s = .next t ∧ lead t ∧
      (dieOf t d).live = false ∧ (dieOf t d).frozen = true ∧ (dieOf t d).beat = false ∧
      (s.plat.changes = [] → dieOf t d = { x with live := false, frozen := true, beat := false } ∧ ∀ j, j ≠ d → dieOf t j = dieOf s j) ∧
      (∀ c ∈ s.plat.changes, ∀ r l, c.reply = some r → lowestLive t = some l →
        ((∀ y ∈ c.left, y = d) → r ∈ t.out) ∧
        ((∃ y ∈ c.left, y ≠ d) → l ≠ s.plat.leader → Reply.error (replyWho r) ∈ t.out))) ∧
    (d < diesOf s → x.out = false → x.live = false → ∃ t, exec (.headlandError d) s = .next t ∧ (dieOf t d).live = true ∧
      (dieOf t d).frozen = false ∧ (s.plat.changes = [] ∨ lowestLive t = some s.plat.leader → ∀ k, k < 64 → let y := tenantOf s k
        (y.created = true → y.modified = true → tenantOnDie s k d = true →
          (tenantOf t k).created = false ∧ (tenantOf t k).erasure.isSome = true) ∧
        (y.created = false ∨ y.modified = false ∨ tenantOnDie s k d = false →
          { tenantOf t k with erasure := y.erasure } = y))) ∧
    (diesOf s ≤ d ∨ x.live = false ∨ x.out = true → exec (.headlandHeartbeat d) s = .next s) ∧
    (d < diesOf s → x.live = true → x.out = false → ∃ t, exec (.headlandHeartbeat d) s = .next t ∧
      dieOf t d = { x with beat := true } ∧ (∀ j, j ≠ d → dieOf t j = dieOf s j) ∧ (s.plat.changes = [] → OnlyDie d s t) ∧
      t.plat.changes = (s.plat.changes.map fun c => { c with left := c.left.filter fun l => l != d }).filter
        (fun c => !c.left.isEmpty) ∧
      (∀ c ∈ s.plat.changes, (∀ l ∈ c.left, l = d) → ∀ r, c.reply = some r → r ∈ t.out) ∧
      (∀ k, { tenantOf t k with modified := (tenantOf s k).modified } = tenantOf s k) ∧
      { t with dies := s.dies, tenants := s.tenants, out := s.out, plat := s.plat } = s) ∧
    (d = s.plat.leader → x.beat = true → ∃ t, exec .leaderLapse s = .next t ∧ OnlyDie d s t ∧ dieOf t d = { x with beat := false }) ∧
    (d = s.plat.leader → x.beat = false → ∃ t, exec .leaderLapse s = .next t ∧ lead t ∧ (dieOf t d).live = false ∧
      (dieOf t d).frozen = true ∧ (s.plat.changes = [] → dieOf t d = { x with live := false, frozen := true })) ∧
    (∀ again, d < diesOf s → again = false ∨ x.monFail = 0 → ∃ t, exec (.monitorCoreFailure d again) s = .next t ∧
      dieOf t d = { x with monFail := 1 } ∧ (∀ j, j ≠ d → dieOf t j = dieOf s j) ∧ (svcOf t (4 * d + 1)).running = true ∧
      (warpOf t (4 * d + 1)).status = .running ∧ (∀ j, j ≠ 4 * d + 1 → warpOf t j = warpOf s j ∧ svcOf t j = svcOf s j) ∧
      { t with dies := s.dies, warps := s.warps, svcs := s.svcs } = s) ∧
    (d < diesOf s → x.monFail ≠ 0 → ∃ t, exec (.monitorCoreFailure d true) s = .next t ∧ (dieOf t d).out = true ∧
      (dieOf t d).live = false ∧ (dieOf t d).frozen = true ∧
      ∀ k, isLive (blockOf s k) = true → (blockOf s k).core / 40 = d →
        (blockOf t k).status = .killing ∨ (blockOf t k).status = .exited)) ∧
  (∀ s d, tideReady s d = true →
    let j := activeCore s d
    let k := standbyCore s d
    ((svcOf s j).running = false → exec (.tidemarkErrorStop d) s = .next s) ∧
    ((svcOf s j).running = true → coreStill (warpOf s j) = true → ∃ t, exec (.tidemarkErrorStop d) s = .next t ∧
      physGet t (tcbOf s d) 8 = 2 ^ 63 ∧ svcOf t j = { svcOf s j with running := false, failing := false } ∧ WarpsKept s t) ∧
    ((svcOf s j).running = true → coreStill (warpOf s j) = false → ∃ t, exec (.tidemarkErrorStop d) s = .next t ∧ failing j s t) ∧
    ((svcOf s k).running = false → exec (.tidemarkStandbyError d) s = .next s) ∧
    ((svcOf s k).running = true → coreStill (warpOf s k) = true → ∃ t, exec (.tidemarkStandbyError d) s = .next t ∧ started k 3 s t) ∧
    ((svcOf s k).running = true → coreStill (warpOf s k) = false → ∃ t, exec (.tidemarkStandbyError d) s = .next t ∧ failing k s t) ∧
    ((svcOf s k).running = true ∨ 2 ^ 63 ≤ physGet s (tcbOf s d) 8 → exec (.tidemarkRestart d) s = .next s) ∧
    ((svcOf s k).running = false → physGet s (tcbOf s d) 8 < 2 ^ 63 → ∃ t, exec (.tidemarkRestart d) s = .next t ∧ started k 3 s t) ∧
    ((dieOf s d).out = true ∨ coreServes s k = false → exec (.tidemarkTakeover d) s = .next s) ∧
    ((dieOf s d).out = false → coreServes s k = true → (svcOf s j).running = true → coreStill (warpOf s j) = false →
      ∃ t, exec (.tidemarkTakeover d) s = .next t ∧ OnlyOne j s t ∧ (warpOf t j).status ≠ .running) ∧
    ((dieOf s d).out = false → coreServes s k = true → (svcOf s j).running = false ∨ coreStill (warpOf s j) = true →
      (dieOf s d).active = 2 ∨ (dieOf s d).active = 3 → ∃ t, exec (.tidemarkTakeover d) s = .next t ∧
        (dieOf t d).active = 5 - (dieOf s d).active ∧ (svcOf t j).running = false ∧ (dieOf t d).scan = 0 ∧
        (∀ tn q, tn < 64 → q < 64 → ((tn, q, none) ∈ (dieOf t d).serve ↔ (tenantOf s tn).created = true)) ∧
        (createdTenants s = [] → physGet t (tcbOf s d) 8 = 0))) ∧
  (∀ s k, let x := linkOf s k
    let up := x.bound = true ∧ x.dead = false ∧ x.training = false
    (∀ f, k < 128 → let i : Instr := .flitAuthFail (k + 1024 * f)
      (¬ up → exec i s = .next s) ∧
      (up → 16 ≤ (dirOf x f).fails → ∃ t, exec i s = .next t ∧ (linkOf t k).dead = true ∧ (linkOf t k).out.replay = []) ∧
      (up → (dirOf x f).fails < 16 → ∃ t, exec i s = .next t ∧
        linkOf t k = setDir x f { dirOf x f with flying := (dirOf x f).replay, fails := (dirOf x f).fails + 1 } ∧
        (∀ j, j ≠ k → linkOf t j = linkOf s j) ∧ { t with links := s.links, warps := s.warps, blocks := s.blocks } = s ∧
        ∀ p ∈ (dirOf x f).replay, (p.warp < 16 → (warpOf t p.warp).ctl.fSys.replay = true) ∧
          ∀ w, 16 ≤ p.warp → (blockOf s p.blk).warps[p.index]? = some w → (warpOf s w).status ≠ .absent →
            (warpOf t w).ctl.fSys.replay = true)) ∧
    (∀ f, 128 ≤ k → k < 1024 → let i : Instr := .flitAuthFail (k + 1024 * f)
      let y := innerOf s k
      let fails := if f = 0 then y.failOut else y.failIn
      (y.dead = true → exec i s = .next s) ∧
      (y.dead = false → 16 ≤ fails → exec i s = .next (setInner s k { y with dead := true })) ∧
      (y.dead = false → fails < 16 → ∃ t, exec i s = .next t ∧ { t with warps := s.warps, inner := s.inner } = s ∧
        innerOf t k = (if f = 0 then { y with failOut := fails + 1 } else { y with failIn := fails + 1 }) ∧
        (∀ j, j ≠ k → innerOf t j = innerOf s j) ∧
        ∀ w, (∃ o ∈ (warpOf s w).pend, ∃ u ∈ o.units, crosses s w k u = true) → (warpOf t w).ctl.fSys.replay = true)) ∧
    (x.training = false → ∀ ok, exec (.linkRetrainComplete k ok) s = .next s) ∧
    (x.training = true → x.waiting = none → (∃ t, exec (.linkRetrainComplete k false) s = .next t ∧ (linkOf t k).dead = true ∧
        (linkOf t k).training = false) ∧
      (workingPorts s x ≠ [] → 0 < x.width → ∃ t y, exec (.linkRetrainComplete k true) s = .next t ∧
        y ∈ [1, 2, 4, 8, 16] ∧ y ≤ x.width ∧ y ≤ (workingPorts s x).length ∧
        (∀ z ∈ [1, 2, 4, 8, 16], z ≤ x.width → z ≤ (workingPorts s x).length → z ≤ y) ∧
        linkOf t k = { x with
          width := y, training := false, out := { x.out with flying := x.out.replay, keys := 0 }
          inn := { x.inn with flying := x.inn.replay, keys := 0 } })) ∧
    (∀ m n w ok, x.training = true → x.waiting = some (m, n, w) →
      (∀ e ∈ s.links, e.1 ≠ k → e.2.bound = true → e.2.mask &&& m = 0 ∧ (e.2.dead = true ∨ e.2.window ≠ w)) →
      ∃ t, exec (.linkRetrainComplete k ok) s = .next t ∧ (linkOf t k).mask = m ∧ (linkOf t k).node = n ∧ (linkOf t k).window = w ∧
        (linkOf t k).bound = (m != 0) ∧ (linkOf t k).waiting = none) ∧
    (∀ dir d, d = dirOf x dir →
      (d.waiting = [] ∨ x.bound = false ∨ x.dead = true ∨ x.training = true ∨ 4096 ≤ d.replay.length →
        exec (.packetSend k dir) s = .next s) ∧
      (∀ p rest, d.waiting = p :: rest → x.bound = true → x.dead = false → x.training = false → d.replay.length < 4096 →
        d.keys.toNat < 2 ^ 48 - 1 → ∃ t, exec (.packetSend k dir) s = .next t ∧ OnlyLink k s t ∧
          linkOf t k = setDir x dir { d with
            waiting := rest, next := (d.next + 1) % 2 ^ 32, replay := d.replay ++ [{ p with seq := d.next }]
            flying := d.flying ++ [{ p with seq := d.next }], keys := d.keys + 1 }) ∧
      let held := d.held.find? (packetFree s)
      let next : LinkDir := { d with flying := d.flying.tail, expect := (d.expect + 1) % 2 ^ 32, fails := 0 }
      let acked (y : LinkDir) : LinkDir :=
        { y with unacked := 0, acks := y.acks ++ [((y.held.map fun p => p.seq).head?).getD y.expect] }
      let counted (y : LinkDir) : LinkDir := if 63 ≤ y.unacked then acked y else { y with unacked := y.unacked + 1 }
      (∀ p, dir = 0 → held = some p → ∃ t, exec (.packetReceive k dir) s = .next t ∧ (linkOf t k).out =
        counted { d with held := d.held.filter fun q => q.seq != p.seq }) ∧
      (held = none → d.flying = [] → exec (.packetReceive k dir) s = .next s) ∧
      (∀ p rest, held = none → d.flying = p :: rest → p.seq ≠ d.expect → ∃ t, exec (.packetReceive k dir) s = .next t ∧
        OnlyLink k s t ∧ linkOf t k = setDir x dir { d with flying := rest }) ∧
      (∀ p rest, held = none → d.flying = p :: rest → dir = 0 → p.seq = d.expect → packetFree s p = false →
        (∀ o, opOf (warpOf s p.warp) p.op = some o → isTile o.kind = false) → ∃ t, exec (.packetReceive k dir) s = .next t ∧ OnlyLink k s t ∧
          linkOf t k = setDir x dir { next with held := d.held ++ [p] }) ∧
      (∀ p rest o a l, held = none → d.flying = p :: rest → dir = 0 → p.seq = d.expect → packetFree s p = true →
        opOf (warpOf s p.warp) p.op = some o → isTile o.kind = false → p.lock = none → p.fill = false → p.writes = [(a, l)] →
        isPoison s a = false → NoDirtyLine s a l.length →
        ∃ t, exec (.packetReceive k dir) s = .next t ∧ linkOf t k = setDir x dir (counted next) ∧
          Memory.reads t.mem a l.length = l ∧ (∀ w, w ≠ p.warp → warpOf t w = warpOf s w) ∧
          ∀ b, (b < a ∨ a + l.length ≤ b) → Memory.byte t.mem b = Memory.byte s.mem b) ∧
      (d.unacked = 0 ∨ x.training = true → exec (.ackSend k dir) s = .next s) ∧
      (d.unacked ≠ 0 → x.training = false → ∃ t, exec (.ackSend k dir) s = .next t ∧ OnlyLink k s t ∧
        linkOf t k = setDir x dir (acked d)) ∧
      (d.acks = [] → exec (.ackReceive k dir) s = .next s) ∧
      (∀ a rest, d.acks = a :: rest → (∀ p ∈ d.replay, opOf (warpOf s p.warp) p.op = none) →
        ∃ t, exec (.ackReceive k dir) s = .next t ∧ OnlyLink k s t ∧ linkOf t k = setDir x dir { d with
          acks := rest, acked := a, replay := d.replay.filter fun p => !ackedBy a p.seq })) ∧
    (∀ mask node window, let absent := s.part = .gx9h ∧ (portsOf mask).any (fun p => decide (36 ≤ p)) = true
      (absent → OnlyReplies (.linkRecordWrite k mask node window) (.absent k) s) ∧
      (¬ absent → linkBad s k mask node window = true → OnlyReplies (.linkRecordWrite k mask node window) (.error k) s) ∧
      (node ≠ window ∨ (∃ e ∈ s.links, e.1 ≠ k ∧ e.2.bound = true ∧ e.2.mask &&& mask ≠ 0) ∨
        (∃ e ∈ s.links, e.1 ≠ k ∧ ∃ m y w, e.2.waiting = some (m, y, w) ∧ (m &&& mask ≠ 0 ∨ w = window)) →
        linkBad s k mask node window = true) ∧
      (¬ absent → linkBad s k mask node window = false → x.training = true → ∃ t, exec (.linkRecordWrite k mask node window) s = .next t ∧
        OnlyLink k s t ∧ linkOf t k = { x with waiting := some (mask, node, window) }) ∧
      (¬ absent → linkBad s k mask node window = false → x.training = false → ∃ t y, exec (.linkRecordWrite k mask node window) s = .next t ∧
        y = linkOf t k ∧ y.bound = (mask != 0) ∧ y.mask = mask ∧ y.node = node ∧ y.window = window ∧
        y.width = (portsOf mask).length ∧ y.training = (mask != 0) ∧ y.dead = false ∧ y.waiting = none))) ∧
  (∀ s p, (portCount s ≤ p ∨ p ∈ s.plat.portFailed → exec (.laneLoss p) s = .next s) ∧
    (p < portCount s → p ∉ s.plat.portFailed → ∃ t, exec (.laneLoss p) s = .next t ∧ t.plat.portFailed = p :: s.plat.portFailed ∧
      { t with links := s.links, plat := s.plat } = s ∧
      let hit (e : Nat × Link) : Bool := e.2.bound && !e.2.dead && (lanePorts s e.2).contains p
      (s.links.find? hit = none → t.links = s.links) ∧
      ∀ e, s.links.find? hit = some e → linkOf t e.1 = { linkOf s e.1 with
        training := true, out := { (linkOf s e.1).out with flying := [] }, inn := { (linkOf s e.1).inn with flying := [] } }))

/-- Droops, caps, power limit, reset, life cycle, bring-up, transport, self-test and histogram monitors (assumptions 4, 34, 36). Rests on: R335, R336, R363, R364, R365, R366, R368, R369. -/
def Obligations.Platform : Prop :=
  let wiped (s t : State) : Prop := t.warps = [] ∧ t.blocks = [] ∧ t.grids = [] ∧ t.svcs = [] ∧ t.dies = [] ∧ t.groups = [] ∧
    t.tenants = [] ∧ t.keys = [] ∧ t.links = [] ∧ t.islands = [] ∧ t.types = [] ∧ t.locks = [] ∧ t.admissions = [] ∧
    t.outside = [] ∧ t.leaving = [] ∧ t.early = [] ∧ t.plat.changes = [] ∧ t.caches = State.reset.caches ∧ t.inner = [] ∧
    t.contexts = [] ∧ t.tierKept = some [] ∧
    t.worlds = State.reset.worlds ∧ t.fsto = 20 ∧ t.audfrac = 0 ∧ t.part = s.part ∧ t.plat.step = 1 ∧ t.plat.failed = false ∧
    (∀ a, isHbm s a = true → Memory.byte t.mem a = 0) ∧
    (∀ a, isHbm s a = false → Memory.byte t.mem a = Memory.byte s.mem a) ∧
    ∀ c, (coreOf t c).acc = [] ∧ (coreOf t c).slots = [] ∧ (coreOf t c).world = 0 ∧
      (coreOf t c).quarantined = (coreOf s c).quarantined ∧ (coreOf t c).failed = (coreOf s c).failed
  (∀ s i, let x := islandOf s i
    (isIsland s i = false ∨ x.droop.isSome = true → exec (.droopDetect i) s = .next s) ∧
    (isIsland s i = true → x.droop = none → ∃ t, exec (.droopDetect i) s = .next t ∧ OnlyIsland i s t ∧
      islandOf t i = { x with droop := some 8 }) ∧
    (x.droop = none → exec (.droopStepDown i) s = .next s) ∧
    (∀ k, x.droop = some k → ∃ t, exec (.droopStepDown i) s = .next t ∧ OnlyIsland i s t ∧
      islandOf t i = { x with droop := some (max 4 (k - 1)) }) ∧
    (∃ t, exec (.droopRecover i) s = .next t ∧ OnlyIsland i s t ∧ islandOf t i = { x with droop := none }) ∧
    (∀ k, isIsland s i = true → 4 ≤ k → k ≤ 7 → ∃ t, exec (.islandCap i k) s = .next t ∧ OnlyIsland i s t ∧
      islandOf t i = { x with cap := k }) ∧
    (∀ k, islandGone s i = false → (isIsland s i = false ∨ k < 4 ∨ 7 < k) → exec (.islandCap i k) s = .next s) ∧
    (islandGone s i = true → OnlyReplies (.islandUncap i) (.absent i) s ∧ ∀ k, OnlyReplies (.islandCap i k) (.absent i) s) ∧
    (∀ k, x.droop = some k → islandClock s i = min x.cap k) ∧ (x.droop = none → x.cap ≤ 8 → islandClock s i = x.cap) ∧
    (islandGone s i = false → ∃ t, exec (.islandUncap i) s = .next t ∧ OnlyIsland i s t ∧ islandOf t i = { x with cap := 8 })) ∧
  (∀ s n, let good := if s.part = .gx9 then 1000 ≤ n ∧ n ≤ 3200 else 500 ≤ n ∧ n ≤ 1650
    (good → exec (.powerLimitWrite n) s = .next { s with plat := { s.plat with powerLimit := n } }) ∧
    (¬ good → OnlyReplies (.powerLimitWrite n) (.error 64) s)) ∧
  (∀ s, (∃ t, exec .reset s = .next t ∧ wiped s t ∧ t.plat.life = s.plat.life ∧ t.out = s.out) ∧
    (∀ i r, isIsland s i = false → exec (.orderlyStop i r) s = .next s) ∧
    (∀ i r, isIsland s i = true → ∃ t, exec (.orderlyStop i r) s = .next t ∧ wiped s t ∧
      t.plat.stopRecord = (if r then signed (Config.stopRecord s.freeCtr) else s.plat.stopRecord) ∧ t.out = .stopped :: s.out) ∧
    (∀ n b, (b = false ∨ 3 ≤ n) → OnlyReplies (.lifecycleChange n b) (.error 64) s) ∧
    (∀ e ∈ [(0, LifeCycle.manufacture), (1, .deployed), (2, .returned)], ∃ t, exec (.lifecycleChange e.1 true) s = .next t ∧
      wiped s t ∧ t.plat.life = e.2) ∧
    (∀ b, ∃ t, exec (.powerUp b) s = .next t ∧ wiped s t ∧ t.plat.testing = s.plat.transport ∧
      t.plat.transport = (s.plat.transport || b) ∧ t.plat.stopRecord = s.plat.stopRecord) ∧
    (exec .transportFlagSet s = .next { s with plat := { s.plat with transport := true } })) ∧
  (∀ s w tr im, let n := s.plat.step
    (7 ≤ n ∨ s.plat.failed = true → ∀ ok, exec (.bringupStepComplete ok w tr im) s = .next s) ∧
    (n < 7 → s.plat.failed = false → ∃ t, exec (.bringupStepComplete false w tr im) s = .next t ∧ t.plat.failed = true ∧
      t.plat.statusReg = n ∧ { t with plat := s.plat } = s) ∧
    (n = 5 → s.plat.testing = true → exec (.bringupStepComplete true w tr im) s = .next s) ∧
    (n < 7 → s.plat.failed = false → n ≠ 5 ∨ s.plat.testing = false →
      (n ≠ 3 ∨ choicesGood s w = true → ∃ t, exec (.bringupStepComplete true w tr im) s = .next t ∧ t.plat.step = n + 1 ∧
        t.plat.failed = false) ∧
      (n ≠ 3 → n ≠ 4 → n ≠ 6 ∨ s.plat.stopRecord = [] →
        exec (.bringupStepComplete true w tr im) s = .next { s with plat := { s.plat with step := n + 1 } }) ∧
      (n = 6 → s.plat.stopRecord ≠ [] → exec (.bringupStepComplete true w tr im) s = .next { s with
        plat := { s.plat with step := 7, stopRecord := [] }, out := .report s.plat.stopRecord :: s.out })) ∧
    (n = 4 → s.plat.failed = false → ∃ t, exec (.bringupStepComplete true w tr im) s = .next t ∧
      ∀ d, d < diesOf s → (svcOf t (4 * d)).running = true ∧ (svcOf t (4 * d + 1)).running = true ∧
        (entryOf (warpOf t (4 * d)) 0).pc = Config.headlandStart 0 ∧ (svcOf t (4 * d + 2)).running = true ∧ (svcOf t (4 * d + 3)).running = true ∧
        (entryOf (warpOf t (4 * d + 2)) 0).pc = mkRef 0xFFFFE 0xFE 0 0 ∧ Tbl.get 0 (warpOf t (4 * d + 2)).scalars 2 = 2 ∧
        Tbl.get 0 (warpOf t (4 * d + 3)).scalars 2 = 3)) ∧
  (∀ s l, (s.plat.step ≠ 5 ∨ s.plat.testing = false → exec (.selfTestComplete l) s = .next s) ∧
    (s.plat.step = 5 → s.plat.testing = true → ∃ t, exec (.selfTestComplete l) s = .next t ∧ t.plat.testing = false ∧
      t.plat.transport = false ∧ t.plat.report = reportBytes s.plat.seq l ∧
      (∀ c, c < coreCount s → (coreOf t c).quarantined = (l.getD c 0 != 0)) ∧
      (∀ c, c < coreCount s → l.getD c 0 = 0 → (coreOf t c).failed = false) ∧
      { t with cores := s.cores, plat := s.plat } = s)) ∧
  (∀ s d n v, isDie s d = false → d < 4 ∨ (8 ≤ d ∧ d < 20) →
    OnlyReplies (.histogramControlWrite d n v) (.absent d) s ∧ OnlyReplies (.histogramClear d n) (.absent d) s) ∧
  (∀ s d n, isDie s d = true → n < 16 →
    let h := histOf s d n
    let only (t : State) : Prop := OnlyDie d s t ∧ ∀ m, m ≠ n → histOf t d m = histOf s d m
    (∀ v, ∃ t, exec (.histogramControlWrite d n v) s = .next t ∧ only t ∧ (histOf t d n).en = v.getLsbD 31 ∧
      (histOf t d n).isl = v.extractLsb' 16 8 ∧ (histOf t d n).ten = v.extractLsb' 8 8 ∧ (histOf t d n).src = v.extractLsb' 0 4 ∧
      (v.getLsbD 30 = false → (histOf t d n).bins = h.bins ∧ (histOf t d n).min = h.min ∧ (histOf t d n).max = h.max) ∧
      (v.getLsbD 30 = true → (histOf t d n).bins = [] ∧ (histOf t d n).min = 0xFFFFFFFF ∧ (histOf t d n).max = 0)) ∧
    (∃ t, exec (.histogramClear d n) s = .next t ∧ only t ∧ histOf t d n = { h with bins := [], min := 0xFFFFFFFF, max := 0 }) ∧
    (∀ src isl tn v, let takes := h.en = true ∧ h.src.toNat = src ∧ src ≤ 4 ∧ (h.ten = 255 ∨ h.ten.toNat = tn) ∧
        (src = 4 → h.isl.toNat = isl)
      (¬ takes → exec (.histogramSample d n src isl tn v) s = .next s) ∧
      (takes → ∃ t b, exec (.histogramSample d n src isl tn v) s = .next t ∧ only t ∧ b ≤ 15 ∧
        (b = 0 → v.toNat ≤ 1) ∧ (1 ≤ b → 2 ^ b ≤ v.toNat) ∧ (1 ≤ b → b < 15 → v.toNat < 2 ^ (b + 1)) ∧
        (∀ i, Tbl.get 0 (histOf t d n).bins i = if i = b then countUp (Tbl.get 0 h.bins b) else Tbl.get 0 h.bins i) ∧
        (histOf t d n).min.toNat = min h.min.toNat v.toNat ∧ (histOf t d n).max.toNat = max h.max.toNat v.toNat)))

/-- Right after reset: HBM zero, every frame FREE, key slots EMPTY, world 0 with all nodes, FSTO 20, SVST held, bring-up at step 1. Rests on: R148, R271, R290, R304, R364, R365. -/
def Obligations.ResetState : Prop :=
  let s := State.reset
  s.memOk ∧ (∀ a, isHbm s a = true → Memory.byte s.mem a = 0 ∧ isPoison s a = false) ∧
  (∀ f, teType (typeOf s f) = 0 ∧ teCount (typeOf s f) = 0) ∧ (∀ k, (keyOf s k).state = .empty) ∧
  worldOf s 0 = ⟨true, BitVec.allOnes 64⟩ ∧ (∀ w, w ≠ 0 → (worldOf s w).live = false) ∧ s.fsto = 20 ∧
  (∀ k, (svcOf s k).hold = 0xF ∧ (svcOf s k).priv = true ∧ (svcOf s k).shelves = [] ∧ (svcOf s k).pend = 0 ∧
    (svcOf s k).running = false) ∧
  (∀ k, (warpOf s k).status = .absent ∧ (blockOf s k).status = .absent ∧ (gridOf s k).live = false ∧
    (tenantOf s k).created = false ∧ (linkOf s k).bound = false ∧ (coreOf s k).latch = .latched ∧ (coreOf s k).world = 0) ∧
  s.plat.step = 1 ∧ s.plat.failed = false

/-- A step of a fragment runs the instruction that its word decodes to, past that word, and a word that does not decode is illegal. Rests on: R38, R42, R43, R49, R136, R137, R159, R270. -/
def Obligations.StepRunsDecoded : Prop :=
  (∀ s w e l, let m := markReady s
    let v : State := { m with agenda := l }
    (s.agenda = .issue w e :: l ∨ (s.agenda = [] ∧ l = [] ∧ pick m = some (w, e))) →
    let u := asWarp v w e
    let x := curEntry u
    let off := refOff x.pc
    x.state = .leaf → x.notReady = false → coreIssues u w = true → pipeBusy u w e = false →
    (∀ i rest, x.left ≠ 0 → x.fresh = false → mayFinish (curWarp u) = true → decode [codeWord u off, codeWord u (off + 1)] = .ok (i, rest) →
      let n := 2 - rest.length
      Sys2Proof.Machine.step s = afterStep s (exec i (setFrag u { x with
        here := off + BitVec.ofNat 16 (n - 1), size := n, pc := refAt x.pc (off + BitVec.ofNat 16 n), left := x.left - n
        aside := false }))) ∧
    (∀ err, x.left ≠ 0 → x.fresh = false → mayFinish (curWarp u) = true → decode [codeWord u off, codeWord u (off + 1)] = .error err →
      Sys2Proof.Machine.step s = afterStep s (.next (takeTrapAt u off 1 255 ((codeWord u off).setWidth 64) 0))) ∧
    (∀ u' pc, x.left ≠ 0 → x.fresh = true → mayFinish (curWarp u) = true →
      resolvePc u (storeOf u.cur (curWarp u)) (runnerOf u u.cur) (u.cur, u.frag) x.left x.pc = (u', .go pc) →
      Sys2Proof.Machine.step s = afterStep s (.next (setFrag u' { curEntry u' with pc := pc, fresh := false }))) ∧
    (∀ i rest, x.left = 0 → mayStart v w e = true → mayRun (curWarp u) = true →
      ((curWarp u).status = .halting → fullReconv (curWarp u) = false) → pcCurrent u = true →
      isHeader (codeWord u off) = true → decode [codeWord u off] = .ok (i, rest) →
      Sys2Proof.Machine.step s =
        afterStep s (exec i (setFrag u { x with here := off, size := 1, pc := refAt x.pc (off + 1) })))) ∧
  (∀ s i l, s.agenda = .event i :: l → let v : State := { markReady s with agenda := l }
    (isWord i = false → Sys2Proof.Machine.step s = afterStep s (exec i v)) ∧
    (isWord i = true → Sys2Proof.Machine.step s = afterStep s (.next v)))

/-- Words of the families written out from the encoding tables decode to their instructions, and malformed ones do not. Rests on: R29, R30, R31, R37, R44, R46, R51. -/
def Obligations.SampleWords : Prop :=
  let is (l : List Word) (i : Instr) : Prop := decode l = .ok (i, [])
  let bad (l : List Word) : Prop := ∀ r, decode l ≠ .ok r
  is [0x02004103] (.iadd none 1 2 3) ∧ is [0x05804103] (.bfe none 1 2 3) ∧ is [0x14004100] (.cvtfi none 1 2) ∧
  is [0x12A04100] (.fsin none 1 2) ∧ is [0x1A004103] (.shfl none 1 2 3) ∧ is [0x1E004103] (.saddi none 1 2 3) ∧
  is [0x40804103] (.ldw none 1 2 3) ∧ is [0x42804103] (.stw none 1 2 3) ∧ is [0x44004103] (.sldw none 1 2 3) ∧
  is [0x46004103] (.tld none 1 2 3) ∧ is [0x48004103] (.aadd none 1 2 3) ∧ is [0x4C004000] (.fence none 1) ∧
  is [0x4E000103] (.mzero none 2 3) ∧ is [0x50000100] (.gath none 2) ∧ is [0x52000100] (.strm none 2) ∧
  is [0x54000103] (.cwait none 2 3) ∧ is [0x61404103] (.mma none 1 0 1 0 1 2 3) ∧ is [0x62004000] (.accz none 1) ∧
  is [0x81400040] (.br 1 2 0x40) ∧ is [0x88200005] (.barb 5) ∧ is [0x8A004100] (.ovld none 1 2) ∧
  is [0xA0028000] (.csrrd none 10 0) ∧ is [0xA042858C] (.retype none 10 11 12) ∧ is [0xA1200205] (.wlatch none 4 5) ∧
  is [0xFE001FE1] (.clause 0 15 15 1) ∧
  is [0xFCE82804, 0x10604103] (.ffma (some ⟨3, true, 2, 5, false, false, false, false, false, false, false, 1⟩) 1 2 3) ∧
  bad [0] ∧ bad [0x0E000008] ∧ bad [0xFCE82805, 0x10604103] ∧ bad [0xFCE82804, 0x81400040]

/-- The decoder reads back every instruction from the words that the encoder gives it, with every operand and prefix. Rests on: R29, R30, R31, R37, R44, R46, R51. -/
def Obligations.DecodeEncodeRoundTrip : Prop :=
  (∀ i, isWord i = true ↔ encode i ≠ []) ∧
  (∀ i rest, isWord i = true → decode (encode i ++ rest) = .ok (i, rest)) ∧
  (∀ i j, isWord i = true → isWord j = true → encode i = encode j → i = j)

/-- Every step keeps the memory in its canonical form: addresses strictly rising, no entry equal to what an unlisted address reads as. Rests on: R189, R193, R207, R208, R214, R231, R239, R364. -/
def Obligations.MemoryCanonicalStep : Prop :=
  ∀ s t, s.memOk → Sys2Proof.Machine.step s = .next t → t.memOk
end

