-- ==== Sys2Proof/Laws/Table.lean ====
section
/-! SUPPORT. Laws of sparse tables and of memory: read after write, and the canonical form that every
memory operation keeps. -/

namespace Sys2Proof.Machine

/-! ### Tables -/

/-- Read after write. -/
theorem Tbl.get_set {α : Type} (b : α) (t : Tbl α) (k j : Nat) (v : α) :
    Tbl.get b (Tbl.set t k v) j = if k = j then v else Tbl.get b t j := by
  induction t with
  | nil => simp [Tbl.set, Tbl.get]
  | cons e t ih =>
    obtain ⟨i, w⟩ := e
    simp only [Tbl.set]
    split
    · subst_vars
      simp only [Tbl.get]
      split <;> simp_all
    · split
      · simp only [Tbl.get]
      · simp only [Tbl.get, ih]
        split <;> split <;> simp_all

@[simp] theorem Tbl.get_set_same {α : Type} (b : α) (t : Tbl α) (k : Nat) (v : α) :
    Tbl.get b (Tbl.set t k v) k = v := by simp [Tbl.get_set]

theorem Tbl.get_set_ne {α : Type} (b : α) (t : Tbl α) {k j : Nat} (v : α) (h : k ≠ j) :
    Tbl.get b (Tbl.set t k v) j = Tbl.get b t j := by simp [Tbl.get_set, h]

@[simp] theorem Tbl.get_nil {α : Type} (b : α) (k : Nat) : Tbl.get b ([] : Tbl α) k = b := rfl

/-- A second write at the same number replaces the first. -/
theorem Tbl.set_set {α : Type} (t : Tbl α) (k : Nat) (v w : α) :
    Tbl.set (Tbl.set t k v) k w = Tbl.set t k w := by
  induction t with
  | nil => simp [Tbl.set]
  | cons e t ih =>
    obtain ⟨i, u⟩ := e
    simp only [Tbl.set]
    split
    · simp [Tbl.set]
    · split
      · simp [Tbl.set]
      · rename_i h1 h2
        simp [Tbl.set, h1, h2, ih]

/-- A number taken out of a table reads as the blank value there; the others are unchanged. -/
theorem Tbl.get_del {α : Type} (b : α) (t : Tbl α) (k j : Nat) :
    Tbl.get b (Tbl.del t k) j = if k = j then b else Tbl.get b t j := by
  induction t with
  | nil => simp [Tbl.del, Tbl.get]
  | cons e t ih =>
    obtain ⟨i, u⟩ := e
    simp only [Tbl.del] at ih ⊢
    by_cases h : i = k
    · simp only [List.filter_cons, h, ne_eq, not_true_eq_false, decide_false, Bool.false_eq_true, if_false, ih,
        Tbl.get]
      split <;> rfl
    · simp only [List.filter_cons, ne_eq, h, not_false_eq_true, decide_true, if_true, Tbl.get, ih]
      split <;> split <;> simp_all

/-! ### Memory -/

/-- Every listed address is at or above `n`. -/
def Memory.above (n : Nat) (m : Memory) : Prop := ∀ e ∈ m, n ≤ e.1

theorem Memory.wf_cons (a : Nat) (v : Byte) (m : Memory) :
    Memory.wf ((a, v) :: m) = true ↔ v ≠ Memory.unlisted ∧ Memory.above (a + 1) m ∧ Memory.wf m = true := by
  induction m generalizing a v with
  | nil => simp [Memory.wf, Memory.above]
  | cons e m ih =>
    obtain ⟨b, w⟩ := e
    rw [Memory.wf]
    simp only [Bool.and_eq_true, decide_eq_true_eq, bne_iff_ne, ne_eq]
    constructor
    · rintro ⟨⟨hab, hv⟩, hw⟩
      refine ⟨hv, ?_, hw⟩
      intro e he
      rcases List.mem_cons.mp he with rfl | he
      · exact hab
      · have := ((ih b w).mp hw).2.1 e he
        omega
    · rintro ⟨hv, ha, hw⟩
      exact ⟨⟨ha (b, w) (by simp), hv⟩, hw⟩

theorem Memory.above_mono {n k : Nat} {m : Memory} (h : Memory.above k m) (hk : n ≤ k) : Memory.above n m :=
  fun e he => le_trans hk (h e he)

/-- No listed address below the first one: such a byte is unlisted. -/
theorem Memory.byte_above {n a : Nat} {m : Memory} (h : Memory.above n m) (ha : a < n) :
    Memory.byte m a = Memory.unlisted := by
  induction m with
  | nil => rfl
  | cons e m ih =>
    obtain ⟨b, w⟩ := e
    have hb : n ≤ b := h (b, w) (by simp)
    rw [Memory.byte, if_neg (by omega)]
    exact ih fun e he => h e (List.mem_cons_of_mem _ he)

theorem Memory.byte_drop (m : Memory) (a x : Nat) :
    Memory.byte (Memory.drop m a) x = if x = a then Memory.unlisted else Memory.byte m x := by
  induction m with
  | nil => simp [Memory.drop, Memory.byte]
  | cons e m ih =>
    obtain ⟨b, w⟩ := e
    simp only [Memory.drop]
    by_cases h : b = a
    · rw [if_pos h, ih]
      simp only [Memory.byte]
      by_cases hx : x = a
      · simp [hx]
      · rw [if_neg hx, if_neg hx, if_neg (by omega)]
    · rw [if_neg h]
      simp only [Memory.byte, ih]
      by_cases hx : b = x
      · rw [if_pos hx, if_pos hx, if_neg (by omega)]
      · rw [if_neg hx, if_neg hx]

theorem Memory.byte_put (m : Memory) (a x : Nat) (v : Byte) :
    Memory.byte (Memory.put m a v) x = if x = a then v else Memory.byte m x := by
  induction m with
  | nil => simp only [Memory.put, Memory.byte, eq_comm]
  | cons e m ih =>
    obtain ⟨b, w⟩ := e
    simp only [Memory.put]
    by_cases h : b = a
    · rw [if_pos h]
      simp only [Memory.byte]
      by_cases hx : x = a
      · rw [if_pos hx.symm, if_pos hx]
      · rw [if_neg (by omega), if_neg hx, if_neg (by omega)]
    · rw [if_neg h]
      by_cases hl : a < b
      · rw [if_pos hl]
        simp only [Memory.byte, eq_comm]
      · rw [if_neg hl]
        simp only [Memory.byte, ih]
        by_cases hx : b = x
        · rw [if_pos hx, if_pos hx, if_neg (by omega)]
        · rw [if_neg hx, if_neg hx]

/-- Read after write: the byte written there, every other byte as before. -/
theorem Memory.byte_write (m : Memory) (a x : Nat) (v : Byte) :
    Memory.byte (Memory.write m a v) x = if x = a then v else Memory.byte m x := by
  unfold Memory.write
  split
  · rename_i h; rw [Memory.byte_drop, h]
  · exact Memory.byte_put m a x v

/-- Read after a run of writes. -/
theorem Memory.byte_writes (m : Memory) (a x : Nat) (l : List Byte) :
    Memory.byte (Memory.writes m a l) x = if a ≤ x ∧ x < a + l.length then l.getD (x - a) 0 else Memory.byte m x := by
  induction l generalizing m a with
  | nil => simp [Memory.writes]
  | cons v t ih =>
    rw [Memory.writes, ih, Memory.byte_write]
    by_cases hx : x = a
    · subst hx; simp
    · rw [if_neg hx]
      by_cases hc : a + 1 ≤ x ∧ x < a + 1 + t.length
      · rw [if_pos hc, if_pos (by simp only [List.length_cons]; omega)]
        obtain ⟨k, rfl⟩ : ∃ k, x = a + 1 + k := ⟨x - (a + 1), by omega⟩
        simp [show a + 1 + k - a = k + 1 by omega]
      · rw [if_neg hc, if_neg (by simp only [List.length_cons]; omega)]

/-- Bytes outside a run of writes are as before. -/
theorem Memory.byte_writes_out (m : Memory) (a x : Nat) (l : List Byte) (h : x < a ∨ a + l.length ≤ x) :
    Memory.byte (Memory.writes m a l) x = Memory.byte m x := by
  rw [Memory.byte_writes, if_neg (by omega)]

@[simp] theorem leBytes_length (n v : Nat) : (leBytes n v).length = n := by
  induction n generalizing v with
  | zero => rfl
  | succ n ih => simp [leBytes, ih]

/-- Every byte of a cleared range is zero, every other byte as before. -/
theorem Memory.byte_zeroRange (m : Memory) (a n x : Nat) :
    Memory.byte (Memory.zeroRange m a n) x = if a ≤ x ∧ x < a + n then Memory.unlisted else Memory.byte m x := by
  induction m with
  | nil => simp [Memory.zeroRange, Memory.byte]
  | cons e m ih =>
    obtain ⟨b, w⟩ := e
    unfold Memory.zeroRange at ih ⊢
    rw [List.filter_cons]
    by_cases hb : b < a ∨ a + n ≤ b
    · rw [if_pos (by simpa using hb)]
      simp only [Memory.byte, ih]
      by_cases hx : b = x
      · subst hx; rw [if_pos rfl, if_neg (by omega), if_pos rfl]
      · rw [if_neg hx, if_neg hx]
    · rw [if_neg (by simpa using hb), ih]
      simp only [Memory.byte]
      by_cases hx : b = x
      · subst hx; rw [if_pos (by omega), if_pos (by omega)]
      · rw [if_neg hx]

/-! #### The canonical form -/

theorem Memory.above_drop {n : Nat} {m : Memory} (a : Nat) (h : Memory.above n m) : Memory.above n (Memory.drop m a) := by
  induction m with
  | nil => exact h
  | cons e m ih =>
    obtain ⟨b, w⟩ := e
    have ht : Memory.above n m := fun e he => h e (List.mem_cons_of_mem _ he)
    simp only [Memory.drop]
    split
    · exact ih ht
    · intro e he
      rcases List.mem_cons.mp he with rfl | he
      · exact h _ (by simp)
      · exact ih ht e he

theorem Memory.above_put {n : Nat} {m : Memory} (a : Nat) (v : Byte) (h : Memory.above n m) (hn : n ≤ a) :
    Memory.above n (Memory.put m a v) := by
  induction m with
  | nil => simpa [Memory.put, Memory.above] using hn
  | cons e m ih =>
    obtain ⟨b, w⟩ := e
    have ht : Memory.above n m := fun e he => h e (List.mem_cons_of_mem _ he)
    simp only [Memory.put]
    split
    · intro e he
      rcases List.mem_cons.mp he with rfl | he
      · exact hn
      · exact ht e he
    · split
      · intro e he
        rcases List.mem_cons.mp he with rfl | he
        · exact hn
        · exact h e he
      · intro e he
        rcases List.mem_cons.mp he with rfl | he
        · exact h _ (by simp)
        · exact ih ht e he

theorem Memory.wf_drop {m : Memory} (a : Nat) (h : Memory.wf m = true) : Memory.wf (Memory.drop m a) = true := by
  induction m with
  | nil => exact h
  | cons e m ih =>
    obtain ⟨b, w⟩ := e
    obtain ⟨hv, ha, hw⟩ := (Memory.wf_cons b w m).mp h
    simp only [Memory.drop]
    split
    · exact ih hw
    · exact (Memory.wf_cons b w _).mpr ⟨hv, Memory.above_drop a ha, ih hw⟩

theorem Memory.wf_put {m : Memory} (a : Nat) {v : Byte} (hv : v ≠ Memory.unlisted) (h : Memory.wf m = true) :
    Memory.wf (Memory.put m a v) = true := by
  induction m with
  | nil => simpa [Memory.put, Memory.wf] using hv
  | cons e m ih =>
    obtain ⟨b, w⟩ := e
    obtain ⟨hb, ha, hw⟩ := (Memory.wf_cons b w m).mp h
    simp only [Memory.put]
    split
    · rename_i he; subst he
      exact (Memory.wf_cons _ v m).mpr ⟨hv, ha, hw⟩
    · split
      · rename_i _ hlt
        refine (Memory.wf_cons a v _).mpr ⟨hv, ?_, h⟩
        intro e he
        rcases List.mem_cons.mp he with rfl | he
        · exact hlt
        · have := ha e he; omega
      · exact (Memory.wf_cons b w _).mpr ⟨hb, Memory.above_put a v ha (by omega), ih hw⟩

/-- A write keeps the canonical form. -/
theorem Memory.wf_write {m : Memory} (a : Nat) (v : Byte) (h : Memory.wf m = true) :
    Memory.wf (Memory.write m a v) = true := by
  unfold Memory.write
  split
  · exact Memory.wf_drop a h
  · rename_i hv; exact Memory.wf_put a hv h

/-- A run of writes keeps the canonical form. -/
theorem Memory.wf_writes {m : Memory} (a : Nat) (l : List Byte) (h : Memory.wf m = true) :
    Memory.wf (Memory.writes m a l) = true := by
  induction l generalizing m a with
  | nil => exact h
  | cons v t ih => exact ih (a + 1) (Memory.wf_write a v h)

/-- A write of a value keeps the canonical form. -/
theorem Memory.wf_wr {m : Memory} (a n v : Nat) (h : Memory.wf m = true) : Memory.wf (Memory.wr m a n v) = true :=
  Memory.wf_writes a _ h

theorem Memory.wf_filter {m : Memory} (p : Host.Cell → Bool) (h : Memory.wf m = true) : Memory.wf (m.filter p) = true := by
  induction m with
  | nil => exact h
  | cons e m ih =>
    obtain ⟨b, w⟩ := e
    obtain ⟨hv, ha, hw⟩ := (Memory.wf_cons b w m).mp h
    rw [List.filter_cons]
    split
    · exact (Memory.wf_cons b w _).mpr ⟨hv, fun e he => ha e (List.mem_filter.mp he).1, ih hw⟩
    · exact ih hw

/-- Clearing a range keeps the canonical form. -/
theorem Memory.wf_zeroRange {m : Memory} (a n : Nat) (h : Memory.wf m = true) :
    Memory.wf (Memory.zeroRange m a n) = true := Memory.wf_filter _ h

/-- Copying a range keeps the canonical form. -/
theorem Memory.wf_copyRange {m : Memory} (dst src n : Nat) (h : Memory.wf m = true) :
    Memory.wf (Memory.copyRange m dst src n) = true := by
  unfold Memory.copyRange
  generalize m.filter _ = l
  have h0 := Memory.wf_zeroRange dst n h
  generalize Memory.zeroRange m dst n = m0 at h0
  induction l generalizing m0 with
  | nil => exact h0
  | cons e l ih => exact ih _ (Memory.wf_write _ _ h0)

end Sys2Proof.Machine
end

