-- ==== Sys2Proof/Laws/State.lean ====
section
/-! SUPPORT. One lemma per field per update of the state, and read after write of its tables. -/

namespace Sys2Proof.Machine

/-! `setWarp` changes `warps` only -/

@[simp] theorem setWarp_part (s : State) (k : Nat) (v : Warp) : (setWarp s k v).part = s.part := rfl
@[simp] theorem setWarp_mem (s : State) (k : Nat) (v : Warp) : (setWarp s k v).mem = s.mem := rfl
@[simp] theorem setWarp_poison (s : State) (k : Nat) (v : Warp) : (setWarp s k v).poison = s.poison := rfl
@[simp] theorem setWarp_tierKept (s : State) (k : Nat) (v : Warp) : (setWarp s k v).tierKept = s.tierKept := rfl
@[simp] theorem setWarp_types (s : State) (k : Nat) (v : Warp) : (setWarp s k v).types = s.types := rfl
@[simp] theorem setWarp_locks (s : State) (k : Nat) (v : Warp) : (setWarp s k v).locks = s.locks := rfl
@[simp] theorem setWarp_early (s : State) (k : Nat) (v : Warp) : (setWarp s k v).early = s.early := rfl
@[simp] theorem setWarp_admissions (s : State) (k : Nat) (v : Warp) : (setWarp s k v).admissions = s.admissions := rfl
@[simp] theorem setWarp_nextAdm (s : State) (k : Nat) (v : Warp) : (setWarp s k v).nextAdm = s.nextAdm := rfl
@[simp] theorem setWarp_leaving (s : State) (k : Nat) (v : Warp) : (setWarp s k v).leaving = s.leaving := rfl
@[simp] theorem setWarp_blocks (s : State) (k : Nat) (v : Warp) : (setWarp s k v).blocks = s.blocks := rfl
@[simp] theorem setWarp_nextBlk (s : State) (k : Nat) (v : Warp) : (setWarp s k v).nextBlk = s.nextBlk := rfl
@[simp] theorem setWarp_contexts (s : State) (k : Nat) (v : Warp) : (setWarp s k v).contexts = s.contexts := rfl
@[simp] theorem setWarp_grids (s : State) (k : Nat) (v : Warp) : (setWarp s k v).grids = s.grids := rfl
@[simp] theorem setWarp_cores (s : State) (k : Nat) (v : Warp) : (setWarp s k v).cores = s.cores := rfl
@[simp] theorem setWarp_svcs (s : State) (k : Nat) (v : Warp) : (setWarp s k v).svcs = s.svcs := rfl
@[simp] theorem setWarp_dies (s : State) (k : Nat) (v : Warp) : (setWarp s k v).dies = s.dies := rfl
@[simp] theorem setWarp_groups (s : State) (k : Nat) (v : Warp) : (setWarp s k v).groups = s.groups := rfl
@[simp] theorem setWarp_tenants (s : State) (k : Nat) (v : Warp) : (setWarp s k v).tenants = s.tenants := rfl
@[simp] theorem setWarp_worlds (s : State) (k : Nat) (v : Warp) : (setWarp s k v).worlds = s.worlds := rfl
@[simp] theorem setWarp_keys (s : State) (k : Nat) (v : Warp) : (setWarp s k v).keys = s.keys := rfl
@[simp] theorem setWarp_links (s : State) (k : Nat) (v : Warp) : (setWarp s k v).links = s.links := rfl
@[simp] theorem setWarp_inner (s : State) (k : Nat) (v : Warp) : (setWarp s k v).inner = s.inner := rfl
@[simp] theorem setWarp_caches (s : State) (k : Nat) (v : Warp) : (setWarp s k v).caches = s.caches := rfl
@[simp] theorem setWarp_islands (s : State) (k : Nat) (v : Warp) : (setWarp s k v).islands = s.islands := rfl
@[simp] theorem setWarp_plat (s : State) (k : Nat) (v : Warp) : (setWarp s k v).plat = s.plat := rfl
@[simp] theorem setWarp_fsto (s : State) (k : Nat) (v : Warp) : (setWarp s k v).fsto = s.fsto := rfl
@[simp] theorem setWarp_audfrac (s : State) (k : Nat) (v : Warp) : (setWarp s k v).audfrac = s.audfrac := rfl
@[simp] theorem setWarp_out (s : State) (k : Nat) (v : Warp) : (setWarp s k v).out = s.out := rfl
@[simp] theorem setWarp_outside (s : State) (k : Nat) (v : Warp) : (setWarp s k v).outside = s.outside := rfl
@[simp] theorem setWarp_freeCtr (s : State) (k : Nat) (v : Warp) : (setWarp s k v).freeCtr = s.freeCtr := rfl
@[simp] theorem setWarp_agenda (s : State) (k : Nat) (v : Warp) : (setWarp s k v).agenda = s.agenda := rfl
@[simp] theorem setWarp_cur (s : State) (k : Nat) (v : Warp) : (setWarp s k v).cur = s.cur := rfl
@[simp] theorem setWarp_frag (s : State) (k : Nat) (v : Warp) : (setWarp s k v).frag = s.frag := rfl
@[simp] theorem setWarp_stamp (s : State) (k : Nat) (v : Warp) : (setWarp s k v).stamp = s.stamp := rfl

/-! `setBlock` changes `blocks` only -/

@[simp] theorem setBlock_part (s : State) (k : Nat) (v : Block) : (setBlock s k v).part = s.part := rfl
@[simp] theorem setBlock_mem (s : State) (k : Nat) (v : Block) : (setBlock s k v).mem = s.mem := rfl
@[simp] theorem setBlock_poison (s : State) (k : Nat) (v : Block) : (setBlock s k v).poison = s.poison := rfl
@[simp] theorem setBlock_tierKept (s : State) (k : Nat) (v : Block) : (setBlock s k v).tierKept = s.tierKept := rfl
@[simp] theorem setBlock_types (s : State) (k : Nat) (v : Block) : (setBlock s k v).types = s.types := rfl
@[simp] theorem setBlock_locks (s : State) (k : Nat) (v : Block) : (setBlock s k v).locks = s.locks := rfl
@[simp] theorem setBlock_early (s : State) (k : Nat) (v : Block) : (setBlock s k v).early = s.early := rfl
@[simp] theorem setBlock_admissions (s : State) (k : Nat) (v : Block) : (setBlock s k v).admissions = s.admissions := rfl
@[simp] theorem setBlock_nextAdm (s : State) (k : Nat) (v : Block) : (setBlock s k v).nextAdm = s.nextAdm := rfl
@[simp] theorem setBlock_leaving (s : State) (k : Nat) (v : Block) : (setBlock s k v).leaving = s.leaving := rfl
@[simp] theorem setBlock_warps (s : State) (k : Nat) (v : Block) : (setBlock s k v).warps = s.warps := rfl
@[simp] theorem setBlock_nextBlk (s : State) (k : Nat) (v : Block) : (setBlock s k v).nextBlk = s.nextBlk := rfl
@[simp] theorem setBlock_contexts (s : State) (k : Nat) (v : Block) : (setBlock s k v).contexts = s.contexts := rfl
@[simp] theorem setBlock_grids (s : State) (k : Nat) (v : Block) : (setBlock s k v).grids = s.grids := rfl
@[simp] theorem setBlock_cores (s : State) (k : Nat) (v : Block) : (setBlock s k v).cores = s.cores := rfl
@[simp] theorem setBlock_svcs (s : State) (k : Nat) (v : Block) : (setBlock s k v).svcs = s.svcs := rfl
@[simp] theorem setBlock_dies (s : State) (k : Nat) (v : Block) : (setBlock s k v).dies = s.dies := rfl
@[simp] theorem setBlock_groups (s : State) (k : Nat) (v : Block) : (setBlock s k v).groups = s.groups := rfl
@[simp] theorem setBlock_tenants (s : State) (k : Nat) (v : Block) : (setBlock s k v).tenants = s.tenants := rfl
@[simp] theorem setBlock_worlds (s : State) (k : Nat) (v : Block) : (setBlock s k v).worlds = s.worlds := rfl
@[simp] theorem setBlock_keys (s : State) (k : Nat) (v : Block) : (setBlock s k v).keys = s.keys := rfl
@[simp] theorem setBlock_links (s : State) (k : Nat) (v : Block) : (setBlock s k v).links = s.links := rfl
@[simp] theorem setBlock_inner (s : State) (k : Nat) (v : Block) : (setBlock s k v).inner = s.inner := rfl
@[simp] theorem setBlock_caches (s : State) (k : Nat) (v : Block) : (setBlock s k v).caches = s.caches := rfl
@[simp] theorem setBlock_islands (s : State) (k : Nat) (v : Block) : (setBlock s k v).islands = s.islands := rfl
@[simp] theorem setBlock_plat (s : State) (k : Nat) (v : Block) : (setBlock s k v).plat = s.plat := rfl
@[simp] theorem setBlock_fsto (s : State) (k : Nat) (v : Block) : (setBlock s k v).fsto = s.fsto := rfl
@[simp] theorem setBlock_audfrac (s : State) (k : Nat) (v : Block) : (setBlock s k v).audfrac = s.audfrac := rfl
@[simp] theorem setBlock_out (s : State) (k : Nat) (v : Block) : (setBlock s k v).out = s.out := rfl
@[simp] theorem setBlock_outside (s : State) (k : Nat) (v : Block) : (setBlock s k v).outside = s.outside := rfl
@[simp] theorem setBlock_freeCtr (s : State) (k : Nat) (v : Block) : (setBlock s k v).freeCtr = s.freeCtr := rfl
@[simp] theorem setBlock_agenda (s : State) (k : Nat) (v : Block) : (setBlock s k v).agenda = s.agenda := rfl
@[simp] theorem setBlock_cur (s : State) (k : Nat) (v : Block) : (setBlock s k v).cur = s.cur := rfl
@[simp] theorem setBlock_frag (s : State) (k : Nat) (v : Block) : (setBlock s k v).frag = s.frag := rfl
@[simp] theorem setBlock_stamp (s : State) (k : Nat) (v : Block) : (setBlock s k v).stamp = s.stamp := rfl

/-! `setGrid` changes `grids` only -/

@[simp] theorem setGrid_part (s : State) (k : Nat) (v : Grid) : (setGrid s k v).part = s.part := rfl
@[simp] theorem setGrid_mem (s : State) (k : Nat) (v : Grid) : (setGrid s k v).mem = s.mem := rfl
@[simp] theorem setGrid_poison (s : State) (k : Nat) (v : Grid) : (setGrid s k v).poison = s.poison := rfl
@[simp] theorem setGrid_tierKept (s : State) (k : Nat) (v : Grid) : (setGrid s k v).tierKept = s.tierKept := rfl
@[simp] theorem setGrid_types (s : State) (k : Nat) (v : Grid) : (setGrid s k v).types = s.types := rfl
@[simp] theorem setGrid_locks (s : State) (k : Nat) (v : Grid) : (setGrid s k v).locks = s.locks := rfl
@[simp] theorem setGrid_early (s : State) (k : Nat) (v : Grid) : (setGrid s k v).early = s.early := rfl
@[simp] theorem setGrid_admissions (s : State) (k : Nat) (v : Grid) : (setGrid s k v).admissions = s.admissions := rfl
@[simp] theorem setGrid_nextAdm (s : State) (k : Nat) (v : Grid) : (setGrid s k v).nextAdm = s.nextAdm := rfl
@[simp] theorem setGrid_leaving (s : State) (k : Nat) (v : Grid) : (setGrid s k v).leaving = s.leaving := rfl
@[simp] theorem setGrid_warps (s : State) (k : Nat) (v : Grid) : (setGrid s k v).warps = s.warps := rfl
@[simp] theorem setGrid_blocks (s : State) (k : Nat) (v : Grid) : (setGrid s k v).blocks = s.blocks := rfl
@[simp] theorem setGrid_nextBlk (s : State) (k : Nat) (v : Grid) : (setGrid s k v).nextBlk = s.nextBlk := rfl
@[simp] theorem setGrid_contexts (s : State) (k : Nat) (v : Grid) : (setGrid s k v).contexts = s.contexts := rfl
@[simp] theorem setGrid_cores (s : State) (k : Nat) (v : Grid) : (setGrid s k v).cores = s.cores := rfl
@[simp] theorem setGrid_svcs (s : State) (k : Nat) (v : Grid) : (setGrid s k v).svcs = s.svcs := rfl
@[simp] theorem setGrid_dies (s : State) (k : Nat) (v : Grid) : (setGrid s k v).dies = s.dies := rfl
@[simp] theorem setGrid_groups (s : State) (k : Nat) (v : Grid) : (setGrid s k v).groups = s.groups := rfl
@[simp] theorem setGrid_tenants (s : State) (k : Nat) (v : Grid) : (setGrid s k v).tenants = s.tenants := rfl
@[simp] theorem setGrid_worlds (s : State) (k : Nat) (v : Grid) : (setGrid s k v).worlds = s.worlds := rfl
@[simp] theorem setGrid_keys (s : State) (k : Nat) (v : Grid) : (setGrid s k v).keys = s.keys := rfl
@[simp] theorem setGrid_links (s : State) (k : Nat) (v : Grid) : (setGrid s k v).links = s.links := rfl
@[simp] theorem setGrid_inner (s : State) (k : Nat) (v : Grid) : (setGrid s k v).inner = s.inner := rfl
@[simp] theorem setGrid_caches (s : State) (k : Nat) (v : Grid) : (setGrid s k v).caches = s.caches := rfl
@[simp] theorem setGrid_islands (s : State) (k : Nat) (v : Grid) : (setGrid s k v).islands = s.islands := rfl
@[simp] theorem setGrid_plat (s : State) (k : Nat) (v : Grid) : (setGrid s k v).plat = s.plat := rfl
@[simp] theorem setGrid_fsto (s : State) (k : Nat) (v : Grid) : (setGrid s k v).fsto = s.fsto := rfl
@[simp] theorem setGrid_audfrac (s : State) (k : Nat) (v : Grid) : (setGrid s k v).audfrac = s.audfrac := rfl
@[simp] theorem setGrid_out (s : State) (k : Nat) (v : Grid) : (setGrid s k v).out = s.out := rfl
@[simp] theorem setGrid_outside (s : State) (k : Nat) (v : Grid) : (setGrid s k v).outside = s.outside := rfl
@[simp] theorem setGrid_freeCtr (s : State) (k : Nat) (v : Grid) : (setGrid s k v).freeCtr = s.freeCtr := rfl
@[simp] theorem setGrid_agenda (s : State) (k : Nat) (v : Grid) : (setGrid s k v).agenda = s.agenda := rfl
@[simp] theorem setGrid_cur (s : State) (k : Nat) (v : Grid) : (setGrid s k v).cur = s.cur := rfl
@[simp] theorem setGrid_frag (s : State) (k : Nat) (v : Grid) : (setGrid s k v).frag = s.frag := rfl
@[simp] theorem setGrid_stamp (s : State) (k : Nat) (v : Grid) : (setGrid s k v).stamp = s.stamp := rfl

/-! `setCore` changes `cores` only -/

@[simp] theorem setCore_part (s : State) (k : Nat) (v : CoreSt) : (setCore s k v).part = s.part := rfl
@[simp] theorem setCore_mem (s : State) (k : Nat) (v : CoreSt) : (setCore s k v).mem = s.mem := rfl
@[simp] theorem setCore_poison (s : State) (k : Nat) (v : CoreSt) : (setCore s k v).poison = s.poison := rfl
@[simp] theorem setCore_tierKept (s : State) (k : Nat) (v : CoreSt) : (setCore s k v).tierKept = s.tierKept := rfl
@[simp] theorem setCore_types (s : State) (k : Nat) (v : CoreSt) : (setCore s k v).types = s.types := rfl
@[simp] theorem setCore_locks (s : State) (k : Nat) (v : CoreSt) : (setCore s k v).locks = s.locks := rfl
@[simp] theorem setCore_early (s : State) (k : Nat) (v : CoreSt) : (setCore s k v).early = s.early := rfl
@[simp] theorem setCore_admissions (s : State) (k : Nat) (v : CoreSt) : (setCore s k v).admissions = s.admissions := rfl
@[simp] theorem setCore_nextAdm (s : State) (k : Nat) (v : CoreSt) : (setCore s k v).nextAdm = s.nextAdm := rfl
@[simp] theorem setCore_leaving (s : State) (k : Nat) (v : CoreSt) : (setCore s k v).leaving = s.leaving := rfl
@[simp] theorem setCore_warps (s : State) (k : Nat) (v : CoreSt) : (setCore s k v).warps = s.warps := rfl
@[simp] theorem setCore_blocks (s : State) (k : Nat) (v : CoreSt) : (setCore s k v).blocks = s.blocks := rfl
@[simp] theorem setCore_nextBlk (s : State) (k : Nat) (v : CoreSt) : (setCore s k v).nextBlk = s.nextBlk := rfl
@[simp] theorem setCore_contexts (s : State) (k : Nat) (v : CoreSt) : (setCore s k v).contexts = s.contexts := rfl
@[simp] theorem setCore_grids (s : State) (k : Nat) (v : CoreSt) : (setCore s k v).grids = s.grids := rfl
@[simp] theorem setCore_svcs (s : State) (k : Nat) (v : CoreSt) : (setCore s k v).svcs = s.svcs := rfl
@[simp] theorem setCore_dies (s : State) (k : Nat) (v : CoreSt) : (setCore s k v).dies = s.dies := rfl
@[simp] theorem setCore_groups (s : State) (k : Nat) (v : CoreSt) : (setCore s k v).groups = s.groups := rfl
@[simp] theorem setCore_tenants (s : State) (k : Nat) (v : CoreSt) : (setCore s k v).tenants = s.tenants := rfl
@[simp] theorem setCore_worlds (s : State) (k : Nat) (v : CoreSt) : (setCore s k v).worlds = s.worlds := rfl
@[simp] theorem setCore_keys (s : State) (k : Nat) (v : CoreSt) : (setCore s k v).keys = s.keys := rfl
@[simp] theorem setCore_links (s : State) (k : Nat) (v : CoreSt) : (setCore s k v).links = s.links := rfl
@[simp] theorem setCore_inner (s : State) (k : Nat) (v : CoreSt) : (setCore s k v).inner = s.inner := rfl
@[simp] theorem setCore_caches (s : State) (k : Nat) (v : CoreSt) : (setCore s k v).caches = s.caches := rfl
@[simp] theorem setCore_islands (s : State) (k : Nat) (v : CoreSt) : (setCore s k v).islands = s.islands := rfl
@[simp] theorem setCore_plat (s : State) (k : Nat) (v : CoreSt) : (setCore s k v).plat = s.plat := rfl
@[simp] theorem setCore_fsto (s : State) (k : Nat) (v : CoreSt) : (setCore s k v).fsto = s.fsto := rfl
@[simp] theorem setCore_audfrac (s : State) (k : Nat) (v : CoreSt) : (setCore s k v).audfrac = s.audfrac := rfl
@[simp] theorem setCore_out (s : State) (k : Nat) (v : CoreSt) : (setCore s k v).out = s.out := rfl
@[simp] theorem setCore_outside (s : State) (k : Nat) (v : CoreSt) : (setCore s k v).outside = s.outside := rfl
@[simp] theorem setCore_freeCtr (s : State) (k : Nat) (v : CoreSt) : (setCore s k v).freeCtr = s.freeCtr := rfl
@[simp] theorem setCore_agenda (s : State) (k : Nat) (v : CoreSt) : (setCore s k v).agenda = s.agenda := rfl
@[simp] theorem setCore_cur (s : State) (k : Nat) (v : CoreSt) : (setCore s k v).cur = s.cur := rfl
@[simp] theorem setCore_frag (s : State) (k : Nat) (v : CoreSt) : (setCore s k v).frag = s.frag := rfl
@[simp] theorem setCore_stamp (s : State) (k : Nat) (v : CoreSt) : (setCore s k v).stamp = s.stamp := rfl

/-! `setSvc` changes `svcs` only -/

@[simp] theorem setSvc_part (s : State) (k : Nat) (v : SvcCore) : (setSvc s k v).part = s.part := rfl
@[simp] theorem setSvc_mem (s : State) (k : Nat) (v : SvcCore) : (setSvc s k v).mem = s.mem := rfl
@[simp] theorem setSvc_poison (s : State) (k : Nat) (v : SvcCore) : (setSvc s k v).poison = s.poison := rfl
@[simp] theorem setSvc_tierKept (s : State) (k : Nat) (v : SvcCore) : (setSvc s k v).tierKept = s.tierKept := rfl
@[simp] theorem setSvc_types (s : State) (k : Nat) (v : SvcCore) : (setSvc s k v).types = s.types := rfl
@[simp] theorem setSvc_locks (s : State) (k : Nat) (v : SvcCore) : (setSvc s k v).locks = s.locks := rfl
@[simp] theorem setSvc_early (s : State) (k : Nat) (v : SvcCore) : (setSvc s k v).early = s.early := rfl
@[simp] theorem setSvc_admissions (s : State) (k : Nat) (v : SvcCore) : (setSvc s k v).admissions = s.admissions := rfl
@[simp] theorem setSvc_nextAdm (s : State) (k : Nat) (v : SvcCore) : (setSvc s k v).nextAdm = s.nextAdm := rfl
@[simp] theorem setSvc_leaving (s : State) (k : Nat) (v : SvcCore) : (setSvc s k v).leaving = s.leaving := rfl
@[simp] theorem setSvc_warps (s : State) (k : Nat) (v : SvcCore) : (setSvc s k v).warps = s.warps := rfl
@[simp] theorem setSvc_blocks (s : State) (k : Nat) (v : SvcCore) : (setSvc s k v).blocks = s.blocks := rfl
@[simp] theorem setSvc_nextBlk (s : State) (k : Nat) (v : SvcCore) : (setSvc s k v).nextBlk = s.nextBlk := rfl
@[simp] theorem setSvc_contexts (s : State) (k : Nat) (v : SvcCore) : (setSvc s k v).contexts = s.contexts := rfl
@[simp] theorem setSvc_grids (s : State) (k : Nat) (v : SvcCore) : (setSvc s k v).grids = s.grids := rfl
@[simp] theorem setSvc_cores (s : State) (k : Nat) (v : SvcCore) : (setSvc s k v).cores = s.cores := rfl
@[simp] theorem setSvc_dies (s : State) (k : Nat) (v : SvcCore) : (setSvc s k v).dies = s.dies := rfl
@[simp] theorem setSvc_groups (s : State) (k : Nat) (v : SvcCore) : (setSvc s k v).groups = s.groups := rfl
@[simp] theorem setSvc_tenants (s : State) (k : Nat) (v : SvcCore) : (setSvc s k v).tenants = s.tenants := rfl
@[simp] theorem setSvc_worlds (s : State) (k : Nat) (v : SvcCore) : (setSvc s k v).worlds = s.worlds := rfl
@[simp] theorem setSvc_keys (s : State) (k : Nat) (v : SvcCore) : (setSvc s k v).keys = s.keys := rfl
@[simp] theorem setSvc_links (s : State) (k : Nat) (v : SvcCore) : (setSvc s k v).links = s.links := rfl
@[simp] theorem setSvc_inner (s : State) (k : Nat) (v : SvcCore) : (setSvc s k v).inner = s.inner := rfl
@[simp] theorem setSvc_caches (s : State) (k : Nat) (v : SvcCore) : (setSvc s k v).caches = s.caches := rfl
@[simp] theorem setSvc_islands (s : State) (k : Nat) (v : SvcCore) : (setSvc s k v).islands = s.islands := rfl
@[simp] theorem setSvc_plat (s : State) (k : Nat) (v : SvcCore) : (setSvc s k v).plat = s.plat := rfl
@[simp] theorem setSvc_fsto (s : State) (k : Nat) (v : SvcCore) : (setSvc s k v).fsto = s.fsto := rfl
@[simp] theorem setSvc_audfrac (s : State) (k : Nat) (v : SvcCore) : (setSvc s k v).audfrac = s.audfrac := rfl
@[simp] theorem setSvc_out (s : State) (k : Nat) (v : SvcCore) : (setSvc s k v).out = s.out := rfl
@[simp] theorem setSvc_outside (s : State) (k : Nat) (v : SvcCore) : (setSvc s k v).outside = s.outside := rfl
@[simp] theorem setSvc_freeCtr (s : State) (k : Nat) (v : SvcCore) : (setSvc s k v).freeCtr = s.freeCtr := rfl
@[simp] theorem setSvc_agenda (s : State) (k : Nat) (v : SvcCore) : (setSvc s k v).agenda = s.agenda := rfl
@[simp] theorem setSvc_cur (s : State) (k : Nat) (v : SvcCore) : (setSvc s k v).cur = s.cur := rfl
@[simp] theorem setSvc_frag (s : State) (k : Nat) (v : SvcCore) : (setSvc s k v).frag = s.frag := rfl
@[simp] theorem setSvc_stamp (s : State) (k : Nat) (v : SvcCore) : (setSvc s k v).stamp = s.stamp := rfl

/-! `setDie` changes `dies` only -/

@[simp] theorem setDie_part (s : State) (k : Nat) (v : Die) : (setDie s k v).part = s.part := rfl
@[simp] theorem setDie_mem (s : State) (k : Nat) (v : Die) : (setDie s k v).mem = s.mem := rfl
@[simp] theorem setDie_poison (s : State) (k : Nat) (v : Die) : (setDie s k v).poison = s.poison := rfl
@[simp] theorem setDie_tierKept (s : State) (k : Nat) (v : Die) : (setDie s k v).tierKept = s.tierKept := rfl
@[simp] theorem setDie_types (s : State) (k : Nat) (v : Die) : (setDie s k v).types = s.types := rfl
@[simp] theorem setDie_locks (s : State) (k : Nat) (v : Die) : (setDie s k v).locks = s.locks := rfl
@[simp] theorem setDie_early (s : State) (k : Nat) (v : Die) : (setDie s k v).early = s.early := rfl
@[simp] theorem setDie_admissions (s : State) (k : Nat) (v : Die) : (setDie s k v).admissions = s.admissions := rfl
@[simp] theorem setDie_nextAdm (s : State) (k : Nat) (v : Die) : (setDie s k v).nextAdm = s.nextAdm := rfl
@[simp] theorem setDie_leaving (s : State) (k : Nat) (v : Die) : (setDie s k v).leaving = s.leaving := rfl
@[simp] theorem setDie_warps (s : State) (k : Nat) (v : Die) : (setDie s k v).warps = s.warps := rfl
@[simp] theorem setDie_blocks (s : State) (k : Nat) (v : Die) : (setDie s k v).blocks = s.blocks := rfl
@[simp] theorem setDie_nextBlk (s : State) (k : Nat) (v : Die) : (setDie s k v).nextBlk = s.nextBlk := rfl
@[simp] theorem setDie_contexts (s : State) (k : Nat) (v : Die) : (setDie s k v).contexts = s.contexts := rfl
@[simp] theorem setDie_grids (s : State) (k : Nat) (v : Die) : (setDie s k v).grids = s.grids := rfl
@[simp] theorem setDie_cores (s : State) (k : Nat) (v : Die) : (setDie s k v).cores = s.cores := rfl
@[simp] theorem setDie_svcs (s : State) (k : Nat) (v : Die) : (setDie s k v).svcs = s.svcs := rfl
@[simp] theorem setDie_groups (s : State) (k : Nat) (v : Die) : (setDie s k v).groups = s.groups := rfl
@[simp] theorem setDie_tenants (s : State) (k : Nat) (v : Die) : (setDie s k v).tenants = s.tenants := rfl
@[simp] theorem setDie_worlds (s : State) (k : Nat) (v : Die) : (setDie s k v).worlds = s.worlds := rfl
@[simp] theorem setDie_keys (s : State) (k : Nat) (v : Die) : (setDie s k v).keys = s.keys := rfl
@[simp] theorem setDie_links (s : State) (k : Nat) (v : Die) : (setDie s k v).links = s.links := rfl
@[simp] theorem setDie_inner (s : State) (k : Nat) (v : Die) : (setDie s k v).inner = s.inner := rfl
@[simp] theorem setDie_caches (s : State) (k : Nat) (v : Die) : (setDie s k v).caches = s.caches := rfl
@[simp] theorem setDie_islands (s : State) (k : Nat) (v : Die) : (setDie s k v).islands = s.islands := rfl
@[simp] theorem setDie_plat (s : State) (k : Nat) (v : Die) : (setDie s k v).plat = s.plat := rfl
@[simp] theorem setDie_fsto (s : State) (k : Nat) (v : Die) : (setDie s k v).fsto = s.fsto := rfl
@[simp] theorem setDie_audfrac (s : State) (k : Nat) (v : Die) : (setDie s k v).audfrac = s.audfrac := rfl
@[simp] theorem setDie_out (s : State) (k : Nat) (v : Die) : (setDie s k v).out = s.out := rfl
@[simp] theorem setDie_outside (s : State) (k : Nat) (v : Die) : (setDie s k v).outside = s.outside := rfl
@[simp] theorem setDie_freeCtr (s : State) (k : Nat) (v : Die) : (setDie s k v).freeCtr = s.freeCtr := rfl
@[simp] theorem setDie_agenda (s : State) (k : Nat) (v : Die) : (setDie s k v).agenda = s.agenda := rfl
@[simp] theorem setDie_cur (s : State) (k : Nat) (v : Die) : (setDie s k v).cur = s.cur := rfl
@[simp] theorem setDie_frag (s : State) (k : Nat) (v : Die) : (setDie s k v).frag = s.frag := rfl
@[simp] theorem setDie_stamp (s : State) (k : Nat) (v : Die) : (setDie s k v).stamp = s.stamp := rfl

/-! `setGroup` changes `groups` only -/

@[simp] theorem setGroup_part (s : State) (k : Nat) (v : Group) : (setGroup s k v).part = s.part := rfl
@[simp] theorem setGroup_mem (s : State) (k : Nat) (v : Group) : (setGroup s k v).mem = s.mem := rfl
@[simp] theorem setGroup_poison (s : State) (k : Nat) (v : Group) : (setGroup s k v).poison = s.poison := rfl
@[simp] theorem setGroup_tierKept (s : State) (k : Nat) (v : Group) : (setGroup s k v).tierKept = s.tierKept := rfl
@[simp] theorem setGroup_types (s : State) (k : Nat) (v : Group) : (setGroup s k v).types = s.types := rfl
@[simp] theorem setGroup_locks (s : State) (k : Nat) (v : Group) : (setGroup s k v).locks = s.locks := rfl
@[simp] theorem setGroup_early (s : State) (k : Nat) (v : Group) : (setGroup s k v).early = s.early := rfl
@[simp] theorem setGroup_admissions (s : State) (k : Nat) (v : Group) : (setGroup s k v).admissions = s.admissions := rfl
@[simp] theorem setGroup_nextAdm (s : State) (k : Nat) (v : Group) : (setGroup s k v).nextAdm = s.nextAdm := rfl
@[simp] theorem setGroup_leaving (s : State) (k : Nat) (v : Group) : (setGroup s k v).leaving = s.leaving := rfl
@[simp] theorem setGroup_warps (s : State) (k : Nat) (v : Group) : (setGroup s k v).warps = s.warps := rfl
@[simp] theorem setGroup_blocks (s : State) (k : Nat) (v : Group) : (setGroup s k v).blocks = s.blocks := rfl
@[simp] theorem setGroup_nextBlk (s : State) (k : Nat) (v : Group) : (setGroup s k v).nextBlk = s.nextBlk := rfl
@[simp] theorem setGroup_contexts (s : State) (k : Nat) (v : Group) : (setGroup s k v).contexts = s.contexts := rfl
@[simp] theorem setGroup_grids (s : State) (k : Nat) (v : Group) : (setGroup s k v).grids = s.grids := rfl
@[simp] theorem setGroup_cores (s : State) (k : Nat) (v : Group) : (setGroup s k v).cores = s.cores := rfl
@[simp] theorem setGroup_svcs (s : State) (k : Nat) (v : Group) : (setGroup s k v).svcs = s.svcs := rfl
@[simp] theorem setGroup_dies (s : State) (k : Nat) (v : Group) : (setGroup s k v).dies = s.dies := rfl
@[simp] theorem setGroup_tenants (s : State) (k : Nat) (v : Group) : (setGroup s k v).tenants = s.tenants := rfl
@[simp] theorem setGroup_worlds (s : State) (k : Nat) (v : Group) : (setGroup s k v).worlds = s.worlds := rfl
@[simp] theorem setGroup_keys (s : State) (k : Nat) (v : Group) : (setGroup s k v).keys = s.keys := rfl
@[simp] theorem setGroup_links (s : State) (k : Nat) (v : Group) : (setGroup s k v).links = s.links := rfl
@[simp] theorem setGroup_inner (s : State) (k : Nat) (v : Group) : (setGroup s k v).inner = s.inner := rfl
@[simp] theorem setGroup_caches (s : State) (k : Nat) (v : Group) : (setGroup s k v).caches = s.caches := rfl
@[simp] theorem setGroup_islands (s : State) (k : Nat) (v : Group) : (setGroup s k v).islands = s.islands := rfl
@[simp] theorem setGroup_plat (s : State) (k : Nat) (v : Group) : (setGroup s k v).plat = s.plat := rfl
@[simp] theorem setGroup_fsto (s : State) (k : Nat) (v : Group) : (setGroup s k v).fsto = s.fsto := rfl
@[simp] theorem setGroup_audfrac (s : State) (k : Nat) (v : Group) : (setGroup s k v).audfrac = s.audfrac := rfl
@[simp] theorem setGroup_out (s : State) (k : Nat) (v : Group) : (setGroup s k v).out = s.out := rfl
@[simp] theorem setGroup_outside (s : State) (k : Nat) (v : Group) : (setGroup s k v).outside = s.outside := rfl
@[simp] theorem setGroup_freeCtr (s : State) (k : Nat) (v : Group) : (setGroup s k v).freeCtr = s.freeCtr := rfl
@[simp] theorem setGroup_agenda (s : State) (k : Nat) (v : Group) : (setGroup s k v).agenda = s.agenda := rfl
@[simp] theorem setGroup_cur (s : State) (k : Nat) (v : Group) : (setGroup s k v).cur = s.cur := rfl
@[simp] theorem setGroup_frag (s : State) (k : Nat) (v : Group) : (setGroup s k v).frag = s.frag := rfl
@[simp] theorem setGroup_stamp (s : State) (k : Nat) (v : Group) : (setGroup s k v).stamp = s.stamp := rfl

/-! `setTenant` changes `tenants` only -/

@[simp] theorem setTenant_part (s : State) (k : Nat) (v : Tenant) : (setTenant s k v).part = s.part := rfl
@[simp] theorem setTenant_mem (s : State) (k : Nat) (v : Tenant) : (setTenant s k v).mem = s.mem := rfl
@[simp] theorem setTenant_poison (s : State) (k : Nat) (v : Tenant) : (setTenant s k v).poison = s.poison := rfl
@[simp] theorem setTenant_tierKept (s : State) (k : Nat) (v : Tenant) : (setTenant s k v).tierKept = s.tierKept := rfl
@[simp] theorem setTenant_types (s : State) (k : Nat) (v : Tenant) : (setTenant s k v).types = s.types := rfl
@[simp] theorem setTenant_locks (s : State) (k : Nat) (v : Tenant) : (setTenant s k v).locks = s.locks := rfl
@[simp] theorem setTenant_early (s : State) (k : Nat) (v : Tenant) : (setTenant s k v).early = s.early := rfl
@[simp] theorem setTenant_admissions (s : State) (k : Nat) (v : Tenant) : (setTenant s k v).admissions = s.admissions := rfl
@[simp] theorem setTenant_nextAdm (s : State) (k : Nat) (v : Tenant) : (setTenant s k v).nextAdm = s.nextAdm := rfl
@[simp] theorem setTenant_leaving (s : State) (k : Nat) (v : Tenant) : (setTenant s k v).leaving = s.leaving := rfl
@[simp] theorem setTenant_warps (s : State) (k : Nat) (v : Tenant) : (setTenant s k v).warps = s.warps := rfl
@[simp] theorem setTenant_blocks (s : State) (k : Nat) (v : Tenant) : (setTenant s k v).blocks = s.blocks := rfl
@[simp] theorem setTenant_nextBlk (s : State) (k : Nat) (v : Tenant) : (setTenant s k v).nextBlk = s.nextBlk := rfl
@[simp] theorem setTenant_contexts (s : State) (k : Nat) (v : Tenant) : (setTenant s k v).contexts = s.contexts := rfl
@[simp] theorem setTenant_grids (s : State) (k : Nat) (v : Tenant) : (setTenant s k v).grids = s.grids := rfl
@[simp] theorem setTenant_cores (s : State) (k : Nat) (v : Tenant) : (setTenant s k v).cores = s.cores := rfl
@[simp] theorem setTenant_svcs (s : State) (k : Nat) (v : Tenant) : (setTenant s k v).svcs = s.svcs := rfl
@[simp] theorem setTenant_dies (s : State) (k : Nat) (v : Tenant) : (setTenant s k v).dies = s.dies := rfl
@[simp] theorem setTenant_groups (s : State) (k : Nat) (v : Tenant) : (setTenant s k v).groups = s.groups := rfl
@[simp] theorem setTenant_worlds (s : State) (k : Nat) (v : Tenant) : (setTenant s k v).worlds = s.worlds := rfl
@[simp] theorem setTenant_keys (s : State) (k : Nat) (v : Tenant) : (setTenant s k v).keys = s.keys := rfl
@[simp] theorem setTenant_links (s : State) (k : Nat) (v : Tenant) : (setTenant s k v).links = s.links := rfl
@[simp] theorem setTenant_inner (s : State) (k : Nat) (v : Tenant) : (setTenant s k v).inner = s.inner := rfl
@[simp] theorem setTenant_caches (s : State) (k : Nat) (v : Tenant) : (setTenant s k v).caches = s.caches := rfl
@[simp] theorem setTenant_islands (s : State) (k : Nat) (v : Tenant) : (setTenant s k v).islands = s.islands := rfl
@[simp] theorem setTenant_plat (s : State) (k : Nat) (v : Tenant) : (setTenant s k v).plat = s.plat := rfl
@[simp] theorem setTenant_fsto (s : State) (k : Nat) (v : Tenant) : (setTenant s k v).fsto = s.fsto := rfl
@[simp] theorem setTenant_audfrac (s : State) (k : Nat) (v : Tenant) : (setTenant s k v).audfrac = s.audfrac := rfl
@[simp] theorem setTenant_out (s : State) (k : Nat) (v : Tenant) : (setTenant s k v).out = s.out := rfl
@[simp] theorem setTenant_outside (s : State) (k : Nat) (v : Tenant) : (setTenant s k v).outside = s.outside := rfl
@[simp] theorem setTenant_freeCtr (s : State) (k : Nat) (v : Tenant) : (setTenant s k v).freeCtr = s.freeCtr := rfl
@[simp] theorem setTenant_agenda (s : State) (k : Nat) (v : Tenant) : (setTenant s k v).agenda = s.agenda := rfl
@[simp] theorem setTenant_cur (s : State) (k : Nat) (v : Tenant) : (setTenant s k v).cur = s.cur := rfl
@[simp] theorem setTenant_frag (s : State) (k : Nat) (v : Tenant) : (setTenant s k v).frag = s.frag := rfl
@[simp] theorem setTenant_stamp (s : State) (k : Nat) (v : Tenant) : (setTenant s k v).stamp = s.stamp := rfl

/-! `setLink` changes `links` only -/

@[simp] theorem setLink_part (s : State) (k : Nat) (v : Link) : (setLink s k v).part = s.part := rfl
@[simp] theorem setLink_mem (s : State) (k : Nat) (v : Link) : (setLink s k v).mem = s.mem := rfl
@[simp] theorem setLink_poison (s : State) (k : Nat) (v : Link) : (setLink s k v).poison = s.poison := rfl
@[simp] theorem setLink_tierKept (s : State) (k : Nat) (v : Link) : (setLink s k v).tierKept = s.tierKept := rfl
@[simp] theorem setLink_types (s : State) (k : Nat) (v : Link) : (setLink s k v).types = s.types := rfl
@[simp] theorem setLink_locks (s : State) (k : Nat) (v : Link) : (setLink s k v).locks = s.locks := rfl
@[simp] theorem setLink_early (s : State) (k : Nat) (v : Link) : (setLink s k v).early = s.early := rfl
@[simp] theorem setLink_admissions (s : State) (k : Nat) (v : Link) : (setLink s k v).admissions = s.admissions := rfl
@[simp] theorem setLink_nextAdm (s : State) (k : Nat) (v : Link) : (setLink s k v).nextAdm = s.nextAdm := rfl
@[simp] theorem setLink_leaving (s : State) (k : Nat) (v : Link) : (setLink s k v).leaving = s.leaving := rfl
@[simp] theorem setLink_warps (s : State) (k : Nat) (v : Link) : (setLink s k v).warps = s.warps := rfl
@[simp] theorem setLink_blocks (s : State) (k : Nat) (v : Link) : (setLink s k v).blocks = s.blocks := rfl
@[simp] theorem setLink_nextBlk (s : State) (k : Nat) (v : Link) : (setLink s k v).nextBlk = s.nextBlk := rfl
@[simp] theorem setLink_contexts (s : State) (k : Nat) (v : Link) : (setLink s k v).contexts = s.contexts := rfl
@[simp] theorem setLink_grids (s : State) (k : Nat) (v : Link) : (setLink s k v).grids = s.grids := rfl
@[simp] theorem setLink_cores (s : State) (k : Nat) (v : Link) : (setLink s k v).cores = s.cores := rfl
@[simp] theorem setLink_svcs (s : State) (k : Nat) (v : Link) : (setLink s k v).svcs = s.svcs := rfl
@[simp] theorem setLink_dies (s : State) (k : Nat) (v : Link) : (setLink s k v).dies = s.dies := rfl
@[simp] theorem setLink_groups (s : State) (k : Nat) (v : Link) : (setLink s k v).groups = s.groups := rfl
@[simp] theorem setLink_tenants (s : State) (k : Nat) (v : Link) : (setLink s k v).tenants = s.tenants := rfl
@[simp] theorem setLink_worlds (s : State) (k : Nat) (v : Link) : (setLink s k v).worlds = s.worlds := rfl
@[simp] theorem setLink_keys (s : State) (k : Nat) (v : Link) : (setLink s k v).keys = s.keys := rfl
@[simp] theorem setLink_inner (s : State) (k : Nat) (v : Link) : (setLink s k v).inner = s.inner := rfl
@[simp] theorem setLink_caches (s : State) (k : Nat) (v : Link) : (setLink s k v).caches = s.caches := rfl
@[simp] theorem setLink_islands (s : State) (k : Nat) (v : Link) : (setLink s k v).islands = s.islands := rfl
@[simp] theorem setLink_plat (s : State) (k : Nat) (v : Link) : (setLink s k v).plat = s.plat := rfl
@[simp] theorem setLink_fsto (s : State) (k : Nat) (v : Link) : (setLink s k v).fsto = s.fsto := rfl
@[simp] theorem setLink_audfrac (s : State) (k : Nat) (v : Link) : (setLink s k v).audfrac = s.audfrac := rfl
@[simp] theorem setLink_out (s : State) (k : Nat) (v : Link) : (setLink s k v).out = s.out := rfl
@[simp] theorem setLink_outside (s : State) (k : Nat) (v : Link) : (setLink s k v).outside = s.outside := rfl
@[simp] theorem setLink_freeCtr (s : State) (k : Nat) (v : Link) : (setLink s k v).freeCtr = s.freeCtr := rfl
@[simp] theorem setLink_agenda (s : State) (k : Nat) (v : Link) : (setLink s k v).agenda = s.agenda := rfl
@[simp] theorem setLink_cur (s : State) (k : Nat) (v : Link) : (setLink s k v).cur = s.cur := rfl
@[simp] theorem setLink_frag (s : State) (k : Nat) (v : Link) : (setLink s k v).frag = s.frag := rfl
@[simp] theorem setLink_stamp (s : State) (k : Nat) (v : Link) : (setLink s k v).stamp = s.stamp := rfl

/-! `setType` changes `types` only -/

@[simp] theorem setType_part (s : State) (k : Nat) (v : BitVec 128) : (setType s k v).part = s.part := rfl
@[simp] theorem setType_mem (s : State) (k : Nat) (v : BitVec 128) : (setType s k v).mem = s.mem := rfl
@[simp] theorem setType_poison (s : State) (k : Nat) (v : BitVec 128) : (setType s k v).poison = s.poison := rfl
@[simp] theorem setType_tierKept (s : State) (k : Nat) (v : BitVec 128) : (setType s k v).tierKept = s.tierKept := rfl
@[simp] theorem setType_locks (s : State) (k : Nat) (v : BitVec 128) : (setType s k v).locks = s.locks := rfl
@[simp] theorem setType_early (s : State) (k : Nat) (v : BitVec 128) : (setType s k v).early = s.early := rfl
@[simp] theorem setType_admissions (s : State) (k : Nat) (v : BitVec 128) : (setType s k v).admissions = s.admissions := rfl
@[simp] theorem setType_nextAdm (s : State) (k : Nat) (v : BitVec 128) : (setType s k v).nextAdm = s.nextAdm := rfl
@[simp] theorem setType_leaving (s : State) (k : Nat) (v : BitVec 128) : (setType s k v).leaving = s.leaving := rfl
@[simp] theorem setType_warps (s : State) (k : Nat) (v : BitVec 128) : (setType s k v).warps = s.warps := rfl
@[simp] theorem setType_blocks (s : State) (k : Nat) (v : BitVec 128) : (setType s k v).blocks = s.blocks := rfl
@[simp] theorem setType_nextBlk (s : State) (k : Nat) (v : BitVec 128) : (setType s k v).nextBlk = s.nextBlk := rfl
@[simp] theorem setType_contexts (s : State) (k : Nat) (v : BitVec 128) : (setType s k v).contexts = s.contexts := rfl
@[simp] theorem setType_grids (s : State) (k : Nat) (v : BitVec 128) : (setType s k v).grids = s.grids := rfl
@[simp] theorem setType_cores (s : State) (k : Nat) (v : BitVec 128) : (setType s k v).cores = s.cores := rfl
@[simp] theorem setType_svcs (s : State) (k : Nat) (v : BitVec 128) : (setType s k v).svcs = s.svcs := rfl
@[simp] theorem setType_dies (s : State) (k : Nat) (v : BitVec 128) : (setType s k v).dies = s.dies := rfl
@[simp] theorem setType_groups (s : State) (k : Nat) (v : BitVec 128) : (setType s k v).groups = s.groups := rfl
@[simp] theorem setType_tenants (s : State) (k : Nat) (v : BitVec 128) : (setType s k v).tenants = s.tenants := rfl
@[simp] theorem setType_worlds (s : State) (k : Nat) (v : BitVec 128) : (setType s k v).worlds = s.worlds := rfl
@[simp] theorem setType_keys (s : State) (k : Nat) (v : BitVec 128) : (setType s k v).keys = s.keys := rfl
@[simp] theorem setType_links (s : State) (k : Nat) (v : BitVec 128) : (setType s k v).links = s.links := rfl
@[simp] theorem setType_inner (s : State) (k : Nat) (v : BitVec 128) : (setType s k v).inner = s.inner := rfl
@[simp] theorem setType_caches (s : State) (k : Nat) (v : BitVec 128) : (setType s k v).caches = s.caches := rfl
@[simp] theorem setType_islands (s : State) (k : Nat) (v : BitVec 128) : (setType s k v).islands = s.islands := rfl
@[simp] theorem setType_plat (s : State) (k : Nat) (v : BitVec 128) : (setType s k v).plat = s.plat := rfl
@[simp] theorem setType_fsto (s : State) (k : Nat) (v : BitVec 128) : (setType s k v).fsto = s.fsto := rfl
@[simp] theorem setType_audfrac (s : State) (k : Nat) (v : BitVec 128) : (setType s k v).audfrac = s.audfrac := rfl
@[simp] theorem setType_out (s : State) (k : Nat) (v : BitVec 128) : (setType s k v).out = s.out := rfl
@[simp] theorem setType_outside (s : State) (k : Nat) (v : BitVec 128) : (setType s k v).outside = s.outside := rfl
@[simp] theorem setType_freeCtr (s : State) (k : Nat) (v : BitVec 128) : (setType s k v).freeCtr = s.freeCtr := rfl
@[simp] theorem setType_agenda (s : State) (k : Nat) (v : BitVec 128) : (setType s k v).agenda = s.agenda := rfl
@[simp] theorem setType_cur (s : State) (k : Nat) (v : BitVec 128) : (setType s k v).cur = s.cur := rfl
@[simp] theorem setType_frag (s : State) (k : Nat) (v : BitVec 128) : (setType s k v).frag = s.frag := rfl
@[simp] theorem setType_stamp (s : State) (k : Nat) (v : BitVec 128) : (setType s k v).stamp = s.stamp := rfl

/-! `setCur` changes `warps` only -/

@[simp] theorem setCur_part (s : State) (v : Warp) : (setCur s v).part = s.part := rfl
@[simp] theorem setCur_mem (s : State) (v : Warp) : (setCur s v).mem = s.mem := rfl
@[simp] theorem setCur_poison (s : State) (v : Warp) : (setCur s v).poison = s.poison := rfl
@[simp] theorem setCur_tierKept (s : State) (v : Warp) : (setCur s v).tierKept = s.tierKept := rfl
@[simp] theorem setCur_types (s : State) (v : Warp) : (setCur s v).types = s.types := rfl
@[simp] theorem setCur_locks (s : State) (v : Warp) : (setCur s v).locks = s.locks := rfl
@[simp] theorem setCur_early (s : State) (v : Warp) : (setCur s v).early = s.early := rfl
@[simp] theorem setCur_admissions (s : State) (v : Warp) : (setCur s v).admissions = s.admissions := rfl
@[simp] theorem setCur_nextAdm (s : State) (v : Warp) : (setCur s v).nextAdm = s.nextAdm := rfl
@[simp] theorem setCur_leaving (s : State) (v : Warp) : (setCur s v).leaving = s.leaving := rfl
@[simp] theorem setCur_blocks (s : State) (v : Warp) : (setCur s v).blocks = s.blocks := rfl
@[simp] theorem setCur_nextBlk (s : State) (v : Warp) : (setCur s v).nextBlk = s.nextBlk := rfl
@[simp] theorem setCur_contexts (s : State) (v : Warp) : (setCur s v).contexts = s.contexts := rfl
@[simp] theorem setCur_grids (s : State) (v : Warp) : (setCur s v).grids = s.grids := rfl
@[simp] theorem setCur_cores (s : State) (v : Warp) : (setCur s v).cores = s.cores := rfl
@[simp] theorem setCur_svcs (s : State) (v : Warp) : (setCur s v).svcs = s.svcs := rfl
@[simp] theorem setCur_dies (s : State) (v : Warp) : (setCur s v).dies = s.dies := rfl
@[simp] theorem setCur_groups (s : State) (v : Warp) : (setCur s v).groups = s.groups := rfl
@[simp] theorem setCur_tenants (s : State) (v : Warp) : (setCur s v).tenants = s.tenants := rfl
@[simp] theorem setCur_worlds (s : State) (v : Warp) : (setCur s v).worlds = s.worlds := rfl
@[simp] theorem setCur_keys (s : State) (v : Warp) : (setCur s v).keys = s.keys := rfl
@[simp] theorem setCur_links (s : State) (v : Warp) : (setCur s v).links = s.links := rfl
@[simp] theorem setCur_inner (s : State) (v : Warp) : (setCur s v).inner = s.inner := rfl
@[simp] theorem setCur_caches (s : State) (v : Warp) : (setCur s v).caches = s.caches := rfl
@[simp] theorem setCur_islands (s : State) (v : Warp) : (setCur s v).islands = s.islands := rfl
@[simp] theorem setCur_plat (s : State) (v : Warp) : (setCur s v).plat = s.plat := rfl
@[simp] theorem setCur_fsto (s : State) (v : Warp) : (setCur s v).fsto = s.fsto := rfl
@[simp] theorem setCur_audfrac (s : State) (v : Warp) : (setCur s v).audfrac = s.audfrac := rfl
@[simp] theorem setCur_out (s : State) (v : Warp) : (setCur s v).out = s.out := rfl
@[simp] theorem setCur_outside (s : State) (v : Warp) : (setCur s v).outside = s.outside := rfl
@[simp] theorem setCur_freeCtr (s : State) (v : Warp) : (setCur s v).freeCtr = s.freeCtr := rfl
@[simp] theorem setCur_agenda (s : State) (v : Warp) : (setCur s v).agenda = s.agenda := rfl
@[simp] theorem setCur_cur (s : State) (v : Warp) : (setCur s v).cur = s.cur := rfl
@[simp] theorem setCur_frag (s : State) (v : Warp) : (setCur s v).frag = s.frag := rfl
@[simp] theorem setCur_stamp (s : State) (v : Warp) : (setCur s v).stamp = s.stamp := rfl

/-! `setFrag` changes `warps` only -/

@[simp] theorem setFrag_part (s : State) (v : Entry) : (setFrag s v).part = s.part := rfl
@[simp] theorem setFrag_mem (s : State) (v : Entry) : (setFrag s v).mem = s.mem := rfl
@[simp] theorem setFrag_poison (s : State) (v : Entry) : (setFrag s v).poison = s.poison := rfl
@[simp] theorem setFrag_tierKept (s : State) (v : Entry) : (setFrag s v).tierKept = s.tierKept := rfl
@[simp] theorem setFrag_types (s : State) (v : Entry) : (setFrag s v).types = s.types := rfl
@[simp] theorem setFrag_locks (s : State) (v : Entry) : (setFrag s v).locks = s.locks := rfl
@[simp] theorem setFrag_early (s : State) (v : Entry) : (setFrag s v).early = s.early := rfl
@[simp] theorem setFrag_admissions (s : State) (v : Entry) : (setFrag s v).admissions = s.admissions := rfl
@[simp] theorem setFrag_nextAdm (s : State) (v : Entry) : (setFrag s v).nextAdm = s.nextAdm := rfl
@[simp] theorem setFrag_leaving (s : State) (v : Entry) : (setFrag s v).leaving = s.leaving := rfl
@[simp] theorem setFrag_blocks (s : State) (v : Entry) : (setFrag s v).blocks = s.blocks := rfl
@[simp] theorem setFrag_nextBlk (s : State) (v : Entry) : (setFrag s v).nextBlk = s.nextBlk := rfl
@[simp] theorem setFrag_contexts (s : State) (v : Entry) : (setFrag s v).contexts = s.contexts := rfl
@[simp] theorem setFrag_grids (s : State) (v : Entry) : (setFrag s v).grids = s.grids := rfl
@[simp] theorem setFrag_cores (s : State) (v : Entry) : (setFrag s v).cores = s.cores := rfl
@[simp] theorem setFrag_svcs (s : State) (v : Entry) : (setFrag s v).svcs = s.svcs := rfl
@[simp] theorem setFrag_dies (s : State) (v : Entry) : (setFrag s v).dies = s.dies := rfl
@[simp] theorem setFrag_groups (s : State) (v : Entry) : (setFrag s v).groups = s.groups := rfl
@[simp] theorem setFrag_tenants (s : State) (v : Entry) : (setFrag s v).tenants = s.tenants := rfl
@[simp] theorem setFrag_worlds (s : State) (v : Entry) : (setFrag s v).worlds = s.worlds := rfl
@[simp] theorem setFrag_keys (s : State) (v : Entry) : (setFrag s v).keys = s.keys := rfl
@[simp] theorem setFrag_links (s : State) (v : Entry) : (setFrag s v).links = s.links := rfl
@[simp] theorem setFrag_inner (s : State) (v : Entry) : (setFrag s v).inner = s.inner := rfl
@[simp] theorem setFrag_caches (s : State) (v : Entry) : (setFrag s v).caches = s.caches := rfl
@[simp] theorem setFrag_islands (s : State) (v : Entry) : (setFrag s v).islands = s.islands := rfl
@[simp] theorem setFrag_plat (s : State) (v : Entry) : (setFrag s v).plat = s.plat := rfl
@[simp] theorem setFrag_fsto (s : State) (v : Entry) : (setFrag s v).fsto = s.fsto := rfl
@[simp] theorem setFrag_audfrac (s : State) (v : Entry) : (setFrag s v).audfrac = s.audfrac := rfl
@[simp] theorem setFrag_out (s : State) (v : Entry) : (setFrag s v).out = s.out := rfl
@[simp] theorem setFrag_outside (s : State) (v : Entry) : (setFrag s v).outside = s.outside := rfl
@[simp] theorem setFrag_freeCtr (s : State) (v : Entry) : (setFrag s v).freeCtr = s.freeCtr := rfl
@[simp] theorem setFrag_agenda (s : State) (v : Entry) : (setFrag s v).agenda = s.agenda := rfl
@[simp] theorem setFrag_cur (s : State) (v : Entry) : (setFrag s v).cur = s.cur := rfl
@[simp] theorem setFrag_frag (s : State) (v : Entry) : (setFrag s v).frag = s.frag := rfl
@[simp] theorem setFrag_stamp (s : State) (v : Entry) : (setFrag s v).stamp = s.stamp := rfl

/-! `setCurBlock` changes `blocks` only -/

@[simp] theorem setCurBlock_part (s : State) (v : Block) : (setCurBlock s v).part = s.part := rfl
@[simp] theorem setCurBlock_mem (s : State) (v : Block) : (setCurBlock s v).mem = s.mem := rfl
@[simp] theorem setCurBlock_poison (s : State) (v : Block) : (setCurBlock s v).poison = s.poison := rfl
@[simp] theorem setCurBlock_tierKept (s : State) (v : Block) : (setCurBlock s v).tierKept = s.tierKept := rfl
@[simp] theorem setCurBlock_types (s : State) (v : Block) : (setCurBlock s v).types = s.types := rfl
@[simp] theorem setCurBlock_locks (s : State) (v : Block) : (setCurBlock s v).locks = s.locks := rfl
@[simp] theorem setCurBlock_early (s : State) (v : Block) : (setCurBlock s v).early = s.early := rfl
@[simp] theorem setCurBlock_admissions (s : State) (v : Block) : (setCurBlock s v).admissions = s.admissions := rfl
@[simp] theorem setCurBlock_nextAdm (s : State) (v : Block) : (setCurBlock s v).nextAdm = s.nextAdm := rfl
@[simp] theorem setCurBlock_leaving (s : State) (v : Block) : (setCurBlock s v).leaving = s.leaving := rfl
@[simp] theorem setCurBlock_warps (s : State) (v : Block) : (setCurBlock s v).warps = s.warps := rfl
@[simp] theorem setCurBlock_nextBlk (s : State) (v : Block) : (setCurBlock s v).nextBlk = s.nextBlk := rfl
@[simp] theorem setCurBlock_contexts (s : State) (v : Block) : (setCurBlock s v).contexts = s.contexts := rfl
@[simp] theorem setCurBlock_grids (s : State) (v : Block) : (setCurBlock s v).grids = s.grids := rfl
@[simp] theorem setCurBlock_cores (s : State) (v : Block) : (setCurBlock s v).cores = s.cores := rfl
@[simp] theorem setCurBlock_svcs (s : State) (v : Block) : (setCurBlock s v).svcs = s.svcs := rfl
@[simp] theorem setCurBlock_dies (s : State) (v : Block) : (setCurBlock s v).dies = s.dies := rfl
@[simp] theorem setCurBlock_groups (s : State) (v : Block) : (setCurBlock s v).groups = s.groups := rfl
@[simp] theorem setCurBlock_tenants (s : State) (v : Block) : (setCurBlock s v).tenants = s.tenants := rfl
@[simp] theorem setCurBlock_worlds (s : State) (v : Block) : (setCurBlock s v).worlds = s.worlds := rfl
@[simp] theorem setCurBlock_keys (s : State) (v : Block) : (setCurBlock s v).keys = s.keys := rfl
@[simp] theorem setCurBlock_links (s : State) (v : Block) : (setCurBlock s v).links = s.links := rfl
@[simp] theorem setCurBlock_inner (s : State) (v : Block) : (setCurBlock s v).inner = s.inner := rfl
@[simp] theorem setCurBlock_caches (s : State) (v : Block) : (setCurBlock s v).caches = s.caches := rfl
@[simp] theorem setCurBlock_islands (s : State) (v : Block) : (setCurBlock s v).islands = s.islands := rfl
@[simp] theorem setCurBlock_plat (s : State) (v : Block) : (setCurBlock s v).plat = s.plat := rfl
@[simp] theorem setCurBlock_fsto (s : State) (v : Block) : (setCurBlock s v).fsto = s.fsto := rfl
@[simp] theorem setCurBlock_audfrac (s : State) (v : Block) : (setCurBlock s v).audfrac = s.audfrac := rfl
@[simp] theorem setCurBlock_out (s : State) (v : Block) : (setCurBlock s v).out = s.out := rfl
@[simp] theorem setCurBlock_outside (s : State) (v : Block) : (setCurBlock s v).outside = s.outside := rfl
@[simp] theorem setCurBlock_freeCtr (s : State) (v : Block) : (setCurBlock s v).freeCtr = s.freeCtr := rfl
@[simp] theorem setCurBlock_agenda (s : State) (v : Block) : (setCurBlock s v).agenda = s.agenda := rfl
@[simp] theorem setCurBlock_cur (s : State) (v : Block) : (setCurBlock s v).cur = s.cur := rfl
@[simp] theorem setCurBlock_frag (s : State) (v : Block) : (setCurBlock s v).frag = s.frag := rfl
@[simp] theorem setCurBlock_stamp (s : State) (v : Block) : (setCurBlock s v).stamp = s.stamp := rfl

/-! Read after write -/

theorem warpOf_setWarp (s : State) (k j : Nat) (v : Warp) :
    warpOf (setWarp s k v) j = if k = j then v else warpOf s j := Tbl.get_set _ _ _ _ _
@[simp] theorem warpOf_setWarp_same (s : State) (k : Nat) (v : Warp) : warpOf (setWarp s k v) k = v := Tbl.get_set_same _ _ _ _
@[simp] theorem warpOf_setBlock (s : State) (k j : Nat) (v : Block) : warpOf (setBlock s k v) j = warpOf s j := rfl
@[simp] theorem warpOf_setGrid (s : State) (k j : Nat) (v : Grid) : warpOf (setGrid s k v) j = warpOf s j := rfl
@[simp] theorem warpOf_setCore (s : State) (k j : Nat) (v : CoreSt) : warpOf (setCore s k v) j = warpOf s j := rfl
@[simp] theorem warpOf_setSvc (s : State) (k j : Nat) (v : SvcCore) : warpOf (setSvc s k v) j = warpOf s j := rfl
@[simp] theorem warpOf_setDie (s : State) (k j : Nat) (v : Die) : warpOf (setDie s k v) j = warpOf s j := rfl
@[simp] theorem warpOf_setGroup (s : State) (k j : Nat) (v : Group) : warpOf (setGroup s k v) j = warpOf s j := rfl
@[simp] theorem warpOf_setTenant (s : State) (k j : Nat) (v : Tenant) : warpOf (setTenant s k v) j = warpOf s j := rfl
@[simp] theorem warpOf_setLink (s : State) (k j : Nat) (v : Link) : warpOf (setLink s k v) j = warpOf s j := rfl
@[simp] theorem warpOf_setType (s : State) (k j : Nat) (v : BitVec 128) : warpOf (setType s k v) j = warpOf s j := rfl
theorem blockOf_setBlock (s : State) (k j : Nat) (v : Block) :
    blockOf (setBlock s k v) j = if k = j then v else blockOf s j := Tbl.get_set _ _ _ _ _
@[simp] theorem blockOf_setBlock_same (s : State) (k : Nat) (v : Block) : blockOf (setBlock s k v) k = v := Tbl.get_set_same _ _ _ _
@[simp] theorem blockOf_setWarp (s : State) (k j : Nat) (v : Warp) : blockOf (setWarp s k v) j = blockOf s j := rfl
@[simp] theorem blockOf_setGrid (s : State) (k j : Nat) (v : Grid) : blockOf (setGrid s k v) j = blockOf s j := rfl
@[simp] theorem blockOf_setCore (s : State) (k j : Nat) (v : CoreSt) : blockOf (setCore s k v) j = blockOf s j := rfl
@[simp] theorem blockOf_setSvc (s : State) (k j : Nat) (v : SvcCore) : blockOf (setSvc s k v) j = blockOf s j := rfl
@[simp] theorem blockOf_setDie (s : State) (k j : Nat) (v : Die) : blockOf (setDie s k v) j = blockOf s j := rfl
@[simp] theorem blockOf_setGroup (s : State) (k j : Nat) (v : Group) : blockOf (setGroup s k v) j = blockOf s j := rfl
@[simp] theorem blockOf_setTenant (s : State) (k j : Nat) (v : Tenant) : blockOf (setTenant s k v) j = blockOf s j := rfl
@[simp] theorem blockOf_setLink (s : State) (k j : Nat) (v : Link) : blockOf (setLink s k v) j = blockOf s j := rfl
@[simp] theorem blockOf_setType (s : State) (k j : Nat) (v : BitVec 128) : blockOf (setType s k v) j = blockOf s j := rfl
theorem gridOf_setGrid (s : State) (k j : Nat) (v : Grid) :
    gridOf (setGrid s k v) j = if k = j then v else gridOf s j := Tbl.get_set _ _ _ _ _
@[simp] theorem gridOf_setGrid_same (s : State) (k : Nat) (v : Grid) : gridOf (setGrid s k v) k = v := Tbl.get_set_same _ _ _ _
@[simp] theorem gridOf_setWarp (s : State) (k j : Nat) (v : Warp) : gridOf (setWarp s k v) j = gridOf s j := rfl
@[simp] theorem gridOf_setBlock (s : State) (k j : Nat) (v : Block) : gridOf (setBlock s k v) j = gridOf s j := rfl
@[simp] theorem gridOf_setCore (s : State) (k j : Nat) (v : CoreSt) : gridOf (setCore s k v) j = gridOf s j := rfl
@[simp] theorem gridOf_setSvc (s : State) (k j : Nat) (v : SvcCore) : gridOf (setSvc s k v) j = gridOf s j := rfl
@[simp] theorem gridOf_setDie (s : State) (k j : Nat) (v : Die) : gridOf (setDie s k v) j = gridOf s j := rfl
@[simp] theorem gridOf_setGroup (s : State) (k j : Nat) (v : Group) : gridOf (setGroup s k v) j = gridOf s j := rfl
@[simp] theorem gridOf_setTenant (s : State) (k j : Nat) (v : Tenant) : gridOf (setTenant s k v) j = gridOf s j := rfl
@[simp] theorem gridOf_setLink (s : State) (k j : Nat) (v : Link) : gridOf (setLink s k v) j = gridOf s j := rfl
@[simp] theorem gridOf_setType (s : State) (k j : Nat) (v : BitVec 128) : gridOf (setType s k v) j = gridOf s j := rfl
theorem coreOf_setCore (s : State) (k j : Nat) (v : CoreSt) :
    coreOf (setCore s k v) j = if k = j then v else coreOf s j := Tbl.get_set _ _ _ _ _
@[simp] theorem coreOf_setCore_same (s : State) (k : Nat) (v : CoreSt) : coreOf (setCore s k v) k = v := Tbl.get_set_same _ _ _ _
@[simp] theorem coreOf_setWarp (s : State) (k j : Nat) (v : Warp) : coreOf (setWarp s k v) j = coreOf s j := rfl
@[simp] theorem coreOf_setBlock (s : State) (k j : Nat) (v : Block) : coreOf (setBlock s k v) j = coreOf s j := rfl
@[simp] theorem coreOf_setGrid (s : State) (k j : Nat) (v : Grid) : coreOf (setGrid s k v) j = coreOf s j := rfl
@[simp] theorem coreOf_setSvc (s : State) (k j : Nat) (v : SvcCore) : coreOf (setSvc s k v) j = coreOf s j := rfl
@[simp] theorem coreOf_setDie (s : State) (k j : Nat) (v : Die) : coreOf (setDie s k v) j = coreOf s j := rfl
@[simp] theorem coreOf_setGroup (s : State) (k j : Nat) (v : Group) : coreOf (setGroup s k v) j = coreOf s j := rfl
@[simp] theorem coreOf_setTenant (s : State) (k j : Nat) (v : Tenant) : coreOf (setTenant s k v) j = coreOf s j := rfl
@[simp] theorem coreOf_setLink (s : State) (k j : Nat) (v : Link) : coreOf (setLink s k v) j = coreOf s j := rfl
@[simp] theorem coreOf_setType (s : State) (k j : Nat) (v : BitVec 128) : coreOf (setType s k v) j = coreOf s j := rfl
theorem svcOf_setSvc (s : State) (k j : Nat) (v : SvcCore) :
    svcOf (setSvc s k v) j = if k = j then v else svcOf s j := Tbl.get_set _ _ _ _ _
@[simp] theorem svcOf_setSvc_same (s : State) (k : Nat) (v : SvcCore) : svcOf (setSvc s k v) k = v := Tbl.get_set_same _ _ _ _
@[simp] theorem svcOf_setWarp (s : State) (k j : Nat) (v : Warp) : svcOf (setWarp s k v) j = svcOf s j := rfl
@[simp] theorem svcOf_setBlock (s : State) (k j : Nat) (v : Block) : svcOf (setBlock s k v) j = svcOf s j := rfl
@[simp] theorem svcOf_setGrid (s : State) (k j : Nat) (v : Grid) : svcOf (setGrid s k v) j = svcOf s j := rfl
@[simp] theorem svcOf_setCore (s : State) (k j : Nat) (v : CoreSt) : svcOf (setCore s k v) j = svcOf s j := rfl
@[simp] theorem svcOf_setDie (s : State) (k j : Nat) (v : Die) : svcOf (setDie s k v) j = svcOf s j := rfl
@[simp] theorem svcOf_setGroup (s : State) (k j : Nat) (v : Group) : svcOf (setGroup s k v) j = svcOf s j := rfl
@[simp] theorem svcOf_setTenant (s : State) (k j : Nat) (v : Tenant) : svcOf (setTenant s k v) j = svcOf s j := rfl
@[simp] theorem svcOf_setLink (s : State) (k j : Nat) (v : Link) : svcOf (setLink s k v) j = svcOf s j := rfl
@[simp] theorem svcOf_setType (s : State) (k j : Nat) (v : BitVec 128) : svcOf (setType s k v) j = svcOf s j := rfl
theorem dieOf_setDie (s : State) (k j : Nat) (v : Die) :
    dieOf (setDie s k v) j = if k = j then v else dieOf s j := Tbl.get_set _ _ _ _ _
@[simp] theorem dieOf_setDie_same (s : State) (k : Nat) (v : Die) : dieOf (setDie s k v) k = v := Tbl.get_set_same _ _ _ _
@[simp] theorem dieOf_setWarp (s : State) (k j : Nat) (v : Warp) : dieOf (setWarp s k v) j = dieOf s j := rfl
@[simp] theorem dieOf_setBlock (s : State) (k j : Nat) (v : Block) : dieOf (setBlock s k v) j = dieOf s j := rfl
@[simp] theorem dieOf_setGrid (s : State) (k j : Nat) (v : Grid) : dieOf (setGrid s k v) j = dieOf s j := rfl
@[simp] theorem dieOf_setCore (s : State) (k j : Nat) (v : CoreSt) : dieOf (setCore s k v) j = dieOf s j := rfl
@[simp] theorem dieOf_setSvc (s : State) (k j : Nat) (v : SvcCore) : dieOf (setSvc s k v) j = dieOf s j := rfl
@[simp] theorem dieOf_setGroup (s : State) (k j : Nat) (v : Group) : dieOf (setGroup s k v) j = dieOf s j := rfl
@[simp] theorem dieOf_setTenant (s : State) (k j : Nat) (v : Tenant) : dieOf (setTenant s k v) j = dieOf s j := rfl
@[simp] theorem dieOf_setLink (s : State) (k j : Nat) (v : Link) : dieOf (setLink s k v) j = dieOf s j := rfl
@[simp] theorem dieOf_setType (s : State) (k j : Nat) (v : BitVec 128) : dieOf (setType s k v) j = dieOf s j := rfl
theorem groupOf_setGroup (s : State) (k j : Nat) (v : Group) :
    groupOf (setGroup s k v) j = if k = j then v else groupOf s j := Tbl.get_set _ _ _ _ _
@[simp] theorem groupOf_setGroup_same (s : State) (k : Nat) (v : Group) : groupOf (setGroup s k v) k = v := Tbl.get_set_same _ _ _ _
@[simp] theorem groupOf_setWarp (s : State) (k j : Nat) (v : Warp) : groupOf (setWarp s k v) j = groupOf s j := rfl
@[simp] theorem groupOf_setBlock (s : State) (k j : Nat) (v : Block) : groupOf (setBlock s k v) j = groupOf s j := rfl
@[simp] theorem groupOf_setGrid (s : State) (k j : Nat) (v : Grid) : groupOf (setGrid s k v) j = groupOf s j := rfl
@[simp] theorem groupOf_setCore (s : State) (k j : Nat) (v : CoreSt) : groupOf (setCore s k v) j = groupOf s j := rfl
@[simp] theorem groupOf_setSvc (s : State) (k j : Nat) (v : SvcCore) : groupOf (setSvc s k v) j = groupOf s j := rfl
@[simp] theorem groupOf_setDie (s : State) (k j : Nat) (v : Die) : groupOf (setDie s k v) j = groupOf s j := rfl
@[simp] theorem groupOf_setTenant (s : State) (k j : Nat) (v : Tenant) : groupOf (setTenant s k v) j = groupOf s j := rfl
@[simp] theorem groupOf_setLink (s : State) (k j : Nat) (v : Link) : groupOf (setLink s k v) j = groupOf s j := rfl
@[simp] theorem groupOf_setType (s : State) (k j : Nat) (v : BitVec 128) : groupOf (setType s k v) j = groupOf s j := rfl
theorem tenantOf_setTenant (s : State) (k j : Nat) (v : Tenant) :
    tenantOf (setTenant s k v) j = if k = j then v else tenantOf s j := Tbl.get_set _ _ _ _ _
@[simp] theorem tenantOf_setTenant_same (s : State) (k : Nat) (v : Tenant) : tenantOf (setTenant s k v) k = v := Tbl.get_set_same _ _ _ _
@[simp] theorem tenantOf_setWarp (s : State) (k j : Nat) (v : Warp) : tenantOf (setWarp s k v) j = tenantOf s j := rfl
@[simp] theorem tenantOf_setBlock (s : State) (k j : Nat) (v : Block) : tenantOf (setBlock s k v) j = tenantOf s j := rfl
@[simp] theorem tenantOf_setGrid (s : State) (k j : Nat) (v : Grid) : tenantOf (setGrid s k v) j = tenantOf s j := rfl
@[simp] theorem tenantOf_setCore (s : State) (k j : Nat) (v : CoreSt) : tenantOf (setCore s k v) j = tenantOf s j := rfl
@[simp] theorem tenantOf_setSvc (s : State) (k j : Nat) (v : SvcCore) : tenantOf (setSvc s k v) j = tenantOf s j := rfl
@[simp] theorem tenantOf_setDie (s : State) (k j : Nat) (v : Die) : tenantOf (setDie s k v) j = tenantOf s j := rfl
@[simp] theorem tenantOf_setGroup (s : State) (k j : Nat) (v : Group) : tenantOf (setGroup s k v) j = tenantOf s j := rfl
@[simp] theorem tenantOf_setLink (s : State) (k j : Nat) (v : Link) : tenantOf (setLink s k v) j = tenantOf s j := rfl
@[simp] theorem tenantOf_setType (s : State) (k j : Nat) (v : BitVec 128) : tenantOf (setType s k v) j = tenantOf s j := rfl
theorem linkOf_setLink (s : State) (k j : Nat) (v : Link) :
    linkOf (setLink s k v) j = if k = j then v else linkOf s j := Tbl.get_set _ _ _ _ _
@[simp] theorem linkOf_setLink_same (s : State) (k : Nat) (v : Link) : linkOf (setLink s k v) k = v := Tbl.get_set_same _ _ _ _
@[simp] theorem linkOf_setWarp (s : State) (k j : Nat) (v : Warp) : linkOf (setWarp s k v) j = linkOf s j := rfl
@[simp] theorem linkOf_setBlock (s : State) (k j : Nat) (v : Block) : linkOf (setBlock s k v) j = linkOf s j := rfl
@[simp] theorem linkOf_setGrid (s : State) (k j : Nat) (v : Grid) : linkOf (setGrid s k v) j = linkOf s j := rfl
@[simp] theorem linkOf_setCore (s : State) (k j : Nat) (v : CoreSt) : linkOf (setCore s k v) j = linkOf s j := rfl
@[simp] theorem linkOf_setSvc (s : State) (k j : Nat) (v : SvcCore) : linkOf (setSvc s k v) j = linkOf s j := rfl
@[simp] theorem linkOf_setDie (s : State) (k j : Nat) (v : Die) : linkOf (setDie s k v) j = linkOf s j := rfl
@[simp] theorem linkOf_setGroup (s : State) (k j : Nat) (v : Group) : linkOf (setGroup s k v) j = linkOf s j := rfl
@[simp] theorem linkOf_setTenant (s : State) (k j : Nat) (v : Tenant) : linkOf (setTenant s k v) j = linkOf s j := rfl
@[simp] theorem linkOf_setType (s : State) (k j : Nat) (v : BitVec 128) : linkOf (setType s k v) j = linkOf s j := rfl
theorem typeOf_setType (s : State) (k j : Nat) (v : BitVec 128) :
    typeOf (setType s k v) j = if k = j then v else typeOf s j := Tbl.get_set _ _ _ _ _
@[simp] theorem typeOf_setType_same (s : State) (k : Nat) (v : BitVec 128) : typeOf (setType s k v) k = v := Tbl.get_set_same _ _ _ _
@[simp] theorem typeOf_setWarp (s : State) (k j : Nat) (v : Warp) : typeOf (setWarp s k v) j = typeOf s j := rfl
@[simp] theorem typeOf_setBlock (s : State) (k j : Nat) (v : Block) : typeOf (setBlock s k v) j = typeOf s j := rfl
@[simp] theorem typeOf_setGrid (s : State) (k j : Nat) (v : Grid) : typeOf (setGrid s k v) j = typeOf s j := rfl
@[simp] theorem typeOf_setCore (s : State) (k j : Nat) (v : CoreSt) : typeOf (setCore s k v) j = typeOf s j := rfl
@[simp] theorem typeOf_setSvc (s : State) (k j : Nat) (v : SvcCore) : typeOf (setSvc s k v) j = typeOf s j := rfl
@[simp] theorem typeOf_setDie (s : State) (k j : Nat) (v : Die) : typeOf (setDie s k v) j = typeOf s j := rfl
@[simp] theorem typeOf_setGroup (s : State) (k j : Nat) (v : Group) : typeOf (setGroup s k v) j = typeOf s j := rfl
@[simp] theorem typeOf_setTenant (s : State) (k j : Nat) (v : Tenant) : typeOf (setTenant s k v) j = typeOf s j := rfl
@[simp] theorem typeOf_setLink (s : State) (k j : Nat) (v : Link) : typeOf (setLink s k v) j = typeOf s j := rfl

end Sys2Proof.Machine
end

