-- ==== Sys2Proof/Laws/Regs.lean ====
section
/-! SUPPORT. What the operations on the current warp's registers do: scalars, pairs, masks, lanes, queues. -/

namespace Sys2Proof.Machine

@[simp] theorem curWarp_setCur (s : State) (w : Warp) : curWarp (setCur s w) = w := by
  simp [curWarp, setCur]

theorem warpOf_setCur (s : State) (w : Warp) (k : Nat) :
    warpOf (setCur s w) k = if s.cur = k then w else warpOf s k := by
  simp [setCur, warpOf_setWarp]

@[simp] theorem curWarp_setBlock (s : State) (k : Nat) (b : Block) : curWarp (setBlock s k b) = curWarp s := rfl
@[simp] theorem curWarp_setCurBlock (s : State) (b : Block) : curWarp (setCurBlock s b) = curWarp s := rfl
@[simp] theorem curWarp_freeCtr (s : State) (n : Nat) : curWarp { s with freeCtr := n } = curWarp s := rfl

@[simp] theorem entryOf_setEntry_same (w : Warp) (e : Nat) (x : Entry) : entryOf (setEntry w e x) e = x := by
  simp [entryOf, setEntry]

theorem entryOf_setEntry (w : Warp) (e j : Nat) (x : Entry) :
    entryOf (setEntry w e x) j = if e = j then x else entryOf w j := by
  simp [entryOf, setEntry, Tbl.get_set]

@[simp] theorem curEntry_setFrag (s : State) (x : Entry) : curEntry (setFrag s x) = x := by
  simp [curEntry, setFrag]

theorem OnlyWarp.refl (s : State) : OnlyWarp s s := ⟨fun _ => rfl, fun _ _ => rfl, rfl⟩

/-- A change of the current warp changes nothing else. -/
theorem onlyWarp_setCur (s : State) (w : Warp) : OnlyWarp s (setCur s w) :=
  ⟨fun _ => rfl, fun k h => by rw [warpOf_setCur, if_neg (Ne.symm h)], rfl⟩

theorem OnlyWarp.trans {s t u : State} (h : OnlyWarp s t) (k : OnlyWarp t u) : OnlyWarp s u := by
  have hc : t.cur = s.cur := by have := congrArg State.cur h.rest; exact this
  refine ⟨fun a => (k.memory a).trans (h.memory a), fun j hj => ?_, ?_⟩
  · rw [k.others j (by rw [hc]; exact hj), h.others j hj]
  · have h1 := h.rest
    have h2 := k.rest
    calc { u with warps := s.warps } = { ({ u with warps := t.warps } : State) with warps := s.warps } := rfl
      _ = { t with warps := s.warps } := by rw [h2]
      _ = s := h1

/-! ### Scalars -/

theorem readS_writeS (s : State) (n m : Nat) (v : Word) :
    readS (writeS s n v) m = if n = m then v else readS s m := by
  simp [readS, writeS, Tbl.get_set]

/-- A scalar write: the value there, nothing else. -/
theorem writeS_result (s : State) (n : Nat) (v : Word) : ScalarResult n v s (writeS s n v) where
  value := by simp [readS_writeS]
  others m h := by rw [readS_writeS, if_neg (Ne.symm h)]
  warp := by simp [writeS]
  outside := onlyWarp_setCur _ _

/-- A pair write: the value there, nothing else. -/
theorem writeP_result (s : State) (n : Nat) (v : Dword) : PairResult n v s (writeP s n v) where
  value := by
    simp only [readP, writeP, readS_writeS]
    rw [if_pos trivial, if_neg (by omega), if_pos trivial]
    ext i hi
    simp only [BitVec.getElem_append, BitVec.getElem_extractLsb']
    split
    · simp [BitVec.getLsbD_eq_getElem hi]
    · rw [show 32 + (i - 32) = i by omega, BitVec.getLsbD_eq_getElem hi]
  others m h h' := by
    simp only [writeP, readS_writeS]
    rw [if_neg (Ne.symm h'), if_neg (Ne.symm h)]
  warp := by simp [writeP, writeS]
  outside := (onlyWarp_setCur _ _).trans (onlyWarp_setCur _ _)

/-! ### Masks -/

/-- A mask write reads back below the width; `k0` and the other masks are as before (R91). -/
theorem readK_writeK (s : State) (n m : Nat) (v : Dword) :
    readK (writeK s n v) m = if n = m ∧ n ≠ 0 then v &&& widthMask (curWarp s) else readK s m := by
  unfold writeK
  by_cases hn : n = 0
  · simp [hn]
  · rw [if_neg hn]
    unfold readK
    by_cases hm : m = 0
    · subst hm; simp [hn, widthMask]
    · rw [if_neg hm, if_neg hm]
      simp only [curWarp_setCur, Tbl.get_set, widthMask]
      by_cases h : n = m
      · simp only [h, if_true, ne_eq, hm, not_false_eq_true, and_self, BitVec.and_assoc, BitVec.and_self]
      · simp [h]

/-! ### Lanes -/

theorem get_putLanes (t : Tbl Word) (r : Nat) (act zer : Dword) (f : Nat → Word) (ls : List Nat)
    (x l : Nat) (hl : l < 64) :
    Tbl.get 0 (putLanes t r act zer f ls) (vecKey x l) =
      if x = r ∧ l ∈ ls then
        if act.getLsbD l then f l else if zer.getLsbD l then 0 else Tbl.get 0 t (vecKey x l)
      else Tbl.get 0 t (vecKey x l) := by
  induction ls with
  | nil => simp [putLanes]
  | cons m ls ih =>
    have key : ∀ k, k < 64 → (vecKey r k = vecKey x l ↔ r = x ∧ k = l) := by
      intro k hk; unfold vecKey; omega
    have big : ∀ (b : Dword), b.getLsbD m = true → m < 64 := fun b h => by
      by_contra hc
      rw [BitVec.getLsbD_of_ge _ _ (by omega)] at h
      exact Bool.noConfusion h
    simp only [putLanes]
    split
    · rename_i ha
      rw [Tbl.get_set, ih]
      by_cases h : x = r ∧ m = l
      · rw [if_pos ((key m (big _ ha)).mpr ⟨h.1.symm, h.2⟩), if_pos ⟨h.1, by simp [h.2]⟩, if_pos (h.2 ▸ ha), h.2]
      · rw [if_neg (fun hc => h ⟨((key m (big _ ha)).mp hc).1.symm, ((key m (big _ ha)).mp hc).2⟩)]
        by_cases hx : x = r
        · have : l ≠ m := fun hc => h ⟨hx, hc.symm⟩
          simp [hx, this]
        · simp [hx]
    · rename_i ha
      split
      · rename_i hz
        rw [Tbl.get_set, ih]
        by_cases h : x = r ∧ m = l
        · rw [if_pos ((key m (big _ hz)).mpr ⟨h.1.symm, h.2⟩), if_pos ⟨h.1, by simp [h.2]⟩,
            if_neg (h.2 ▸ ha), if_pos (h.2 ▸ hz)]
        · rw [if_neg (fun hc => h ⟨((key m (big _ hz)).mp hc).1.symm, ((key m (big _ hz)).mp hc).2⟩)]
          by_cases hx : x = r
          · have : l ≠ m := fun hc => h ⟨hx, hc.symm⟩
            simp [hx, this]
          · simp [hx]
      · rename_i hz
        rw [ih]
        by_cases hx : x = r
        · by_cases hm : l = m
          · subst hm; simp [hx, ha, hz]
          · simp [hx, hm]
        · simp [hx]

/-- The undo log changes the log of the warp or the overflow of its block, nothing else (R323). -/
theorem logVec_warp (s : State) (r : Nat) : ∃ g, curWarp (logVec s r) = { curWarp s with vlog := g } := by
  unfold logVec
  dsimp only
  split
  · exact ⟨_, rfl⟩
  · split
    · exact ⟨_, rfl⟩
    · exact ⟨_, by simp; rfl⟩

theorem OnlyWarpLog.trans {s t u : State} (h : OnlyWarpLog s t) (k : OnlyWarpLog t u) : OnlyWarpLog s u := by
  have hc : t.cur = s.cur := by have := congrArg State.cur h.rest; exact this
  refine ⟨fun a => (k.memory a).trans (h.memory a), fun j hj => ?_, fun j => ?_, ?_⟩
  · rw [k.others j (by rw [hc]; exact hj), h.others j hj]
  · have h1 := h.blocks j
    have h2 := k.blocks j
    calc { blockOf u j with overflow := (blockOf s j).overflow, eligible := (blockOf s j).eligible }
        = { ({ blockOf u j with overflow := (blockOf t j).overflow, eligible := (blockOf t j).eligible } : Block) with
            overflow := (blockOf s j).overflow, eligible := (blockOf s j).eligible } := rfl
      _ = _ := by rw [h2]; exact h1
  · have h1 := h.rest
    have h2 := k.rest
    calc { u with warps := s.warps, blocks := s.blocks, freeCtr := s.freeCtr }
        = { ({ u with warps := t.warps, blocks := t.blocks, freeCtr := t.freeCtr } : State) with
            warps := s.warps, blocks := s.blocks, freeCtr := s.freeCtr } := rfl
      _ = _ := by rw [h2]; exact h1

theorem OnlyWarp.log {s t : State} (h : OnlyWarp s t) : OnlyWarpLog s t := by
  have hb : t.blocks = s.blocks := by have := congrArg State.blocks h.rest; exact this
  refine ⟨h.memory, h.others, fun k => ?_, ?_⟩
  · simp [blockOf, hb]
  · have h1 := h.rest
    calc { t with warps := s.warps, blocks := s.blocks, freeCtr := s.freeCtr }
        = { ({ t with warps := s.warps } : State) with blocks := s.blocks, freeCtr := s.freeCtr } := rfl
      _ = s := by rw [h1]

theorem logVec_outside (s : State) (r : Nat) : OnlyWarpLog s (logVec s r) := by
  unfold logVec
  dsimp only
  split
  · exact (OnlyWarp.refl s).log
  · split
    · refine ⟨fun _ => rfl, fun _ _ => rfl, fun k => ?_, rfl⟩
      simp only [setCurBlock, blockOf_setBlock]
      split
      · rename_i h; subst h; rfl
      · rfl
    · exact (onlyWarp_setCur _ _).log

end Sys2Proof.Machine
end

