-- ==== Sys2Proof/Laws/Ops.lean ====
section
/-! SUPPORT. What the shared operations of the words do: issue, vector results, flags, pops. -/

namespace Sys2Proof.Machine

/-! ### Issue -/

/-- A word that issues takes its effect. -/
theorem word_next {i : Instr} {s : State} (h : Issues i s) (e : State → State) : word i s e = .next (e s) := by
  simp [word, h.1, h.2]

/-- A word that a check of R49 refuses takes that trap. -/
theorem word_fault {i : Instr} {s : State} {f : IssueFault} (h : issueFault i s = some f) (e : State → State) :
    word i s e = .next (takeIssueFault s (curEntry s).here f) := by simp [word, h]

/-- A word that something holds stays where it is. -/
theorem word_held {i : Instr} {s : State} (h : issueFault i s = none) (k : heldBack i s = true) (e : State → State) :
    word i s e = .next (waitWord i s) := by simp [word, h, k]

/-- A word answers a next state. -/
theorem word_answers (i : Instr) (s : State) (e : State → State) : ∃ t, word i s e = .next t := by
  unfold word
  split
  · exact ⟨_, rfl⟩
  · split <;> exact ⟨_, rfl⟩

theorem vword_next {i : Instr} {s : State} (h : Issues i s) (e : State → State) :
    vword i s e = .next (popOf i (e s)) := word_next h _

/-! ### Queues -/

theorem popQueues_outside (s : State) (qs : List Nat) : OnlyWarpLog s (popQueues s qs) := by
  induction qs generalizing s with
  | nil => exact (OnlyWarp.refl s).log
  | cons q qs ih =>
    simp only [popQueues]
    split
    · exact (onlyWarp_setCur _ _).log.trans (ih _)
    · refine OnlyWarpLog.trans ?_ (ih _)
      exact ⟨fun _ => rfl, fun _ _ => rfl, fun _ => rfl, rfl⟩

theorem popQueues_warp (s : State) (qs : List Nat) :
    ∃ g, curWarp (popQueues s qs) = { curWarp s with queues := g } := by
  induction qs generalizing s with
  | nil => exact ⟨_, rfl⟩
  | cons q qs ih =>
    simp only [popQueues]
    split
    · obtain ⟨g, h⟩ := ih (setCur s _)
      exact ⟨g, by rw [h]; simp⟩
    · exact ih _

theorem popQueues_queue (s : State) (qs : List Nat) (hn : qs.Nodup) (q : Nat) :
    queueOf (curWarp (popQueues s qs)) q =
      if q ∈ qs then (queueOf (curWarp s) q).tail else queueOf (curWarp s) q := by
  induction qs generalizing s with
  | nil => simp [popQueues]
  | cons k qs ih =>
    obtain ⟨hk, hn⟩ := List.nodup_cons.mp hn
    simp only [popQueues]
    split
    · rename_i e rest hq
      rw [ih _ hn]
      simp only [curWarp_setCur, queueOf, Tbl.get_set, List.mem_cons]
      by_cases h : k = q
      · subst h
        simp only [queueOf] at hq
        simp [hk, hq]
      · simp [h, Ne.symm h]
    · rename_i hq
      rw [ih _ hn]
      by_cases h : k = q
      · subst h; simp only [curWarp_freeCtr, hk, List.mem_cons_self, if_true, if_false, hq, List.tail_nil]
      · simp [Ne.symm h]

/-- The queue operands of a word that issues are distinct (R46). -/
theorem queueOpds_nodup {i : Instr} {s : State} (h : Issues i s) {f : Form} (hf : form i = some f)
    (hc : ∀ w a b l, i ≠ .clause w a b l) : (queueOpds f).Nodup := by
  have h1 := h.1
  unfold issueFault wordFault at h1
  have hi : illegal i = none := by
    by_contra hne
    obtain ⟨y, hy⟩ := Option.ne_none_iff_exists'.mp hne
    simp [hy] at h1
  have hw : formWhy f = none := by
    cases i with
    | clause w a b l => exact absurd rfl (hc w a b l)
    | _ =>
      simp only [illegal, hf, Option.or_eq_none_iff] at hi
      exact hi.1
  by_contra hnd
  have hm : Why.queueTwice ∈ formWhys f := by simp [formWhys, ifWhy, hnd]
  simp only [formWhy, Option.or_eq_none_iff, List.head?_eq_none_iff] at hw
  exact absurd hm (by simp [hw.2])

theorem popOf_outside (i : Instr) (s : State) : OnlyWarpLog s (popOf i s) := popQueues_outside s _

theorem popOf_warp (i : Instr) (s : State) : ∃ g, curWarp (popOf i s) = { curWarp s with queues := g } :=
  popQueues_warp s _

theorem popOf_queue {i : Instr} {s : State} (h : Issues i s) (t : State) (q : Nat) :
    queueOf (curWarp (popOf i t)) q =
      if ∃ f, form i = some f ∧ q ∈ queueOpds f then (queueOf (curWarp t) q).tail else queueOf (curWarp t) q := by
  unfold popOf
  cases hf : form i with
  | none => simp [popQueues]
  | some f =>
    have hc : ∀ w a b l, i ≠ .clause w a b l := by
      rintro w a b l rfl; simp [form, noForm] at hf
    rw [popQueues_queue _ _ (queueOpds_nodup h hf hc)]
    simp

/-! ### Vector results (R80) -/

theorem zeroMask_iff (s : State) (p : Option Prefix) (l : Nat) (hl : l < 64) :
    (zeroMask s (pfx p)).getLsbD l = true ↔ Zeroed s p l := by
  unfold zeroMask Zeroed activeMask
  cases (pfx p).z with
  | false => simp
  | true =>
    simp only [if_true, BitVec.getLsbD_and, BitVec.getLsbD_not, hl, decide_true, Bool.true_and, true_and]
    cases (execMask s).getLsbD l <;> simp

theorem activeMask_iff (s : State) (p : Option Prefix) (l : Nat) :
    (activeMask s (pfx p)).getLsbD l = true ↔ Active s p l := by
  simp [activeMask, Active]

/-- No bit of the active lanes stands at or above 64. -/
theorem Active.lt {s : State} {p : Option Prefix} {l : Nat} (h : Active s p l) : l < 64 := by
  by_contra hc
  have := h.1
  rw [BitVec.getLsbD_of_ge _ _ (by omega)] at this
  exact Bool.noConfusion this

theorem Zeroed.lt {s : State} {p : Option Prefix} {l : Nat} (h : Zeroed s p l) : l < 64 := by
  by_contra hc
  have := h.2.1
  rw [BitVec.getLsbD_of_ge _ _ (by omega)] at this
  exact Bool.noConfusion this

/-- The lanes of any register after a write of given lanes. -/
theorem readV_writeLanes (s : State) (r : Nat) (act zer : Dword) (f : Nat → Word) (x l : Nat) (hl : l < 64) :
    readV (writeLanes s r act zer f) x l =
      if x = r ∧ l < (curWarp s).width then
        if act.getLsbD l then f l else if zer.getLsbD l then 0 else readV s x l
      else readV s x l := by
  obtain ⟨g, hg⟩ := logVec_warp s r
  unfold writeLanes readV
  simp only [curWarp_setCur, hg]
  rw [get_putLanes _ _ _ _ _ _ _ _ hl]
  simp [lanesOf, List.mem_range]

theorem writeLanes_warp (s : State) (r : Nat) (act zer : Dword) (f : Nat → Word) :
    ∃ v g, curWarp (writeLanes s r act zer f) = { curWarp s with vecs := v, vlog := g } := by
  obtain ⟨g, hg⟩ := logVec_warp s r
  refine ⟨putLanes (curWarp s).vecs r act zer f (lanesOf (curWarp s)), g, ?_⟩
  unfold writeLanes
  simp only [curWarp_setCur, hg]
  rfl

theorem writeLanes_outside (s : State) (r : Nat) (act zer : Dword) (f : Nat → Word) :
    OnlyWarpLog s (writeLanes s r act zer f) :=
  (logVec_outside s r).trans (onlyWarp_setCur _ _).log

/-- Register addresses depend on the fragment only. -/
theorem putVec_written (s : State) (p : Option Prefix) (d : BitVec 7) (f : Nat → Word) :
    VecWritten p d f s (putVec s p d f) where
  active l hl ha := by
    unfold putVec
    rw [readV_writeLanes _ _ _ _ _ _ _ ha.lt, if_pos ⟨rfl, hl⟩, if_pos ((activeMask_iff s p l).mpr ha)]
  zeroed l hl hz := by
    have hn : ¬ Active s p l := fun h => by have := h.2; rw [hz.2.2] at this; exact Bool.noConfusion this
    unfold putVec
    rw [readV_writeLanes _ _ _ _ _ _ _ hz.lt, if_pos ⟨rfl, hl⟩,
      if_neg (fun h => hn ((activeMask_iff s p l).mp h)), if_pos ((zeroMask_iff s p l hz.lt).mpr hz)]
  kept l hl ha hz := by
    by_cases h64 : l < 64
    · unfold putVec
      rw [readV_writeLanes _ _ _ _ _ _ _ h64, if_pos ⟨rfl, hl⟩,
        if_neg (fun h => ha ((activeMask_iff s p l).mp h)), if_neg (fun h => hz ((zeroMask_iff s p l h64).mp h))]
    · have e : readV (putVec s p d f) (regD s p d) l = readV (putVec s p d f) (regD s p d + l / 64) (l % 64) := by
        unfold readV vecKey; congr 1; omega
      have e' : readV s (regD s p d) l = readV s (regD s p d + l / 64) (l % 64) := by
        unfold readV vecKey; congr 1; omega
      rw [e, e']
      unfold putVec
      rw [readV_writeLanes _ _ _ _ _ _ _ (Nat.mod_lt _ (by omega)), if_neg]
      omega
  others r l hl h := by
    unfold putVec
    rw [readV_writeLanes _ _ _ _ _ _ _ hl, if_neg]
    omega

/-- A word under R80 without flags: its result, its pops, its frame. -/
theorem vword_putVec {i : Instr} {s : State} (h : Issues i s) (p : Option Prefix) (d : BitVec 7) (f : Nat → Word) :
    ∃ t, vword i s (fun s' => putVec s' p d f) = .next t ∧ VecResult i p d f s t := by
  refine ⟨_, vword_next h _, ?_⟩
  have hw := putVec_written s p d f
  obtain ⟨v, g, hv⟩ := writeLanes_warp s (regD s p d) (activeMask s (pfx p)) (zeroMask s (pfx p)) f
  obtain ⟨q, hq⟩ := popOf_warp i (putVec s p d f)
  have hr : ∀ r l, readV (popOf i (putVec s p d f)) r l = readV (putVec s p d f) r l := fun r l => by
    unfold readV; rw [hq]
  refine ⟨⟨fun l hl ha => ?_, fun l hl hz => ?_, fun l hl ha hz => ?_, fun r l hl h => ?_⟩, fun k => ?_, ?_, ?_⟩
  · rw [hr]; exact hw.active l hl ha
  · rw [hr]; exact hw.zeroed l hl hz
  · rw [hr]; exact hw.kept l hl ha hz
  · rw [hr]; exact hw.others r l hl h
  · rw [popOf_queue h]
    have : queueOf (curWarp (putVec s p d f)) k = queueOf (curWarp s) k := by
      unfold putVec; rw [hv]; rfl
    rw [this]
  · unfold OnlyVecs; rw [hq]; unfold putVec; rw [hv]
  · exact (writeLanes_outside s _ _ _ _).trans (popOf_outside i _)

/-- The same for a word without queue operands. -/
theorem word_putVec {i : Instr} {s : State} (h : Issues i s) (p : Option Prefix) (d : BitVec 7) (f : Nat → Word)
    (hq : ∀ g, form i = some g → queueOpds g = []) :
    ∃ t, word i s (fun s' => putVec s' p d f) = .next t ∧ VecResult i p d f s t := by
  obtain ⟨t, ht, hr⟩ := vword_putVec h p d f
  refine ⟨t, ?_, hr⟩
  rw [← ht, vword_next h, word_next h]
  unfold popOf
  cases hf : form i with
  | none => rfl
  | some g => simp [hq g hf, popQueues]

/-! ### Flags (R64, R65) -/

theorem laneFlags_bit (act : Dword) (f : Nat → Flags) (ls : List Nat) (b : Nat) :
    (laneFlags act f ls).getLsbD b = true ↔ ∃ l ∈ ls, act.getLsbD l = true ∧ (f l).getLsbD b = true := by
  induction ls with
  | nil => simp [laneFlags]
  | cons m ls ih =>
    simp only [laneFlags, BitVec.getLsbD_or, Bool.or_eq_true, ih, List.mem_cons, exists_eq_or_imp]
    constructor
    · rintro (h | h)
      · split at h
        · rename_i ha; exact .inl ⟨ha, h⟩
        · simp at h
      · exact .inr h
    · rintro (⟨ha, h⟩ | h)
      · left; rw [if_pos ha]; exact h
      · exact .inr h

/-- A word under R80 and R64: its result, its flags, its pops, its frame. -/
theorem vword_putVecF {i : Instr} {s : State} (h : Issues i s) (p : Option Prefix) (d : BitVec 7)
    (f : Nat → Word × Flags) :
    ∃ t, vword i s (fun s' => putVecF s' p d f) = .next t ∧ VecFlagResult i p d f s t := by
  refine ⟨_, vword_next h _, ?_⟩
  have hw := putVec_written s p d fun l => (f l).1
  obtain ⟨v, g, hv⟩ := writeLanes_warp s (regD s p d) (activeMask s (pfx p)) (zeroMask s (pfx p)) fun l => (f l).1
  obtain ⟨q, hq⟩ := popOf_warp i (putVecF s p d f)
  have hm : curWarp (putVecF s p d f) =
      { curWarp (putVec s p d fun l => (f l).1) with
        ctl := { (curWarp (putVec s p d fun l => (f l).1)).ctl with
          wstat := (curWarp (putVec s p d fun l => (f l).1)).ctl.wstat |||
            ((laneFlags (activeMask s (pfx p)) (fun l => (f l).2) (lanesOf (curWarp s))).setWidth 32 <<< 3) } } := by
    unfold putVecF mergeFlags; simp
  have hr : ∀ r l, readV (popOf i (putVecF s p d f)) r l = readV (putVec s p d fun l => (f l).1) r l := fun r l => by
    unfold readV; rw [hq, hm]
  refine ⟨⟨fun l hl ha => ?_, fun l hl hz => ?_, fun l hl ha hz => ?_, fun r l hl h => ?_⟩, fun k => ?_, ?_, ?_⟩
  · rw [hr]; exact hw.active l hl ha
  · rw [hr]; exact hw.zeroed l hl hz
  · rw [hr]; exact hw.kept l hl ha hz
  · rw [hr]; exact hw.others r l hl h
  · rw [popOf_queue h]
    have : queueOf (curWarp (putVecF s p d f)) k = queueOf (curWarp s) k := by
      rw [hm]; unfold putVec; rw [hv]; rfl
    rw [this]
  · refine ⟨laneFlags (activeMask s (pfx p)) (fun l => (f l).2) (lanesOf (curWarp s)), ?_, fun b => ?_⟩
    · unfold OnlyVecsFlags; rw [hq, hm]; unfold putVec; rw [hv]
    · rw [laneFlags_bit]
      simp only [lanesOf, List.mem_range, activeMask_iff]
  · exact ((writeLanes_outside s _ _ _ _).trans (onlyWarp_setCur _ _).log).trans (popOf_outside i _)

/-! ### Operations that issue (R39) -/

theorem flagCount_flagDone (w : Warp) (f : BitVec 4) (n k : Nat) :
    flagCount (flagDone w f n) k = flagCount w k - (if f ≠ 15#4 ∧ k = f.toNat then n else 0) := by
  unfold flagDone
  split
  · rename_i h
    rcases h with h | h
    · simp [h]
    · subst h; simp
  · rename_i h
    have h15 : f ≠ 15#4 := fun hc => h (.inl hc)
    simp only [flagCount, Tbl.get_set]
    by_cases hk : f.toNat = k
    · simp [hk, h15]
    · simp [hk, Ne.symm hk]

theorem flagDone_warp (w : Warp) (f : BitVec 4) (n : Nat) : ∃ g, flagDone w f n = { w with flags := g } := by
  unfold flagDone
  split
  · exact ⟨_, rfl⟩
  · exact ⟨_, rfl⟩

/-- What `pushOp` does to the warp. -/
theorem pushOp_warp (s : State) (c : Cls) (early : Bool) (o : PendOp) : ∃ g h : _,
    curWarp (pushOp s c early o) = setEntry { curWarp s with
      flags := g, pend := (curWarp s).pend ++ [{ o with flag := if early then 15 else clsFlag (curEntry s) c }]
      nextOp := (curWarp s).nextOp + 1 } s.frag { remIssued (curEntry s) c with holds := h } ∧
    ∀ f, Tbl.get 0 g f = flagCount (curWarp s) f -
      (if early = true ∧ clsFlag (curEntry s) c ≠ 15#4 ∧ f = (clsFlag (curEntry s) c).toNat then 1 else 0) := by
  unfold pushOp
  simp only [curWarp_setCur]
  cases early with
  | true =>
    obtain ⟨g, hg⟩ := flagDone_warp (curWarp s) (clsFlag (curEntry s) c) 1
    refine ⟨g, match c with
      | .a => if clsFlag (curEntry s) c = 15#4 ∧ true = false then o.id :: (curEntry s).holds else (curEntry s).holds
      | .b => if clsFlag (curEntry s) c = 15#4 ∧ true = false then o.id :: (curEntry s).holds else (curEntry s).holds
      | _ => (curEntry s).holds, ?_, fun f => ?_⟩
    · simp only [if_true, hg]; cases c <;> rfl
    · have := flagCount_flagDone (curWarp s) (clsFlag (curEntry s) c) 1 f
      rw [hg] at this
      simpa [flagCount] using this
  | false =>
    refine ⟨_, _, rfl, fun f => ?_⟩
    simp [flagCount]

theorem pushOp_outside (s : State) (c : Cls) (early : Bool) (o : PendOp) : OnlyWarp s (pushOp s c early o) :=
  onlyWarp_setCur _ _

theorem remIssued_entry (e : Entry) (c : Cls) : ∃ a b, remIssued e c = { e with remA := a, remB := b } := by
  cases c <;> exact ⟨_, _, rfl⟩

/-- A word that issues an operation and pops its queues. -/
theorem pushOp_issued {i : Instr} {s : State} (h : Issues i s) (c : Cls) (early : Bool) (o : PendOp) :
    OpIssued i c early o s (popOf i (pushOp s c early o)) := by
  obtain ⟨q, hq⟩ := popOf_warp i (pushOp s c early o)
  obtain ⟨g, k, hw, hg⟩ := pushOp_warp s c early o
  have hc : (popOf i (pushOp s c early o)).frag = s.frag := by
    have := congrArg State.frag (popOf_outside i (pushOp s c early o)).rest
    exact this
  obtain ⟨a, b, hr⟩ := remIssued_entry (curEntry s) c
  refine ⟨?_, ?_, fun f => ?_, fun j => ?_, ?_, fun e he => ?_, ?_, ?_⟩
  · rw [hq, hw]; rfl
  · rw [hq, hw]; rfl
  · rw [hq, hw]; exact hg f
  · rw [popOf_queue h, hw]; rfl
  · unfold curEntry
    rw [hc, hq, hw]
    have : entryOf { setEntry { curWarp s with
        flags := g, pend := (curWarp s).pend ++ [{ o with flag := if early then 15 else clsFlag (curEntry s) c }]
        nextOp := (curWarp s).nextOp + 1 } s.frag { remIssued (curEntry s) c with holds := k } with queues := q } s.frag =
        { remIssued (curEntry s) c with holds := k } := Tbl.get_set_same _ _ _ _
    rw [this, hr]
    rfl
  · rw [hq, hw]
    exact Tbl.get_set_ne _ _ _ (Ne.symm he)
  · rw [hq, hw]; rfl
  · exact (pushOp_outside s c early o).log.trans (popOf_outside i _)

/-! ### Scalars -/

/-- A word that writes one scalar. -/
theorem word_writeS {i : Instr} {s : State} (h : Issues i s) (n : Nat) (v : Word) :
    ∃ t, word i s (fun s' => writeS s' n v) = .next t ∧ ScalarResult n v s t :=
  ⟨_, word_next h _, writeS_result s n v⟩

/-- A word that writes a pair. -/
theorem word_writeP {i : Instr} {s : State} (h : Issues i s) (n : Nat) (v : Dword) :
    ∃ t, word i s (fun s' => writeP s' n v) = .next t ∧ PairResult n v s t :=
  ⟨_, word_next h _, writeP_result s n v⟩

end Sys2Proof.Machine
end

