-- ==== Sys2Proof/Tests/Slice0.lean ====
section
/-! SUPPORT. Tests of one step on small states, and witnesses that the hypotheses of the statements can be met. Expected
values come from the encoding tables and rules of the spec, by hand. -/

namespace Sys2Proof.Tests

set_option Elab.async false



open Sys2Proof Sys2Proof.Machine

/-! ### Ill-formed words: one for each check (R30, R31, R37, R44, R46, R91, R98, R242, R245, R298) -/

/-- A prefix that changes nothing, with the fourth field `c`. -/
def plain (c : BitVec 7) : Prefix := ⟨0, false, 7, c, false, false, false, false, false, false, false, 2⟩

theorem test_refuses_rounding : illegal (.fadd (some { plain 0 with rnd := 5 }) 1 2 3) = some .prefixRounding := by decide
theorem test_refuses_unused_field : illegal (.iadd (some { plain 1 with k := 1 }) 1 2 3) = some .prefixField := by decide
theorem test_refuses_queue_bit : illegal (.sadd (some { plain 0 with aq := true }) 1 2 3) = some .queueBit := by decide
theorem test_refuses_queue_twice :
    illegal (.iadd (some { plain 0 with aq := true, bq := true }) 1 2 2) = some .queueTwice := by decide
theorem test_refuses_queue_number :
    illegal (.iadd (some { plain 0 with aq := true }) 1 6 2) = some .queueField := by decide
theorem test_refuses_scalar_192 :
    illegal (.sadd (some { plain 0 with dh := true }) 64 2 3) = some .scalarRange := by decide
theorem test_accepts_scalar_191 : illegal (.sadd (some { plain 0 with dh := true }) 63 2 3) = none := by decide
theorem test_refuses_odd_pair : illegal (.sadd64 none 1 2 4) = some .misalignedRun := by decide
theorem test_refuses_compare_k0 : illegal (.icmpEq none 0 0 1 2) = some .compareK0 := by decide
theorem test_refuses_combine_3 : illegal (.icmpEq none 3 1 1 2) = some .combine3 := by decide
theorem test_refuses_bare_cas : illegal (.acas none 1 2 4) = some .needsPrefix := by decide
theorem test_refuses_pop_q6 : illegal (.qpop none 1 6) = some .queueNumber := by decide
theorem test_refuses_flag_12 : illegal (.clause 0 12 15 0) = some .headerFlag := by decide
theorem test_refuses_unlisted_register : illegal (.csrrd none 10 3) = some .unlistedCsr := by decide

/-! ### Words written out from the encoding tables (R29, R37, R44, R51 to R54) -/

/-- The words decode to `i` and nothing is left. -/
noncomputable def reads (l : List Word) (i : Instr) : Bool := decode l == .ok (i, [])

theorem test_words_vector : (reads [0x02004103] (.iadd none 1 2 3) && reads [0x05804103] (.bfe none 1 2 3) &&
  reads [0x14004100] (.cvtfi none 1 2) && reads [0x12A04100] (.fsin none 1 2) && reads [0x1A004103] (.shfl none 1 2 3) &&
  reads [0xFCE82804, 0x10604103]
    (.ffma (some ⟨3, true, 2, 5, false, false, false, false, false, false, false, 1⟩) 1 2 3)) = true := by decide +kernel

theorem test_words_memory : (reads [0x1E004103] (.saddi none 1 2 3) && reads [0x40804103] (.ldw none 1 2 3) &&
  reads [0x42804103] (.stw none 1 2 3) && reads [0x44004103] (.sldw none 1 2 3) && reads [0x46004103] (.tld none 1 2 3) &&
  reads [0x48004103] (.aadd none 1 2 3) && reads [0x4C004000] (.fence none 1) && reads [0x4E000103] (.mzero none 2 3) &&
  reads [0x50000100] (.gath none 2) && reads [0x52000100] (.strm none 2) && reads [0x54000103] (.cwait none 2 3)) = true := by
  decide +kernel

theorem test_words_system : (reads [0x61404103] (.mma none 1 0 1 0 1 2 3) && reads [0x62004000] (.accz none 1) &&
  reads [0x81400040] (.br 1 2 0x40) && reads [0x88200005] (.barb 5) && reads [0x8A004100] (.ovld none 1 2) &&
  reads [0xA0028000] (.csrrd none 10 0) && reads [0xA0228001] (.csrwr none 10 1) && reads [0xA042858C] (.retype none 10 11 12) &&
  reads [0xA0640580] (.frq none 16 11) && reads [0xA0800000] (.eret none) && reads [0xA0A00000] (.wfi none) &&
  reads [0xA0C00205] (.ipi none 4 5) && reads [0xA0E0040A] (.ctxsv none 8 10) && reads [0xA101840A] (.ctxld none 6 8 10) &&
  reads [0xA1200205] (.wlatch none 4 5) && reads [0xA1400205] (.keyrev none 4 5) &&
  reads [0xFE001FE1] (.clause 0 15 15 1)) = true := by decide +kernel

theorem test_words_refused : ((decode [0]).toOption.isNone && (decode [0x0E000008]).toOption.isNone &&
  (decode [0xFCE82805, 0x10604103]).toOption.isNone && (decode [0xFCE82804, 0x81400040]).toOption.isNone) = true := by
  decide +kernel

/-! ### States -/

/-- A leaf that has reached the word at offset 17 of overlay 0, the first of its clause. -/
def leaf : Entry :=
  { Entry.blank with state := .leaf, owned := 0xFFFF, exec := 0xFFFF, pc := mkRef 0 0 0 18, parent := 15, here := 17 }

/-- Warp 16, the first of core 0, whose one fragment is that leaf. -/
def warp : Warp := { Warp.blank with status := .running, width := 16, vregs := 512, blk := 1, split := [(0, leaf)] }

/-- Core 0 holds two clauses, at offsets 16 and 18; block 1 of tenant 0 has the warps `ws`. -/
def tenantState (ws : Tbl Warp) (b : Block) : State :=
  { State.reset with
    cores := [(0, { CoreSt.blank with slots := [(0, placedSlot [0xFE001FE0, 0, 0xFE001FE0])] })]
    warps := ws, blocks := [(1, { b with warps := Tbl.keys ws })], nextBlk := 2, cur := 16 }

def onWarp (f : Warp → Warp) : State := tenantState [(16, f warp)] placedBlock
def onEntry (f : Entry → Entry) : State := tenantState [(16, { warp with split := [(0, f leaf)] })] placedBlock
def onBlock (f : Block → Block) : State := tenantState [(16, warp)] (f placedBlock)
def ten : State := tenantState [(16, warp)] placedBlock
/-- Scalars of the warp. -/
def withS (l : Tbl Word) : State := onWarp fun w => { w with scalars := l }

/-- Block 1 has a second warp, 17; the first is `w`. -/
def pair (w : Warp) (f : Block → Block) : State :=
  tenantState [(16, w), (17, { warp with index := 1 })]
    (f { placedBlock with cmd := { placedBlock.cmd with warps := 2 } })
def two : State := pair warp id

/-- The same with the first 512 MB of tenant 0 mapped read and write at 0x20000000 (R183). -/
def mapOf (s : State) : State := { s with mem := [(0, 1), (2, 1), (65536, 0x33), (65539, 0x20)] }

/-- An operation of warp 16, the first in its list, under flag 1. -/
def op (k : PKind) : PendOp := { newOp ten k with active := 0xFFFF, flag := 1 }
def holding (o : PendOp) (w : Warp) : Warp := { w with pend := [o], nextOp := 1 }

/-- The warp of the Tidemark core 2 runs, with its entry and its core's state as given. -/
def svcState (w : Warp) (c : SvcCore) : State :=
  { State.reset with
    warps := [(2, { w with
      status := .running, width := 1
      split := [(0, { leaf with owned := 1, exec := 1 })] })]
    svcs := [(2, { c with running := true })], cur := 2 }
def svc : State := svcState Warp.blank SvcCore.blank

/-- Every word of the list passes the checks of R49 in `s` and nothing holds it. -/
def allIssue (l : List Instr) (s : State) : Bool := l.all fun i => decide (issueFault i s = none) && !heldBack i s

theorem issues_of_all {l : List Instr} {s : State} (h : allIssue l s = true) : ∀ i ∈ l, Issues i s := by
  intro i hi
  have := List.all_eq_true.mp h i hi
  simp only [Bool.and_eq_true, decide_eq_true_eq, Bool.not_eq_true'] at this
  exact this

/-! ### Every word that the statements speak of issues somewhere -/

theorem witness_VectorIntegerResults_issue : ∀ i ∈ (
    [.iadd none 8 16 24, .isub none 8 16 24, .imul none 8 16 24, .imulh none 8 16 24, .umulh none 8 16 24,
      .imin none 8 16 24, .imax none 8 16 24, .umin none 8 16 24, .umax none 8 16 24, .iabs none 8 16, .ineg none 8 16,
      .iadds none 8 16 24, .isubs none 8 16 24, .uadds none 8 16 24, .usubs none 8 16 24, .imad none 8 16 24,
      .iaddi none 8 16 3, .shli none 8 16 3, .shri none 8 16 3, .srai none 8 16 3, .andi none 8 16 3, .ori none 8 16 3,
      .xori none 8 16 3, .roli none 8 16 3, .imuli none 8 16 3, .movi none 8 0, .movhi none 8 0, .laneid none 8,
      .smovi none 8 0, .smovhi none 8 0, .iadd (some { plain 0 with k := 3, z := true, dh := true, aq := true }) 8 5 24] : List Instr), Issues i ten :=
  issues_of_all (by decide +kernel)

theorem witness_VectorLogicResults_issue : ∀ i ∈ (
    [.and none 8 16 24, .or none 8 16 24, .xor none 8 16 24, .andn none 8 16 24, .not none 8 16, .shl none 8 16 24,
      .shr none 8 16 24, .sra none 8 16 24, .rol none 8 16 24, .popc none 8 16, .clz none 8 16, .brev none 8 16,
      .bfe none 8 16 24, .bfi none 8 16 24, .mov none 8 16, .bfi (some { plain 5 with k := 7, bq := true }) 8 16 0] : List Instr), Issues i ten :=
  issues_of_all (by decide +kernel)

theorem witness_SelectResult_issue : ∀ i ∈ (
    [.sel none 8 16 24, .sel (some { plain 0 with k := 1 }) 8 16 24] : List Instr), Issues i ten :=
  issues_of_all (by decide +kernel)

theorem witness_ScalarResults_issue : ∀ i ∈ (
    [.sadd none 8 16 24, .ssub none 8 16 24, .smul none 8 16 24, .sand none 8 16 24, .sor none 8 16 24, .sxor none 8 16 24,
      .sshl none 8 16 24, .sshr none 8 16 24, .ssra none 8 16 24, .smin none 8 16 24, .smax none 8 16 24,
      .sslt none 8 16 24, .ssltu none 8 16 24, .sseq none 8 16 24, .smov none 8 16, .s2v none 8 16, .saddi none 8 16 3,
      .sshli none 8 16 3, .sshri none 8 16 3, .sandi none 8 16 3, .sori none 8 16 3, .saddi64 none 8 16 3,
      .sadd64 none 8 16 24, .ssub64 none 8 16 24, .sshli64 none 8 16 3, .smov64 none 8 16,
      .sadd (some { plain 0 with dh := true, ah := true }) 63 0 127] : List Instr), Issues i ten :=
  issues_of_all (by decide +kernel)

theorem witness_Compares_issue : ∀ i ∈ (
    [.icmpEq none 1 2 16 24, .icmpNe none 1 2 16 24, .icmpLt none 1 2 16 24, .icmpLe none 1 2 16 24,
      .icmpGt none 1 2 16 24, .icmpGe none 1 2 16 24, .icmpLtu none 1 2 16 24, .icmpLeu none 1 2 16 24,
      .icmpGtu none 1 2 16 24, .icmpGeu none 1 2 16 24, .fcmpEq none 1 2 16 24, .fcmpNe none 1 2 16 24,
      .fcmpLt none 1 2 16 24, .fcmpLe none 1 2 16 24, .fcmpGt none 1 2 16 24, .fcmpGe none 1 2 16 24,
      .fcmpOrd none 1 2 16 24, .fcmpUno none 1 2 16 24,
      .fcmpLt (some { plain 0 with k := 7, z := true, bq := true }) 2 7 16 7] : List Instr), Issues i ten :=
  issues_of_all (by decide +kernel)

theorem witness_MaskWords_issue : ∀ i ∈ (
    [.kand none 2 2 2, .kor none 2 2 2, .kxor none 2 2 2, .kandn none 2 2 2, .knot none 2 2, .kmov none 2 2,
      .stok none 2 16, .kset none 2 16 24, .ktos none 8 2, .xrd none 8, .kpopc none 8 2, .kffs none 8 2, .xwr none 16] : List Instr), Issues i ten :=
  issues_of_all (by decide +kernel)

theorem witness_Binary32Results_issue : ∀ i ∈ (
    [.fadd none 8 16 24, .fsub none 8 16 24, .fmul none 8 16 24, .ffma none 8 16 24, .ffms none 8 16 24,
      .fnfma none 8 16 24, .fmin none 8 16 24, .fmax none 8 16 24, .fabs none 8 16, .fneg none 8 16, .fclass none 8 16,
      .ffloor none 8 16, .fceil none 8 16, .ftrunc none 8 16, .frint none 8 16, .fscale none 8 16 24,
      .ffma (some { plain 4 with k := 2, z := true, rnd := 4, cq := true }) 8 16 24] : List Instr), Issues i ten :=
  issues_of_all (by decide +kernel)

theorem witness_ConversionResults_issue : ∀ i ∈ (
    [.cvtfi none 8 16, .cvtfu none 8 16, .cvtif none 8 16, .cvtuf none 8 16, .cvtfh none 8 16, .cvthf none 8 16,
      .cvtfb none 8 16, .cvtbf none 8 16] : List Instr), Issues i ten :=
  issues_of_all (by decide +kernel)

theorem witness_PackedHalfResults_issue : ∀ i ∈ (
    [.hadd2 none 8 16 24, .badd2 none 8 16 24, .hsub2 none 8 16 24, .bsub2 none 8 16 24, .hmul2 none 8 16 24,
      .bmul2 none 8 16 24, .hfma2 none 8 16 24, .bfma2 none 8 16 24, .hmin2 none 8 16 24, .bmin2 none 8 16 24,
      .hmax2 none 8 16 24, .bmax2 none 8 16 24, .hfma2 (some { plain 4 with rnd := 3, ch := true }) 8 16 24] : List Instr), Issues i ten :=
  issues_of_all (by decide +kernel)

theorem witness_SpecialFunctionIssue_issue : ∀ i ∈ (
    [.frcp none 8 16, .frsq none 8 16, .fsqrt none 8 16, .fexp2 none 8 16, .flog2 none 8 16, .fsin none 8 16,
      .fcos none 8 16, .ftanh none 8 16] : List Instr), Issues i ten :=
  issues_of_all (by decide +kernel)

theorem witness_BlockFloatWords_issue : ∀ i ∈ (
    [.qman none 8 16 24, .dq none 8 16 24, .qexp none 8 16 24, .packm none 8 16 24, .unpkm none 8 16 24] : List Instr), Issues i ten :=
  issues_of_all (by decide +kernel)

theorem witness_ShuffleAndByteWords_issue : ∀ i ∈ (
    [.shfl none 8 16 24, .shflx none 8 16 24, .shflu none 8 16 24, .shfld none 8 16 24, .vbcast none 8 16 24,
      .blut none 8 16 24, .bluth none 8 16 24, .bprm none 8 16 24] : List Instr), Issues i ten :=
  issues_of_all (by decide +kernel)

theorem witness_ReductionResults_issue : ∀ i ∈ (
    [.vredadd none 8 16, .vredmin none 8 16, .vredmax none 8 16, .vredfadd none 8 16, .vscan none 8 16] : List Instr), Issues i ten :=
  issues_of_all (by decide +kernel)

theorem witness_NeighbourLinks_issue : ∀ i ∈ (
    [.nbl none 8 16, .nbr none 8 16, .nbx none 8 16] : List Instr), Issues i ten :=
  issues_of_all (by decide +kernel)

theorem witness_BranchRules_issue : ∀ i ∈ (
    [.br 1 2 2] : List Instr), Issues i ten :=
  issues_of_all (by decide +kernel)

theorem witness_TransferWords_issue : ∀ i ∈ (
    [.call 2, .brx none 16, .callx none 16, .rcv 2] : List Instr), Issues i ten :=
  issues_of_all (by decide +kernel)

theorem witness_ControlGroup_issue : ∀ i ∈ (
    [.nop none, .yield none, .winb none 16, .wina none 16, .trap none 16, .bkpt none, .syscall none 16] : List Instr), Issues i ten :=
  issues_of_all (by decide +kernel)

theorem witness_ExitWord_issue : ∀ i ∈ (
    [.exit none] : List Instr), Issues i ten :=
  issues_of_all (by decide +kernel)

theorem witness_BarrierWords_issue : ∀ i ∈ (
    [.barb 3, .barc 2, .barg 1, .arrb 8 3, .arrc 8 2, .arrg 8 1, .wbarb 16 3, .wbarc 16 2, .wbarg 16 1] : List Instr), Issues i ten :=
  issues_of_all (by decide +kernel)

theorem witness_WarpBarrierAndLimits_issue : ∀ i ∈ (
    [.barw] : List Instr), Issues i ten :=
  issues_of_all (by decide +kernel)

theorem witness_LoadStoreIssue_issue : ∀ i ∈ (
    [.ldb none 8 16 24, .ldbu none 8 16 24, .ldh none 8 16 24, .ldhu none 8 16 24, .ldw none 8 16 24, .ldd none 8 16 24,
      .ldq none 8 16 24, .ldacq none 8 16 24, .sldw none 8 16 3, .sldd none 8 16 3, .sldacq none 8 16 3, .stb none 8 16 24,
      .sth none 8 16 24, .stw none 8 16 24, .std none 8 16 24, .stq none 8 16 24, .strel none 8 16 24, .sstw none 8 16 3,
      .sstd none 8 16 3, .sstrel none 8 16 3,
      .ldq (some { plain 0 with k := 1, z := true, scope := 1, dh := true }) 124 16 24] : List Instr), Issues i ten :=
  issues_of_all (by decide +kernel)

theorem witness_AtomicIssues_issue : ∀ i ∈ (
    [.aadd none 8 16 24, .amin none 8 16 24, .amax none 8 16 24, .aumin none 8 16 24, .aumax none 8 16 24,
      .aand none 8 16 24, .aor none 8 16 24, .axor none 8 16 24, .axchg none 8 16 24, .afadd none 8 16 24,
      .aadd64 none 8 16 24, .redadd none 8 16 24, .redmin none 8 16 24, .redmax none 8 16 24, .redumin none 8 16 24,
      .redumax none 8 16 24, .redand none 8 16 24, .redor none 8 16 24, .redxor none 8 16 24, .redfadd none 8 16 24,
      .redadd64 none 8 16 24, .acas (some (plain 32)) 8 16 24, .acas64 (some { plain 32 with scope := 3 }) 8 16 24] : List Instr), Issues i ten :=
  issues_of_all (by decide +kernel)

theorem witness_TileWords_issue : ∀ i ∈ (
    [.tld none 8 16 24, .tst none 8 16 24, .tlda none 8 16 24, .tstr none 8 16 24] : List Instr), Issues i ten :=
  issues_of_all (by decide +kernel)

theorem witness_FenceAndMonitor_issue : ∀ i ∈ (
    [.fence none 8, .mon none 16, .mwait none 8 16 24] : List Instr), Issues i ten :=
  issues_of_all (by decide +kernel)

theorem witness_LeasesAndStash_issue : ∀ i ∈ (
    [.lease none 8 16 24, .lrel none, .stashmap none 16 24, .stashwb none 16 24, .stashinv none 16 24, .pref none 1 16 24] : List Instr), Issues i ten :=
  issues_of_all (by decide +kernel)

theorem witness_CountedWords_issue : ∀ i ∈ (
    [.mzero none 16 24, .minv none 16 24, .mcopy none 8 16 24, .gath none 16, .scat none 16] : List Instr), Issues i ten :=
  issues_of_all (by decide +kernel)

theorem witness_StreamsAndQueues_issue : ∀ i ∈ (
    [.strm none 16, .qstop none 5, .qstat none 8 2, .qpop none 8 2, .sendm none 16 24, .cwait none 1 3, .crd none 8 1] : List Instr), Issues i ten :=
  issues_of_all (by decide +kernel)

theorem witness_MatrixIssue_issue : ∀ i ∈ (
    [.accz none 3, .accrd none 8 3 1, .accwr none 3 16 1, .accadd none 3 16 1, .mstatrd none 8, .mctx none 3 3 1,
      .mma none 1 1 1 1 3 16 24, .mma (some { plain 60 with ch := true }) 1 1 1 1 15 16 24] : List Instr), Issues i ten :=
  issues_of_all (by decide +kernel)

theorem witness_OverlayTransfers_issue : ∀ i ∈ (
    [.ret none, .ovret none, .ovjmp none 16, .ovcall none 16] : List Instr), Issues i ten :=
  issues_of_all (by decide +kernel)

theorem witness_OverlayLoads_issue : ∀ i ∈ (
    [.ovld none 8 16, .ovevict none 16, .ovq none 8 16] : List Instr), Issues i ten :=
  issues_of_all (by decide +kernel)

theorem witness_SpecialRegisterReads_issue : ∀ i ∈ (
    [.csrrd none 10 0] : List Instr), Issues i ten :=
  issues_of_all (by decide +kernel)

theorem witness_SpecialRegisterWrites_issue : ∀ i ∈ (
    [.csrwr none 10 0] : List Instr), Issues i ten :=
  issues_of_all (by decide +kernel)

theorem witness_ServiceWords_issue : ∀ i ∈ (
    [.eret none, .wfi none, .ipi none 16 24, .wlatch none 16 24, .keyrev none 16 24] : List Instr), Issues i svc :=
  issues_of_all (by decide +kernel)

theorem witness_TypesAndContexts_issue : ∀ i ∈ (
    [.retype none 8 16 24, .frq none 8 16, .ctxsv none 16 24, .ctxld none 8 16 24] : List Instr), Issues i svc :=
  issues_of_all (by decide +kernel)

/-! ### Arithmetic: the hypotheses of each clause, and values at the edges -/

theorem witness_FloatSpecialOperands : fadd binary32 0 0x7F800001 0x3F800000 = (0x7FC00000, flagNV) ∧
    fmul binary32 3 0x3F800000 0xFFC00000 = (0x7FC00000, 0) ∧ fadd binary32 0 0x7F800000 0xFF800000 = (0x7FC00000, flagNV) ∧
    fmul binary32 0 0x80000000 0x7F800000 = (0x7FC00000, flagNV) ∧
    ffma binary32 0 false false 0 0xFF800000 0x7FC00000 = (0x7FC00000, flagNV) ∧
    fminmax binary32 false 0x7F800001 0x80000000 = (0x80000000, flagNV) ∧
    (fminmax binary32 true 0x7FC00000 0xFFC00001).1 = 0x7FC00000 ∧ fclass binary32 0x80000000 = 2 ^ 3 := by decide +kernel

theorem test_add_rounds_to_even : fadd binary32 0 0x3F800000 0x33800000 = (0x3F800000, flagNX) ∧
    fadd binary32 3 0x3F800000 0x33800000 = (0x3F800001, flagNX) ∧
    fmul binary32 0 0x7F000000 0x40800000 = (0x7F800000, flagOF ||| flagNX) := by decide +kernel

theorem witness_SpecialFunctionSpecials : special .rcp 0x7F800001 = (0x7FC00000, flagNV) ∧
    special .tanh 0xFFFFFFFF = (0x7FC00000, 0) ∧ special .rsq 0x80000001 = (0x7FC00000, flagNV) ∧
    special .sqrt 0xFF800000 = (0x7FC00000, flagNV) ∧ special .exp2 0x43000000 = (0x7F800000, flagOF ||| flagNX) ∧
    special .exp2 0x7F7FFFFF = (0x7F800000, flagOF ||| flagNX) ∧ special .cos 0xFF800000 = (0x7FC00000, flagNV) := by
  decide +kernel

theorem witness_SpecialFunctionIssue : specOpen .rcp 0 = false ∧ specOpen .sin 0x7F7FFFFF = true ∧
    (opOf (holding (op (.special 8)) warp) 0).map PendOp.kind = some (.special 8) ∧
    usedEntries (holding (op (.special 8)) warp) = [0] := by decide +kernel

/-- Every lane holds the quantisation word `q` in register 24, and so does scalar 24. -/
def quant (q : Word) : State :=
  onWarp fun w => { w with scalars := [(24, q)], vecs := (List.range 16).map fun l => (64 * 24 + l, q) }

theorem witness_BlockFloatWords_lanes : (∀ n ∈ [0x200, 0x800], ((List.range 16).all fun l =>
      decide (2 ≤ qFmt (srcB (quant (.ofNat 32 n)) none 24 l) ∧ qFmt (srcB (quant (.ofNat 32 n)) none 24 l) ≤ 8)) = true ∧
      allIssue [.qman none 8 16 24, .dq none 8 16 24] (quant (.ofNat 32 n)) = true) ∧
    qFmt (srcB (quant 0x100) none 24 0) = 1 ∧ qFmt (srcB (quant 0x900) none 24 0) = 9 ∧
    (execMask ten).getLsbD 0 = true ∧ (readK ten 0).getLsbD 0 = true := by decide +kernel

theorem witness_BlockFloatWords_scalar : (∀ n ∈ [0x200, 0x800, 0x1200], let q : Word := .ofNat 32 n;
      2 ≤ qFmt (readS (quant q) 24) ∧ qFmt (readS (quant q) 24) ≤ 8 ∧
      8 * 2 ^ qLen (readS (quant q) 24) ≤ (curWarp (quant q)).width ∧
      allIssue [.qexp none 8 16 24, .packm none 8 16 24, .unpkm none 8 16 24] (quant q) = true) ∧
    (∀ n ∈ [0x100, 0x900], let q : Word := .ofNat 32 n; ¬ (2 ≤ qFmt (readS (quant q) 24) ∧ qFmt (readS (quant q) 24) ≤ 8) ∧
      allIssue [.qexp none 8 16 24, .packm none 8 16 24, .unpkm none 8 16 24] (quant q) = true) ∧
    (curWarp (quant 0x2200)).width < 8 * 2 ^ qLen (readS (quant 0x2200) 24) := by decide +kernel

theorem witness_ShuffleAndByteWords : ∀ k ∈ [4, 5, 6],
    allIssue [.shfl none 8 16 24, .shflx none 8 16 24, .vbcast none 8 16 24]
      (onWarp fun w => { w with width := 2 ^ k }) = true := by decide +kernel

theorem witness_NeighbourLinks : ∀ n ∈ [0, 1, 2], let s := pair (holding (op (.neighbour n 8)) warp) id
    (opOf (warpOf s 16) 0).map PendOp.kind = some (.neighbour n 8) ∧ usedEntries (warpOf s 16) = [0] ∧
      olderLatch (warpOf s 16) (op (.neighbour n 8)) = false ∧ pointBefore (warpOf s 16) 0 = false ∧
      olderLatch { warpOf s 16 with pend := [op (.neighbour n 8), { op (.neighbour n 8) with id := 1 }] }
        { op (.neighbour n 8) with id := 1 } = true ∧
      peerWarp (asWarp s 16 0) ((warpOf s 16).index + 1) = some 17 ∧ (warpOf s 17).index = 1 ∧
      peerWarp (asWarp s 17 0) ((warpOf s 17).index - 1) = some 16 := by decide +kernel

/-! ### Issue, traps and control -/

theorem witness_WordIssueRule : encode (.icmpEq none 0 0 1 2) ≠ [] ∧ (issueFault (.icmpEq none 0 0 1 2) ten).isSome = true ∧
    encode (.cwait none 0 0) ≠ [] ∧ (let s := onWarp fun w => { w with counters := [(0, 1)] };
      issueFault (.cwait none 0 0) s = none ∧ heldBack (.cwait none 0 0) s = true) ∧
    Instr.wf (.icmpEq none 0 0 1 2) = false ∧ 16 ≤ ten.cur ∧
    (∀ i ∈ [Instr.eret none, .wfi none, .ipi none 4 5, .ctxsv none 8 10, .wlatch none 4 5, .keyrev none 4 5, .ctxld none 6 8 10,
        .csrrd none 10 0x800, .csrwr none 10 0x800], Instr.wf i = true) ∧
    (let s := svcState Warp.blank { SvcCore.blank with priv := false };
      s.cur = 2 ∧ (svcOf s 2).priv = false) ∧
    Instr.wf (.mma none 0 0 0 0 0 8 16) = true ∧ svc.cur < 16 ∧ Instr.wf (.iadd none 8 16 24) = true ∧
    (∀ n ∈ [0, 8], let s := onWarp fun w => { w with vregs := n };
      (curWarp s).vregs ≤ regD s none 8) := by decide +kernel

theorem witness_TakingTraps : 16 ≤ ten.cur ∧ (curWarp ten).trap = none ∧ svc.cur < 16 ∧
    (curWarp (onWarp fun w => { w with trap := some ⟨1, 0, 255, 0, 0, 0⟩ })).trap = some ⟨1, 0, 255, 0, 0, 0⟩ ∧
    (∀ n ∈ [0, 3, 4], (svcOf (svcState Warp.blank
      { SvcCore.blank with shelves := List.replicate n ⟨0, 0, 0, 0⟩ }) 2).shelves.length = n) := by decide +kernel

/-- Mask 2 holds the lower half of the lanes; `l` are leaves too; the first entry is `x`. -/
def half (x : Entry) (l : List Nat) : State :=
  onWarp fun w => { w with masks := [(2, 0xFF)], split := (0, x) :: l.map fun e => (e, { leaf with parent := 0 }) }

theorem witness_BranchRules : ([(0, 0, 0xFFFF), (1, 0, 0), (0, 2, 0xFF), (1, 2, 0xFF00), (0, 3, 0)].all fun e =>
      decide (takenLanes (half leaf []) e.1 e.2.1 = e.2.2) && allIssue [.br e.1 e.2.1 1] (half leaf [])) = true ∧
    execMask (half leaf []) = 0xFFFF ∧ execMask (half { leaf with exec := 0 } []) = 0 ∧
    ([(1, true), (0, false), (2, false), (-1, true), (-2, false)].all fun e =>
      goodTarget (curSlot ten) (labelOff ten e.1) == e.2) = true := by decide +kernel

theorem witness_DivergentBranch : (entryOf (curWarp ten) 0).state ≠ .free ∧ (entryOf (curWarp ten) 0).ser = 0 ∧
    (∀ n ∈ [0, 5, 6, 7], freeEntries (curWarp (half leaf ((List.range n).map Nat.succ))) = (List.range (7 - n)).map (· + n + 1)) ∧
    (∀ n ∈ [0, 1], let s := half { leaf with ser := .ofNat 2 n } [1, 2, 3, 4, 5, 6, 7];
      freeEntries (curWarp s) = [] ∧ (diverge (curWarp s) s.stamp 0 0xFF 0 0xFFFF).isSome = decide (n = 0) ∧
      allIssue [.br 0 2 1] s = true) := by decide +kernel

theorem witness_TransferWords : (∀ n ∈ [0, 1], goodTarget (curSlot ten) (labelOff ten (.ofNat 21 n)) = decide (n = 1) ∧
      allIssue [.call (.ofNat 21 n), .rcv (.ofNat 21 n)] ten = true) ∧
    (∀ n ∈ [16, 18], goodTarget (curSlot ten) n = true ∧ n < 2 ^ 16 ∧
      allIssue [.brx none 16, .callx none 16] (withS [(16, .ofNat 32 n)]) = true ∧
      (readS (withS [(16, .ofNat 32 n)]) (numA none 16)).toNat = n) ∧
    (∀ n ∈ [15, 17, 19, 0xFFFF, 0x10000, 0x10010], 2 ^ 16 ≤ n ∨ goodTarget (curSlot ten) n = false) := by decide +kernel

theorem witness_ControlGroup : (entryOf (warpOf (onEntry fun x => { x with notReady := true }) 16) 0).notReady = true ∧
    (∀ x ∈ [(0 : Int), 8, 504], x % 8 = 0 ∧ 0 ≤ x ∧ x < (curWarp ten).vregs) ∧
    (∀ x ∈ [(4 : Int), 512, -8], ¬ (x % 8 = 0 ∧ 0 ≤ x ∧ x < (curWarp ten).vregs)) ∧
    allIssue [.winb none 16, .wina none 16] (withS [(16, 8)]) = true ∧
    (dieOf ten ((warpOf ten 16).core / 40)).live = true ∧ (curBlock ten).replay = false ∧
    (dieOf { ten with dies := [(0, { Die.blank with live := false })] } ((warpOf ten 16).core / 40)).live = false ∧
    (curWarp ten).vregs = 512 ∧ (curWarp ten).ctl.wb = 0 ∧ (curWarp ten).blk ≠ 0 ∧ 16 ≤ ten.cur ∧
    allIssue [.syscall none 16, .trap none 16, .bkpt none] svc = true ∧ svc.cur < 16 ∧
    (entryOf (warpOf (onEntry fun x => { x with state := .parked, wait := .syscall 1 0 0 true }) 16) 0).wait =
      .syscall 1 0 0 true := by decide +kernel

theorem witness_ExitWord : (∀ s ∈ [two, pair (holding (op .store) warp) id],
      allIssue [.exit none] s = true ∧ usedEntries (curWarp s) = [s.frag] ∧ (curEntry s).ser = 0 ∧
      (curEntry s).parent = 15 ∧ (curWarp s).status = .running) ∧
    (curWarp two).pend = [] ∧ (curWarp two).counters = [] ∧ 16 ≤ two.cur ∧ liveWarps (curBlock two) = [0, 1] ∧
    (curWarp two).index = 0 := by decide +kernel

/-- The fragment is at the clause header at offset 16 that covers one word, `c`; one operation is under flag 3. -/
def header (c : Word) (n : Nat) : State :=
  { State.reset with
    cores := [(0, { CoreSt.blank with slots := [(0, placedSlot [0xFE001FE0, c])] })]
    warps := [(16, { warp with flags := [(3, n)], split := [(0, { leaf with here := 16, pc := mkRef 0 0 0 17 })] })]
    blocks := [(1, { placedBlock with warps := [16] })], nextBlk := 2, cur := 16 }

theorem witness_ClauseIssue : (∀ n ∈ [0x02004103, 0], let c : Word := .ofNat 32 n;
      (curEntry (header c 0)).state = .leaf ∧ (curWarp (header c 0)).status = .running ∧
      reach (curWarp (setFrag (header c 0) { curEntry (header c 0) with pc := mkRef 0 0 0 16 })) 0 0 = none ∧
      clauseReady (curWarp (header c 0)) (curEntry (header c 0)) 8 (clauseWords (curSlot (header c 0)) 17 1) = true) ∧
    checkCWords (header 0x02004103 0) 0 [] (clauseWords (curSlot (header 0x02004103 0)) 17 1) = none ∧
    (checkCWords (header 0 0) 0 [] (clauseWords (curSlot (header 0 0)) 17 1)).isSome = true ∧
    illegal (.clause 8 15 15 0) = none ∧ illegal (.clause 8 12 15 0) ≠ none ∧
    clauseReady (curWarp (header 0 1)) (curEntry (header 0 1)) 8 (clauseWords (curSlot (header 0 1)) 17 1) = false := by
  decide +kernel

/-- Warp 0 of the pair has arrived at block barrier 0, whose phase is 1. -/
def arrived (v : Word) : State := pair { warp with scalars := [(6, v)] } fun b => { b with barriers := [(0, ⟨[0], true⟩)] }

theorem witness_BarrierWords : (∀ s ∈ [ten, two], (curBlock s).status = .running ∧
      allIssue [.barb 0, .barc 7, .arrb 4 7, .arrc 5 0, .wbarb 6 0, .wbarc 7 7, .barg 0, .arrg 4 7, .wbarg 6 7] s = true) ∧
    (∀ lvl ∈ [0, 1], barrierFault two lvl 0 true = false ∧ barrierFault two lvl 7 false = false ∧
      barrierFault ten lvl 7 true = false) ∧
    barrierFull (recordArrival two 0 3) 0 (barrierKey two 0 1) 3 = false ∧
    barrierFull (recordArrival ten 0 3) 0 (barrierKey ten 0 1) 3 = true ∧ ten.cur ∈ (curBlock ten).warps ∧
    barrierFault ten 2 0 true = true ∧ barrierFault (arrived 0) 0 0 true = true ∧ barrierFault (arrived 0) 0 0 false = false ∧
    (barrierOf (arrived 0) 0 1 0).phase = true ∧ (readS (arrived 0) 6).getLsbD 0 = false ∧
    (readS (arrived 1) 6).getLsbD 0 = true := by decide +kernel

theorem witness_WarpBarrierAndLimits : allIssue [.barw] ten = true ∧ usedEntries (curWarp ten) = [ten.frag] ∧
    (curEntry ten).state = .leaf ∧ (curEntry ten).ser = 0 ∧ (curEntry ten).pend = 0 ∧ (curEntry ten).pendx = 0 ∧
    (curEntry ten).side = none ∧ allIssue [.barw] (half leaf [1]) = true ∧
    (entryOf (curWarp (half leaf [1])) 1).state = .leaf ∧
    (let s := pair { warp with split := [(0, { leaf with state := .parked, wait := .barrier 0 2 false })] } id;
      barrierBlocks s 0 1 = [1] ∧ (blockOf s 1).warps = [16, 17] ∧ (16 ≤ 16 ∧ 16 ≤ 17) ∧ barrierRuns s 0 1 = true ∧ waitersOf (warpOf s 16) 0 2 = [0] ∧
      (warpOf s 16).trap = none) ∧
    (let s := onEntry fun x => { x with state := .parked, wait := .barw 17 };
      barrierRuns s 3 16 = true ∧ waitersOf (warpOf s 16) 3 0 ≠ [] ∧ (warpOf s 16).trap = none) ∧
    barrierRuns (pair warp fun b => { b with status := .saved }) 0 1 = false := by decide +kernel

/-! ### Memory words and what performs them -/

/-- Tenant 0 has its first 512 MB mapped. -/
def mapped : State := mapOf ten

theorem witness_LoadStoreIssue_loads : (∀ n ∈ [1, 2, 4, 8, 16], ∀ al ∈ [true, false],
      accFault mapped .load al true (vectorAccesses mapped none 16 24 n (fun _ => []) fun _ => []) = none ∧
      (accFault ten .load al true (vectorAccesses ten none 16 24 n (fun _ => []) fun _ => [])).isSome = true) ∧
    (∀ v ∈ [0, 1], (accFault (mapOf (withS [(16, .ofNat 32 v)])) .load true false
      [⟨255, readP (withS [(16, .ofNat 32 v)]) (numA none 16) + 12, 4, [], []⟩]).isSome = decide (v = 1)) := by decide +kernel

theorem witness_LoadStoreIssue_stores : ∀ n ∈ [1, 2, 4, 8, 16],
    accFault mapped (.store n) false false (vectorAccesses mapped none 16 24 n (storedBytes mapped 8 n) fun _ => []) = none ∧
    (accFault ten (.store n) false false (vectorAccesses ten none 16 24 n (storedBytes ten 8 n) fun _ => [])).isSome =
      true := by decide +kernel

theorem witness_AtomicIssues : ∀ n ∈ [4, 8],
    accFault mapped .rmw true false (vectorAccesses mapped none 16 24 n (storedBytes mapped 8 n) (storedBytes mapped 32 n)) =
      none ∧
    (accFault (mapOf (withS [(16, 2)])) .rmw true false
      (vectorAccesses (withS [(16, 2)]) none 16 24 n (fun _ => []) fun _ => [])).isSome = true := by decide +kernel

def bytes0 : List Byte := [0, 0, 0, 0]

/-- An entry of the table of level 1 in place of the one of `mapped`. -/
def mappedBy (e : List Byte) : State := { ten with mem := Memory.writes [(0, 1), (2, 1)] 65536 e }

/-- The replay of an audited block, whose tenant's first page is a host page. -/
def replaying : State := setBlock (mappedBy [0x33, 0, 0, 0, 0, 0x10]) 1 { placedBlock with replay := true }

theorem witness_LoadStoreIssue_replay : (curBlock replaying).replay = true ∧
    (∀ a ∈ [Acc.load, .store 4, .rmw], ∀ k ∈ [PKind.load 8 1 4 false, .store, .red .add], let l := [⟨0, 0, 4, bytes0, []⟩];
      accFault replaying a true false l = none ∧ (unitsFor replaying a l).any (spoilsReplay (isRmw k)) = true) := by
  decide +kernel

theorem witness_AccessFaults : accCause mapped .load true false ⟨3, 1, 4, [], []⟩ = some 14 ∧
    accCause mapped .load true false ⟨0, 0, 4, [], []⟩ = none ∧ 16 ≤ mapped.cur ∧
    (∀ n ∈ [0, 2 ^ 29 - 1, 2 ^ 29, 2 ^ 55], regionOf (curBlock mapped) n = none) ∧
    Machine.translate mapped (curTenant mapped) (2 ^ 29 - 1) = .leaf ⟨0x3FFFFFFF, true, true, false, false, false, false, [0, 65536]⟩ ∧
    Machine.translate mapped (curTenant mapped) (2 ^ 29) = .fault ∧ Machine.translate mapped (curTenant mapped) (2 ^ 55) = .fault ∧
    Machine.translate { mapped with poison := [65536] } 0 0 = .poison ∧
    (∀ e ∈ [(0x23, true, false), (0x13, false, true), (0x33, true, true), (0x03, false, false)],
      Machine.translate (mappedBy [.ofNat 8 e.1, 0, 0, 0x20]) 0 0 = .leaf ⟨0x20000000, e.2.1, e.2.2, false, false, false, false, [0, 65536]⟩) ∧
    (∀ e ∈ [(0x33, true), (0x133, true), (0x37, false), (0x32, false), (0x233, false)],
      decide (walk { ten with mem := Memory.wr [] 65536 8 e.1 } 0 1 0 = .fault) = !e.2) := by decide +kernel

/-- Four bytes of lane `l` at `pa`. -/
def unit4 (l pa : Nat) (d : List Byte) (done : Bool) : MUnit :=
  ⟨l, 0, 4, .ofNat 64 (pa - 0x20000000), pa, false, false, false, true, false, false, [], d, [], done, false⟩

def bytes4 : List Byte := [1, 2, 3, 4]

/-- Operation 0 of warp 16, of kind `k`, with two units, the second done or not. -/
def opTwo (k : PKind) (a b : Bool) : PendOp :=
  { op k with units := [unit4 0 0x20000000 bytes4 a, unit4 1 0x20000004 bytes4 b] }
def accessing (k : PKind) (a b : Bool) : State := mapOf (onWarp (holding (opTwo k a b)))

theorem witness_LoadReturns : ∀ k ∈ [PKind.load 8 1 4 false, .load 8 1 1 true, .sload 8 true, .sload 8 false],
    UnitTurn (accessing k false false) 16 0 0 (opTwo k false false) (unit4 0 0x20000000 bytes4 false) ∧ isLoad k = true ∧
    isPeer 0x20000000 = false ∧ isPoison (accessing k false false) 0x20000000 = false ∧
    unitFree (accessing k false false) 16 (opTwo k false false) (unit4 0 0x20000000 bytes4 false) = true ∧
    NoDirtyLine (accessing k false false) 0x20000000 4 ∧ (blockOf (accessing k false false) 1).replay = false ∧
    (opTwo k false false).units[1]? = some (unit4 1 0x20000004 bytes4 false) ∧
    opOf (warpOf (accessing k true true) 16) 0 = some (opTwo k true true) ∧ isComplete (opTwo k true true) = true ∧
    StillRuns (accessing k true true) 16 := by
  unfold UnitTurn NoDirtyLine StillRuns; decide +kernel

/-- Operation 0 of warp 16, a store of two units, the first `x`; `s` changes the state. -/
def opUnit (x : MUnit) : PendOp := { op .store with units := [x, unit4 1 0x20000004 bytes4 false] }
def storing (x : MUnit) (f : State → State) : State := f (mapOf (onWarp (holding (opUnit x))))
/-- The same with the block in world 3. -/
def inWorld (s : State) : State := setBlock s 1 { blockOf s 1 with world := 3 }
def homeUnit : MUnit := unit4 0 0x20000000 bytes4 false
def peerUnit : MUnit := { homeUnit with pa := 0x800000000000 }

/-- The premises of the statement, and what the fate of the unit and of its lane is. -/
def storeCase (x : MUnit) (f : State → State) (fate : StoreFate) (r : Option Nat) : Prop :=
  UnitTurn (storing x f) 16 0 0 (opUnit x) x ∧ x.stash = false ∧ StillRuns (storing x f) 16 ∧
    (blockOf (storing x f) 1).replay = false ∧ storeFate (storing x f) 1 (blockOf (storing x f) 1).world x = fate ∧
    laneRefusal (storing x f) 1 (opUnit x) x.lane = r

theorem witness_StorePerforms : storeCase homeUnit id .perform none ∧
    unitFree (storing homeUnit id) 16 (opUnit homeUnit) homeUnit = true ∧
    takeoverFrom (storing homeUnit id) 16 homeUnit = none ∧ NoDirtyLine (storing homeUnit id) 0x20000000 4 ∧
    (let s := accessing .store false true;
      UnitTurn s 16 0 0 (opTwo .store false true) (unit4 0 0x20000000 bytes4 false) ∧
      storeFate s 1 0 (unit4 0 0x20000000 bytes4 false) = .perform) := by
  unfold storeCase UnitTurn NoDirtyLine StillRuns; decide +kernel

theorem witness_StorePerforms_fates : storeCase homeUnit inWorld (.refuse 7) (some 7) ∧ storeCase peerUnit inWorld (.refuse 8) (some 8) ∧
    storeCase homeUnit (fun s => { s with poison := [0x20000000] }) .poison none ∧ storeCase peerUnit id .lose none := by
  unfold storeCase UnitTurn StillRuns; decide +kernel

theorem witness_AtomicPerforms : ∀ k ∈ [PKind.atomic 8 1 .add, .red .smin, .atomic 8 2 .cas, .red (.fadd 0)],
    UnitTurn (accessing k false false) 16 0 0 (opTwo k false false) (unit4 0 0x20000000 bytes4 false) ∧
    (rmwOf k).isSome = true ∧ isComplete (opTwo k false false) = false ∧ isPeer 0x20000000 = false ∧
    storeFate (accessing k false false) 1 0 (unit4 0 0x20000000 bytes4 false) = .perform ∧
    atomicStopped (accessing k false false) 1 (opTwo k false false) = false ∧
    unitFree (accessing k false false) 16 (opTwo k false false) (unit4 0 0x20000000 bytes4 false) = true ∧
    NoDirtyLine (accessing k false false) 0x20000000 4 ∧ (blockOf (accessing k false false) 1).replay = false ∧
    (opTwo k false false).units[1]? = some (unit4 1 0x20000004 bytes4 false) ∧
    isComplete (opTwo k true true) = true ∧ StillRuns (accessing k true true) 16 := by
  unfold UnitTurn NoDirtyLine StillRuns; decide +kernel

theorem test_rmw_values : rmwNew .add 4 0xFFFFFFFF 1 0 = (0, 0) ∧ rmwNew .smin 4 0x80000000 1 0 = (0x80000000, 0) ∧
    rmwNew .umin 4 0x80000000 1 0 = (1, 0) ∧ rmwNew .cas 4 5 5 9 = (9, 0) ∧ rmwNew .cas 4 6 5 9 = (6, 0) := by decide +kernel

/-- A shape word: rows less one, log of the row's bytes, stride in units of 64 bytes. -/
def shape (w v : Nat) : State := mapOf (onWarp fun x => { x with vregs := v, scalars := [(24, .ofNat 32 w)] })

theorem witness_TileWords_issue_checks : (∀ e ∈ [(0x0F + 0x200 + 0x1000, 9), (0x800, 72)], let s := shape e.1 e.2;
      ¬ ((curWarp s).vregs < regD s none 8 + max 1 (2 ^ (e.1 / 256 % 16) / 4)) ∧
      accFault s .tload false true ((List.range (e.1 % 256 + 1)).map fun k =>
        ⟨k, readP s (numA none 16) + BitVec.ofNat 64 (64 * (e.1 / 4096) * k), 2 ^ (e.1 / 256 % 16), [], []⟩) = none) ∧
    (curWarp (shape 0x200 8)).vregs < regD (shape 0x200 8) none 8 + max 1 (2 ^ 2 / 4) ∧
    (accFault { shape 0x200 9 with mem := [] } .tload false true [⟨0, 0, 4, [], []⟩]).isSome = true ∧
    (∀ e ∈ [(0x100, true), (0x900, true), (0x210, true), (0x201, true), (0x1201, false)],
      decide (e.1 / 256 % 16 < 2 ∨ 8 < e.1 / 256 % 16 ∨ 16 < e.1 % 256 + 1 ∨
        (1 < e.1 % 256 + 1 ∧ 64 * (e.1 / 4096) < 2 ^ (e.1 / 256 % 16))) = e.2) := by decide +kernel

/-- A tile that wants the lines `l`. -/
def tile (k : PKind) (l m : List Nat) : PendOp := { opTwo k false false with toLock := l, locked := m }
def tiling (k : PKind) (l m : List Nat) : State := mapOf (onWarp (holding (tile k l m)))
def line0 : Nat := 0x20000000

/-- Its units are in the first peer window, which link 0 carries. -/
def linked (dead : Bool) (s : State) : State :=
  { s with links := [(0, { Link.blank with bound := true, node := 1, dead := dead, width := 4 })] }

theorem witness_TileWords_locks : (∀ k ∈ [PKind.tstore, .tload 8 1], let s := tiling k [line0] []; let o := tile k [line0] []
      opOf (warpOf s 16) 0 = some o ∧ isTile o.kind = true ∧ tileMayStart s 16 o = true ∧ isPeer line0 = false ∧
      lineFree s 16 o line0 = true ∧ tableFull s 16 o line0 = false ∧ StillRuns s 16 ∧ (blockOf s 1).replay = false ∧
      lineFree { s with locks := [(line0, 17, 0)] } 16 o line0 = false ∧
      lineFree (tiling k [line0, line0 + 128] []) 16 (tile k [line0, line0 + 128] []) line0 = true ∧
      tileMayStart (tiling k [line0, line0 + 128] []) 16 (tile k [line0, line0 + 128] []) = true ∧
      (tile k [] [line0]).ask = 0 ∧ tileMayStart (tiling k [] [line0]) 16 (tile k [] [line0]) = true ∧
      (∀ x ∈ o.units, x.stash = false ∧ storeFate s 1 0 x = .perform ∧ NoDirtyLine s x.pa 4 ∧ isPoison s x.pa = false ∧
        isPeer x.pa = false)) ∧
    (let o := { tile .tstore [] [] with id := 2 };
      tileMayStart (mapOf (onWarp fun w => { w with pend := [opTwo (.load 8 1 4 false) false false, { op .point with id := 1 }, o] })) 16 o = false) ∧
    (∀ x ∈ (tile .tstore [line0] []).units, storeFate (inWorld (tiling .tstore [line0] [])) 1 3 x = .refuse 7) ∧
    (blockOf (inWorld (tiling .tstore [line0] [])) 1).world = 3 ∧
    (∀ d ∈ [false, true], let p := 0x800000000000; let s := linked d (tiling .tstore [p] []);
      opOf (warpOf s 16) 0 = some (tile .tstore [p] []) ∧ isPeer p = true ∧ tileMayStart s 16 (tile .tstore [p] []) = true ∧
      linkAlive s p = !d ∧ (tile .tstore [p] []).ask = 0 ∧ StillRuns s 16) := by
  unfold NoDirtyLine StillRuns; decide +kernel

/-- A tile that wants a line of the memory side, and holds `n` locks of its table. -/
def fullTile (n : Nat) : PendOp :=
  { tile .tstore [line0] (List.replicate n line0) with units := [{ unit4 0 line0 bytes4 false with leafM := true }] }

theorem witness_TileWords_full : ∀ n ∈ [256, 255],
    opOf (warpOf (mapOf (onWarp (holding (fullTile n)))) 16) 0 = some (fullTile n) ∧
    tableFull (mapOf (onWarp (holding (fullTile n)))) 16 (fullTile n) line0 = decide (n = 256) ∧ (fullTile n).locked ≠ [] ∧
    (fullTile n).ask = 0 := by
  decide +kernel

/-! ### Ordering, leases, counted words, streams -/

/-- Warp 16 is parked with a wait. -/
def waiting (v : Wait) (f : Warp → Warp) : State :=
  mapOf (onWarp fun w => f { w with split := [(0, { leaf with state := .parked, wait := v })] })

/-- The leaf of virtual address 0 in `mapped`. -/
def page0 : Leaf := ⟨0x20000000, true, true, false, false, false, false, [0, 65536]⟩

/-- A monitor stands on virtual address 0. -/
def monitored (w : Warp) : Warp := { w with ctl := { w.ctl with mon := some 0 } }

theorem witness_FenceAndMonitor : (∀ n ∈ [0, 3], let o := { op (.fence 8) with scope := .ofNat 2 n };
      opOf (warpOf (onWarp (holding o)) 16) 0 = some o ∧ olderComplete (warpOf (onWarp (holding o)) 16) 0 = true ∧
      usedEntries (warpOf (onWarp (holding o)) 16) = [0]) ∧
    olderComplete { warp with pend := [op .store, { op (.fence 8) with id := 1 }] } 1 = false ∧
    (∀ n ∈ [0, 8, 4, 0x20000000], decide (n % 8 = 0) =
      !((readP (withS [(16, .ofNat 32 n)]) (numA none 16)).toNat % 8 != 0)) ∧
    checkAddr mapped .mon 0 = .ok page0 false ∧
    checkAddr mapped .mon 0x20000000 = .bad 12 ∧ (curWarp ten).ctl.mon = none ∧
    allIssue [.mwait none 8 16 24] (onWarp monitored) = true ∧ (curWarp (onWarp monitored)).ctl.mon ≠ none ∧
    (∀ n ∈ [0, 1], let s := waiting (.mwait 8 (.ofNat 64 n) none false 2) monitored;
      (entryOf (warpOf s 16) 0).wait = .mwait 8 (.ofNat 64 n) none false 2 ∧ (warpOf s 16).ctl.mon = some 0 ∧
      checkAddr (asWarp s 16 0) .mon 0 = .ok page0 false ∧
      olderMeets (warpOf s 16) (warpOf s 16).nextOp (lanesAll (entryOf (warpOf s 16) 0))
        (leafUnit 255 0 8 0 page0 false (warpOf s 16).upper [] []) = [] ∧
      homeFree s 16 (warpOf s 16).nextOp 0x20000000 = true ∧ (blockOf s 1).replay = false ∧ isPeer 0x20000000 = false ∧
      isPoison s 0x20000000 = false ∧ NoDirtyLine s 0x20000000 8 ∧
      s.mem.rd 0x20000000 8 = 0) ∧
    (entryOf (warpOf (waiting (.mwait 8 9 (some 4) false 2) id) 16) 0).wait = .mwait 8 9 (some 4) false 2 := by
  unfold NoDirtyLine; decide +kernel

/-- Tenant 0 with a lease limit; its first page leads to the frame of the entry. -/
def limited (n : Nat) (e : List Byte) : State :=
  { mappedBy e with tenants := [(0, { Tenant.blank with leaselim := .ofNat 13 n })] }

/-- A dirty stash line at virtual address 0 in region 2, of 128 bytes. -/
def stashed : State :=
  mapOf (onBlock fun b => { b with
    cmd := { b.cmd with stash := 1 }, regions := [(2, ⟨0, 1, 0⟩)]
    lines := [⟨0, 0x20000000, true, true, List.replicate 128 7, 0, false, false, false, []⟩] })

theorem witness_LeasesAndStash : checkAddr mapped .lease 0x20000000 = .bad 12 ∧
    (∀ n ∈ [0, 1, 4096], (tenantOf (limited n [0x33, 0, 0, 0x20]) 0).leaselim.toNat = n ∧
      checkAddr (limited n [0x33, 0, 0, 0x20]) .lease 0 = .ok page0 false) ∧
    (∀ e ∈ [([0x33, 0, 0, 0, 0, 0x10], 0x100000000000, true, false), ([0x33, 0, 0, 0, 0, 0x80], 0x800000000000, false, true)],
      checkAddr (limited 4096 (e.1.map (.ofNat 8))) .lease 0 = .ok { page0 with pa := e.2.1 } false ∧
      isHost e.2.1 = e.2.2.1 ∧ isPeer e.2.1 = e.2.2.2) ∧
    (let s := waiting (.lease 8 9 0x20000000 9) id;
      (entryOf (warpOf s 16) 0).wait = .lease 8 9 0x20000000 9 ∧ leasedByOther s 16 0x20000000 = false ∧ s.locks = [] ∧
      leasedByOther (setWarp s 17 { warp with lease := some (0x20000000, 1) }) 16 0x20000000 = true ∧
      checkAddr (asWarp s 16 0) .lease 9 ≠ .ok page0 true ∧
      isPoison (setBlock s 1 (blockOf stashed 1)) 0x20000000 = false ∧
      (match checkAddr (asWarp (setBlock s 1 (blockOf stashed 1)) 16 0) .lease 9 with
        | .ok l st => st && l.pa / 128 * 128 == 0x20000000
        | .bad _ => false) = true ∧ (curBlock ten).replay = false) := by decide +kernel

theorem witness_LeasesAndStash_stash : allIssue [.stashmap none 16 24, .stashwb none 16 24, .stashinv none 16 24] stashed = true ∧
    (∀ e ∈ [(2 ^ 25 + 7, 0, true), (2 ^ 25 + 8, 0, false), (2 ^ 25 + 2 ^ 12 + 7, 0, false), (3 * 2 ^ 24, 128, false),
        (15 * 2 ^ 24 + 2 ^ 12, 1, false), (15 * 2 ^ 24 + 2 ^ 12, 128, true)],
      mapBad (curBlock stashed) (e.1 / 2 ^ 24 % 16) (e.1 / 2 ^ 12 % 2 ^ 12) (e.1 % 2 ^ 12 + 1) e.2.1 = !e.2.2 ∧
      e.1 / 2 ^ 28 % 8 = 0 ∧ e.1 < 2 ^ 31 ∧ e.2.1 < 2 ^ 55) ∧ (2 ^ 31 + 2 ^ 25) / 2 ^ 28 % 8 = 0 ∧ (curBlock stashed).replay = false ∧
    16 ≤ stashed.cur ∧ mapBad (curBlock stashed) 1 1 1 (2 ^ 55) = false ∧
    (∀ l ∈ (curBlock stashed).lines, 0 ≤ l.va ∧ l.va < 0 + 128 ∧ l.dirty = true ∧ isPoison stashed l.pa = false) ∧
    (∀ e ∈ ten.blocks, ∀ l ∈ e.2.lines, l.dirty = false) := by decide +kernel

/-- The descriptor scalars of a gather: element size `z`, count `n`; the stash maps the first 1024 bytes. -/
def gathering (n z : Nat) : State :=
  { stashed with
    warps := [(16, { warp with scalars := [(18, 0), (20, 512), (22, .ofNat 32 (n + 65536 * z)), (23, 10)] })]
    blocks := [(1, { placedBlock with
      cmd := { placedBlock.cmd with stash := 2 }, warps := [16], regions := [(2, ⟨0, 8, 0⟩)] })] }

theorem witness_CountedWords : (∀ n ∈ [0, 1, 256, 257], let s := mapOf (withS [(24, .ofNat 32 n), (8, 0x1000000)]);
      allIssue [.mzero none 16 24, .minv none 16 24, .mcopy none 8 16 24] s = true ∧ (readS s 24).toNat = n ∧
      (curBlock s).replay = false ∧ (curWarp s).pend.find? (fun o => o.counter == some 3) = none ∧
      (readP s 16).toNat % 65536 = 0 ∧ (readP s 8).toNat % 65536 = 0) ∧
    (readP (withS [(16, 0xFFFF)]) 16).toNat % 65536 ≠ 0 ∧
    (let o := { op .mzero with counter := some 3 };
      (curWarp (onWarp (holding o))).pend.find? (fun o => o.counter == some 3) = some o ∧ o.finished = false) ∧
    (let s := mapOf (onBlock fun b => { b with replay := true });
      (curBlock s).replay = true ∧ (match frameRun (mappedBy [0x33, 0, 0, 0, 0, 0x10]) .tstore 0 1 with
        | .ok l => l.any (spoilsReplay false)
        | .error _ => false) = true) ∧
    (let s := mapOf (withS [(24, 2), (8, 0x1000000)]);
      (match frameRun s .tstore 0 2, frameRun s .load 0x1000000 2 with
        | .ok l, .ok m => outOfReach s false l == none && outOfReach s true (l ++ m) == none &&
            m.all fun u => l.all fun v => v.pa != u.pa
        | _, _ => false) = true ∧
      (match frameRun s .load 0x1FFF0000 2 with
        | .error (c, x) => c == 12 && x == 0x20000000
        | .ok _ => false) = true ∧
      (match frameRun (mappedBy [0x33, 0, 0, 0, 0, 0x80]) .tstore 0 1 with
        | .ok l => (outOfReach s false l).isSome
        | .error _ => false) = true) ∧
    (∀ e ∈ [(1, 2, true), (128, 2, true), (129, 2, false), (0, 2, false)],
      let s := gathering e.1 e.2.1;
      allIssue [.gath none 16, .scat none 16] s = true ∧
      decide (1 ≤ e.1 ∧ inOneRegion (curBlock s) 0 (4 * e.1 + 4) = true ∧
        inOneRegion (curBlock s) 512 (e.1 * 2 ^ e.2.1) = true) = e.2.2) := by decide +kernel

/-- A frame as a unit of a counted operation. -/
def frame (pa : Nat) : MUnit := { unit4 0 pa [] false with len := 65536 }

/-- A counted operation on the frame at 0x20010000. -/
def counted (k : PKind) (fin : Bool) : PendOp :=
  { op k with counter := some 3, finished := fin, units := [frame 0x20010000] }
def counting (k : PKind) : State := mapOf (onWarp fun w => { holding (counted k false) w with counters := [(3, 1)] })

theorem witness_CountedCompletions : (∀ k ∈ [PKind.mzero, .minv, .mcopy [frame 0x20000000], .gather false 0 0 0 1 2 9 0 []],
      let s := counting k;
      opOf (warpOf s 16) 0 = some (counted k false) ∧ olderPerformed (warpOf s 16) 0 = true ∧ StillRuns s 16 ∧
      framesFree s (counted k false).units = true ∧ framesFree s (frame 0x20000000 :: (counted k false).units) = true ∧
      framesFree { s with locks := [(0x2001FF80, 17, 0)] } (counted k false).units = false ∧
      worldRefusal s (blockDie s 1 false 0x20010000) (warpClient s 16).world (frame 0x20010000) = none ∧ isPeer 0x20010000 = false ∧ (blockOf s 1).replay = false ∧
      NoDirtyLine s 0x20000000 65536 ∧ NoDirtyLine s 0x20010000 65536 ∧ s.memOk ∧
      (warpOf s 16).pend.find? (fun q => q.counter == some 3) = some (counted k false)) ∧
    olderPerformed (warpOf (accessing .store false false) 16) 1 = false := by
  unfold StillRuns NoDirtyLine State.memOk; decide +kernel

theorem witness_CountedCompletions_elements : ∀ j ∈ [0, 9, 10, 0xFFFFFFFE, 0xFFFFFFFF],
    let s : State := { mapped with mem := Memory.wr mapped.mem 0x20000100 4 j };
    (match engRead s (warpClient s 16) 0x100 4 with
      | (_, .ok b) => decide (leNat b = j)
      | _ => false) = true := by decide +kernel

theorem witness_CountedCompletions_poison : let s : State := { mapped with poison := [0x20000100] };
    (match engRead s (warpClient s 16) 0x100 4 with
      | (s1, .poison) => match engWrite s1 (warpClient s 16) 0x200 [0, 0, 0, 0] with
        | (_, .ok ()) => true
        | _ => false
      | _ => false) = true := by decide +kernel

/-- Stream 0 of a warp that has `n` entries in q0; the shape word says 2 rows of 8 words. -/
def streaming (n : Nat) (act : Bool) (s : State → State) : State :=
  s (onWarp fun w => { w with
    queues := [(0, List.replicate n [])], streams := [(0, ⟨0, 0, 7 + 4096 + 2 ^ 25, 0, 0, act, false, false⟩)] })

theorem witness_StreamsAndQueues : (∀ q ∈ [0, 5], let s := withS [(16, 4), (19, .ofNat 32 (2 ^ 25 + 2 ^ 27 * q))];
      allIssue [.strm none 16] s = true ∧ (readS s 19).toNat / 2 ^ 24 % 4 ≠ 3 ∧ (readS s 19).toNat / 2 ^ 27 % 8 = q ∧
      (readS s 19).toNat < 2 ^ 30 ∧ (readP s 16).toNat % 4 = 0 ∧ (streamOf (curWarp s) q).active = false) ∧
    (∀ e ∈ [(0, true, mapOf, true), (15, true, mapOf, true), (16, true, mapOf, true), (0, true, id, false)],
      let s := streaming e.1 e.2.1 e.2.2.1;
      (streamOf (warpOf s 16) 0).active = true ∧ (queueOf (warpOf s 16) 0).length = e.1 ∧
      olderPerformed (warpOf s 16) 0 = true ∧
      (match readEntry s { warpClient s 16 with blk := 0 } (streamOf (warpOf s 16) 0) 0 16 with
        | (_, .ok l) => decide (l.length = 16)
        | _ => false) = e.2.2.2) ∧
    (streamOf (warpOf (streaming 0 false id) 16) 0).active = false ∧
    (∀ e ∈ [(0, false), (1, false), (2, false), (3, false), (4, true), (0x80000000, true)],
      (List.range 32).any (fun i => decide (2 ≤ i) && (BitVec.ofNat 32 e.1).getLsbD i) = e.2) ∧ (curBlock two).cmd.warps = 2 := by
  decide +kernel

theorem witness_StreamsAndQueues_send : (∀ l ∈ [[1], [0, 1]], ∀ n ∈ [0, 15, 16],
      let s := setWarp (pair (holding (op (.sendm l)) warp) id) 17
        { warp with index := 1, queues := [(7, List.replicate n [])] };
      opOf (warpOf s 16) 0 = some (op (.sendm l)) ∧ olderSend (warpOf s 16) 0 1 = false ∧
      olderPerformed (warpOf s 16) 0 = true ∧ usedEntries (warpOf s 16) = [0] ∧ warpIndexed s (warpOf s 16).blk 1 = some 17 ∧
      (queueOf (warpOf s 17) 7).length = n) ∧
    allIssue [.sendm none 16 24] (pair { warp with scalars := [(16, 3)] } id) = true := by decide +kernel

/-! ### Matrix words and overlays -/

/-- A format block in scalars 120 to 123: formats and flags in the high words, scale addresses 0 and 128. -/
def formats (a b : Word) (v : Nat) : State :=
  onWarp fun w => { w with vregs := v, scalars := [(121, a), (122, 128), (123, b)] }

theorem witness_MatrixIssue : (∀ e ∈ [(0x09000000, 0x09000000, true), (0x0A000000, 0x0A000000, true), (0x09000000, 0x0A000000, false),
        (0x03000000, 0x02000000, false), (0x49000000, 0x09000000, false), (0x09800000, 0x09000000, false), (0x08000000, 0x02000000, true)],
      let s := formats (.ofNat 32 e.1) (.ofNat 32 e.2.1) 512;
      let x := readP s 120;
      let y := readP s 122;
      let bfp := fun f : Nat => f = 2 ∨ f = 4 ∨ f = 8;
      decide (x.extractLsb' 62 2 = 0 ∧ y.extractLsb' 62 2 = 0 ∧ x.getLsbD 55 = false ∧ y.getLsbD 55 = false ∧
        ((bfp (x.extractLsb' 56 4).toNat ∧ bfp (y.extractLsb' 56 4).toNat) ∨
          ((x.extractLsb' 56 4).toNat = 9 ∧ (y.extractLsb' 56 4).toNat = 9) ∨
          ((x.extractLsb' 56 4).toNat = 10 ∧ (y.extractLsb' 56 4).toNat = 10))) = e.2.2 ∧
      allIssue [.mma none 0 0 0 0 3 16 24] s = true) ∧
    regsA 9 9 false = 64 ∧ regsB 9 9 16 = 64 ∧
    (inOneRegion (curBlock (gathering 1 2)) 0 (expBytesA 8 2 0 16) = true ∧
      inOneRegion (curBlock (gathering 1 2)) 512 (expBytesB 8 2 0) = true) ∧
    inOneRegion (curBlock ten) 0 (expBytesA 8 2 0 16) = false ∧ (curWarp ten).ctl.mstat.getLsbD 7 = false ∧
    (∀ e ∈ [(([] : Tbl Word), some 0), ((List.range 256).map fun l => (64 * 48 + l, (0x44444444 : Word)), none)],
      let s := onWarp fun w => { w with
        ctl := { w.ctl with mstat := 0x80 }, vecs := e.1, scalars := [(121, 0x09000000), (122, 128), (123, 0x09000000)] };
      allIssue [.mma none 1 0 0 0 3 16 24] s = true ∧ (curWarp s).ctl.mstat.getLsbD 7 = true ∧
      badMeta s (activeMask s (pfx none)) 16 9 9 = e.2) := by decide +kernel

/-- A matrix entry of operation 0 of warp 16 at the head of context `ctx`. -/
def entry (m : MOp) (st : Bool) : MEntry := ⟨16, 0, m, 0xFFFF, st, none, [], [], [], [], false⟩
def engine (m : MOp) (st : Bool) (ctx : Nat) : State :=
  { onWarp (holding (op .matrix)) with
    cores := [(0, if ctx = 0 then { CoreSt.blank with q0 := [entry m st] } else { CoreSt.blank with q1 := [entry m st] })] }

theorem witness_MatrixEngine : ∀ m ∈ [MOp.accz 1, .accrd 8 1 3 0, .accwr 2 8 0, .accadd 2 8 1, .mstatrd 9, .mctx 2 3 false,
      .mma 9 9 0 0 false false false false 15 16 32 0 0], ∀ ctx ∈ [0, 1],
    (if headWaits (coreOf (engine m false ctx) 0) (coreOf (engine m false ctx) 0).turn
      then (coreOf (engine m false ctx) 0).turn else 1 - (coreOf (engine m false ctx) 0).turn) = ctx ∧
    matrixQueue (coreOf (engine m false ctx) 0) ctx = [entry m false] ∧ exponentsReady (engine m false ctx) (entry m false) = true ∧
    matrixQueue (coreOf (engine m true ctx) 0) ctx = [entry m true] ∧
    opOf (warpOf (engine m true ctx) 16) 0 = some (op .matrix) ∧ usedEntries (warpOf (engine m true ctx) 16) = [0] := by
  decide +kernel

/-- An overlay with one entry point, at offset 16; HASH as SHA-512 gives it (R157). -/
def imageWords : List Word :=
  [0, 18, 1, 0, 16, 0, 0, 0, 0, 0, 0, 0] ++ [0xE3A57E57, 0xE5E8F445, 0xEAD62E6A, 0xD0AB9914] ++ [0xFE001FE0, 0x02004103]

/-- Slot 0 of core 0 holds the overlay in state `st`; the link pair and the pair at 16 hold `c`. -/
def overlay (st : SState) (c : Dword) (sh : List Nat) : State :=
  { onWarp fun w => { w with scalars := [(16, c.extractLsb' 0 32), (17, c.extractLsb' 32 32), (190, c.extractLsb' 0 32),
      (191, c.extractLsb' 32 32)] } with
    cores := [(0, { CoreSt.blank with slots := [(0, { Slot.blank with
      state := st, count := 1, sharers := sh, code := 6, words := imageWords })] })] }

theorem witness_OverlayTransfers : (∀ st ∈ [SState.ready, .failed, .loading, .poison], ∀ n ∈ [0, 15, 16, 17],
      let s := overlay st (mkRef 0 0 0 (.ofNat 16 n)) [0];
      allIssue [.ret none, .ovret none, .ovjmp none 16, .ovcall none 16] s = true ∧
      readP s 190 = mkRef 0 0 0 (.ofNat 16 n) ∧ readP s (numA none 16) = mkRef 0 0 0 (.ofNat 16 n) ∧
      refId (readP s 190) = refId (curEntry s).pc ∧ refBad (readP s 190) = false ∧
      findSlot s (slotsOf s 16) (runnerOf s 16) (readP s 190) = some 0 ∧ (slotAt (slotsOf s 16) 0).state = st) ∧
    (∀ e ∈ [(0, 16, true), (16, 16, true), (17, 17, false)], goodTarget (slotAt (slotsOf (overlay .ready 0 [0]) 16) 0)
      (if e.1 < 16 then headerHalf (slotAt (slotsOf (overlay .ready 0 [0]) 16) 0) (16 + 2 * e.1) else e.1) = e.2.2) ∧
    (let s := overlay .ready (mkRef 1 0 0 16) [0];
      refId (readP s 190) ≠ refId (curEntry s).pc ∧ findSlot s (slotsOf s 16) (runnerOf s 16) (readP s 190) = none ∧
      imageByte s (runnerOf s 16) 1 0 = .fault ∧ imageByte { s with poison := [32768] } (runnerOf s 16) 1 0 = .poison) ∧
    refBad (mkRef 0 0 0 0x4000) = true := by decide +kernel

/-- The image stands in frame 0x2000, a CODE frame that tenant 0 maps as overlay 0. -/
def withImage (s : State) : State :=
  { s with
    mem := Memory.writes (Memory.writes [] 32768 [1, 0, 1]) 65536 [0x2B, 0, 0, 0x20] ++
      Memory.writes [] 0x20000000 (wordBytes imageWords)
    types := [(0x2000, mkType 2 0 0 0 0 0 0)] }

def slot0 (st : SState) : Slot := { Slot.blank with state := st, count := 1, sharers := [0], words := imageWords }

theorem witness_OverlayLoads_image : loadImage (withImage ten) (loaderOf 16 (slot0 .loading)) (slot0 .loading) =
      .ok imageWords ∧
    reloadWords (withImage ten) { slot0 .poison with image := [0x20000000] } 18 1 = some imageWords ∧
    reloadWords { withImage ten with poison := [0x20000000] } { slot0 .poison with image := [0x20000000] } 18 1 = none ∧
    loadImage ten (loaderOf 16 (slot0 .loading)) (slot0 .loading) = .error 4 := by decide +kernel

theorem witness_OverlayLoads : (∀ st ∈ [SState.loading, .ready, .poison], let s := overlay st 0 [0];
      (slotAt (slotsOf s 16) 0).first = 0 ∧ (slotAt (slotsOf s 16) 0).count ≠ 0 ∧ (slotAt (slotsOf s 16) 0).state = st ∧
      (∀ w ∈ s.warps, w.2.pend = [] ∧ w.2.split.map (fun e => e.2.wait) = [.none]) ∧
      findSlot s (slotsOf s 16) (runnerOf s 16) (mkRef 0 0xFE 0 0) = some 0) ∧
    (let s := withS [(16, 1)];
      findSlot s (slotsOf s 16) (runnerOf s 16) (mkRef 1 0xFE 0 0) = none ∧ chooseRun s 16 (runnerOf s 16).mask 1 = .run 1 ∧
      StillRuns s s.cur ∧ chooseRun s 16 0 1 = .none ∧ chooseRun s 16 1 1 = .pinned) ∧
    refBad (readP (overlay .ready (mkRef 0 0 0 16 ||| 0x8000) [0]) 16) = true ∧
    allIssue [.ovevict none 16, .ovq none 8 16] (overlay .ready (mkRef 0 0 0 16 ||| 0x8000) [0]) = true ∧
    (let s := overlay .ready (mkRef 0 0 0 16) [0];
      isCurrent (slotsOf s 16) (runnerOf s 16) (readP s 16) = true ∧ isPinned s 16 0 = true ∧
      isPinned { s with warps := [] } 16 0 = false ∧ isCurrent (slotsOf s 16) (runnerOf s 16) (mkRef 0 0xFE 0 0) = false) ∧
    (let s := waiting (.reload (mkRef 0 0 0 16) (some 7) 17 false) id;
      (entryOf (warpOf s 16) 0).wait = .reload (mkRef 0 0 0 16) (some 7) 17 false ∧ refBad (mkRef 0 0 0 16) = false ∧
      findSlot s (slotsOf s 16) (runnerOf s 16) (mkRef 0 0 0 16) = some 0 ∧ (slotAt (slotsOf s 16) 0).state = .ready ∧
      goodTarget (slotAt (slotsOf s 16) 0) 16 = true) := by
  unfold StillRuns; decide +kernel

/-! ### Service cores -/

theorem witness_SpecialRegisters : (∀ n ∈ [0, 1, 2, 0x10, 0x11, 0x20, 0x21, 0x26, 0x28, 0x40, 0x4F, 0x60, 0x67],
      allIssue [.csrrd none 10 (.ofNat 14 n), .csrwr none 10 (.ofNat 14 n)] ten = true) ∧
    (∀ n ∈ [0, 0x10, 0x40, 0x60, 0x800, 0x801, 0x802, 0x803, 0x804, 0x805, 0x806, 0x809, 0x810, 0x811, 0x820],
      allIssue [.csrrd none 10 (.ofNat 14 n), .csrwr none 10 (.ofNat 14 n)] svc = true) ∧
    (svcOf (svcState Warp.blank { SvcCore.blank with msgs := [7] }) 2).msgs = [7] ∧ (svcOf svc 2).shelves = [] ∧
    (svcOf (svcState Warp.blank { SvcCore.blank with shelves := [⟨1, 2, 3, 4⟩] }) 2).shelves = [⟨1, 2, 3, 4⟩] ∧
    (warpOf ten 16).status ≠ .absent := by decide +kernel

/-- The service core holds the overlay of `imageWords` in slot 0, and a shelf that returns to `pc`. -/
def shelved (pc : Dword) (l : List Shelf) : State :=
  svcState Warp.blank { SvcCore.blank with
    shelves := ⟨pc, 0x80000000, 0, 5⟩ :: l
    slots := [(0, { Slot.blank with state := .ready, count := 1, sharers := [64], words := imageWords })] }

theorem witness_ServiceWords_eret : (svcOf svc svc.cur).shelves = [] ∧ allIssue [.eret none] svc = true ∧
    (let s := shelved (mkRef 0 0 0 16) [];
      allIssue [.eret none] s = true ∧ s.cur < 16 ∧ refBad (mkRef 0 0 0 16) = false ∧
      findSlot s (slotsOf s s.cur) (runnerOf s s.cur) (mkRef 0 0 0 16) = some 0 ∧
      goodTarget (slotAt (slotsOf s s.cur) 0) 16 = true) ∧
    (let c := mkRef 0 0 0 16 ||| 0x8000;
      allIssue [.eret none] (shelved c []) = true ∧ (svcOf (shelved c []) 2).shelves = [⟨c, 0x80000000, 0, 5⟩] ∧
      refBad c = true) := by decide +kernel

/-- The service core with its entry `x`. -/
def svcEntry (x : Entry) (c : SvcCore) : State := { svcState Warp.blank c with
  warps := [(2, { Warp.blank with status := .running, width := 1, split := [(0, x)] })] }

theorem witness_ServiceWords_waits : (∀ n ∈ [0, 1, 8],
      (svcOf (svcState Warp.blank { SvcCore.blank with pend := .ofNat 4 n }) 2).pend.toNat = n ∧
      (entryOf (warpOf (svcEntry { leaf with state := .parked, wait := .wfi } { SvcCore.blank with pend := .ofNat 4 n }) 2) 0).wait =
        .wfi) ∧
    (∀ n ∈ [0, 15, 16], ∀ h ∈ [[], [(5, (1 : Word))]],
      let s := svcState Warp.blank { SvcCore.blank with msgs := List.replicate n 0, held := h };
      (svcOf s 2).msgs.length = n ∧ (svcOf s 2).held = h) ∧
    (∀ e ∈ [(15, true), (16, false), (0, true)], (decide (e.1 ≤ 15) && decide (e.1 / 4 < diesOf svc)) = e.2) ∧
    diesOf { svc with part := .gx9h } ≤ 15 / 4 ∧
    (∀ i ∈ [0, 3], let s := svcEntry { leaf with left := 0 } { SvcCore.blank with pend := .ofNat 4 (2 ^ i), hold := 0 };
      (svcOf s 2).running = true ∧ (warpOf s 2).status = .running ∧ (entryOf (warpOf s 2) 0).state = .leaf ∧
      (entryOf (warpOf s 2) 0).left = 0 ∧ (svcOf s 2).shelves = [] ∧ (svcOf s 2).pend.getLsbD i = true ∧
      (svcOf s 2).hold = 0) := by decide +kernel

theorem witness_ServiceWords_latches : (∀ e ∈ [(39, 255, true), (40, 0, false), (39, 256, false), (192 + 39, 0, true)],
      let s := svcState { Warp.blank with scalars := [(4, .ofNat 32 e.1), (5, .ofNat 32 e.2.1)] } SvcCore.blank;
      allIssue [.wlatch none 4 5] s = true ∧
      decide ((readS s 4).toNat % 64 ≤ 39 ∧ (readS s 5).toNat ≤ 255 ∧ (readS s 4).toNat / 64 % 4 < diesOf s) = e.2.2) ∧
    diesOf { svc with part := .gx9h } ≤ (192 + 39) / 64 % 4 ∧ (coreOf svc 39).latch = .latched ∧ (coreOf svc 39).world = 0 ∧
    (coreOf (setCore svc 39 { CoreSt.blank with latch := .draining }) 39).latch ≠ .latched ∧
    (∀ e ∈ [(0, false), (1, true), (255, true), (256, false)],
      let s := { svcState { Warp.blank with scalars := [(4, .ofNat 32 e.1)] } SvcCore.blank with
        keys := [(1, ⟨.active, 0, none⟩), (255, ⟨.active, 0, none⟩)] };
      allIssue [.keyrev none 4 5] s = true ∧
      decide ((readS s 4).toNat ≠ 0 ∧ (readS s 4).toNat ≤ 255 ∧ (keyOf s (readS s 4).toNat).state = .active) = e.2) := by
  decide +kernel

/-- Frame 0x2000 has the type `ty` of tenant 0, with `n` counted references. -/
def typed (s : State) (ty n : Nat) : State := { s with types := [(0x2000, mkType ty 0 0 n 0 0 0)] }

theorem witness_TypesAndContexts_types : (∀ e ∈ [(0x2000, 0, 0, 1, 0), (0x2000, 1, 0, 1, 2), (0x2000, 1, 1, 0, 4),
        (0x10000000, 1, 0, 1, 1), (0x2000, 1, 0, 0, 0)], retypeCode (typed svc e.2.1 e.2.2.1) e.1 e.2.2.2.1 = e.2.2.2.2) ∧
    retypeCode (typed ten 0 0) 0x2000 1 = 3 ∧ retypeCode (typed ten 1 0) 0x2000 2 = 0 ∧
    hasType (typed svc 1 0) 0x2000 = true ∧ (svcOf svc 2).priv = true ∧
    (16 ≤ ten.cur ∧ teType (typeOf (typed ten 1 0) 0x2000) ≠ 0 ∧ teOwner (typeOf (typed ten 1 0) 0x2000) = curTenant ten) ∧
    hasType (typed ten 1 0) 0x10000000 = false := by decide +kernel

/-- Block 1 of core 0 is as given, and the scalars 8 to 10 of the service core hold an address and a handle. -/
def saving (st : BStatus) (pa h : Nat) : State :=
  { svcState { Warp.blank with scalars := [(8, .ofNat 32 pa), (10, .ofNat 32 h)] } SvcCore.blank with
    blocks := [(1, { placedBlock with
      status := st, cmd := { placedBlock.cmd with width := 16, vregs := 8, flags := 0 }, warps := [], ctx := none })]
    types := [(0x2000, mkType 6 0 0 0 0 0 0)] }

theorem witness_TypesAndContexts_save : (∀ e ∈ [(BStatus.halting, 0x20000000, true, true), (.running, 0x20000000, false, true),
        (.halting, 0x20000020, true, false), (.forced, 0x10000, true, false)],
      let s := saving e.1 e.2.1 0;
      allIssue [.ctxsv none 8 10] s = true ∧ handleBlock s (readS s (numB none 10)) = some 1 ∧ savable s 1 = e.2.2.1 ∧
      decide ((readP s (numA none 8)).toNat % 64 = 0 ∧
        inContext s (readP s (numA none 8)).toNat (imageLen (blockOf s 1).cmd) = true) = e.2.2.2) ∧
    handleBlock (saving .halting 0 0) (readS (saving .halting 0 0xFFFFFFFF) 10) = none := by decide +kernel

/-- The image of a block of one warp of width 16 with 8 vector registers, in the frame 0x2000. -/
def contextImage : State :=
  { saving .absent 0x20000000 0 with
    mem := Memory.writes [] 0x20000000 (headerBytes { placedBlock with
      cmd := { placedBlock.cmd with width := 16, vregs := 8, flags := 0 } } false) }

theorem witness_TypesAndContexts_load : loadStatus (saving .absent 0x20000 0) 0x20000 [] 0 = 5 ∧
    allIssue [.ctxld none 6 8 10] contextImage = true ∧
    (let s := contextImage;
      let pa := (readP s (numA none 8)).toNat;
      let l := readBytes s pa (if inContext s pa 64 then num (readBytes s pa 64) 4 4 else 64);
      l.length = imageLen { placedBlock.cmd with width := 16, vregs := 8, flags := 0 } ∧
      loadStatus s pa l (readS s (numB none 10)) = 0) := by decide +kernel

/-! ### Copy rings and Tidemark -/

/-- Block 1 has a ring of 16 entries in region 15, at virtual address 0; `m` stands in its memory. -/
def ringing (r : Ring) (m : List (Nat × List Byte)) : State :=
  { onBlock fun b => { b with
      cmd := { b.cmd with stash := 2, ring := 16 }, regions := [(15, ⟨0, 9, 0⟩)], ring := r } with
    mem := m.foldl (fun u e => Memory.writes u e.1 e.2) [(0, 1), (2, 1), (65536, 0x33), (65539, 0x20)] }

def copy (src dst : Nat) : RingCopy := ⟨0, src, dst, 8, 0, 0, []⟩

theorem witness_RingsAndLaunch_ring : (let s := ringing { Ring.blank with stored := true } [];
      ringServed (blockOf s 1) = true ∧ (blockOf s 1).ring.stored = true ∧ ringC (blockOf s 1) = 512 ∧
      (ringGet s 1 512).2 = some 0 ∧ (ringGet s 1 516).2 = some 0 ∧ (ringGet s 1 520).2 = some 0) ∧
    ringServed placedBlock = false ∧ (blockOf (ringing Ring.blank []) 1).ring.notify = none ∧
    (∀ e ∈ [(0, 0, true), (1, 0, true), (16, 0, true), (1, 3, false)],
      let s := ringing { Ring.blank with notify := some e.1 } [(0x20000014, [.ofNat 8 e.2.1])];
      ringServed (blockOf s 1) = true ∧ (blockOf s 1).ring.notify = some e.1 ∧ (blockOf s 1).ring.stopped = false ∧
      (ringGet s 1 516).2 = some 0 ∧
      (match readCopy (ringGet s 1 516).1 1 0 with
        | (s2, some c) => decide (entryCheck s2 1 c = 0)
        | _ => false) = e.2.2) ∧
    ringN (blockOf (ringing { Ring.blank with notify := some 17 } []) 1) < 17 := by decide +kernel

theorem witness_RingsAndLaunch_copy : (let c := copy 0x10000 0x10080;
      let s := ringing { Ring.blank with copies := [c] } [];
      copyOf (blockOf s 1) c.id = some c ∧ (liveWarps (blockOf s 1)).isEmpty = false ∧ (blockOf s 1).replay = false ∧
      ctlKind c.ctl = 0 ∧ ctlStamp c.ctl = false ∧ ctlSwz c.ctl = 0 ∧
      (match engUnit s (blockClient s 1) false 0x10000 8, engUnit s (blockClient s 1) true 0x10080 8 with
        | .ok u, .ok v => !u.stash && !v.stash && !engWaits s (blockClient s 1) u.pa && !engWaits s (blockClient s 1) v.pa &&
            !unitPoison s 1 u && storeFate s 1 0 v == .perform
        | _, _ => false) = true ∧ NoDirtyLine s 0x20010000 8 ∧ NoDirtyLine s 0x20010080 8 ∧
      (match runCopy { s with locks := [(0x20010000, 17, 0)] } 1 c with
        | .ok none => true
        | _ => false) = true) ∧
    (match runCopy (ringing Ring.blank []) 1 (copy 0x20000000 0) with
      | .error e => e == 3
      | _ => false) = true := by
  unfold NoDirtyLine; decide +kernel

/-- A LAUNCH (or, `k` = 2, a MARK) of task 7 with one block of one warp, or with `v` vector registers. -/
def commandBytes (k v : Nat) : List Byte :=
  leBytes 2 k ++ leBytes 2 0 ++ leBytes 4 7 ++ leBytes 8 0 ++ leBytes 8 0 ++
    (if k = 2 then leBytes 8 0 ++ leBytes 8 0 else
      leBytes 4 1 ++ leBytes 1 1 ++ leBytes 1 0 ++ leBytes 1 1 ++ leBytes 1 0 ++ leBytes 2 v ++ leBytes 2 0 ++ leBytes 4 0)

/-- Tenant 0 with its journal in two frames. -/
def owner : Tenant :=
  { Tenant.blank with
    created := true, dbell := 0x2001, jframe := 0x2002, jcopy := 0x2003, qtab := 0x20030000, sched := 0x100FFFFF }

/-- Its queue table is at 0x20030000, its queue 0 has 16 entries at 0x20040000, `j` records stand in its journal, and it has
one CONTEXT frame for images. -/
def launching (d : Die) (k v j : Nat) : State :=
  { State.reset with
    tenants := [(0, owner)], dies := [(0, d)], types := [(0x2008, mkType 6 0 0 0 0 0 0)]
    mem := [(0, 1), (2, 1), (65536, 0x33), (65539, 0x20)] ++ Memory.writes [] 0x20020000 (leBytes 4 j) ++
      Memory.writes [] 0x20030000 (leBytes 8 0x20040000 ++ [4]) ++ Memory.writes [] 0x20040000 (commandBytes k v)
    warps := [(2, { Warp.blank with status := .running, width := 1, split := [(0, leaf)] })]
    svcs := [(2, { SvcCore.blank with running := true })] }

def serving (tail : Option Nat) : Die := { Die.blank with serve := [(0, 0, tail)], tcb := 0x20050000 }

/-- The journal takes one more record, but for the frame's end. -/
def journalTakes (s : State) (t : Nat) : Bool :=
  !journalFails s t && (journalPlaces (mendNext s t) t).all fun a => physFree (mendNext s t) a

theorem room_of_takes {s : State} {t : Nat} (h : journalTakes s t = true) : JournalRoom s t := by
  simpa [journalTakes, JournalRoom, List.all_eq_true] using h

theorem witness_RingsAndLaunch_doorbell : (let s := launching Die.blank 1 8 0;
      (tenantOf s 0).created = true ∧ (tenantOf s 1).created = false ∧ physGood s (kickWord s 0 63) = true ∧
      NoDirtyLine s (kickWord s 0 63) 4 ∧ journalBase s 0 ≠ 0 ∧ physGood (mendJournal s 0 0) (journalBase s 0) = true ∧
      physGood (mendJournal s 0 0) (journalCopy s 0) = true ∧ tideServes s 0 = true ∧
      (tenantOf s 64).created = false ∧ physGet s (kickWord s 0 0) 4 = 0 ∧ physGet s (kickWord s 0 32) 4 = 0 ∧ tcbOf s 0 = 0 ∧
      ((List.range 64).filter fun t => (tenantOf s t).created) = [0]) ∧
    (let s := { launching Die.blank 1 8 0 with locks := [(0x20010000, 17, 0)] };
      physThere s (kickWord s 0 3) = true ∧ physFree s (kickWord s 0 3) = false) ∧
    physThere { launching Die.blank 1 8 0 with poison := [0x20010000] } 0x20010000 = false ∧
    physGood { launching Die.blank 1 8 0 with locks := [(0x20020000, 17, 0)] } 0x20020000 = false ∧
    tideServes (launching { Die.blank with frozen := true } 1 8 0) 0 = false ∧ journalBase State.reset 0 = 0 ∧
    (let s := launching { serving none with dones := [(7, 1)] } 1 8 0;
      (dieOf s 0).dones = [(7, 1)] ∧ tcbOf s 0 ≠ 0 ∧ doneWaiting s 0 = 0 ∧ NoDirtyLine s (tcbOf s 0) 256 ∧
      physGood s (tcbOf s 0) = true ∧ physGood s (tcbOf s 0 + 0x80 + 8 * (physGet s (tcbOf s 0 + 0x40) 4 % 16)) = true ∧
      kickWord s 0 32 + 4 ≤ tcbOf s 0 ∧ doneWaiting { s with mem := Memory.wr s.mem 0x20050040 4 16 } 0 = 16) := by
  unfold NoDirtyLine; decide +kernel

theorem witness_RingsAndLaunch_command : (∀ e ∈ [(1, 8, 0, 0, true), (1, 0, 0, 0, true), (1, 7, 0, 2, true), (2, 0, 0, 0, true), (3, 0, 0, 1, true),
        (1, 8, 2045, 0, true), (1, 8, 2046, 0, false)],
      let s := launching (serving (some 1)) e.1 e.2.1 e.2.2.1;
      let a := descAddr s 0 0;
      let l := readBytes s 0x20040000 128;
      (dieOf s 0).serve = [(0, 0, some 1)] ∧ tideServes s 0 = true ∧ (tenantOf s 0).created = true ∧ physGood s a = true ∧
      (tenantOf s 0).stopped = [] ∧ (tenantOf s 0).halted = [] ∧ (tenantOf s 0).marks = [] ∧ physGet s (a + 20) 4 = 0 ∧ physGet s (a + 8) 1 = 4 ∧
      physGet s a 8 % 128 = 0 ∧ physGood s (physGet s a 8) = true ∧ refusalCode s 0 l = e.2.2.2.1 ∧
      (leNat (l.take 2) = 2 ↔ e.1 = 2) ∧
      journalTakes (markNow (accept s 0 0 0 (commandOf l)) 0 (commandOf l)) 0 = e.2.2.2.2 ∧
      journalFails (markNow (accept s 0 0 0 (commandOf l)) 0 (commandOf l)) 0 = !e.2.2.2.2) ∧
    (dieOf (launching (serving none) 1 8 0) 0).serve = [(0, 0, none)] ∧
    (let s := { launching (serving (some 1)) 1 8 0 with types := [] };
      refusalCode s 0 (readBytes s 0x20040000 128) = 3) := by decide +kernel

/-- Task 7 is accepted, with predecessors `p`; its grid is `g`, and its command is changed by `f`. -/
def accepted (k : Nat) (p : List Word) (g : Grid) (f : Command → Command) : State :=
  let c : Command := f { commandOf (commandBytes k 8) with pred := p }
  { launching Die.blank k 8 0 with
    tenants := [(0, { owner with pending := [⟨5, 2, c⟩] })]
    grids := [(gridKey 0 7, { g with live := true, cmd := c })], groups := [(0, { Group.blank with running := some 0, recs := [(0, 0x100FFFFF)] })] }

theorem witness_RingsAndLaunch_dispatch : (∀ e ∈ [(1, false), (1, true), (2, false), (2, true)],
      let s := accepted e.1 (if e.2 then [0x80000001] else []) Grid.blank id;
      tideServes s 0 = true ∧ (doomed s 0).map (fun x => (x.1.queue, x.2)) = (if e.2 then some (5, 1) else none) ∧
      (chooseHead s 0 (tenantOf s 0).pending).map (fun x => (x.queue, x.cmd.kind)) = some (5, e.1) ∧
      (∀ x ∈ (tenantOf s 0).pending, stampWaits s 0 x.cmd false = false ∧ stampWaits s 0 x.cmd true = false) ∧
      journalTakes s 0 = true) ∧
    (let s := accepted 1 [1] Grid.blank id;
      doomed s 0 = none ∧ chooseHead s 0 (tenantOf s 0).pending = none ∧ (tenantOf s 0).pending ≠ []) := by decide +kernel

theorem witness_RingsAndLaunch_place : (let s := accepted 1 [] { Grid.blank with dispatched := true } id;
      let g := gridOf s (gridKey 0 7);
      g.cmd.task = 7 ∧ g.live = true ∧ g.dispatched = true ∧ g.placed < g.cmd.grid ∧ g.cmd.flags.testBit 3 = false ∧
      (groupOf s 0).running = some 0 ∧ mayRunIn s 0 0 = true ∧ tideServes s 0 = true ∧
      (dieOf s 0).out = false ∧ coreTakes s 7 0 = true ∧ wantsGang g.cmd = false ∧ placeRoom s g.cmd 7 0 = true ∧
      clusterElsewhere s (gridKey 0 7) g.cmd g.placed 0 = false ∧ freeSlot s 7 = some 0 ∧
      areaFor s 0 g.cmd (areasUsed s) = some 0x20080000 ∧ journalTakes s 0 = true ∧ g.cmd.warps = 1) ∧
    (let s := accepted 1 [] { Grid.blank with dispatched := true } fun c => { c with flags := 8 };
      let g := gridOf s (gridKey 0 7);
      g.cmd.task = 7 ∧ g.live = true ∧ g.dispatched = true ∧ g.placed = 0 ∧ 0 < g.cmd.grid ∧ g.cmd.flags.testBit 3 = true ∧
      g.cmd.grid % max 1 g.cmd.cluster = 0) ∧
    (gridOf (accepted 1 [] { Grid.blank with dispatched := true, placed := 1 } id) (gridKey 0 7)).placed = 1 := by decide +kernel

theorem witness_RingsAndLaunch_complete : (∀ e ∈ [(0, false), (1, true)], ∀ f ∈ [false, true],
      let s := accepted 1 [] { Grid.blank with dispatched := true, exited := e.1, failed := f } fun c => { c with stampAddr := 0x60000 };
      let g := gridOf s (gridKey 0 7);
      decide (g.live = true ∧ g.dispatched = true ∧ g.cmd.grid ≤ g.exited ∧ g.queue = 0 ∧ g.audits = 0 ∧ g.cmd.task = 7) = e.2 ∧
      stampWaits s 0 g.cmd g.failed = false ∧ tideServes s 0 = true ∧ isPending s 0 7 = true ∧ journalTakes s 0 = true ∧ (blockOf s 0).replay = false ∧
      (match journalPut s 0 4 7 0x60000 0 with
        | some s1 => match engUnit s1 (tableClient s1 0) true 0x60000 8 with
          | .ok x => !engWaits s1 (tableClient s1 0) x.pa && !x.stash && storeFate s1 0 0 x == .perform
          | _ => false
        | none => false) = true) ∧
    (let s := accepted 1 [] { Grid.blank with dispatched := true, exited := 1 } id;
      journalFails { s with mem := Memory.wr s.mem 0x20020000 4 2046 } 0 = true) := by decide +kernel

/-! ### Sharing cores -/

/-- Tenants 0 and 1 are runnable in group 0, with weights 0 and `w`; tenant `r` is running there. -/
def sharing (r : Option Nat) (w : Nat) : State :=
  let rec1 : BitVec 128 := 0x100000000000001 + BitVec.ofNat 128 (w * 2 ^ 40);
  { onBlock id with
    tenants := [(0, { Tenant.blank with sched := 0x100FFFFF }), (1, { Tenant.blank with sched := rec1, slotmask := 3 })]
    blocks := [(1, placedBlock), (2, { placedBlock with tenant := 1, status := .saved, warps := [] })]
    groups := [(0, { Group.blank with running := r, recs := [(0, 0x100FFFFF), (1, rec1)] })] }

/-- An audit of a block of task 7 of tenant 0 that ran on core 3. -/
def audit (r : Option Nat) (v : Verdict) (c : Command) : Audit := ⟨0, 7, 0, 3, c, [], [], 9, r, [], [], 9, v⟩

theorem witness_SharingCores_quantum : (∀ r ∈ [none, some 0, some 1], ∀ w ∈ [0, 5], let s := sharing r w;
      0 < groupCount s ∧ runnable s 0 0 = true ∧ runnable s 1 0 = true ∧ weightOf (recIn s 0 1) = w ∧
      (groupOf s 0).running = r) ∧
    (blockOf (sharing (some 0) 5) 1).status = .running ∧ (groupOf (endQuantum (sharing (some 0) 5) 0 7) 0).running = some 1 ∧
    (groupOf (endQuantum (sharing (some 0) 0) 0 7) 0).running = some 0 ∧
    quantumOf (Tbl.get 0 (groupOf (sharing none 1) 0).recs 1) = 1 ∧
    groupCount (sharing none 0) ≤ 20 ∧ (groupOf (endQuantum ten 0 7) 0).running = none ∧
    (let s := { State.reset with
        tenants := [(0, { Tenant.blank with sched := 0x100FFFFF })]
        dies := [(0, { Die.blank with audits := [audit none .running Command.blank] })] };
      (tenantOf s 0).sched.getLsbD 0 = true ∧ auditWaits s (audit none .running Command.blank) = true ∧ s.blocks = [] ∧
      s.grids = []) := by decide +kernel

/-- Block 1 has the status `b`, and its warp `w`, with `n` words of its clause left. -/
def blockIs (b : BStatus) (w : WStatus) (n : Nat) : State :=
  tenantState [(16, { warp with status := w, split := [(0, { leaf with left := n })] })]
    { placedBlock with status := b }

def latched (l : Latch) (b : BStatus) : State :=
  { blockIs b .running 0 with cores := [(0, { CoreSt.blank with latch := l, target := 3, askers := [2] })] }

theorem witness_SharingCores_timeout : (∀ e ∈ [(WStatus.running, 0, false), (.halted, 0, true), (.stopped, 1, false), (.stopped, 0, true)],
      let s := blockIs .halting e.1 e.2.1;
      (blockOf s 1).status = .halting ∧ (blockStill s 1 = true ↔ e.2.2 = true)) ∧
    (blockOf (blockIs .rolling .stopped 1) 1).status = .rolling ∧ (blockOf ten 1).status ≠ .halting := by decide +kernel

theorem witness_SharingCores_latch : (coreOf (latched .latched .running) 0).latch = .latched ∧
    (coreOf (latched .draining .running) 0).latch = .draining ∧ blocksOn (latched .draining .running) 0 ≠ [] ∧
    blocksOn (latched .draining .exited) 0 = [] ∧ (coreOf (latched .clearing .exited) 0).latch = .clearing ∧
    (coreOf (latched .clearing .exited) 0).askers = [2] := by decide +kernel

/-- Between clauses, its next header at offset 16; one operation may be under flag 3, for which the clause waits. -/
def between (n : Nat) : State :=
  { State.reset with
    cores := [(0, { CoreSt.blank with slots := [(0, placedSlot [0xFE001FE0 ||| 0x10000, 0])] })]
    warps := [(16, { warp with flags := [(3, n)], split := [(0, { leaf with pc := mkRef 0 0 0 16 })] })]
    blocks := [(1, { placedBlock with warps := [16] })], nextBlk := 2 }

theorem witness_SharingCores_promotion : clauseStands (between 0) 16 0 = true ∧ (warpOf (between 0) 16).split.map Prod.fst = [0] ∧
    clauseStands (between 1) 16 0 = false ∧ (warpOf (between 0) 16).core / 8 = 0 ∧ (warpOf (between 0) 17).core / 8 = 0 := by
  decide +kernel

/-! ### Saving, restoring, killing and rolling back -/

/-- Block 1 is to be saved, its image area at `area`; a `CTXSV` of the service core 2 saves it, if `own`. -/
def leaving (b : BStatus) (area : Option Nat) (own : Bool) : State :=
  let s := tenantState [(16, { warp with status := .halted, width := 16, vregs := 8 })]
    { placedBlock with
      status := b, ctx := none, area := area, cmd := { placedBlock.cmd with width := 16, vregs := 8, flags := 0 } };
  if own then setWarp s 2 { Warp.blank with status := .running, pend := [op (.ctxsv 1 0x20000000)] } else s

theorem witness_SavingAndKilling_save : ∀ b ∈ [BStatus.halting, .forced, .saving], ∀ a ∈ [none, some 0x20000000],
    let s := leaving b a false;
    (blockOf s 1).status = b ∧ blockDrained s 1 = true ∧ (blockOf s 1).bad = [] ∧ savingOp s 1 = none ∧
    (blockOf s 1).area = a ∧ (∀ l ∈ (blockOf s 1).lines, l.dirty = false) ∧
    blockDrained (leaving b a true) 1 = true ∧
    savingOp (leaving b a true) 1 = some (2, op (.ctxsv 1 0x20000000), 0x20000000) := by decide +kernel

/-- Block 1 is saved, with one warp and its image at 0x20000000, and tenant 0 runs in group 0. -/
def savedBlock (gang : Bool) : State :=
  { tenantState [] placedBlock with
    blocks := [(1, { placedBlock with
      status := .saved, warps := [], saved := [{ warp with status := .halted }], ctx := none, gang := gang, area := some 0x20000000 })]
    groups := [(0, { Group.blank with running := some 0 })] }

theorem witness_SavingAndKilling_restore : (∀ e ∈ [(0, some 0), (7, some 0)], let s := savedBlock false;
      let b := blockOf s 1;
      b.status = .saved ∧ e.1 / 8 = b.group ∧ (groupOf s (e.1 / 8)).running = some b.tenant ∧ coreTakes s e.1 b.world = true ∧
      b.gang = false ∧ placeRoom s b.cmd e.1 1 = true ∧ restoreSlot s b e.1 = e.2 ∧ b.saved.length = 1 ∧
      (b.image.orElse fun _ => b.area).any (fun a => runPoison s a (imageLen b.cmd)) = false ∧
      (b.image.orElse fun _ => b.area).any (fun a => runPoison { s with poison := [0x20000080] } a (imageLen b.cmd)) = true) ∧
    coreTakes (savedBlock true) 1 (blockOf (savedBlock true) 1).world = true := by decide +kernel

/-- The state with a record of cause `c` for warp 0 of block 1 in the ring of die 0. -/
def withRecord (c : Nat) (s : State) : State :=
  { s with dies := [(0, { Die.blank with traps := [trapRecord c 0 255 0 0 0 0 0 0 0 0 0 []] })] }

theorem witness_SavingAndKilling_kill : isLive (blockOf (blockIs .exited .exited 0) 1) = false ∧
    killDue (blockIs .running .running 0) 1 = false ∧
    (∀ b ∈ [BStatus.running, .saving, .saved, .rolling], let s := withRecord 9 (blockIs b .running 0);
      isLive (blockOf s 1) = true ∧ (blockOf s 1).status ≠ .killing ∧ killDue s 1 = true) ∧
    (∀ n ∈ [0, 1], (blockOf (blockIs .killing .stopped n) 1).status = .killing ∧
      (blockOf (blockIs .killing .stopped n) 1).replay = false ∧ blockDrained (blockIs .killing .stopped n) 1 = decide (n = 0)) := by
  decide +kernel

/-- Block 1 has a checkpoint; vector register 3 of its warp is logged, and `bad` is bad. -/
def checkpointed (b : BStatus) (w : WStatus) (n : Nat) (bad : List (Nat × Nat × Nat)) (run : Nat) : State :=
  { tenantState [(16, { warp with status := w, vlog := [(3, [7])], split := [(0, { leaf with left := n })] })]
      { placedBlock with
        status := b, bad := bad, checkpoint := some ⟨[⟨0, [(1, 2)], [], Ctl.blank, leaf⟩], [(0, ⟨[], true⟩)]⟩ } with
    groups := [(0, { Group.blank with running := some run })] }

theorem witness_SavingAndKilling_rollback : (∀ b ∈ [BStatus.running, .halting],
      let s := withRecord 18 (checkpointed b .running 1 [(0, 0, 3)] 0);
      (blockOf s 1).status = b ∧ rollDue s 1 = true ∧ rollDue (checkpointed b .running 1 [(0, 0, 3)] 0) 1 = false) ∧
    (∀ n ∈ [0, 1], (blockOf (checkpointed .rolling .stopped n [(0, 0, 3)] 0) 1).status = .rolling ∧
      blockDrained (checkpointed .rolling .stopped n [(0, 0, 3)] 0) 1 = decide (n = 0)) ∧
    canRollBack (checkpointed .rolling .stopped 0 [(0, 0, 4)] 0) 1 = false ∧
    (∀ l ∈ [[], [(0, 0, 3)]], ∀ r ∈ [0, 5], let s := checkpointed .rolling .stopped 0 l r;
      let b := blockOf s 1;
      b.status = .rolling ∧ blockDrained s 1 = true ∧ b.checkpoint.isSome = true ∧ canRollBack s 1 = true ∧ onFailedCore s b = false ∧
      (decide ((groupOf s b.group).running = some b.tenant) = decide (r = 0)) ∧ b.warps = [16] ∧
      onFailedCore (setCore s 0 { CoreSt.blank with failed := true }) b = true ∧
      groupHasRoom (setCore s 0 { CoreSt.blank with failed := true }) b = true ∧
      canRollBack (setCore s 0 { CoreSt.blank with failed := true }) 1 = true) := by decide +kernel

/-! ### Records and erasure -/

theorem witness_RecordsAndErasure_records : (∀ e ∈ [(64, 1, false), (63, 0, false), (63, 1, true)],
      let v : BitVec 128 := BitVec.ofNat 128 (e.2.1 * 2 ^ 56);
      decide (e.1 < 64 ∧ v.extractLsb' 56 20 ≠ 0#20) = e.2.2) ∧
    (let s := { typed State.reset 5 1 with
        types := [(0x2000, mkType 5 0 0 1 0 0 0), (0x2001, mkType 5 0 0 0 0 0 0)]
        tenants := [(0, { Tenant.blank with root := 0x2000 })] };
      let v : BitVec 128 := 0x2001 <<< 96;
      v.extractLsb' 96 32 ≠ (tenantOf s 0).root ∧ hasType s 0x2001 = true ∧ hasType s (tenantOf s 0).root.toNat = true ∧
      teCount (typeOf s 0x2001) < 0xFFFFFF ∧ (0x2000 : BitVec 32) = (tenantOf s 0).root) ∧
    (∀ e ∈ [(0, 0, true), (0, 1, true), (1, 0, true), (1, 1, false)], let s := typed State.reset e.1 0;
      let v : BitVec 64 := BitVec.ofNat 64 (e.2.1 * 2 ^ 56);
      decide (v.extractLsb' 56 8 = (tenantOf s 0).world ∨ ownsFrame s 0 = false) = e.2.2 ∧
      ownsFrame s 0 = decide (e.1 = 1)) ∧
    ackers State.reset ≠ [] ∧ ackers { State.reset with dies := [1, 2, 3].map fun d => (d, { Die.blank with live := false }) } = [] ∧
    stillModified State.reset 3 = true := by decide +kernel

/-- Tenant 0 has region 2, the host frame 0x800000; the frame has `n` counted references. -/
def hosted (n : Nat) : State :=
  { State.reset with
    tenants := [(0, { Tenant.blank with hosts := [(2, ⟨0x10000000, 1, 1, 0⟩)] })], types := [(0x10000000, mkType 1 0 0 n 0 0 0)] }

theorem witness_RecordsAndErasure_regions : hostRegionBad (hosted 0) 0 15 0x10000001 2 1 = false ∧
    hostRegionBad (hosted 0) 0 15 0x10000000 1 1 = true ∧ hostRegionBad (hosted 0) 0 16 0x10000001 1 1 = true ∧
    hostRegionBad (hosted 0) 0 2 0x10000001 1 1 = true ∧ hostRegionBad (hosted 0) 0 3 0x10000001 0 1 = true ∧
    hostRegionBad (hosted 0) 0 3 0x2000 1 1 = true ∧ hostRegionBad (hosted 0) 64 3 0x10000001 1 7 = true ∧
    (let r : HostRegion := Tbl.get ⟨0, 0, 0, 0⟩ (tenantOf (hosted 0) 0).hosts 2;
      r.len = 1 ∧ r.first ≤ 0x10000000 ∧ 0x10000000 < r.first + r.len ∧ teCount (typeOf (hosted 0) 0x10000000) = 0 ∧
      teCount (typeOf (hosted 1) 0x10000000) = 1) ∧
    (Tbl.get ⟨0, 0, 0, 0⟩ (tenantOf (hosted 0) 0).hosts 3 : HostRegion).len = 0 := by decide +kernel

theorem witness_RecordsAndErasure_create : (let l := [0x2000, 0x2001, 0x2002, 0x2003, 0x2010, 0x2004];
      (∀ f ∈ l, frameAvailable State.reset f = true ∧ f < 2 ^ 32) ∧ l.Nodup ∧
      (∀ f ∈ [0x2003, 0x2010, 0x2004], isHbm State.reset (f * 65536) = true) ∧
      hbmStack State.reset (0x2003 * 65536) ≠ hbmStack State.reset (0x2010 * 65536) ∧
      hbmStack State.reset (0x2003 * 65536) = hbmStack State.reset (0x2005 * 65536) ∧
      (tenantOf State.reset 63).created = false ∧ (tenantOf State.reset 63).erasure = none) ∧
    frameAvailable (typed State.reset 1 0) 0x2000 = false ∧ ¬ [0x2000, 0x2000].Nodup ∧
    (tenantOf { State.reset with tenants := [(3, { Tenant.blank with created := true })] } 3).created = true := by decide +kernel

def slotIs (st : KState) (f : Nat) : State :=
  { State.reset with keys := [(5, ⟨st, 0, some 2⟩)], types := [(0x2000, mkType 1 0 0 0 0 f 0)] }

theorem witness_RecordsAndErasure_keys : (worldOf State.reset 0).live = true ∧ (worldOf State.reset 255).live = false ∧
    (keyOf State.reset 255).state = .empty ∧ (keyOf (slotIs .active 0) 5).state = .active ∧
    (keyOf (slotIs .flushing 5) 5).state = .flushing ∧ (keyOf (slotIs .flushing 5) 5).asker = some 2 ∧
    (keyOf (slotIs .revoked 5) 5).state = .revoked ∧
    (∀ f ∈ [4, 5], ((slotIs .revoked f).types.any fun e => teKey e.2 == 5) = decide (f = 5)) ∧
    (linkOf State.reset 3).bound = false ∧ (linkOf { State.reset with links := [(3, { Link.blank with bound := true })] } 3).bound =
      true := by decide +kernel

/-- Frame 0x3000 is a table of level 0 of tenant 0, frame 0x2000 its data; a store of `new` there waits. -/
def admitting (new : Nat) (committed : Bool) (waits : List (Nat × Nat)) : State :=
  { onWarp fun w => { w with pend := [{ op .store with id := 3 }] } with
    types := [(0x2000, mkType 1 0 0 0 0 0 0), (0x3000, mkType 3 0 0 1 0 0 0)]
    admissions := [⟨0, 0x30000000, BitVec.ofNat 64 new, 0, 0, 16, 1, 0, 0, committed, waits, none⟩]
    tenants := [(0, Tenant.blank)] }

theorem witness_RecordsAndErasure_admission : (∀ e ∈ [(0x20000023, 0), (0x20000033, 0), (0x20000027, 1), (0x2000002B, 4),
        (0x20010023, 5), (0, 0)],
      let s := admitting e.1 false [];
      (s.admissions.all fun a => a.id == 0 && a.committed == false && a.root.isNone && homeFree s a.warp a.op a.addr && !isPoison s a.addr && tableLevel s a.addr == some 0 &&
        admissionCode s a.tenant 0 a.new == e.2 && (opOf (warpOf s a.warp) a.op).isNone && physGet s a.addr 8 == 0 &&
        decide (16 ≤ a.warp) && decide (targetsOf 0 a.new).Nodup) = true) ∧
    ((admitting 0 true []).admissions.all fun a => a.committed && a.waits.isEmpty && !a.old.getLsbD 0 && a.root.isNone) = true ∧
    (let s := { State.reset with
        types := [(0x2000, mkType 5 0 0 1 0 0 0)], admissions := [⟨4, 0, 0, 0, 0, noWarp, 0, 0, 0, true, [], some 0x2000⟩] };
      s.leaving = [] ∧ hasType s 0x2000 = true ∧ (s.admissions.all fun a => a.committed && a.root == some 0x2000) = true) ∧
    (let a : Admission := ⟨1, 0x30000000, 0, 0, 0, 16, 1, 0, 0, false, [], none⟩;
      (∃ x ∈ (admitting 0 false []).admissions, x.id < a.id ∧ x.root = none ∧ x.addr / 65536 = a.addr / 65536)) ∧
    (let a : Admission := ⟨0, 0x30000000, 0, 0x2000002B, 0, 16, 1, 0, 0, true, [], none⟩;
      let s := setCore { ten with admissions := [a] } 0 { CoreSt.blank with slots := [(0, { slot0 .ready with image := [0x20000000] })] };
      tableLevel s a.addr = none ∧ (unmappedSlots s 0 (codeUnmapped 0 a)).any (slotHolds s 0) = true) ∧
    (let s := admitting 0 true [(16, 3)];
      let o := { op .store with id := 3, units := [{ unit4 0 0x20000000 bytes4 false with via := [0x30000000] }] };
      (s.admissions.all fun a => stillUses { s with warps := [(16, holding o warp)] } a (16, 3)) = true) := by decide +kernel

/-- The erasure of tenant 0 is at step `n`; it has key slot 5, and a block if `b`. -/
def erasing (n : Nat) (b : Bool) (adm : List Admission) : State :=
  { State.reset with
    tenants := [(0, { Tenant.blank with erasure := some ⟨n, 0, 0, 0, 0, 0, 0⟩ })]
    blocks := if b then [(1, placedBlock)] else [], keys := [(5, ⟨.active, 0, none⟩)], admissions := adm }

theorem witness_RecordsAndErasure_erasure : tenantBlocks State.reset 63 = [] ∧ tenantBlocks (erasing 1 true []) 0 ≠ [] ∧
    tenantBlocks (erasing 1 false []) 0 = [] ∧ (keyOf (erasing 1 false []) 5).tenant = 0 ∧
    (keyOf (erasing 1 false []) 5).state ≠ .empty ∧
    (∀ n ∈ [1, 2, 3, 4, 5], ((tenantOf (erasing n false []) 0).erasure.map fun e => e.step) = some n) ∧
    framesBusy (erasing 3 false []) 0 = false ∧ framesBusy (erasing 3 false [⟨0, 0, 0, 0, 0, 16, 1, 0, 0, false, [], none⟩]) 0 = true := by
  decide +kernel

/-! ### Faults, and what the outside does -/

/-- Warp 16 has taken a trap of cause `c` and has the status `st`; its block is in world `w`; its die holds `n` records. -/
def trappedIn (c : Nat) (st : WStatus) (left w n : Nat) : State :=
  { tenantState [(16, { warp with
      status := st, trap := some ⟨c, 0, 255, 0, 0, mkRef 0 0 0 17⟩, split := [(0, { leaf with left := left })] })]
      { placedBlock with world := w } with
    dies := [(0, { Die.blank with traps := List.replicate n [] })] }

theorem witness_FaultsAndOutside_records : (∀ n ∈ [0, 31, 32], let s := trappedIn 9 .trapping 0 0 n;
      decide (32 ≤ (dieOf s ((warpOf s 16).core / 40)).traps.length) = decide (n = 32)) ∧
    (let s := trappedIn 9 .trapping 0 0 31;
      (warpOf s 16).trap = some ⟨9, 0, 255, 0, 0, mkRef 0 0 0 17⟩ ∧ (warpOf s 16).status = .trapping ∧
      (entryOf (warpOf s 16) 0).wait = .none ∧ warpStill (warpOf s 16) = true ∧ accessLeft (warpOf s 16) = false) ∧
    (∀ e ∈ [(9, WStatus.trapped, 0, true), (11, .trapping, 0, true), (11, .trapped, 3, true), (11, .trapped, 0, false), (11, .trapped, 0, true)],
      let s := { trappedIn e.1 e.2.1 0 e.2.2.1 0 with cores := [(0, { CoreSt.blank with debugger := e.2.2.2 })] };
      (warpOf s 16).trap.isSome = true ∧ (blockOf s 1).status = .running ∧ (blockOf s 1).world = e.2.2.1 ∧
      (coreOf s (warpOf s 16).core).debugger = e.2.2.2) := by decide +kernel

/-- Warp 16 is within a clause, or halted with nothing left; its block holds a dirty line and a clean one. -/
def withLines (w : WStatus) (b : BStatus) (n : Nat) : State :=
  tenantState [(16, { warp with status := w, split := [(0, { leaf with left := n })] })] { placedBlock with
    status := b, ctx := some 0
    lines := [⟨256, 0x20000100, true, true, [], 0, false, false, false, []⟩,
      ⟨0, 0x20000000, true, false, [], 0, false, false, false, []⟩] }

theorem witness_FaultsAndOutside_errors : (∀ e ∈ [(0, 32719, true), (0, 32720, false), (0, 32768, false), (1, 79, true), (1, 128, false), (2, 256, true), (2, 0, false),
        (3, 1023, true), (3, 1024, false), (3, 65536, false), (4, 449, true), (4, 512, false), (5, 191, true), (5, 192, false),
        (6, 0, false), (6, 1, true), (6, 7, true), (6, 8, false), (7, 0, false)],
      let s := withLines .running .running 1;
      mayFinish (warpOf s 16) = true ∧ (entryOf (warpOf s 16) 0).state = .leaf ∧ (entryOf (warpOf s 16) 0).left ≠ 0 ∧
      (warpOf s 16).trap = none ∧ (blockOf s 1).status = .running ∧
      badPlace (blockOf s (warpOf s 16).blk) (warpOf s 16) e.1 e.2.1 = e.2.2) ∧
    (∀ b ∈ [BStatus.halting, .forced, .saving], let s := withLines .halted b 0;
      badPlace (blockOf s 1) (warpOf s 16) 5 191 = true ∧ warpStill (warpOf s 16) = true ∧ (blockOf s 1).status = b) ∧
    warpStill (warpOf (withLines .running .halting 1) 16) = false ∧
    (tenantOf { ten with tenants := [(0, { Tenant.blank with pmsel := 0x72 })] } 0).pmsel.toNat / 16 ^ 1 % 16 = 7 ∧
    isHbm ten 0x20000000 = true ∧ isHbm ten 0xC000000000 = false ∧ coreCount ten ≤ 160 ∧ 159 < coreCount ten ∧
    (coreOf ten 3).failed = false ∧ residentOn ten 3 = [] ∧ residentOn (blockIs .exited .running 1) 0 = [] ∧
    (warpOf (blockIs .exited .running 1) 16).core = 0 ∧ 16 ∈ (blockIs .exited .running 1).warps.map Prod.fst := by decide +kernel

theorem witness_FaultsAndOutside_journal : (let s := { State.reset with tenants := [(0, owner)], poison := [0x20020000] };
      (tenantOf s 0).jframe ≠ 0 ∧ isPoison s (journalBase s 0 + recordOff 1) = true ∧
      isPoison s (journalCopy s 0 + recordOff 1) = false ∧ keyRevoked s (journalBase s 0 + recordOff 1) = false ∧ keyLost s (journalBase s 0 + recordOff 1) = false ∧
      isPoison s (journalBase s 0 + recordOff 2) = isPoison s (journalCopy s 0 + recordOff 2)) ∧
    (tenantOf State.reset 0).jframe = 0 := by decide +kernel

/-- An access of the host waits for the line at 0x20000000, which is leased. -/
def hostWaits (free : Bool) : State :=
  { State.reset with
    outside := [⟨false, true, 0x20000008, 8, 5, 0⟩, ⟨false, true, 0x20000010, 8, 6, 1⟩]
    locks := if free then [] else [(0x20000000, 17, 0)] }

theorem witness_FaultsAndOutside_accesses : (∀ n ∈ [1, 2, 4, 8], outsideGood State.reset false (0x20000000 + n) n = true) ∧
    outsideGood State.reset false 0x20000001 2 = false ∧ outsideGood State.reset true 0x100000000000 4 = false ∧
    outsideGood State.reset false 0x100000000000 4 = true ∧
    (∀ w ∈ [0, 3], let s := { State.reset with types := [(0x2000, mkType 1 0 w 0 0 0 0)], poison := [0x20000080] };
      homeOpen s noWarp 0 0x20000000 = true ∧ teWorld (typeOf s (0x20000000 / 65536)) = w ∧ isPoison s 0x20000000 = false ∧
      isPoison s 0x20000080 = true ∧ NoDirtyLine s 0x20000000 8 ∧ debugReaches s 0x20000000 = decide (w = 0) ∧
      s.outside = []) ∧
    homeOpen (hostWaits false) noWarp 0 0x20000000 = false ∧ outsideNext (hostWaits false) [] (hostWaits false).outside = none ∧
    outsideNext (hostWaits true) [] (hostWaits true).outside = some 0 ∧
    (hostWaits true).outside[0]? = some ⟨false, true, 0x20000008, 8, 5, 0⟩ ∧ State.reset.plat.step < 7 ∧
    7 ≤ { State.reset.plat with step := 7 }.step ∧ State.reset.part = .gx9 := by
  unfold NoDirtyLine; decide +kernel

theorem witness_FaultsAndOutside_debug : debugReaches State.reset 0x10 = false ∧ debugReachesWarp State.reset 15 = true ∧ debugReachesWarp ten 16 = true ∧
    (warpOf ten 16).status ≠ .absent ∧ (coreOf ten 0).latch = .latched ∧ (coreOf ten 0).world = 0 ∧
    (coreOf (latched .latched .running) 0).latch = .latched ∧ (coreOf (latched .draining .running) 0).latch ≠ .latched := by
  decide +kernel

/-- Die 0 audits a block of task 7 that ran on core 3 and has the status `b`; group 1 runs tenant 0. -/
def auditing (r : Option Nat) (v : Verdict) (sum : BitVec 128) (b : BStatus) : State :=
  { tenantState [] { placedBlock with status := b, task := 7 } with
    dies := [(0, { Die.blank with audits := [{ audit r v placedBlock.cmd with rsig := sum }] })]
    groups := [(1, { Group.blank with running := some 0, recs := [(0, 0x100FFFFF)] })] }

theorem witness_FaultsAndOutside_audits : (∀ e ∈ [(none, BStatus.exited, true), (none, .running, false), (some 8, .exited, false)],
      let s := auditing e.1 .running 9 e.2.1;
      ((dieOf s 0).audits[0]?.map fun a => auditWaits s a) = some e.2.2) ∧
    (let s := auditing none .running 9 .exited;
      let a := audit none .running placedBlock.cmd;
      (dieOf s 0).audits[0]? = some a ∧ placeRoom s a.cmd 8 0 = true ∧ wrongCore s a 8 = false ∧ wrongCore s a 3 = true ∧
      coreOpen s 0 a.cmd 8 0 = true ∧ coreOpen s 0 a.cmd 16 0 = false ∧ freeSlot s 8 = some 0) ∧
    (∀ v ∈ [Verdict.unauditable, .ended], let s := auditing (some 8) v 9 .exited;
      ((dieOf s 0).audits[0]?.map fun a => (a.verdict, s.blocks.any fun e => isReplayOf a e.2 && isLive e.2)) = some (v, false)) ∧
    (let s := auditing (some 8) .ended 8 .exited;
      ((dieOf s 0).audits[0]?.map fun a => (a.replay, decide (a.rsig = a.sig))) = some (some 8, false) ∧
      blocksOn s 3 = [] ∧ blocksOn s 8 = []) := by decide +kernel
/-! ### Headland, Tidemark and links -/

/-- Die 0 is `d`; the Tidemark core 2 has the status `w` with `n` words left, and core 3 does not run. -/
def tiding (d : Die) (w : WStatus) (n : Nat) : State :=
  { State.reset with
    warps := [(2, { warp with status := w, blk := 0, split := [(0, { leaf with left := n })] })]
    svcs := [(2, { SvcCore.blank with running := true })], dies := [(0, { d with tcb := 0x20050000 })] }

theorem witness_ServicesAndLinks_headland : (∀ e ∈ [(true, false), (false, false), (false, true)],
      let s := tiding { Die.blank with live := e.1, out := e.2, beat := e.1 } .running 0;
      (dieOf s 0).live = e.1 ∧ (dieOf s 0).out = e.2 ∧ 0 < diesOf s ∧ diesOf s ≤ 4 ∧ s.plat.leader = 0 ∧ (dieOf s 0).beat = e.1 ∧
      (dieOf s 1).beat = false ∧ (dieOf s 1).live = true) ∧
    (∀ n ∈ [0, 1], (dieOf (tiding { Die.blank with monFail := n } .running 0) 0).monFail = n) ∧
    (∀ e ∈ [(true, true), (true, false), (false, true)],
      let s := { State.reset with tenants := [(5, { Tenant.blank with created := e.1, modified := e.2, sched := 1 })] };
      (tenantOf s 5).created = e.1 ∧ (tenantOf s 5).modified = e.2 ∧ tenantOnDie s 5 0 = true ∧ tenantOnDie s 5 1 = false) ∧
    isLive (blockOf ten 1) = true ∧ (blockOf ten 1).core / 40 = 0 := by decide +kernel

theorem witness_ServicesAndLinks_tidemark : (∀ e ∈ [(WStatus.running, 0, false), (.stopped, 0, true)],
      let s := tiding Die.blank e.1 e.2.1;
      tideReady s 0 = true ∧ (svcOf s (activeCore s 0)).running = true ∧ coreStill (warpOf s (activeCore s 0)) = e.2.2 ∧
      (svcOf s (standbyCore s 0)).running = false ∧ physGet s (tcbOf s 0) 8 < 2 ^ 63 ∧ (dieOf s 0).out = false ∧
      (dieOf s 0).active = 2 ∧ createdTenants s = []) ∧
    (∀ e ∈ [(WStatus.running, 0, false), (.stopped, 0, true)],
      let s := tiding { Die.blank with active := 3 } e.1 e.2.1;
      tideReady s 0 = true ∧ (svcOf s (standbyCore s 0)).running = true ∧ coreStill (warpOf s (standbyCore s 0)) = e.2.2 ∧
      (svcOf s (activeCore s 0)).running = false) ∧
    2 ^ 63 ≤ physGet { tiding Die.blank .running 0 with mem := Memory.writes [] 0x20050007 [0x80] } 0x20050000 8 := by decide +kernel

/-- The standby core 3 of die 0 runs, and the active core 2 does or does not. -/
def standing (d : Die) (r : Bool) (w : WStatus) (n : Nat) : State :=
  { tiding d w n with
    warps := (tiding d w n).warps ++ [(3, { warp with blk := 0 })]
    svcs := [(2, { SvcCore.blank with running := r }), (3, { SvcCore.blank with running := true })] }

theorem witness_ServicesAndLinks_takeover : ∀ e ∈ [(true, WStatus.running, 1, false), (true, .stopped, 0, true), (false, .running, 0, false)],
    let s := standing Die.blank e.1 e.2.1 e.2.2.1;
    tideReady s 0 = true ∧ (dieOf s 0).out = false ∧ coreServes s (standbyCore s 0) = true ∧
    coreServes (tiding Die.blank .running 0) 3 = false ∧ (svcOf s (activeCore s 0)).running = e.1 ∧ coreStill (warpOf s (activeCore s 0)) = e.2.2.2 ∧ (dieOf s 0).active = 2 ∧
    (dieOf (standing { Die.blank with out := true } true .running 0) 0).out = true := by decide +kernel

def packet (seq : Nat) (l : List (Nat × List Byte)) : Packet := ⟨seq, 16, 0, [0], l, none, false, 1, 0, false⟩
def withLink (x : Link) : State := { State.reset with links := [(0, x)] }
def bound : Link := { Link.blank with bound := true, mask := 3, node := 5, window := 5, width := 2 }

/-- The first record of direction `f` of link 0 has failed `n` times. -/
def failed (f n : Nat) : Link := setDir bound f { LinkDir.blank with fails := n, replay := [packet 0 []] }

theorem witness_ServicesAndLinks_flits : (∀ f ∈ [0, 1], (∀ n ∈ [15, 16],
      let s := { onWarp id with links := [(0, failed f n)] };
      (linkOf s 0).bound = true ∧ (linkOf s 0).dead = false ∧ (linkOf s 0).training = false ∧
      (dirOf (linkOf s 0) f).fails = n ∧ (dirOf (linkOf s 0) (1 - f)).fails = 0 ∧ (dirOf (linkOf s 0) f).replay = [packet 0 []] ∧
      (blockOf s (packet 0 []).blk).warps[(packet 0 []).index]? = some 16 ∧ (warpOf s 16).status ≠ .absent) ∧
      ∀ n ∈ [15, 16], let s := { State.reset with
        inner := [(192, if f = 0 then { Inner.blank with failOut := n } else { Inner.blank with failIn := n })] };
      (innerOf s 192).dead = false ∧ (if f = 0 then (innerOf s 192).failOut else (innerOf s 192).failIn) = n) ∧
    (innerOf { State.reset with inner := [(192, { Inner.blank with dead := true })] } 192).dead = true := by decide +kernel

theorem witness_ServicesAndLinks_records : (let s := withLink { bound with training := true, waiting := some (48, 9, 9) };
      (linkOf s 0).training = true ∧ (linkOf s 0).waiting = some (48, 9, 9) ∧ s.links.all (fun e => e.1 == 0) = true) ∧
    (let s := { State.reset with links := [(0, bound), (2, { bound with mask := 64, waiting := some (48, 9, 9) })] };
      linkBad s 1 1 7 7 = true ∧ linkBad s 1 16 7 7 = true ∧ linkBad s 1 128 9 9 = true ∧ linkBad s 1 128 7 8 = true ∧
      linkBad s 1 128 7 7 = false) ∧
    (let s := withLink { bound with width := 8, training := true };
      [1, 2, 4, 8, 16].filter (fun z => decide (z ≤ (linkOf s 0).width ∧ z ≤ (workingPorts s (linkOf s 0)).length)) = [1, 2]) := by
  decide +kernel

theorem witness_ServicesAndLinks_links : (let s := withLink bound;
      (linkOf s 0).bound = true ∧ (linkOf s 0).dead = false ∧ (linkOf s 0).training = false) ∧
    (linkOf State.reset 0).bound = false ∧
    (let o := { opTwo .store false false with units := [homeUnit] };
      let s := onWarp (holding o);
      (∀ e ∈ [(192, true), (191, false), (193, false), (640, false), (641, false)], crosses s 16 e.1 homeUnit = e.2) ∧
      (∀ e ∈ [(192, true), (640, true), (641, true), (642, false)], crosses (setWarp s 2576 { warp with core := 40 }) 2576 e.1 homeUnit = e.2) ∧
      o ∈ (warpOf s 16).pend ∧ homeUnit ∈ o.units ∧ crosses s 16 192 homeUnit = true) ∧
    (let s := { State.reset with part := .gx9h };
      ∀ e ∈ [(35, false), (36, true), (71, true)], (portsOf (.ofNat 72 (2 ^ e.1))).any (fun p => decide (36 ≤ p)) = e.2 ∧ s.part = .gx9h) ∧
    (let s := withLink { bound with training := true };
      (linkOf s 0).training = true ∧ (linkOf s 0).waiting = none ∧ workingPorts s (linkOf s 0) ≠ [] ∧ 0 < (linkOf s 0).width) ∧
    (∀ m ∈ [0, 1, 3, 7], ∀ w ∈ [4, 63, 64], linkBad (withLink bound) 1 (.ofNat 72 (16 * m)) w w = decide (m = 7 ∨ w = 64)) ∧
    linkBad (withLink bound) 1 16 6 4 = true ∧ linkBad (withLink bound) 1 2 6 6 = true ∧ linkBad (withLink bound) 1 16 5 5 = true ∧
    linkBad (withLink bound) 1 (.ofNat 72 (2 ^ 72 - 1)) 6 6 = true ∧ linkBad (withLink bound) 1 (.ofNat 72 (2 ^ 17 + 2 ^ 18)) 6 6 = true ∧
    (let s := { withLink bound with plat := { State.reset.plat with portFailed := [9] } };
      portCount s = 72 ∧ 9 ∈ s.plat.portFailed ∧ 1 ∉ s.plat.portFailed ∧
      (s.links.find? fun e => e.2.bound && !e.2.dead && (lanePorts s e.2).contains 1) = some (0, bound) ∧
      (s.links.find? fun e => e.2.bound && !e.2.dead && (lanePorts s e.2).contains 2) = none) := by decide +kernel

theorem witness_ServicesAndLinks_acks : ∀ n ∈ [62, 63], ∀ h ∈ [[], [packet 2 []]],
    let d : LinkDir := { LinkDir.blank with unacked := n, held := h, flying := [packet 4 []], expect := 4 };
    let s := withLink { bound with out := d };
    dirOf (linkOf s 0) 0 = d ∧ d.held.find? (packetFree s) = h.head? ∧ decide (63 ≤ d.unacked) = decide (n = 63) := by decide +kernel

theorem witness_ServicesAndLinks_packets : (∀ dir ∈ [0, 1],
      let d : LinkDir := { LinkDir.blank with waiting := [packet 0 []], flying := [packet 3 []], unacked := 2, acks := [9] };
      let s := withLink { bound with out := d, inn := d };
      dirOf (linkOf s 0) dir = d ∧ d.replay.length < 4096 ∧ d.keys.toNat < 2 ^ 48 - 1 ∧ d.expect ≠ 3) ∧
    (let s := withLink { bound with out := { LinkDir.blank with flying := [packet 0 [(0x800000000000, bytes4)]] } };
      (dirOf (linkOf s 0) 0).flying = [packet 0 [(0x800000000000, bytes4)]] ∧ NoDirtyLine s 0x800000000000 4) ∧
    (let p := packet 0 [(0x800000000000, bytes4)];
      let q := { packet 0 [(0x800000000000, bytes4)] with units := [0] };
      let o := { opTwo .store false false with units := [peerUnit] };
      let s : State := { onWarp (holding o) with links := [(0, { bound with out := { LinkDir.blank with flying := [p] } })] };
      let v : State := { s with locks := [(0x800000000000, 17, 0)], links := [(0, { bound with out := { LinkDir.blank with held := [q] } })] };
      opOf (warpOf s 16) 0 = some o ∧ isTile o.kind = false ∧ packetFree s p = true ∧ p.lock = none ∧ p.fill = false ∧ p.seq = LinkDir.blank.expect ∧
      isPoison s 0x800000000000 = false ∧ NoDirtyLine s 0x800000000000 4 ∧ packetFree v q = false ∧
      LinkDir.blank.held.find? (packetFree s) = none ∧ (dirOf (linkOf v 0) 0).held.find? (packetFree v) = none ∧
      (dirOf (linkOf v 0) 0).held.find? (packetFree s) = some q) ∧
    opOf (warpOf (withLink bound) 16) 0 = none ∧ LinkDir.blank.waiting = [] ∧ LinkDir.blank.flying = [] ∧
    (List.replicate 4096 (packet 0 [])).length = 4096 := by
  unfold NoDirtyLine; decide +kernel

/-! ### The platform -/

/-- Where the firmware, the control block and both copies of the type entries of the two dies of a GX9-H go. -/
def choices : List Nat :=
  [0x30000000, 0x30400000, 0x2030, 0x2040, 0x31000000, 0x31400000, 0x2000, 0x2010]

theorem witness_Platform : (∀ e ∈ [(0, true), (15, true), (16, true), (19, true), (23, true), (24, false)],
      isIsland State.reset e.1 = e.2) ∧ isIsland { State.reset with part := .gx9h } 8 = false ∧
    (islandOf { State.reset with islands := [(3, ⟨8, some 5⟩)] } 3).droop = some 5 ∧ (islandOf State.reset 3).droop = none ∧
    (∀ e ∈ [(999, false), (1000, true), (3200, true), (3201, false)], powerGood State.reset e.1 = e.2) ∧
    (∀ e ∈ [(499, false), (500, true), (1650, true), (1651, false)], powerGood { State.reset with part := .gx9h } e.1 = e.2) ∧
    (∀ n ∈ [1, 3, 4, 5, 6, 7], let s := { State.reset with plat := { State.reset.plat with step := n, testing := n == 5 } };
      s.plat.step = n ∧ s.plat.failed = false ∧ s.plat.testing = (n == 5)) ∧
    { State.reset.plat with step := 6, stopRecord := [1] }.stopRecord ≠ [] ∧ State.reset.plat.stopRecord = [] ∧
    choicesGood { State.reset with part := .gx9h } choices = true ∧ choicesGood { State.reset with part := .gx9h } [] = false ∧
    159 < coreCount State.reset ∧ [0, 1].getD 1 0 ≠ 0 ∧ [0, 1].getD 0 0 = 0 ∧
    (let h : Hist := { Hist.blank with en := true, src := 4, isl := 9, ten := 5 };
      let s := { State.reset with dies := [(3, { Die.blank with hists := [(15, h)] })] };
      3 < diesOf s ∧ histOf s 3 15 = h ∧ h.src.toNat = 4 ∧ h.ten.toNat = 5 ∧ h.isl.toNat = 9) := by decide +kernel

/-! ### Steps -/

/-- The word `w` placed after reset. -/
def fetched (w : Nat) : State := State.reset.withFetchWord 32 w

theorem witness_StepRunsDecoded_words : (∀ e ∈ [(0x02004103, 1), (0xFE001FE1, 0), (0, 1)],
      let s := fetched e.1;
      let u := asWarp { s with agenda := [] } 16 0;
      let x := curEntry u;
      s.agenda = [.issue 16 0] ∧ x.state = .leaf ∧ x.notReady = false ∧ coreIssues u 16 = true ∧ x.left = e.2 ∧
      pipeBusy u 16 0 = false ∧ mayStart u 16 0 = true ∧
      mayFinish (curWarp u) = true ∧ mayRun (curWarp u) = true ∧ (curWarp u).status = .running ∧ pcCurrent u = true ∧
      codeWord u (refOff x.pc) = .ofNat 32 e.1 ∧ isHeader (.ofNat 32 e.1) = decide (e.2 = 0)) ∧
    pick (markReady ten) = some (16, 0) ∧ ten.agenda = [] := by decide +kernel

theorem witness_StepRunsDecoded_decode : decode [(0x02004103 : Word), 0] = .ok (.iadd none 1 2 3, [0]) ∧
    decode [(0 : Word), 0] = .error .zeroWord ∧ decode [(0xFE001FE1 : Word)] = .ok (.clause 0 15 15 1, []) ∧
    isWord (.yieldWake 16 0) = false ∧ isWord (.iadd none 1 2 3) = true := by decide +kernel

theorem reset_memOk : State.reset.memOk := by unfold State.memOk; decide +kernel

theorem witness_MemoryCanonicalStep : (fetched 0x02004103).memOk ∧
    (match step (fetched 0x02004103) with
      | .next _ => true
      | _ => false) = true := by
  unfold State.memOk; decide +kernel

theorem witness_DecodeEncodeRoundTrip : isWord (.iadd (some (plain 0)) 1 2 3) = true ∧
    encode (.iadd (some (plain 0)) 1 2 3) = [0xFC1C0008, 0x02004103] := by decide +kernel

/-! ### Further clauses -/

theorem witness_FloatSpecialOperands_fma : ffma binary32 0 false false 0x7FC00001 0 0 = (0x7FC00000, 0) ∧
    ffma binary32 1 true false 0x3F800000 0x7F800001 0 = (0x7FC00000, flagNV) ∧
    ffma binary32 2 false true 0x7F800000 0 0xFFC00000 = (0x7FC00000, flagNV) ∧
    ffma binary32 3 true true 0x3F800000 0x3F800000 0xFFC00000 = (0x7FC00000, 0) ∧
    ffma binary32 4 false false 0xFF800000 0x80000000 0x3F800000 = (0x7FC00000, flagNV) := by decide +kernel

theorem witness_WordIssueRule_units : (∀ i ∈ [Instr.accz none 1, .mma none 0 0 0 0 0 8 16], Instr.wf i = true ∧ matrixWord i = true) ∧
    (curBlock (onBlock fun b => { b with ctx := none })).ctx = none ∧ svc.cur < 16 ∧
    (∀ n ∈ [0, 1], let s := { svc with part := if n = 0 then .gx9h else .gx9 };
      let r : BitVec 14 := if n = 0 then 0x820 else 1;
      Instr.wf (.csrrd none 10 r) = true ∧ Instr.wf (.csrwr none 10 r) = true ∧ s.cur < 16 ∧ (svcOf s s.cur).priv = true ∧
      s.part = if n = 0 then .gx9h else .gx9) ∧
    Instr.wf (.ldq none 8 16 24) = true ∧ serviceOnly (.ldq none 8 16 24) = false ∧ unitAbsent ten (.ldq none 8 16 24) = false ∧
    (∀ n ∈ [8, 11, 12], let s := onWarp fun w => { w with vregs := n };
      decide ((curWarp s).vregs < regD s none 8 + 4) = decide (n < 12)) ∧
    (let s := onWarp fun w => { w with vregs := 8 };
      (form (.ldq none 8 16 24)).any (fun f => (rangeFault (curEntry s).wb.toNat (curWarp s).vregs f).isSome) = true ∧
      (curWarp s).vregs ≤ regA s none 16 ∧ (curWarp s).vregs ≤ regB s none 24) := by decide +kernel

/-- Entry 1, a child of the JOIN in entry 0, is at the word; entry 2 has arrived or, with `l`, is a leaf. -/
def joining (x : Entry) (l : Bool) : State :=
  { onWarp fun w => { w with split := [(0, { leaf with state := .join, pc := mkRef 0 0 0 18 }), (1, { leaf with parent := 0, owned := 0xFF, exec := 0xFF }),
      (2, { x with state := if l then .leaf else .arrived, parent := 0, owned := 0xFF00, exec := 0xF00 })] } with frag := 1 }

theorem witness_ExitWord_others : (∀ s ∈ [half leaf [1], joining leaf true], allIssue [.exit none] s = true ∧ (curEntry s).ser = 0) ∧
    (entryOf (curWarp (half leaf [1])) 1).state = .leaf ∧ (half leaf [1]).frag = 0 ∧ (curEntry (half leaf [1])).parent = 15 ∧
    (entryOf (curWarp (joining leaf true)) 2).state = .leaf ∧
    (entryOf (curWarp (joining leaf true)) 2).parent = (curEntry (joining leaf true)).parent ∧
    (let s := joining leaf false;
      allIssue [.exit none] s = true ∧ (curEntry s).ser = 0 ∧ (curEntry s).parent.toNat = 0 ∧ s.frag = 1 ∧
      (entryOf (curWarp s) 0).state = .join ∧ (entryOf (curWarp s) 0).parent.toNat = 15 ∧ childrenOf (curWarp s) 0 = [1, 2] ∧
      (entryOf (curWarp s) 2).state = .arrived ∧ (entryOf (curWarp s) 2).owned.getLsbD 8 = true) ∧
    (let s := half { leaf with ser := 1, altOff := 16, pend := 0xFF, parent := 1 } [1];
      allIssue [.exit none] s = true ∧ s.frag < 8 ∧ (curEntry s).ser ≠ 0 ∧ (curEntry s).altOff ≠ 0xFFFF) := by decide +kernel

theorem witness_WarpBarrierAndLimits_fuse : ∀ e ∈ [(17, true), (18, false)],
    let s := onWarp fun w => { w with split := [(0, leaf), (1, { leaf with parent := 0, state := .parked, wait := .barw (mkRef 0 0 0 (.ofNat 16 e.1)) })] };
    let ref := refAt (curEntry s).pc (curEntry s).here;
    let w := setEntry (curWarp s) s.frag { curEntry s with state := .parked, wait := .barw ref, left := 0 };
    allIssue [.barw] s = true ∧ (curEntry s).ser = 0 ∧ barwReady w = true ∧ 16 ≤ s.cur ∧ (curWarp s).trap = none ∧
    (barwPlaces w).all (fun y => y == placeOf ref) = e.2 ∧ barwPlaces w = [(0, 17), (0, .ofNat 16 e.1)] := by decide +kernel

theorem witness_LoadReturns_unit : ∀ k ∈ [PKind.load 8 1 4 false, .load 8 1 1 true, .sload 8 true, .sload 8 false],
    unitPoison (accessing k false false) 1 (unit4 0 0x20000000 bytes4 false) = false ∧
    (warpOf (accessing k false false) 16).blk = 1 := by decide +kernel

theorem witness_TileWords_whole : ∀ k ∈ [PKind.tstore, .tload 8 1], ∀ l ∈ [[], [line0]],
    (tile k l []).finished = false ∧ ((tile k l []).units.all fun x => !x.sent && !unitPoison (tiling k l []) 1 x) = true := by
  decide +kernel

theorem witness_FenceAndMonitor_words : (let s := mapOf (onWarp monitored);
      allIssue [.mwait none 8 16 24] s = true ∧ (curWarp s).ctl.mon = some 0 ∧ checkAddr s .mon 0 = .ok page0 false ∧
      checkAddr (onWarp monitored) .mon 0 = .bad 12 ∧ allIssue [.mwait none 8 16 24] (onWarp monitored) = true) ∧
    (∀ n ∈ [0, 1], ∀ o ∈ [false, true], let x := leafUnit 255 0 8 0 page0 false false [] [];
      let s := mapOf (onEntry fun y => { y with state := .parked, wait := .mwait 8 (.ofNat 64 n) none o 2, spot := some x });
      (entryOf (warpOf s 16) 0).wait = .mwait 8 (.ofNat 64 n) none o 2 ∧ (entryOf (warpOf s 16) 0).spot = some x ∧
      x.done = false ∧ x.stash = false ∧ x.len = 8 ∧ x.pa = 0x20000000 ∧ unitPoison s 1 x = false ∧
      olderMeets (warpOf s 16) (warpOf s 16).nextOp (lanesAll (entryOf (warpOf s 16) 0)) x = [] ∧
      homeFree s 16 (warpOf s 16).nextOp 0x20000000 = true ∧ (blockOf s (warpOf s 16).blk).replay = false ∧
      NoDirtyLine s 0x20000000 8) := by unfold NoDirtyLine; decide +kernel

theorem witness_CountedWords_copy : (let s := mapOf (withS [(24, 2), (8, 0x1FFF0000)]);
      allIssue [.mcopy none 8 16 24] s = true ∧ (match frameRun s .load 0 2, frameRun s .tstore 0x1FFF0000 2 with
        | .ok _, .error (c, x) => c == 12 && x == 0x20000000
        | _, _ => false) = true) ∧
    (∀ b ∈ [false, true], let s := setBlock (withS [(24, 1)]) 1 { placedBlock with replay := b, warps := [16] };
      let m : List MUnit := [leafUnit 255 0 65536 0 { page0 with pa := 0x800000000000 } false false [] []];
      (curBlock s).replay = b ∧ m.any (spoilsReplay false) = true ∧ outOfReach s true m = none ∧
      (outOfReach s true [leafUnit 255 0 65536 0 { page0 with pa := 0x100000000000 } false false [] []]).isSome = true) := by
  decide +kernel

theorem witness_CountedCompletions_gather : (∀ e ∈ [(([] : List (Nat × Nat × Nat)), false), ([(0x20000000, 17, 0)], true)],
    let s := { counting (.gather false 0x100 0 0x200 1 2 9 0 []) with locks := e.1 };
    let g : Client := { warpClient s 16 with tables := some (0, []) };
    let q := (List.range 1).foldl (gatherStep g 16 false 0x100 0 0x200 2 9) (s, GStat.blank);
    (gput q.1 g 16 4 (leBytes 4 (gstatWord q.2).toNat) q.2).2.wait = e.2) := by decide +kernel

/-- An MMA of two block formats whose exponents stand at `sa` and at 512. -/
def blockOp (sa : Dword) : MOp := .mma 2 2 3 3 false false false false 0 16 32 sa 512
def blockEngine (sa : Dword) (l : List (Nat × Nat × Nat)) : State :=
  let s := { engine (blockOp sa) false 0 with mem := mapped.mem, locks := l };
  setBlock s 1 { blockOf (gathering 1 2) 1 with warps := [16] }

theorem witness_MatrixEngine_exponents : (let s := blockEngine 0 [];
      (if headWaits (coreOf s 0) (coreOf s 0).turn then (coreOf s 0).turn else 1 - (coreOf s 0).turn) = 0 ∧
      matrixQueue (coreOf s 0) 0 = [entry (blockOp 0) false] ∧ exponentsReady s (entry (blockOp 0) false) = true) ∧
    (∀ e ∈ [(([] : List (Nat × Nat × Nat)), true, true), ([(0x20000000, 17, 0)], false, true), ([(0x20000200, 17, 0)], true, false)],
      let s := blockEngine 0 e.1;
      let g : Client := { warpClient s 16 with warp := 16, op := 0 };
      let r := expRun s g 0 (linesOf 0 (expBytesA 2 2 3 16));
      r.2.isSome = e.2.1 ∧ (e.2.1 = false ∨ (expRun r.1 g 512 (linesOf 512 (expBytesB 2 2 3))).2.isSome = e.2.2)) := by
  decide +kernel

/-- Pair 16 refers to overlay 0, which no slot holds but whose image, of `n` words, can be read; overlay 9 runs in slot 0, and
the tenant may use the slots `m`; with `q`, a second fragment runs there too. -/
def demanding (n : Word) (m : BitVec 16) (p : List Nat) (q : Bool) (v : Wait) : State :=
  let s := withImage (onWarp fun w => { w with
    scalars := [(16, 0), (17, 0xFE0)]
    split := (0, { leaf with pc := mkRef 9 0 0 18, wait := v, state := if v = .none then .leaf else .parked }) ::
      if q then [(1, { leaf with pc := mkRef 9 0 0 18 })] else [] });
  { s with
    cores := [(0, { CoreSt.blank with slots := [(0, { placedSlot [0xFE001FE0, 0, 0xFE001FE0] with id := 9 })] })]
    mem := Memory.writes s.mem 0x20000004 (leBytes 4 n.toNat), poison := p
    groups := [(0, { Group.blank with masks := [(0, m)] })] }

theorem witness_OverlayTransfers_image : ∀ e ∈ [(16, 2, ([] : List Nat), Alloc.run 1), (17, 2, [], .run 1), (16384, 30, [], .run 1), (16385, 63, [], .run 1),
        (17, 0, [], .none), (17, 1, [], .pinned), (17, 2, [0x20000000], .run 1)],
    let s := demanding (.ofNat 32 e.1) (.ofNat 16 e.2.1) e.2.2.1 true .none;
    let c := mkRef 0 0xFE 0 0;
    let len := leNat (readBytes s 0x20000004 4);
    allIssue [.ovcall none 16, .ovjmp none 16] s = true ∧ readP s (numA none 16) = c ∧ refBad c = false ∧
    findSlot s (slotsOf s 16) (runnerOf s 16) c = none ∧ len = e.1 ∧
    (match imageByte s (runnerOf s 16) 0 0 with
      | .leaf l => l.pa == 0x20000000 && isPoison s l.pa == !e.2.2.1.isEmpty
      | _ => false) = true ∧
    chooseRun (parkedState s (16, 0)) 16 (runnerOf s 16).mask ((len + 4095) / 4096) = e.2.2.2 := by decide +kernel

theorem witness_OverlayLoads_demand : ∀ e ∈ [(2, Alloc.run 1), (1, .pinned)],
    let c := mkRef 0 0xFE 0 0;
    let s := demanding 18 (.ofNat 16 e.1) [] true (.reload c none 17 false);
    (entryOf (warpOf s 16) 0).wait = .reload c none 17 false ∧ refBad c = false ∧ (entryOf (warpOf s 16) 0).left = 0 ∧
    findSlot s (slotsOf s 16) (runnerOf s 16) c = none ∧ imageByte s (runnerOf s 16) 0 0 ≠ .fault ∧
    chooseRun (parkedState s (16, 0)) 16 (runnerOf s 16).mask 1 = e.2 := by decide +kernel

theorem witness_OverlayLoads_tidemark : (∀ st ∈ [SState.ready, .poison], ∀ b ∈ [false, true],
      let s := svcState Warp.blank { SvcCore.blank with slots := [(0, slot0 st)], failing := b };
      (slotAt (slotsOf s 2) 0).state = st ∧ (slotAt (slotsOf s 2) 0).first = 0 ∧ (svcOf s 2).running = true ∧
      (warpOf s 2).status = .running ∧ reloadHeld s 2 = b) ∧
    (let s := overlay .ready 0 [0];
      (curWarp s).pend = [] ∧ StillRuns s s.cur ∧ allIssue [.ovld none 8 16] s = true ∧
      findSlot s (slotsOf s 16) (runnerOf s 16) (mkRef ((readS s 16).extractLsb' 0 20).toNat 0xFE 0 0) = some 0 ∧
      (slotAt (slotsOf s 16) 0).state ≠ .loading) ∧
    (let o := { op (.ovload 0 0) with counter := some 1 };
      let s := onWarp (holding o);
      (curWarp s).pend.find? (fun o => o.counter == some 1) = some o ∧ o.finished = false ∧ (curWarp s).nextOp ≠ o.id) := by
  unfold StillRuns; decide +kernel

/-- The state after bring-up. -/
def brought (s : State) : State := { s with plat := { s.plat with step := 7 } }

theorem witness_SpecialRegisters_steps : (∀ n ∈ [0x20, 0x21, 0x26, 0x28], ∀ s ∈ [ten, brought ten],
      allIssue [.csrrd none 10 (.ofNat 14 n)] s = true) ∧ ten.plat.step < 7 ∧ (brought ten).plat.step = 7 ∧ 16 ≤ ten.cur ∧
    (∀ n ∈ [0, 0x72], let s := { ten with tenants := [(0, { Tenant.blank with pmsel := .ofNat 32 n })] };
      decide ((tenantOf s (curTenant s)).pmsel.toNat / 16 ^ 1 % 16 ≠ 0) = decide (n ≠ 0)) := by decide +kernel

theorem witness_TypesAndContexts_die : ∀ n ∈ [0, 64, 128, 192],
    let s := { contextImage with part := .gx9h, warps := [(2, { warpOf contextImage 2 with scalars := [(8, 0x20000000), (10, .ofNat 32 n)] })] };
    allIssue [.ctxld none 6 8 10] s = true ∧ decide (diesOf s ≤ (readS s (numB none 10)).toNat / 64 % 4) = decide (128 ≤ n) := by
  decide +kernel

theorem witness_RingsAndLaunch_stop : ∀ e ∈ [(([] : List (Nat × Nat × Nat)), false), ([(0x20000000, 17, 0)], true)],
    let c := copy 0x20000000 0;
    let s := { ringing { Ring.blank with copies := [c] } [] with locks := e.1.map fun x => (x.1 + 512, x.2) };
    copyOf (blockOf s 1) c.id = some c ∧ (liveWarps (blockOf s 1)).isEmpty = false ∧ ringWaits s 1 = e.2 ∧
    (match runCopy s 1 c with
      | .error _ => true
      | _ => false) = true := by decide +kernel

/-- Queue 0 of tenant 0 holds a MARK of task 7 that has been taken and, with `p`, is pending still; or a launch waits before it. -/
def marked (l : List (Nat × Nat × Nat)) (p : List TaskEntry) : State :=
  { launching (serving (some 1)) 2 8 0 with tenants := [(0, { owner with marks := l, pending := p })] }

theorem witness_RingsAndLaunch_marks : ∀ p ∈ [true, false],
      let s := marked [(0, 0, 7)] (cond p [⟨0, 2, commandOf (commandBytes 2 8)⟩] []);
      (dieOf s 0).serve = [(0, 0, some 1)] ∧ tideServes s 0 = true ∧ (tenantOf s 0).created = true ∧ physGood s (descAddr s 0 0) = true ∧
      (tenantOf s 0).marks.find? (fun x => x.2.1 == 0) = some (0, 0, 7) ∧ isPending s 0 7 = p ∧
      journalTakes (setTenant s 0 { tenantOf s 0 with marks := [] }) 0 = true := by decide +kernel

theorem witness_RingsAndLaunch_holds : let s := marked [] [⟨5, 0, { commandOf (commandBytes 1 8) with task := 8 }⟩];
      let c := commandOf (readBytes s 0x20040000 128);
      refusalCode s 0 (readBytes s 0x20040000 128) = 0 ∧ isPending (markNow (accept s 0 0 0 c) 0 c) 0 7 = true := by decide +kernel

theorem witness_RecordsAndErasure_told : tcbOf State.reset 0 = 0 ∧
    (let s := launching (serving none) 1 8 0;
      tcbOf s 0 = 0x20050000 ∧ NoDirtyLine s (tcbOf s 0 + 8) 24 ∧ hasType (typed s 5 1) 0x2000 = true ∧ (0x2000 : BitVec 32).toNat ∉ [0x2006, 0x2007, 0x2009, 0x200A, 0x2010, 0x200B] ∧
      ∀ f ∈ [0x2006, 0x2007, 0x2009, 0x200A, 0x2010, 0x200B], frameAvailable s f = true ∧
        (tcbOf s 0 + 32 ≤ f * 65536 ∨ (f + 1) * 65536 ≤ tcbOf s 0)) := by unfold NoDirtyLine; decide +kernel

theorem witness_FaultsAndOutside_held : (let s := { State.reset with locks := [(0x20000000, 17, 0)] };
      debugReaches s 0x20000000 = true ∧ homeOpen s noWarp 0 0x20000000 = false ∧ isPoison s 0x20000000 = false) ∧
    State.reset.plat.step < 7 ∧ 7 ≤ (brought State.reset).plat.step ∧
    outsideGood (brought State.reset) false 0x20000000 8 = true := by decide +kernel

theorem witness_ServicesAndLinks_changes : (∀ l ∈ [[1], [1, 2]],
      let c : Change := { tenant := none, reply := some (.accepted 3 0), left := l, oldRec := none, oldWorlds := [], oldKeys := [] };
      let s := { State.reset with plat := { State.reset.plat with changes := [c] } };
      c ∈ s.plat.changes ∧ (dieOf s 1).live = true ∧ (dieOf s 1).out = false ∧ 1 < diesOf s ∧ lowestLive s = some 0 ∧
      decide (∀ y ∈ c.left, y = 1) = decide (l = [1])) ∧
    (let s := { State.reset with plat := { State.reset.plat with leader := 1 } }; lowestLive s ≠ some s.plat.leader) := by decide +kernel

theorem witness_Platform_parts : (let s := { State.reset with part := .gx9h };
      (∀ i ∈ [8, 15], islandGone s i = true) ∧ islandGone s 7 = false ∧ (∀ d ∈ [2, 3], isDie s d = false) ∧
      isDie s 0 = true ∧ isDie s 1 = true) ∧ islandGone State.reset 8 = false ∧ isDie State.reset 3 = true ∧
    (let s := { State.reset with islands := [(3, ⟨5, none⟩)] };
      (islandOf s 3).droop = none ∧ (islandOf s 3).cap ≤ 8) ∧
    (let s := { State.reset with plat := { State.reset.plat with step := 5, testing := true } };
      s.plat.step < 7 ∧ s.plat.failed = false ∧ s.plat.testing = true) := by decide +kernel

theorem witness_StepRunsDecoded_fresh : let s := overlay .ready 0 [0];
    let u := setFrag s { curEntry s with fresh := true, left := 1, pc := mkRef 0 0 0 17 };
    (curEntry u).state = .leaf ∧ (curEntry u).notReady = false ∧ coreIssues u 16 = true ∧ pipeBusy u 16 0 = false ∧
    (curEntry u).left ≠ 0 ∧ (curEntry u).fresh = true ∧ mayFinish (curWarp u) = true ∧
    (match resolvePc u (storeOf u.cur (curWarp u)) (runnerOf u u.cur) (u.cur, u.frag) (curEntry u).left (curEntry u).pc with
      | (_, .go pc) => pc == mkRef 0 0 0 17
      | _ => false) = true := by decide +kernel
end Sys2Proof.Tests
end

section
/-! SUPPORT. Special registers: what one write of a register does, and which words reach it (R7, R64, R65, R123, R298, R301,
R304, R305). -/

namespace Sys2Proof.Machine

/-! ### The terms of a register write -/

/-- `WSTAT` after a write of `v`: RM (unless the value's is 5 to 7) and the flags are taken, REFSUM bits written as 1 clear,
and the other bits read as zero (R64, R65). -/
def WstatWritten (old v new : Word) : Prop := ∀ b, new.getLsbD b =
  if b < 3 then (if 5 ≤ v.toNat % 8 then old.getLsbD b else v.getLsbD b)
  else if b < 8 then v.getLsbD b else (decide (16 ≤ b ∧ b < 24) && old.getLsbD b && !v.getLsbD b)

/-- `MSTAT` after a write of `v`: TRAPEN is taken, flags written as 1 clear (R123). -/
def MstatWritten (old v new : Word) : Prop := ∀ b, new.getLsbD b =
  if b = 7 then v.getLsbD b else (decide (b < 4) && old.getLsbD b && !v.getLsbD b)

/-- The pending causes after a write of `v` to `SVPEND`: bits written as 1 clear, but bit 0 stays while messages remain (R305). -/
def PendCleared (c : SvcCore) (v : Word) (new : BitVec 4) : Prop := ∀ b, new.getLsbD b =
  (c.pend.getLsbD b && (!v.getLsbD b || decide (b = 0 ∧ c.msgs ≠ [])))

/-- The shelves after a write of `v` to shelf register `n`: the top one takes it (of `SHCAUSE`, RETPRIV only), and with none in
use nothing does (R304). -/
def ShelfWritten (c : SvcCore) (n : Nat) (v : Dword) (new : List Shelf) : Prop :=
  (c.shelves = [] → new = []) ∧ ∀ x rest, c.shelves = x :: rest →
    (n = 0x801 → new = { x with pc := v } :: rest) ∧ (n = 0x803 → new = { x with value := v } :: rest) ∧
    (n = 0x802 → ∃ y : Word, new = { x with cause := y } :: rest ∧
      ∀ b, y.getLsbD b = if b = 31 then v.getLsbD 31 else x.cause.getLsbD b)

/-- Entry `n` of a tenant's violation log has lost its V, and no other bit of the log has changed (R298). -/
def VlogCleared (k n : Nat) (s t : State) : Prop :=
  ∀ j b, (Tbl.get 0 (tenantOf t k).vlog j).getLsbD b =
    ((Tbl.get 0 (tenantOf s k).vlog j).getLsbD b && !decide (j = n ∧ b = 63))

/-! ### The bits of the fields -/

/-- A mask of ones from bit `lo` up to `hi`, read bit by bit: only the bits of the width need a look. -/
theorem getLsbD_ones {w : Nat} (m : BitVec w) (lo hi : Nat) (hw : hi ≤ w)
    (h : ∀ b < w, m.getLsbD b = decide (lo ≤ b ∧ b < hi)) (b : Nat) : m.getLsbD b = decide (lo ≤ b ∧ b < hi) := by
  by_cases hb : b < w
  · exact h b hb
  · rw [BitVec.getLsbD_of_ge _ _ (by omega), eq_comm, decide_eq_false_iff_not]; omega

/-- A write of `WSTAT` obeys its fields. -/
theorem wstatAfter_written (old v : Word) : WstatWritten old v (wstatAfter old v) := by
  intro b
  have sum := getLsbD_ones (0x00FF0000 : Word) 16 24 (by decide) (by decide) b
  have flags := getLsbD_ones (0xF8 : Word) 3 8 (by decide) (by decide) b
  have rm := getLsbD_ones (7 : Word) 0 3 (by decide) (by decide) b
  have inWord : 16 ≤ b ∧ b < 24 → b < 32 := by omega
  have key : (wstatAfter old v).getLsbD b =
      ((old.getLsbD b && (decide (b < 32) && !v.getLsbD b) && decide (16 ≤ b ∧ b < 24)) ||
        (v.getLsbD b && decide (3 ≤ b ∧ b < 8)) ||
        ((if 5 ≤ v.toNat % 8 then old.getLsbD b else v.getLsbD b) && decide (b < 3))) := by
    unfold wstatAfter
    split <;> simp only [BitVec.getLsbD_or, BitVec.getLsbD_and, BitVec.getLsbD_not, sum, flags, rm, Nat.zero_le, true_and]
  rw [key]
  by_cases h3 : b < 3
  · simp [h3, show ¬ (16 ≤ b ∧ b < 24) by omega, show ¬ (3 ≤ b ∧ b < 8) by omega]
  · by_cases h8 : b < 8
    · simp [h3, h8, show ¬ (16 ≤ b ∧ b < 24) by omega, show 3 ≤ b by omega]
    · by_cases h : 16 ≤ b ∧ b < 24
      · simp [h3, h8, h, inWord h]
      · simp [h3, h8, h]

/-- A write of `MSTAT` obeys its fields. -/
theorem mstatAfter_written (old v : Word) : MstatWritten old v (mstatAfter old v) := by
  intro b
  have trap := getLsbD_ones (0x80 : Word) 7 8 (by decide) (by decide) b
  have flags := getLsbD_ones (0xF : Word) 0 4 (by decide) (by decide) b
  simp only [mstatAfter, BitVec.getLsbD_or, BitVec.getLsbD_and, BitVec.getLsbD_not, trap, flags]
  by_cases h7 : b = 7
  · simp [h7]
  · by_cases h4 : b < 4
    · simp [h7, h4, show ¬ (7 ≤ b ∧ b < 8) by omega, show b < 32 by omega]
    · simp [h7, h4, show ¬ (7 ≤ b ∧ b < 8) by omega]

/-- The mask that a write of a violation-log entry applies takes bit 63 away. -/
theorem getLsbD_without_top (x : Dword) (b : Nat) :
    (x &&& 0x7FFFFFFFFFFFFFFF).getLsbD b = (x.getLsbD b && !decide (b = 63)) := by
  rw [BitVec.getLsbD_and, getLsbD_ones (0x7FFFFFFFFFFFFFFF : Dword) 0 63 (by decide) (by decide)]
  rcases Nat.lt_trichotomy b 63 with h | h | h
  · simp [h, show b ≠ 63 by omega]
  · simp [h]
  · simp [BitVec.getLsbD_of_ge x b (by omega)]

/-- The low word of a word that travels in a pair. -/
@[simp] theorem extractLsb'_setWidth_low (x : Word) : (x.setWidth 64).extractLsb' 0 32 = x := by
  ext i hi
  simp [BitVec.getLsbD_eq_getElem hi, show i < 64 by omega]

/-- RETPRIV is bit 31 of `SHCAUSE`; the other bits of the cause stay. -/
theorem getLsbD_causeAfter (x : Word) (v : Dword) (b : Nat) :
    ((v.extractLsb' 31 1 ++ x.extractLsb' 0 31 : BitVec 32)).getLsbD b = if b = 31 then v.getLsbD 31 else x.getLsbD b := by
  rw [BitVec.getLsbD_append]
  rcases Nat.lt_trichotomy b 31 with h | h | h
  · simp [h, show b ≠ 31 by omega]
  · simp [h]
  · simp [show ¬ b < 31 by omega, show b ≠ 31 by omega, show ¬ b - 31 < 1 by omega, BitVec.getLsbD_of_ge x b (by omega)]

/-! ### What each register write does -/

theorem onlyOne_setWarp (s : State) (k : Nat) (w : Warp) : OnlyOne k s (setWarp s k w) :=
  ⟨fun _ h => by rw [warpOf_setWarp, if_neg (Ne.symm h)], rfl⟩

theorem onlySvc_setSvc (s : State) (k : Nat) (c : SvcCore) : OnlySvc k s (setSvc s k c) :=
  ⟨fun _ h => by rw [svcOf_setSvc, if_neg (Ne.symm h)], rfl⟩

theorem onlyTenant_setTenant (s : State) (k : Nat) (x : Tenant) : OnlyTenant k s (setTenant s k x) :=
  ⟨fun _ h => by rw [tenantOf_setTenant, if_neg (Ne.symm h)], rfl⟩

/-- The only field of warp `k` that a write of `WSTAT` changes. -/
theorem warpOf_writeWstat (s : State) (k : Nat) (v : Word) : warpOf (writeWstat s k v) k =
    { warpOf s k with ctl := { (warpOf s k).ctl with wstat := wstatAfter (warpOf s k).ctl.wstat v } } :=
  warpOf_setWarp_same _ _ _

theorem warpOf_writeMstat (s : State) (k : Nat) (v : Word) : warpOf (writeMstat s k v) k =
    { warpOf s k with ctl := { (warpOf s k).ctl with mstat := mstatAfter (warpOf s k).ctl.mstat v } } :=
  warpOf_setWarp_same _ _ _

theorem warpOf_writeSwzsel (s : State) (k : Nat) (v : Word) : warpOf (writeSwzsel s k v) k =
    { warpOf s k with ctl := { (warpOf s k).ctl with swzsel := v &&& 7 } } :=
  warpOf_setWarp_same _ _ _

/-- HOLD is the one field of `SVST` that a write takes (R304). -/
theorem svcOf_writeSvst (s : State) (k : Nat) (v : Word) :
    svcOf (writeSvst s k v) k = { svcOf s k with hold := v.extractLsb' 16 4 } := svcOf_setSvc_same _ _ _

/-- The pending causes that a write of `SVPEND` leaves (R305). -/
theorem clearPend_written (s : State) (k : Nat) (v : Word) : ∃ x, PendCleared (svcOf s k) v x ∧
    svcOf (clearPend s k v) k = { svcOf s k with pend := x } ∧ OnlySvc k s (clearPend s k v) := by
  refine ⟨((svcOf s k).pend &&& ~~~ (v.setWidth 4)) ||| (if (svcOf s k).msgs.isEmpty then 0 else (svcOf s k).pend &&& 1),
    fun b => ?_, svcOf_setSvc_same _ _ _, onlySvc_setSvc _ _ _⟩
  have one := getLsbD_ones (1 : BitVec 4) 0 1 (by decide) (by decide) b
  by_cases hb : b < 4
  · cases hm : (svcOf s k).msgs with
    | nil => simp [hb]
    | cons m rest =>
      simp only [List.isEmpty_cons, Bool.false_eq_true, if_false, BitVec.getLsbD_or, BitVec.getLsbD_and, BitVec.getLsbD_not,
        BitVec.getLsbD_setWidth, one, hb, decide_true, Bool.true_and]
      by_cases h0 : b = 0
      · cases (svcOf s k).pend.getLsbD b <;> simp [h0]
      · simp [h0]
  · simp [BitVec.getLsbD_of_ge _ b (show 4 ≤ b by omega)]

/-- What a write of a shelf register leaves of the shelves (R304). -/
theorem writeShelf_written (s : State) (k n : Nat) (v : Dword) : ∃ l, ShelfWritten (svcOf s k) n v l ∧
    svcOf (writeShelf s k n v) k = { svcOf s k with shelves := l } ∧ OnlySvc k s (writeShelf s k n v) := by
  cases hs : (svcOf s k).shelves with
  | nil =>
    have keep : writeShelf s k n v = s := by simp [writeShelf, hs]
    refine ⟨[], ⟨fun _ => rfl, fun x rest h => by simp [hs] at h⟩, ?_, ?_⟩
    · rw [keep, ← hs]
    · rw [keep]; exact ⟨fun _ _ => rfl, rfl⟩
  | cons top rest =>
    simp only [writeShelf, hs]
    refine ⟨_, ⟨fun h => by simp [hs] at h, fun x r h => ?_⟩, svcOf_setSvc_same _ _ _, onlySvc_setSvc _ _ _⟩
    obtain ⟨rfl, rfl⟩ : top = x ∧ rest = r := by simpa [hs] using h
    refine ⟨?_, ?_, ?_⟩
    · rintro rfl; rfl
    · rintro rfl; rfl
    · rintro rfl; exact ⟨_, rfl, getLsbD_causeAfter _ _⟩

/-- V of one entry of a tenant's log clears, and only that tenant changes (R298). -/
theorem clearVlog_cleared (s : State) (k n : Nat) :
    VlogCleared k n s (clearVlog s k n) ∧ OnlyTenant k s (clearVlog s k n) := by
  refine ⟨fun j b => ?_, onlyTenant_setTenant _ _ _⟩
  simp only [clearVlog, tenantOf_setTenant_same, Tbl.get_set]
  by_cases hj : n = j
  · rw [if_pos hj, hj, getLsbD_without_top]; simp
  · simp [hj, Ne.symm hj]

/-- A value of `AUDFRAC` above 64 is taken as 64 (R298). -/
theorem writeAudfrac_eq (s : State) (v : Word) (h : s.part ≠ .gx9h) :
    writeAudfrac s v = { s with audfrac := BitVec.ofNat 32 (min 64 v.toNat) } := by
  rw [writeAudfrac, if_neg h]
  congr 1
  split
  · rw [Nat.min_eq_left (by omega)]; rfl
  · rw [Nat.min_eq_right (by omega), BitVec.ofNat_toNat, BitVec.setWidth_eq]

/-! ### The events of one register write -/

theorem exec_wstatWrite {s : State} {w : Nat} (v : Word) (h : (warpOf s w).status ≠ .absent) :
    exec (.wstatWrite w v) s = .next (writeWstat s w v) := by
  change execWstatWrite w v s = _
  rw [execWstatWrite, if_neg h]

theorem exec_mstatWrite {s : State} {w : Nat} (v : Word) (h : (warpOf s w).status ≠ .absent) :
    exec (.mstatWrite w v) s = .next (writeMstat s w v) := by
  change execMstatWrite w v s = _
  rw [execMstatWrite, if_neg h]

theorem exec_vlogClear (s : State) {k n : Nat} (hn : n < 16) (hk : k < 64) :
    exec (.vlogClear k n) s = .next (clearVlog s k n) := by
  change execVlogClear k n s = _
  rw [execVlogClear, if_pos ⟨hn, hk⟩]

theorem exec_svstWrite (s : State) {core : Nat} (v : Word) (h : core < 16) :
    exec (.svstWrite core v) s = .next (writeSvst s core v) := by
  change execSvstWrite core v s = _
  rw [execSvstWrite, if_pos h]

theorem exec_svpendClear (s : State) {core : Nat} (v : Word) (h : core < 16) :
    exec (.svpendClear core v) s = .next (clearPend s core v) := by
  change execSvpendClear core v s = _
  rw [execSvpendClear, if_pos h]

theorem exec_shelfWrite (s : State) {core : Nat} (n : Nat) (v : Dword) (h : core < 16) :
    exec (.shelfWrite core n v) s = .next (writeShelf s core n v) := by
  change execShelfWrite core n v s = _
  rw [execShelfWrite, if_pos h]

/-- A GX9-H answers a write of `AUDFRAC` as absent; another part takes it (R25, R298). -/
theorem exec_audfracWrite (s : State) (v : Word) : exec (.audfracWrite v) s = .next (if s.part = .gx9h then
    { s with out := .absent 0x820 :: s.out } else { s with audfrac := BitVec.ofNat 32 (min 64 v.toNat) }) := by
  change execAudfracWrite v s = _
  unfold execAudfracWrite
  split
  · rfl
  · rw [writeAudfrac_eq s v ‹_›]

/-! ### CSRWR -/

/-- A word that issues addresses no unit that the part lacks (R49). -/
theorem Issues.unitPresent {i : Instr} {s : State} (h : Issues i s) : unitAbsent s i = false := by
  have passed := h.1
  unfold issueFault wordFault at passed
  split at passed
  · cases passed
  · split at passed
    · cases passed
    · split at passed
      · cases passed
      · exact Bool.eq_false_iff.mpr ‹_›

/-- What `CSRWR` may name that is absent: `AUDFRAC` of a GX9-H, `MSTAT` of a service core (R25, R298). -/
theorem unitAbsent_csrwr (s : State) (p : Option Prefix) (d : BitVec 7) (i : BitVec 14) : unitAbsent s (.csrwr p d i) =
    ((some i.toNat == some 0x820 && s.part == .gx9h) || (some i.toNat == some 1 && isService s)) := rfl

/-- A GX9-H issues no write of `AUDFRAC`. -/
theorem Issues.audfrac_part {p : Option Prefix} {d : BitVec 7} {i : BitVec 14} {s : State} (h : Issues (.csrwr p d i) s)
    (hi : i.toNat = 0x820) : s.part ≠ .gx9h := by
  intro hp
  have present := h.unitPresent
  rw [unitAbsent_csrwr, hi, hp] at present
  cases present

/-- The special registers that move through a pair (R298). -/
theorem csrIsWide_iff (i : BitVec 14) : csrIsWide i = true ↔
    (0x40 ≤ i.toNat ∧ i.toNat ≤ 0x4F) ∨ (0x60 ≤ i.toNat ∧ i.toNat ≤ 0x67) ∨ i.toNat = 0x801 ∨ i.toNat = 0x803 ∨
      i.toNat = 0x811 := by
  unfold csrIsWide csrWide
  dsimp only
  (repeat' split) <;> simp only [beq_iff_eq, Option.some.injEq, reduceCtorEq, true_iff, false_iff] <;> omega

/-- The value that `CSRWR` hands to the special register: a pair, or one scalar (R301). -/
def csrwrValue (p : Option Prefix) (d : BitVec 7) (i : BitVec 14) (s : State) : Dword :=
  if csrIsWide i then readP s (numD p d) else (readS s (numD p d)).setWidth 64

theorem csrwr_next {p : Option Prefix} {d : BitVec 7} {i : BitVec 14} {s : State} (h : Issues (.csrwr p d i) s) :
    exec (.csrwr p d i) s = .next (csrWrite s i.toNat (csrwrValue p d i s)) :=
  word_next h fun s => csrWrite s i.toNat (csrwrValue p d i s)

theorem csrwrValue_wide {p : Option Prefix} {d : BitVec 7} {i : BitVec 14} {s : State} (h : csrIsWide i = true) :
    csrwrValue p d i s = readP s (numD p d) := if_pos h

/-! Which register a number of R298 names: those of one scalar, then the pairs and the work registers. -/

theorem csrWrite_wstat (s : State) (x : Word) : csrWrite s 0 (x.setWidth 64) = writeWstat s s.cur x :=
  congrArg (writeWstat s s.cur) (extractLsb'_setWidth_low x)

theorem csrWrite_mstat (s : State) (x : Word) : csrWrite s 1 (x.setWidth 64) = writeMstat s s.cur x :=
  congrArg (writeMstat s s.cur) (extractLsb'_setWidth_low x)

theorem csrWrite_swzsel (s : State) (x : Word) : csrWrite s 2 (x.setWidth 64) = writeSwzsel s s.cur x :=
  congrArg (writeSwzsel s s.cur) (extractLsb'_setWidth_low x)

theorem csrWrite_svst (s : State) (x : Word) : csrWrite s 0x800 (x.setWidth 64) = writeSvst s s.cur x :=
  congrArg (writeSvst s s.cur) (extractLsb'_setWidth_low x)

theorem csrWrite_svpend (s : State) (x : Word) : csrWrite s 0x804 (x.setWidth 64) = clearPend s s.cur x :=
  congrArg (clearPend s s.cur) (extractLsb'_setWidth_low x)

theorem csrWrite_fsto (s : State) (x : Word) : csrWrite s 0x810 (x.setWidth 64) = writeFsto s x :=
  congrArg (writeFsto s) (extractLsb'_setWidth_low x)

theorem csrWrite_audfrac (s : State) (x : Word) : csrWrite s 0x820 (x.setWidth 64) = writeAudfrac s x :=
  congrArg (writeAudfrac s) (extractLsb'_setWidth_low x)

theorem csrWrite_vlog (s : State) {n : Nat} (v : Dword) (h : 0x40 ≤ n ∧ n ≤ 0x4F) :
    csrWrite s n v = if v.getLsbD 63 && !isService s then clearVlog s (curTenant s) (n - 0x40) else s := by
  simp only [csrWrite, h, and_self, if_true, show n ≠ 0 by omega, show n ≠ 1 by omega, show n ≠ 2 by omega, if_false]

/-- Bit 63 clears V for the tenant of a tenant core. -/
theorem csrWrite_vlog_clears {s : State} {n : Nat} {v : Dword} (h : 0x40 ≤ n ∧ n ≤ 0x4F) (hv : v.getLsbD 63 = true)
    (hs : 16 ≤ s.cur) : csrWrite s n v = clearVlog s (curTenant s) (n - 0x40) := by
  rw [csrWrite_vlog s v h, hv, isService, decide_eq_false (by omega)]; rfl

/-- Without bit 63 a write of the violation log does nothing. -/
theorem csrWrite_vlog_ignored {s : State} {n : Nat} {v : Dword} (h : 0x40 ≤ n ∧ n ≤ 0x4F) (hv : v.getLsbD 63 = false) :
    csrWrite s n v = s := by
  rw [csrWrite_vlog s v h, hv]; rfl

theorem csrWrite_shelf (s : State) {n : Nat} (v : Dword) (h : n = 0x801 ∨ n = 0x802 ∨ n = 0x803) :
    csrWrite s n v = writeShelf s s.cur n v := by
  rcases h with rfl | rfl | rfl <;> rfl

theorem csrWrite_work (s : State) {n : Nat} (v : Dword) (h : 0x806 ≤ n ∧ n ≤ 0x809) :
    csrWrite s n v = setSvc s s.cur
      { svcOf s s.cur with work := Tbl.set (svcOf s s.cur).work (n - 0x806) (v.extractLsb' 0 32) } := by
  obtain ⟨lo, hi⟩ := h
  interval_cases n <;> rfl

/-- The registers that a write leaves as they are: those marked RO, `PMONn` and `SVMSG` (R298; assumption 57). -/
theorem csrWrite_ignored (s : State) {n : Nat} (v : Dword) (h : n = 0x10 ∨ n = 0x11 ∨ (0x20 ≤ n ∧ n ≤ 0x28) ∨
    (0x60 ≤ n ∧ n ≤ 0x67) ∨ n = 0x805 ∨ n = 0x811) : csrWrite s n v = s := by
  simp (disch := omega) only [csrWrite, if_neg]

/-- The registers that take one scalar: all but the violation log, the monitors, `SHPC`, `SHVAL` and `FWBASE` (R298). -/
theorem csrwrValue_scalar (p : Option Prefix) (d : BitVec 7) {i : BitVec 14} (s : State)
    (h : i.toNat < 0x40 ∨ i.toNat = 0x800 ∨ (0x804 ≤ i.toNat ∧ i.toNat ≤ 0x810) ∨ i.toNat = 0x820) :
    csrwrValue p d i s = (readS s (numD p d)).setWidth 64 :=
  if_neg (by rw [csrIsWide_iff]; omega)

/-- `CSRWR` of such a register, by its number. -/
theorem csrWrite_scalar (p : Option Prefix) (d : BitVec 7) {i : BitVec 14} (s : State) {k : Nat} (hi : i.toNat = k)
    (hk : k < 0x40 ∨ k = 0x800 ∨ (0x804 ≤ k ∧ k ≤ 0x810) ∨ k = 0x820) :
    csrWrite s i.toNat (csrwrValue p d i s) = csrWrite s k ((readS s (numD p d)).setWidth 64) := by
  subst hi
  rw [csrwrValue_scalar p d s hk]

/-- A shelf register takes a pair, `SHCAUSE` one scalar. -/
theorem csrwrValue_shelf {p : Option Prefix} {d : BitVec 7} {i : BitVec 14} {s : State}
    (h : i.toNat = 0x801 ∨ i.toNat = 0x802 ∨ i.toNat = 0x803) : csrwrValue p d i s =
      if i.toNat = 0x802 then (readS s (numD p d)).setWidth 64 else readP s (numD p d) := by
  unfold csrwrValue
  by_cases h2 : i.toNat = 0x802
  · rw [if_pos h2, if_neg (by rw [csrIsWide_iff]; omega)]
  · rw [if_neg h2, if_pos (by rw [csrIsWide_iff]; omega)]

/-! ### The statement -/

/-- Settles O46: `CSRWR` and the events are the register writes above, each by its own law. -/
theorem specialRegisterWrites : Obligations.SpecialRegisterWrites := by
  unfold Obligations.SpecialRegisterWrites
  intro wstat mstat pend shelf only
  refine ⟨fun p d i s h => ?csrwr, fun w v s h => ⟨?wstatWrite, ?mstatWrite⟩, fun k n s hn hk => ?vlogClear,
    fun core v s hc => ⟨?svstWrite, ?svpendClear⟩, fun core n v s hc _ _ => ?shelfWrite,
    fun v s => ⟨rfl, exec_audfracWrite s v⟩⟩
  case csrwr =>
    intro n lo v w c
    refine ⟨_, csrwr_next h, fun hn => ?wstat, fun hn => ?mstat, fun hn => ?swzsel, fun h1 h2 hc hv => ?vlog,
      fun h1 h2 hv => ?vlogKept, fun hn => ?svst, fun hn => ?shelf, fun hn => ?svpend, fun h1 h2 => ?work, fun hn => ?fsto,
      fun hn => ?audfrac, fun hn => csrWrite_ignored s _ hn⟩
    case wstat =>
      rw [csrWrite_scalar p d s hn (by decide), csrWrite_wstat]
      exact ⟨_, wstatAfter_written _ _, warpOf_writeWstat _ _ _, onlyWarp_setCur _ _⟩
    case mstat =>
      rw [csrWrite_scalar p d s hn (by decide), csrWrite_mstat]
      exact ⟨_, mstatAfter_written _ _, warpOf_writeMstat _ _ _, onlyWarp_setCur _ _⟩
    case swzsel =>
      rw [csrWrite_scalar p d s hn (by decide), csrWrite_swzsel]
      exact ⟨warpOf_writeSwzsel _ _ _, onlyWarp_setCur _ _⟩
    case vlog =>
      rw [csrwrValue_wide ((csrIsWide_iff i).mpr (.inl ⟨h1, h2⟩)), csrWrite_vlog_clears ⟨h1, h2⟩ hv hc]
      obtain ⟨cleared, others, rest⟩ := clearVlog_cleared s (curTenant s) (n - 0x40)
      exact ⟨cleared, rest, others⟩
    case vlogKept =>
      rw [csrwrValue_wide ((csrIsWide_iff i).mpr (.inl ⟨h1, h2⟩)), csrWrite_vlog_ignored ⟨h1, h2⟩ hv]
    case svst =>
      rw [csrWrite_scalar p d s hn (by decide), csrWrite_svst]
      exact ⟨svcOf_writeSvst _ _ _, onlySvc_setSvc _ _ _⟩
    case shelf =>
      rw [csrWrite_shelf s _ hn, csrwrValue_shelf hn]
      exact writeShelf_written s s.cur n _
    case svpend =>
      rw [csrWrite_scalar p d s hn (by decide), csrWrite_svpend]
      exact clearPend_written s s.cur lo
    case work =>
      rw [csrWrite_work s _ ⟨h1, h2⟩, csrwrValue_scalar p d s (by omega), extractLsb'_setWidth_low,
        svcOf_setSvc_same]
      exact ⟨Tbl.get_set_same _ _ _ _, fun j hj => Tbl.get_set_ne _ _ _ (Ne.symm hj), rfl, onlySvc_setSvc _ _ _⟩
    case fsto =>
      rw [csrWrite_scalar p d s hn (by decide), csrWrite_fsto]
      rfl
    case audfrac =>
      rw [csrWrite_scalar p d s hn (by decide), csrWrite_audfrac]
      exact writeAudfrac_eq s lo (h.audfrac_part hn)
  case wstatWrite =>
    exact ⟨_, _, exec_wstatWrite v h, wstatAfter_written _ _, warpOf_writeWstat _ _ _, onlyOne_setWarp _ _ _⟩
  case mstatWrite =>
    exact ⟨_, _, exec_mstatWrite v h, mstatAfter_written _ _, warpOf_writeMstat _ _ _, onlyOne_setWarp _ _ _⟩
  case vlogClear =>
    obtain ⟨cleared, others, rest⟩ := clearVlog_cleared s k n
    exact ⟨_, exec_vlogClear s hn hk, cleared, rest, others⟩
  case svstWrite =>
    exact ⟨_, exec_svstWrite s v hc, svcOf_writeSvst _ _ _, onlySvc_setSvc _ _ _⟩
  case svpendClear =>
    obtain ⟨x, written⟩ := clearPend_written s core v
    exact ⟨_, x, exec_svpendClear s v hc, written⟩
  case shelfWrite =>
    obtain ⟨l, written⟩ := writeShelf_written s core n v
    exact ⟨_, l, exec_shelfWrite s n v hc, written⟩

end Sys2Proof.Machine
end

section
/-! SUPPORT. Loads: the traffic of a read to its home (R189 to R193, R288, R367), the end of an operation (R39, R204), and the
registers that a load writes (R80, R204, R206, R207, R210). -/

namespace Sys2Proof.Machine

/-! ### Traffic to the homes

A read of memory that no dirty stash line holds moves nothing but the package's own accounts: link counters, monitors, cached
copies, draws of free values, audits, and the records of the blocks. -/

/-- State `t` with those accounts as they stand in `s`. -/
def withAccountsOf (s t : State) : State :=
  { t with inner := s.inner, tenants := s.tenants, caches := s.caches, freeCtr := s.freeCtr, dies := s.dies
           blocks := s.blocks }

/-- Only the accounts of the traffic to the homes have changed. -/
def TrafficOnly (s t : State) : Prop := withAccountsOf s t = s

namespace TrafficOnly

theorem refl (s : State) : TrafficOnly s s := rfl

theorem trans {s t u : State} (h : TrafficOnly s t) (k : TrafficOnly t u) : TrafficOnly s u :=
  (congrArg (withAccountsOf s) k).trans h

theorem mem {s t : State} (h : TrafficOnly s t) : t.mem = s.mem := congrArg (fun u => u.mem) h

theorem warps {s t : State} (h : TrafficOnly s t) : t.warps = s.warps := congrArg (fun u => u.warps) h

theorem warpOf {s t : State} (h : TrafficOnly s t) (k : Nat) : warpOf t k = Machine.warpOf s k := by
  unfold Machine.warpOf; rw [h.warps]

/-- Accounts and bytes written over by those of `s` make no difference. -/
theorem rewritten {s t : State} (h : TrafficOnly s t) (b : Tbl Block) (c : Caches) :
    TrafficOnly s { t with mem := s.mem, blocks := b, caches := c } := by
  have same := congrArg (fun u : State => { u with mem := s.mem }) h
  exact same

/-- A run of steps each of which is traffic only. -/
theorem foldl {α : Type} {f : State → α → State} (h : ∀ t x, TrafficOnly t (f t x)) (s : State) (l : List α) :
    TrafficOnly s (l.foldl f s) := by
  induction l generalizing s with
  | nil => exact refl s
  | cons x l ih => exact (h s x).trans (ih _)

end TrafficOnly

theorem crossInner_traffic (s : State) (k : Nat) : TrafficOnly s (crossInner s k) := rfl

theorem pmonCount_traffic (s : State) (t code n : Nat) : TrafficOnly s (pmonCount s t code n) := by
  unfold pmonCount
  dsimp only
  split
  · exact .refl s
  · exact rfl

theorem l2Put_traffic (s : State) (line way : Nat) : TrafficOnly s (l2Put s line way) := rfl

theorem l2Alloc_traffic (s : State) (mask : BitVec 32) (line : Nat) : TrafficOnly s (l2Alloc s mask line) := by
  unfold l2Alloc
  split
  · exact .refl s
  · dsimp only
    split
    · exact l2Put_traffic _ _ _
    · split
      · exact l2Put_traffic _ _ _
      · exact rfl

theorem l2Use_traffic (s : State) (t d pa : Nat) : TrafficOnly s (l2Use s t d pa) := by
  have links := TrafficOnly.foldl crossInner_traffic s (dieLinks s d pa)
  unfold l2Use
  dsimp only
  split
  · exact links
  · refine links.trans (.trans ?_ (.trans (pmonCount_traffic _ _ _ _) (l2Alloc_traffic _ _ _)))
    split
    · exact crossInner_traffic _ _
    · exact .refl _

/-- An access that reaches its line's home changes the accounts only. -/
theorem homeUse_traffic (s : State) (k : Nat) (up leafM : Bool) (pa : Nat) : TrafficOnly s (homeUse s k up leafM pa) := by
  unfold homeUse
  dsimp only
  split
  · exact .refl s
  · split
    · exact .foldl crossInner_traffic _ _
    · exact l2Use_traffic _ _ _ _

theorem l1Put_traffic (s : State) (core line : Nat) : TrafficOnly s (l1Put s core line) := by
  unfold l1Put
  dsimp only
  split
  · exact .refl s
  · split <;> exact rfl

theorem laneCount_traffic (s : State) (wk : Nat) (o : PendOp) (l code : Nat) : TrafficOnly s (laneCount s wk o l code) := by
  unfold laneCount countFor
  split
  · exact .refl s
  · split
    · exact .refl s
    · exact pmonCount_traffic _ _ _ _

theorem noteAudit_traffic (s : State) (k : Nat) (m m' : Memory) (a n : Nat) : TrafficOnly s (noteAudit s k m m' a n) := by
  unfold noteAudit
  split
  · exact .refl s
  · exact rfl

theorem noteLines_traffic (s : State) (k : Nat) (m m' : Memory) (l : List SLine) :
    TrafficOnly s (noteLines s k m m' l) := by
  unfold noteLines
  split
  · exact .refl s
  · exact .foldl (fun t x => noteAudit_traffic t _ _ _ _ _) _ _

/-! ### Snoops that write nothing back (R193) -/

/-- A run of steps that each keep a value keeps it. -/
theorem foldl_keeps {α β : Type} {f : β → α → β} {b : β} {l : List α} (h : ∀ x ∈ l, f b x = b) : l.foldl f b = b := by
  induction l with
  | nil => rfl
  | cons x l ih => rw [List.foldl_cons, h x (by simp)]; exact ih fun y hy => h y (List.mem_cons_of_mem _ hy)

theorem wbLine_clean (s : State) (m : Memory) {l : SLine} (h : l.dirty = false) : wbLine s m l = m := by
  simp [wbLine, h]

/-- A line that a snoop meets is clean where no dirty line holds the bytes. -/
theorem NoDirtyLine.clean {s : State} {a n : Nat} (h : NoDirtyLine s a n) {e : Nat × Block} (he : e ∈ s.blocks) {l : SLine}
    (hl : l ∈ e.2.lines) {skip : Option (Nat × Nat × Bool)} (hit : snoopHit skip a n e.1 l = true) : l.dirty = false := by
  simp only [snoopHit, Bool.and_eq_true, decide_eq_true_eq] at hit
  by_contra hd
  have apart := h e he l hl (by simpa using hd)
  omega

/-- A snoop of bytes that no dirty line holds leaves every byte of memory. -/
theorem snoopBy_mem {s : State} {a n : Nat} (h : NoDirtyLine s a n) (own : Nat) (skip : Option (Nat × Nat × Bool))
    (drop : Bool) : (snoopBy own s skip a n drop).mem = s.mem := by
  refine foldl_keeps fun e he => foldl_keeps fun l hl => wbLine_clean s _ ?_
  obtain ⟨hl, hit⟩ := List.mem_filter.mp hl
  exact h.clean (List.mem_filter.mp he).1 hl hit

/-- Such a snoop changes the accounts only. -/
theorem snoopBy_traffic {s : State} {a n : Nat} (h : NoDirtyLine s a n) (own : Nat) (skip : Option (Nat × Nat × Bool))
    (drop : Bool) : TrafficOnly s (snoopBy own s skip a n drop) := by
  have same := snoopBy_mem h own skip drop
  unfold snoopBy at same ⊢
  dsimp only at same ⊢
  rw [same]
  exact (TrafficOnly.foldl (fun t e => noteLines_traffic t _ _ _ _) s _).rewritten _ _

/-! ### A unit reads memory (R190, R204) -/

/-- A unit outside a stash of a block that is no replay reads the bytes that memory holds, and changes the accounts only. -/
structure ReadsMemory (s : State) (u : MUnit) (r : State × List Byte) : Prop where
  traffic : TrafficOnly s r.1
  bytes : r.2 = Memory.reads s.mem u.pa u.len

section
variable {s : State} {k : Nat} {u : MUnit} (stash : unitStash s k u = false) (run : (blockOf s k).replay = false)
  (clean : NoDirtyLine s u.pa u.len)
include stash run clean

theorem unitBytes_readsMemory : ReadsMemory s u (unitBytes s k u) := by
  have same : (snoop s none u.pa u.len false).mem = s.mem := snoopBy_mem clean _ _ _
  rw [unitBytes, if_neg (by simp [stash])]
  exact ⟨snoopBy_traffic clean _ _ _, by simp [replayBytes, run, same]⟩

theorem unitRead_readsMemory : ReadsMemory s u (unitRead s k u) := by
  obtain ⟨traffic, bytes⟩ := unitBytes_readsMemory stash run clean
  unfold unitRead
  dsimp only
  rw [if_neg (by simp [stash])]
  exact ⟨traffic.trans (homeUse_traffic _ _ _ _ _), bytes⟩

/-- The L1 changes nothing of that: no cached copy is stale. -/
theorem loadRead_readsMemory : ReadsMemory s u (loadRead s k u) := by
  obtain ⟨traffic, bytes⟩ := unitRead_readsMemory stash run clean
  unfold loadRead
  dsimp only
  split
  · exact ⟨traffic, bytes⟩
  · split
    · exact unitBytes_readsMemory stash run clean
    · exact ⟨traffic.trans (l1Put_traffic _ _ _), bytes⟩

end

/-! ### Operations of a warp -/

theorem opOf_id {w : Warp} {id : Nat} {o : PendOp} (h : opOf w id = some o) : o.id = id := by
  simpa using List.find?_some h

/-- An operation replaced in the list stands there in its new form: the replacement keeps every number. -/
theorem opOf_setOp {w : Warp} {o o' : PendOp} (h : opOf w o'.id = some o) : opOf (setOp w o') o'.id = some o' := by
  have number : (fun x : PendOp => x.id == o'.id) ∘ (fun x => if x.id == o'.id then o' else x) = fun x => x.id == o'.id := by
    funext x
    by_cases hx : x.id = o'.id <;> simp [hx]
  have found : w.pend.find? (fun x => x.id == o'.id) = some o := h
  rw [opOf, setOp, List.find?_map, number, found, Option.map_some, if_pos (by simp [opOf_id h])]

/-- An operation with a unit still to be performed is not complete. -/
theorem not_isComplete {o : PendOp} {v : Nat} {z : MUnit} (h : o.units[v]? = some z) (hz : z.done = false) :
    isComplete o = false := by
  rw [isComplete, List.all_eq_false]
  exact ⟨z, List.mem_of_getElem? h, by simp [hz]⟩

/-- What an operation that leaves its warp changes of it: the list and its flag (R39). -/
theorem dropOp_warp (w : Warp) (o : PendOp) : ∃ g,
    dropOp w o = { w with pend := (w.pend.filter fun x => x.id != o.id).dropWhile fun x => x.kind == .point, flags := g } ∧
    ∀ f, Tbl.get 0 g f = flagCount w f - (if o.flag ≠ 15#4 ∧ f = o.flag.toNat then 1 else 0) := by
  obtain ⟨g, hg⟩ := flagDone_warp
    { w with pend := (w.pend.filter fun x => x.id != o.id).dropWhile fun x => x.kind == .point } o.flag 1
  refine ⟨g, hg, fun f => ?_⟩
  have count := flagCount_flagDone
    { w with pend := (w.pend.filter fun x => x.id != o.id).dropWhile fun x => x.kind == .point } o.flag 1 f
  rw [hg] at count
  exact count

/-- A warp with a fragment left is not over (R171). -/
theorem warpOver_of_entries {w : Warp} (h : (usedEntries w).isEmpty = false) : warpOver w = false := by
  simp [warpOver, h]

/-- With a fragment left, an operation that is complete leaves its warp, and nothing ends. -/
theorem retireOp_eq {s : State} {k : Nat} (h : StillRuns s k) (o : PendOp) :
    retireOp s k o = setWarp s k (dropOp (warpOf s k) o) := by
  obtain ⟨g, hd, -⟩ := dropOp_warp (warpOf s k) o
  have runs : warpOver (warpOf (setWarp s k (dropOp (warpOf s k) o)) k) = false := by
    rw [warpOf_setWarp_same, hd]
    exact warpOver_of_entries h
  unfold retireOp warpEnd
  dsimp only
  rw [if_pos runs]

/-- The same for the current warp, whose list and flags are those of an earlier state: it has lost the operation. -/
theorem opRetired_dropOp {s t : State} (o : PendOp) (hp : (curWarp t).pend = (curWarp s).pend)
    (hf : (curWarp t).flags = (curWarp s).flags) : OpRetired o s (setCur t (dropOp (curWarp t) o)) := by
  obtain ⟨g, hd, count⟩ := dropOp_warp (curWarp t) o
  refine ⟨?_, fun f => ?_⟩
  · rw [curWarp_setCur, hd, hp]
  · rw [curWarp_setCur, hd]
    simpa [flagCount, hf] using count f

/-! ### Runs of registers (R80, R207) -/

theorem writeRun_outside (s : State) (o : PendOp) (d : Nat) (f : Nat → Nat → Word) (n : Nat) :
    OnlyWarpLog s (writeRun s o d f n) := by
  induction n with
  | zero => exact (OnlyWarp.refl s).log
  | succ n ih => exact ih.trans (writeLanes_outside _ _ _ _ _)

theorem writeRun_warp (s : State) (o : PendOp) (d : Nat) (f : Nat → Nat → Word) (n : Nat) :
    ∃ v g, curWarp (writeRun s o d f n) = { curWarp s with vecs := v, vlog := g } := by
  induction n with
  | zero => exact ⟨_, _, rfl⟩
  | succ n ih =>
    obtain ⟨v, g, h⟩ := ih
    obtain ⟨v', g', h'⟩ := writeLanes_warp (writeRun s o d f n) (d + n) o.active o.zeroed (f n)
    exact ⟨v', g', by rw [writeRun, h', h]⟩

/-- The lanes of any register after a run of registers is written. -/
theorem readV_writeRun (s : State) (o : PendOp) (d : Nat) (f : Nat → Nat → Word) (n r l : Nat) (hl : l < 64) :
    readV (writeRun s o d f n) r l =
      if (d ≤ r ∧ r < d + n) ∧ l < (curWarp s).width then
        if o.active.getLsbD l then f (r - d) l else if o.zeroed.getLsbD l then 0 else readV s r l
      else readV s r l := by
  induction n with
  | zero => rw [writeRun, if_neg (by omega)]
  | succ n ih =>
    obtain ⟨v, g, h⟩ := writeRun_warp s o d f n
    have width : (curWarp (writeRun s o d f n)).width = (curWarp s).width := by rw [h]
    rw [writeRun, readV_writeLanes _ _ _ _ _ _ _ hl, width, ih]
    by_cases hr : r = d + n
    · subst hr
      simp
    · simp only [hr, false_and, if_false, show (d ≤ r ∧ r < d + (n + 1)) ↔ (d ≤ r ∧ r < d + n) by omega]

/-! ### A load returns -/

section
variable {s : State} {w op : Nat} {o : PendOp} (u : Nat) (here : opOf (warpOf s w) op = some o)
include here

/-- A load with all its data writes its registers (R204). -/
theorem exec_loadReturn_complete (load : isLoad o.kind = true) (complete : isComplete o = true) :
    exec (.loadReturn w op u) s = .next (finishLoad s w o) := by
  change execLoadReturn w op u s = _
  simp [execLoadReturn, withOp, here, load, complete]

/-- Of another one, the unit reads its bytes. -/
theorem exec_loadReturn_unit {x : MUnit} (load : isLoad o.kind = true) (unit : o.units[u]? = some x)
    (waits : x.done = false) : exec (.loadReturn w op u) s = .next (readUnit s w o u x) := by
  change execLoadReturn w op u s = _
  simp [execLoadReturn, withOp, here, load, not_isComplete unit waits, unit]

end

/-- A unit that has its turn, and that nothing holds at its home in this package, reads there (R196, R199, R205, R251). -/
theorem readUnit_reads {s : State} {w op u : Nat} {o : PendOp} {x : MUnit} (turn : UnitTurn s w op u o x)
    (near : isPeer x.pa = false) (poison : unitPoison s (warpOf s w).blk x = false) (free : unitFree s w o x = true) :
    readUnit s w o u x =
      loadLane (loadRead s (warpOf s w).blk x).1 w o u x (loadRead s (warpOf s w).blk x).2 := by
  obtain ⟨here, -, waits, home, may, alone⟩ := turn
  have travels : fillTravels s (warpOf s w).blk x = false := by simp [fillTravels, near]
  rw [← opOf_id here] at alone
  simp [readUnit, waits, may, alone, poison, home, near, travels, free]

/-- A unit that is not the last of its load leaves the load pending, with its data (R204). -/
theorem loadLane_pending {s : State} {w u v : Nat} {o : PendOp} {z : MUnit} (x : MUnit) (d : List Byte)
    (other : v ≠ u) (unit : o.units[v]? = some z) (waits : z.done = false) :
    loadLane s w o u x d =
      let o' := setUnit o u { x with data := d, done := true }
      let t := laneCount s w o' x.lane 3
      setWarp t w (setOp (warpOf t w) o') := by
  have pending : isComplete (setUnit o u { x with data := d, done := true }) = false := by
    refine not_isComplete (v := v) (z := z) ?_ waits
    rw [setUnit, List.getElem?_set_ne (Ne.symm other), unit]
  simp [loadLane, loadDone, pending]

/-- The value of a lane in register `i` of the run, as R206 gives it. -/
theorem laneValue_eq (n : Nat) (signed : Bool) (b : List Byte) (i : Nat) : laneValue n signed b i =
    (if signed then (if n = 1 then BitVec.ofInt 32 (BitVec.ofNat 8 (leNat b)).toInt
      else BitVec.ofInt 32 (BitVec.ofNat 16 (leNat b)).toInt)
    else BitVec.ofNat 32 (leNat ((b.drop (4 * i)).take 4))) := rfl

/-- An operation that is complete leaves the warp as it is executing, which has a fragment left. -/
theorem retireOp_current {t : State} {w : Nat} (cur : t.cur = w) (runs : (usedEntries (curWarp t)).isEmpty = false)
    (o : PendOp) : retireOp t w o = setCur t (dropOp (curWarp t) o) := by
  subst cur
  exact retireOp_eq runs o

/-- A register that an operation's end does not touch. -/
theorem readV_dropOp (t : State) (o : PendOp) (r l : Nat) : readV (setCur t (dropOp (curWarp t) o)) r l = readV t r l := by
  obtain ⟨g, hd, -⟩ := dropOp_warp (curWarp t) o
  rw [readV, curWarp_setCur, hd]; rfl

theorem readS_dropOp (t : State) (o : PendOp) (m : Nat) : readS (setCur t (dropOp (curWarp t) o)) m = readS t m := by
  obtain ⟨g, hd, -⟩ := dropOp_warp (curWarp t) o
  rw [readS, curWarp_setCur, hd]; rfl

/-- A vector load whose data is all there writes its run of registers and ends (R206, R207). -/
structure LoadFinished (o : PendOp) (d regs n : Nat) (signed : Bool) (s t : State) : Prop where
  retired : OpRetired o s t
  lanes : ∀ r l, l < 64 → readV t r l =
    if (d ≤ r ∧ r < d + regs) ∧ l < (curWarp s).width then
      if o.active.getLsbD l then laneValue n signed (laneBytes o l n) (r - d)
      else if o.zeroed.getLsbD l then 0 else readV s r l
    else readV s r l
  warp : { warpOf t s.cur with
    vecs := (curWarp s).vecs, vlog := (curWarp s).vlog, pend := (curWarp s).pend, flags := (curWarp s).flags } = curWarp s
  outside : OnlyWarpLog s t

theorem finishLoad_load {s : State} {w : Nat} {o : PendOp} {d regs n : Nat} {signed : Bool}
    (kind : o.kind = .load d regs n signed) (runs : StillRuns s w) :
    LoadFinished o d regs n signed (asWarp s w o.frag) (finishLoad s w o) := by
  let t := writeRun (asWarp s w o.frag) o d (fun i l => laneValue n signed (laneBytes o l n) i) regs
  have outside : OnlyWarpLog (asWarp s w o.frag) t := writeRun_outside _ _ _ _ _
  have cur : t.cur = (asWarp s w o.frag).cur := congrArg (fun v => v.cur) outside.rest
  obtain ⟨v, g, warp⟩ : ∃ v g, curWarp t = { curWarp (asWarp s w o.frag) with vecs := v, vlog := g } :=
    writeRun_warp _ _ _ _ _
  have finish : finishLoad s w o = setCur t (dropOp (curWarp t) o) := by
    rw [← retireOp_current (w := w) cur (by rw [warp]; exact runs), finishLoad, kind]
  obtain ⟨g', drop, -⟩ := dropOp_warp (curWarp t) o
  rw [finish]
  refine ⟨opRetired_dropOp o (by rw [warp]) (by rw [warp]), fun r l hl => ?_, ?_,
    outside.trans (onlyWarp_setCur _ _).log⟩
  · rw [readV_dropOp]
    exact readV_writeRun _ _ _ _ _ _ _ hl
  · rw [warpOf_setCur, if_pos cur, drop, warp]

/-- A scalar load whose data is all there writes its scalar or pair and ends (R210). -/
structure ScalarLoadFinished (o : PendOp) (d : Nat) (two : Bool) (s t : State) : Prop where
  retired : OpRetired o s t
  low : readS t d = wordOf (laneBytes o noLane 8) 0
  high : two = true → readS t (d + 1) = wordOf (laneBytes o noLane 8) 1
  others : ∀ m, m ≠ d → (m ≠ d + 1 ∨ two = false) → readS t m = readS s m
  warp : { warpOf t s.cur with
    scalars := (curWarp s).scalars, pend := (curWarp s).pend, flags := (curWarp s).flags } = curWarp s
  outside : OnlyWarp s t

/-- The scalar or pair of a load before the operation leaves its warp. -/
def loadScalars (s : State) (d : Nat) (two : Bool) (b : List Byte) : State :=
  if two then writeP s d (wordOf b 1 ++ wordOf b 0) else writeS s d (wordOf b 0)

theorem loadScalars_warp (s : State) (d : Nat) (two : Bool) (b : List Byte) :
    ∃ g, curWarp (loadScalars s d two b) = { curWarp s with scalars := g } := by
  cases two with
  | false => exact ⟨_, curWarp_setCur _ _⟩
  | true => exact ⟨_, by simp [loadScalars, writeP, writeS]; rfl⟩

theorem loadScalars_outside (s : State) (d : Nat) (two : Bool) (b : List Byte) : OnlyWarp s (loadScalars s d two b) := by
  cases two with
  | false => exact (writeS_result _ _ _).outside
  | true => exact (writeP_result _ _ _).outside

theorem readS_loadScalars (s : State) (d : Nat) (two : Bool) (b : List Byte) (m : Nat) : readS (loadScalars s d two b) m =
    if m = d then wordOf b 0 else if m = d + 1 ∧ two = true then wordOf b 1 else readS s m := by
  cases two with
  | false => simp [loadScalars, readS_writeS, eq_comm]
  | true =>
    have lo : (wordOf b 1 ++ wordOf b 0).extractLsb' 0 32 = wordOf b 0 := BitVec.extractLsb'_append_eq_right
    have hi : (wordOf b 1 ++ wordOf b 0).extractLsb' 32 32 = wordOf b 1 := BitVec.extractLsb'_append_eq_left
    simp only [loadScalars, if_true, writeP, readS_writeS, lo, hi]
    by_cases h : m = d
    · simp [h]
    · simp [h, Ne.symm h, eq_comm]

theorem finishLoad_sload {s : State} {w : Nat} {o : PendOp} {d : Nat} {two : Bool} (kind : o.kind = .sload d two)
    (runs : StillRuns s w) : ScalarLoadFinished o d two (asWarp s w o.frag) (finishLoad s w o) := by
  let t := loadScalars (asWarp s w o.frag) d two (laneBytes o noLane 8)
  have outside : OnlyWarp (asWarp s w o.frag) t := loadScalars_outside _ _ _ _
  have cur : t.cur = (asWarp s w o.frag).cur := congrArg (fun v => v.cur) outside.rest
  obtain ⟨g, warp⟩ : ∃ g, curWarp t = { curWarp (asWarp s w o.frag) with scalars := g } := loadScalars_warp _ _ _ _
  have finish : finishLoad s w o = setCur t (dropOp (curWarp t) o) := by
    rw [← retireOp_current (w := w) cur (by rw [warp]; exact runs), finishLoad, kind]; rfl
  have scalar (m : Nat) : readS (finishLoad s w o) m = if m = d then wordOf (laneBytes o noLane 8) 0 else
      if m = d + 1 ∧ two = true then wordOf (laneBytes o noLane 8) 1 else readS (asWarp s w o.frag) m := by
    rw [finish, readS_dropOp]; exact readS_loadScalars _ _ _ _ _
  obtain ⟨g', drop, -⟩ := dropOp_warp (curWarp t) o
  refine ⟨?_, by simp [scalar], fun h => by simp [scalar, h], fun m h h' => ?_, ?_, ?_⟩
  · rw [finish]; exact opRetired_dropOp o (by rw [warp]) (by rw [warp])
  · rw [scalar, if_neg h, if_neg (by rintro ⟨h1, h2⟩; simp [h1, h2] at h')]
  · rw [finish, warpOf_setCur, if_pos cur, drop, warp]
  · rw [finish]; exact outside.trans (onlyWarp_setCur _ _)

theorem laneBytes_length (o : PendOp) (l n : Nat) : (laneBytes o l n).length = n := by simp [laneBytes]

/-- The upper word of eight bytes is all that follows the lower one. -/
theorem wordOf_one_of_eight {b : List Byte} (h : b.length = 8) : wordOf b 1 = BitVec.ofNat 32 (leNat (b.drop 4)) := by
  rw [wordOf, List.take_of_length_le (by simp [h])]

/-- A pending operation whose unit is replaced, in a state with the warps of `s`. -/
theorem unitNow_setOp {s t : State} {w op u : Nat} {o : PendOp} (y : MUnit) (here : opOf (warpOf s w) op = some o)
    (same : warpOf t w = warpOf s w) : UnitNow (setWarp t w (setOp (warpOf t w) (setUnit o u y))) w op u o y := by
  obtain rfl : o.id = op := opOf_id here
  rw [UnitNow, warpOf_setWarp_same, same]
  exact opOf_setOp (o' := setUnit o u y) here

/-! ### The statement -/

/-- Settles O32: a unit that has its turn reads memory and stays with its data in the pending load; a load with all its data
writes its registers and ends. -/
theorem loadReturns : Obligations.LoadReturns := by
  unfold Obligations.LoadReturns
  refine ⟨fun s w op u o x turn load stash near poison free clean run ⟨v, z, other, unit, waits⟩ => ?unit,
    fun s w op u o d regs n signed here kind complete runs => ?vector,
    fun s w op u o d two here kind complete runs => ?scalar⟩
  case unit =>
    have ⟨here, own, waiting, _⟩ := turn
    obtain ⟨traffic, bytes⟩ := loadRead_readsMemory (k := (warpOf s w).blk) (u := x) (by simp [unitStash, stash]) run clean
    refine ⟨_, exec_loadReturn_unit u here load own waiting, ?_⟩
    rw [readUnit_reads turn near poison free, loadLane_pending x _ other unit waits, bytes]
    have moved := traffic.trans (laneCount_traffic _ w
      (setUnit o u { x with data := Memory.reads s.mem x.pa x.len, done := true }) x.lane 3)
    dsimp only
    refine ⟨unitNow_setOp _ here (moved.warpOf w), ?_, ?_, fun a => by rw [setWarp_mem, moved.mem]⟩
    · rw [warpOf_setWarp_same, moved.warpOf]; rfl
    · rw [warpOf_setWarp_same, moved.warpOf]; rfl
  case vector =>
    obtain ⟨retired, lanes, warp, outside⟩ := finishLoad_load kind runs
    refine ⟨_, exec_loadReturn_complete u here (by rw [kind]; rfl) complete, retired, fun i l hi hl act => ?_,
      fun i l hi hl act zer => ?_, fun r l hl out => ?_, warp, outside⟩
    · rw [lanes _ _ (BitVec.lt_of_getLsbD act), if_pos ⟨by omega, hl⟩, if_pos act, Nat.add_sub_cancel_left, laneValue_eq]
    · rw [lanes _ _ (BitVec.lt_of_getLsbD zer), if_pos ⟨by omega, hl⟩, if_neg (by simp [act]), if_pos zer]
    · rw [lanes _ _ hl]
      rcases out with out | out | ⟨act, zer⟩
      · rw [if_neg (by omega)]
      · rw [if_neg (by omega)]
      · simp [act, zer]
  case scalar =>
    obtain ⟨retired, low, high, others, warp, outside⟩ := finishLoad_sload kind runs
    refine ⟨_, exec_loadReturn_complete u here (by rw [kind]; rfl) complete, retired, low, fun h => ?_, others, warp, outside⟩
    rw [high h, wordOf_one_of_eight (laneBytes_length _ _ _)]; rfl

end Sys2Proof.Machine
end

section
/-! SUPPORT. The binary32 words, the conversions and the packed-half words are the lane functions of the exact arithmetic under
the common frame (R63, R64, R80, R94 to R96, R98, R103). -/

namespace Sys2Proof.Machine

/-! ### Vector words that issue -/

section
variable {i : Instr} {s : State} (issues : Issues i s)
include issues

/-- A word whose meaning is a vector word takes its effect and pops its queues. -/
theorem exec_vword {effect : State → State} (meaning : exec i s = vword i s effect) :
    exec i s = .next (popOf i (effect s)) := meaning.trans (vword_next issues _)

/-- A vector word that issues leaves its result once its queues are popped. -/
theorem putVec_popped (p : Option Prefix) (d : BitVec 7) (f : Nat → Word) :
    VecResult i p d f s (popOf i (putVec s p d f)) := by
  obtain ⟨t, next, result⟩ := vword_putVec issues p d f
  rw [vword_next issues] at next
  cases next
  exact result

theorem putVecF_popped (p : Option Prefix) (d : BitVec 7) (f : Nat → Word × Flags) :
    VecFlagResult i p d f s (popOf i (putVecF s p d f)) := by
  obtain ⟨t, next, result⟩ := vword_putVecF issues p d f
  rw [vword_next issues] at next
  cases next
  exact result

end

/-! ### From the operand forms of the model to the families of the statements

A word whose meaning is an operand form with lane function `g` has any lane function that agrees with `g`. -/

theorem VecOp1.of_exec {mk : Option Prefix → BitVec 7 → BitVec 7 → Instr} {f : Word → Word} (g : Word → Word)
    (meaning : ∀ p d a s, exec (mk p d a) s = vword (mk p d a) s fun s => vec1 s p d a g)
    (same : ∀ x, g x = f x) : VecOp1 mk f := by
  obtain rfl : g = f := funext same
  exact fun p d a s issues => ⟨_, exec_vword issues (meaning p d a s), putVec_popped issues p d _⟩

theorem VecFlag1.of_exec {mk : Option Prefix → BitVec 7 → BitVec 7 → Instr} {f : Nat → Word → Word × Flags}
    (meaning : ∀ p d a s, exec (mk p d a) s = vword (mk p d a) s fun s => vecF1 s p d a (f (modeOf s p))) :
    VecFlag1 mk f :=
  fun p d a s issues => ⟨_, exec_vword issues (meaning p d a s), putVecF_popped issues p d _⟩

theorem VecFlag2.of_exec {mk : Option Prefix → BitVec 7 → BitVec 7 → BitVec 7 → Instr}
    {f : Nat → Word → Word → Word × Flags} (g : Nat → Word → Word → Word × Flags)
    (meaning : ∀ p d a b s, exec (mk p d a b) s = vword (mk p d a b) s fun s => vecF2 s p d a b (g (modeOf s p)))
    (same : ∀ m x y, g m x y = f m x y) : VecFlag2 mk f := by
  obtain rfl : g = f := funext fun m => funext fun x => funext (same m x)
  exact fun p d a b s issues => ⟨_, exec_vword issues (meaning p d a b s), putVecF_popped issues p d _⟩

theorem VecFlag3.of_exec {mk : Option Prefix → BitVec 7 → BitVec 7 → BitVec 7 → Instr}
    {f : Nat → Word → Word → Word → Word × Flags} (g : Nat → Word → Word → Word → Word × Flags)
    (meaning : ∀ p d a b s, exec (mk p d a b) s = vword (mk p d a b) s fun s => vecF3 s p d a b (g (modeOf s p)))
    (same : ∀ m x y z, g m x y z = f m x y z) : VecFlag3 mk f := by
  obtain rfl : g = f := funext fun m => funext fun x => funext fun y => funext (same m x y)
  exact fun p d a b s issues => ⟨_, exec_vword issues (meaning p d a b s), putVecF_popped issues p d _⟩

/-! ### The sign bit (R94) -/

/-- Clearing the sign bit keeps the magnitude. -/
theorem and_magnitude (x : Word) : x &&& 0x7FFFFFFF = BitVec.ofNat 32 (x.toNat % 2 ^ 31) := by
  apply BitVec.eq_of_toNat_eq
  have low : x.toNat &&& 0x7FFFFFFF = x.toNat % 2 ^ 31 := Nat.and_two_pow_sub_one_eq_mod x.toNat 31
  rw [BitVec.toNat_and, BitVec.toNat_ofNat, show (0x7FFFFFFF : Word).toNat = 0x7FFFFFFF from rfl, low]
  omega

/-- The model's subtraction adds the operand with its sign bit inverted. -/
theorem fsub_eq_fadd (m : Nat) (x y : Word) :
    fsub binary32 m x.toNat y.toNat = fadd binary32 m x.toNat (y ^^^ 0x80000000).toNat := by
  have sign : fneg binary32 y.toNat = (y ^^^ 0x80000000).toNat := by
    rw [BitVec.toNat_xor]; rfl
  rw [fsub, sign]

/-! ### Packed halves (R103) -/

/-- Two halves side by side are the number that the model packs. -/
theorem append_halves (hi lo : Nat) :
    BitVec.ofNat 32 (hi % 65536 * 65536 + lo % 65536) = (BitVec.ofNat 16 hi ++ BitVec.ofNat 16 lo : Word) := by
  apply BitVec.eq_of_toNat_eq
  have fits : lo % 2 ^ 16 < 2 ^ 16 := Nat.mod_lt _ (by decide)
  rw [BitVec.toNat_append, BitVec.toNat_ofNat, BitVec.toNat_ofNat, BitVec.toNat_ofNat,
    ← Nat.shiftLeft_add_eq_or_of_lt fits, Nat.shiftLeft_eq]
  omega

/-! ### The statements -/

/-- Settles O7: each binary32 word is its operand form with the lane function of the exact arithmetic. -/
theorem binary32Results : Obligations.Binary32Results := by
  unfold Obligations.Binary32Results
  refine ⟨?fadd, ?fsub, ?fmul, ?ffma, ?ffms, ?fnfma, ?fmin, ?fmax, ?fabs, ?fneg, ?fclass, ?ffloor, ?fceil, ?ftrunc, ?frint,
    ?fscale⟩
  case fadd => exact .of_exec (fun m => fop2 (fadd binary32 m)) (fun _ _ _ _ _ => rfl) fun _ _ _ => rfl
  case fsub =>
    exact .of_exec (fun m => fop2 (fsub binary32 m)) (fun _ _ _ _ _ => rfl) fun m x y => congrArg w32 (fsub_eq_fadd m x y)
  case fmul => exact .of_exec (fun m => fop2 (fmul binary32 m)) (fun _ _ _ _ _ => rfl) fun _ _ _ => rfl
  case ffma => exact .of_exec (fun m => fop3 (ffma binary32 m false false)) (fun _ _ _ _ _ => rfl) fun _ _ _ _ => rfl
  case ffms => exact .of_exec (fun m => fop3 (ffma binary32 m false true)) (fun _ _ _ _ _ => rfl) fun _ _ _ _ => rfl
  case fnfma => exact .of_exec (fun m => fop3 (ffma binary32 m true false)) (fun _ _ _ _ _ => rfl) fun _ _ _ _ => rfl
  case fmin => exact .of_exec (fun _ => fop2 (fminmax binary32 false)) (fun _ _ _ _ _ => rfl) fun _ _ _ => rfl
  case fmax => exact .of_exec (fun _ => fop2 (fminmax binary32 true)) (fun _ _ _ _ _ => rfl) fun _ _ _ => rfl
  case fabs => exact .of_exec (fun x => x &&& 0x7FFFFFFF) (fun _ _ _ _ => rfl) and_magnitude
  case fneg => exact .of_exec (fun x => x ^^^ 0x80000000) (fun _ _ _ _ => rfl) fun _ => rfl
  case fclass => exact .of_exec (fun x => BitVec.ofNat 32 (fclass binary32 x.toNat)) (fun _ _ _ _ => rfl) fun _ => rfl
  case ffloor => exact .of_exec fun _ _ _ _ => rfl
  case fceil => exact .of_exec fun _ _ _ _ => rfl
  case ftrunc => exact .of_exec fun _ _ _ _ => rfl
  case frint => exact .of_exec fun _ _ _ _ => rfl
  case fscale =>
    exact .of_exec (fun m x y => w32 (fscale binary32 m x.toNat y.toInt)) (fun _ _ _ _ _ => rfl) fun _ _ _ => rfl

/-- Settles O9: each conversion is its operand form with the conversion of R72. -/
theorem conversionResults : Obligations.ConversionResults := by
  unfold Obligations.ConversionResults
  refine ⟨?cvtfi, ?cvtfu, ?cvtif, ?cvtuf, ?cvtfh, ?cvthf, ?cvtfb, ?cvtbf⟩
  all_goals exact .of_exec fun _ _ _ _ => rfl

/-- Settles O10: each packed-half word computes both halves of its lanes, and packs them side by side. -/
theorem packedHalfResults : Obligations.PackedHalfResults := by
  unfold Obligations.PackedHalfResults
  intro two three
  have pair (g : Nat → Nat → Nat × Flags) (x y : Word) : half2 g x y = two g x y :=
    congrArg (·, _) (append_halves _ _)
  have triple (g : Nat → Nat → Nat → Nat × Flags) (x y z : Word) : half3 g x y z = three g x y z :=
    congrArg (·, _) (append_halves _ _)
  refine ⟨?hadd, ?badd, ?hsub, ?bsub, ?hmul, ?bmul, ?hfma, ?bfma, ?hmin, ?bmin, ?hmax, ?bmax⟩
  case hadd => exact .of_exec (fun m => half2 (fadd binary16 m)) (fun _ _ _ _ _ => rfl) fun _ => pair _
  case badd => exact .of_exec (fun m => half2 (fadd bfloat16 m)) (fun _ _ _ _ _ => rfl) fun _ => pair _
  case hsub => exact .of_exec (fun m => half2 (fsub binary16 m)) (fun _ _ _ _ _ => rfl) fun _ => pair _
  case bsub => exact .of_exec (fun m => half2 (fsub bfloat16 m)) (fun _ _ _ _ _ => rfl) fun _ => pair _
  case hmul => exact .of_exec (fun m => half2 (fmul binary16 m)) (fun _ _ _ _ _ => rfl) fun _ => pair _
  case bmul => exact .of_exec (fun m => half2 (fmul bfloat16 m)) (fun _ _ _ _ _ => rfl) fun _ => pair _
  case hfma => exact .of_exec (fun m => half3 (ffma binary16 m false false)) (fun _ _ _ _ _ => rfl) fun _ => triple _
  case bfma => exact .of_exec (fun m => half3 (ffma bfloat16 m false false)) (fun _ _ _ _ _ => rfl) fun _ => triple _
  case hmin => exact .of_exec (fun _ => half2 (fminmax binary16 false)) (fun _ _ _ _ _ => rfl) fun _ => pair _
  case bmin => exact .of_exec (fun _ => half2 (fminmax bfloat16 false)) (fun _ _ _ _ _ => rfl) fun _ => pair _
  case hmax => exact .of_exec (fun _ => half2 (fminmax binary16 true)) (fun _ _ _ _ _ => rfl) fun _ => pair _
  case bmax => exact .of_exec (fun _ => half2 (fminmax bfloat16 true)) (fun _ _ _ _ _ => rfl) fun _ => pair _

end Sys2Proof.Machine
end

section
/-! SUPPORT. Special operands of the binary32 words: how NaNs, infinities and zeros are encoded (R57, R58), and what the exact
sum, product and comparison make of them (R59, R94 to R96). -/

namespace Sys2Proof.Machine

/-! ### Classes of encodings -/

/-- A word encodes a NaN. -/
def nanWord (x : Word) : Bool := decide (0x7F800000 < x.toNat % 2 ^ 31)

/-- A word encodes a signalling NaN: the top bit of its fraction is clear. -/
def snanWord (x : Word) : Bool := nanWord x && !x.getLsbD 22

/-- An infinity among the exact values. -/
def Fp.isInf : Fp → Bool
  | .inf _ => true
  | _ => false

/-- The fields of a binary32 word, in numbers (R57). -/
theorem unpack_binary32 (w : Nat) : unpack binary32 w =
    if w / 8388608 % 256 = 255 then
      if w % 8388608 = 0 then .inf (decide (w / 2147483648 % 2 = 1)) else .nan (decide (w % 8388608 < 4194304))
    else if w / 8388608 % 256 = 0 then .fin ⟨decide (w / 2147483648 % 2 = 1), w % 8388608, -149⟩
    else .fin ⟨decide (w / 2147483648 % 2 = 1), w % 8388608 + 8388608, -149 + (w / 8388608 % 256 - 1 : Nat)⟩ := by
  have exponentBits : binary32.ebits = 8 := by decide
  have unit : binary32.qmin = -149 := by decide
  simp only [unpack, exponentBits, unit]
  rfl

theorem isNan_unpack (x : Word) : (unpack binary32 x.toNat).isNan = nanWord x := by
  rw [nanWord, unpack_binary32]
  split
  · split
    · exact (decide_eq_false (by omega)).symm
    · exact (decide_eq_true (by omega)).symm
  · split <;> exact (decide_eq_false (by omega)).symm

theorem isInf_unpack (w : Nat) : (unpack binary32 w).isInf = decide (w % 2 ^ 31 = 0x7F800000) := by
  rw [unpack_binary32]
  split
  · split
    · exact (decide_eq_true (by omega)).symm
    · exact (decide_eq_false (by omega)).symm
  · split <;> exact (decide_eq_false (by omega)).symm

theorem isZero_unpack (w : Nat) : (unpack binary32 w).isZero = decide (w % 2 ^ 31 = 0) := by
  rw [unpack_binary32]
  split
  · split <;> exact (decide_eq_false (by omega)).symm
  · split <;> (rw [Fp.isZero, Bool.eq_iff_iff, beq_iff_eq, decide_eq_true_iff]; dsimp only; omega)

theorem isSnan_unpack (x : Word) : (unpack binary32 x.toNat).isSnan = snanWord x := by
  have quiet : x.getLsbD 22 = decide (x.toNat / 4194304 % 2 = 1) := Nat.testBit_eq_decide_div_mod_eq
  rw [snanWord, nanWord, quiet, ← decide_not, ← Bool.decide_and, unpack_binary32]
  split
  · split
    · exact (decide_eq_false (by omega)).symm
    · exact decide_eq_decide.mpr (by omega)
  · split <;> exact (decide_eq_false (by omega)).symm

/-! ### Sums and products of exact values (R59, R94) -/

/-- A sum with a NaN is the default NaN, and raises nothing by itself. -/
theorem addFp_nan {a b : Fp} (mode : Nat) (h : a.isNan || b.isNan) : addFp mode a b = (.nan false, 0) := by
  cases a with
  | nan => rfl
  | inf => cases b with
    | nan => rfl
    | inf => cases h
    | fin => cases h
  | fin => cases b with
    | nan => rfl
    | inf => cases h
    | fin => cases h

/-- A product of zero and an infinity. -/
def mulInvalid (a b : Fp) : Bool := (a.isZero && b.isInf) || (a.isInf && b.isZero)

/-- The product of an infinity and a finite value is NaN for a zero only. -/
theorem mulInvalid_inf_fin (n : Bool) (y : Dy) : mulInvalid (.inf n) (.fin y) = decide (y.man = 0) := rfl

theorem mulInvalid_fin_inf (x : Dy) (n : Bool) : mulInvalid (.fin x) (.inf n) = decide (x.man = 0) :=
  (Bool.or_false _).trans (Bool.and_true _)

/-- A product is NaN with a NaN factor, and of zero and an infinity. -/
theorem isNan_mulFp (a b : Fp) : (mulFp a b).1.isNan = (a.isNan || b.isNan || mulInvalid a b) := by
  cases a with
  | nan => cases b <;> rfl
  | inf => cases b with
    | nan => rfl
    | inf => rfl
    | fin y => rw [mulInvalid_inf_fin, mulFp]; split <;> simp [Fp.isNan, *]
  | fin x => cases b with
    | nan => rfl
    | inf => rw [mulInvalid_fin_inf, mulFp]; split <;> simp [Fp.isNan, *]
    | fin => simp [mulFp, mulInvalid, Fp.isNan, Fp.isInf]

/-- Only a product of zero and an infinity raises a flag. -/
theorem mulFp_flags (a b : Fp) : (mulFp a b).2 = flagIf (mulInvalid a b) flagNV := by
  cases a with
  | nan => cases b <;> rfl
  | inf => cases b with
    | nan => rfl
    | inf => rfl
    | fin y => rw [mulInvalid_inf_fin, mulFp]; split <;> simp [flagIf, *]
  | fin x => cases b with
    | nan => simp [mulFp, mulInvalid, Fp.isInf, flagIf]
    | inf => rw [mulInvalid_fin_inf, mulFp]; split <;> simp [flagIf, *]
    | fin => simp [mulFp, mulInvalid, Fp.isInf, flagIf]

/-- A NaN rounds to the default NaN (R59). -/
theorem roundFp_nan {x : Fp} (mode : Nat) (h : x.isNan = true) : roundFp binary32 mode x = (0x7FC00000, 0) := by
  cases x with
  | nan => rfl
  | inf => cases h
  | fin => cases h

theorem isNan_negate (x : Fp) : x.negate.isNan = x.isNan := by cases x <;> rfl

theorem isSnan_negate (x : Fp) : x.negate.isSnan = x.isSnan := by cases x <;> rfl

/-- Merged conditions of one flag. -/
theorem flagIf_or (a b : Bool) (f : Flags) : flagIf a f ||| flagIf b f = flagIf (b || a) f := by
  cases a <;> cases b <;> simp [flagIf]

/-! ### What the words compute -/

/-- The flags of signalling operands (R59). -/
theorem snanFlags_pair (x y : Word) :
    snanFlags [unpack binary32 x.toNat, unpack binary32 y.toNat] = flagIf (snanWord x || snanWord y) flagNV := by
  simp [snanFlags, isSnan_unpack]

theorem fadd_nan (mode : Nat) (x y : Word) (h : nanWord x || nanWord y) :
    fadd binary32 mode x.toNat y.toNat = (0x7FC00000, flagIf (snanWord x || snanWord y) flagNV) := by
  have sum := addFp_nan (a := unpack binary32 x.toNat) (b := unpack binary32 y.toNat) mode (by simpa only [isNan_unpack])
  simp only [fadd, sum, roundFp_nan mode (x := .nan false) rfl, snanFlags_pair, BitVec.ofNat_eq_ofNat, BitVec.zero_or]

/-- Infinity minus infinity is invalid. -/
theorem fadd_inf_sub_inf (mode : Nat) (n : Bool) :
    fadd binary32 mode (if n then 0x7F800000 else 0xFF800000) (if n then 0xFF800000 else 0x7F800000) =
      (0x7FC00000, flagNV) := by
  have plus : unpack binary32 0x7F800000 = .inf false := by decide
  have minus : unpack binary32 0xFF800000 = .inf true := by decide
  cases n with
  | false =>
    have sum : addFp mode (.inf true) (.inf false) = (.nan false, flagNV) := rfl
    simp only [fadd, if_false, Bool.false_eq_true, plus, minus, sum, roundFp_nan mode (x := .nan false) rfl]; rfl
  | true =>
    have sum : addFp mode (.inf false) (.inf true) = (.nan false, flagNV) := rfl
    simp only [fadd, if_true, plus, minus, sum, roundFp_nan mode (x := .nan false) rfl]; rfl

/-- The product of zero and an infinity, by the encodings. -/
theorem mulInvalid_unpack (x y : Nat) : mulInvalid (unpack binary32 x) (unpack binary32 y) =
    ((decide (x % 2 ^ 31 = 0) && decide (y % 2 ^ 31 = 0x7F800000)) ||
      (decide (x % 2 ^ 31 = 0x7F800000) && decide (y % 2 ^ 31 = 0))) := by
  rw [mulInvalid, isZero_unpack, isZero_unpack, isInf_unpack, isInf_unpack]

theorem mulInvalid_zero_inf {x y : Nat} (zero : x % 2 ^ 31 = 0) (inf : y % 2 ^ 31 = 0x7F800000) :
    mulInvalid (unpack binary32 x) (unpack binary32 y) = true ∧
      mulInvalid (unpack binary32 y) (unpack binary32 x) = true := by
  rw [mulInvalid_unpack, mulInvalid_unpack, decide_eq_true zero, decide_eq_true inf]
  exact ⟨rfl, Bool.or_true _⟩

/-- A product that is NaN: the default NaN, with NV for a signalling factor or for zero times an infinity. -/
theorem fmul_default (mode : Nat) (x y : Word)
    (h : nanWord x || nanWord y || mulInvalid (unpack binary32 x.toNat) (unpack binary32 y.toNat)) :
    fmul binary32 mode x.toNat y.toNat = (0x7FC00000,
      flagIf (snanWord x || snanWord y || mulInvalid (unpack binary32 x.toNat) (unpack binary32 y.toNat)) flagNV) := by
  have product : (mulFp (unpack binary32 x.toNat) (unpack binary32 y.toNat)).1.isNan = true := by
    rw [isNan_mulFp, isNan_unpack, isNan_unpack]; exact h
  simp only [fmul, roundFp_nan mode product, mulFp_flags, snanFlags_pair, BitVec.ofNat_eq_ofNat, BitVec.zero_or, flagIf_or]

/-- A NaN is neither zero nor an infinity. -/
theorem mulInvalid_nan {x y : Word} (h : nanWord x || nanWord y) :
    mulInvalid (unpack binary32 x.toNat) (unpack binary32 y.toNat) = false := by
  rw [mulInvalid_unpack]
  simp only [nanWord, ← Bool.decide_or, ← Bool.decide_and, decide_eq_true_eq] at h ⊢
  exact decide_eq_false (by omega)

/-- A fused product and sum with a NaN, or with zero times an infinity, is the default NaN whatever signs change. -/
theorem ffma_default (mode : Nat) (np nc : Bool) (x y z : Word)
    (h : nanWord x || nanWord y || mulInvalid (unpack binary32 x.toNat) (unpack binary32 y.toNat) || nanWord z) :
    ffma binary32 mode np nc x.toNat y.toNat z.toNat = (0x7FC00000,
      flagIf (snanWord x || snanWord y || snanWord z ||
        mulInvalid (unpack binary32 x.toNat) (unpack binary32 y.toNat)) flagNV) := by
  let product := mulFp (unpack binary32 x.toNat) (unpack binary32 y.toNat)
  let signed := if np then product.1.negate else product.1
  let addend := if nc then (unpack binary32 z.toNat).negate else unpack binary32 z.toNat
  have productNan : signed.isNan =
      (nanWord x || nanWord y || mulInvalid (unpack binary32 x.toNat) (unpack binary32 y.toNat)) := by
    rw [← isNan_unpack, ← isNan_unpack, ← isNan_mulFp]
    cases np
    · rfl
    · exact isNan_negate _
  have addendNan : addend.isNan = nanWord z := by
    rw [← isNan_unpack]
    cases nc
    · rfl
    · exact isNan_negate _
  have addendSnan : addend.isSnan = snanWord z := by
    rw [← isSnan_unpack]
    cases nc
    · rfl
    · exact isSnan_negate _
  have sum : addFp mode signed addend = (.nan false, 0) := addFp_nan mode (by rw [productNan, addendNan]; exact h)
  change ((roundFp binary32 mode (addFp mode signed addend).1).1, (roundFp binary32 mode (addFp mode signed addend).1).2 |||
    product.2 ||| (addFp mode signed addend).2 ||| snanFlags [unpack binary32 x.toNat, unpack binary32 y.toNat, addend]) = _
  rw [sum, roundFp_nan mode (x := .nan false) rfl, mulFp_flags]
  simp [snanFlags, isSnan_unpack, addendSnan, flagIf_or, Bool.or_assoc]

/-! ### Minima, maxima and classes (R95, R96) -/

/-- Of one NaN and a number the number is chosen, in either place. -/
theorem fminmax_one_nan (g : Bool) (x y : Word) (hx : nanWord x = true) (hy : nanWord y = false) :
    fminmax binary32 g x.toNat y.toNat = (y.toNat, flagIf (snanWord x) flagNV) ∧
      fminmax binary32 g y.toNat x.toNat = (y.toNat, flagIf (snanWord x) flagNV) := by
  have quiet : snanWord y = false := by rw [snanWord, hy]; rfl
  constructor
  · simp only [fminmax, isNan_unpack, hx, hy, snanFlags_pair, quiet, Bool.or_false]
  · simp only [fminmax, isNan_unpack, hx, hy, snanFlags_pair, quiet, Bool.false_or]

theorem fminmax_two_nans (g : Bool) (x y : Word) (hx : nanWord x = true) (hy : nanWord y = true) :
    (fminmax binary32 g x.toNat y.toNat).1 = 0x7FC00000 := by
  simp only [fminmax, isNan_unpack, hx, hy]
  rfl

/-- The class word has one bit, below bit 10. -/
theorem fclass_one_bit (a : Nat) : ∃ b, b < 10 ∧ fclass binary32 a = 2 ^ b := by
  unfold fclass
  split
  · split
    · exact ⟨8, by decide, rfl⟩
    · exact ⟨9, by decide, rfl⟩
  · split
    · exact ⟨0, by decide, rfl⟩
    · exact ⟨7, by decide, rfl⟩
  · split <;> [skip; split] <;> split
    · exact ⟨3, by decide, rfl⟩
    · exact ⟨4, by decide, rfl⟩
    · exact ⟨2, by decide, rfl⟩
    · exact ⟨5, by decide, rfl⟩
    · exact ⟨1, by decide, rfl⟩
    · exact ⟨6, by decide, rfl⟩

/-! ### The statement -/

/-- Settles O8: each clause is the law above of its function. -/
theorem floatSpecialOperands : Obligations.FloatSpecialOperands := by
  unfold Obligations.FloatSpecialOperands
  intro nan sig
  refine ⟨fadd_nan, fun m x y h => ?mulNan, fadd_inf_sub_inf, fun m x y zero inf => ?mulInvalid, fun m np nc x y z h => ?fmaNan,
    fun m np nc x y zero inf z => ?fmaInvalid, fminmax_one_nan, fminmax_two_nans, fun x => fclass_one_bit _⟩
  case mulNan =>
    have factor : nanWord x || nanWord y := h
    have product := fmul_default m x y (by rw [factor]; rfl)
    rwa [mulInvalid_nan factor, Bool.or_false] at product
  case mulInvalid =>
    obtain ⟨right, left⟩ := mulInvalid_zero_inf zero inf
    rw [fmul_default m x y (by simp [right]), fmul_default m y x (by simp [left]), right, left]
    simp [flagIf]
  case fmaNan =>
    have operand : nanWord x || nanWord y || nanWord z := h
    have result := ffma_default m np nc x y z (by rw [Bool.or_right_comm, operand]; rfl)
    rwa [mulInvalid_unpack, ← Bool.or_assoc] at result
  case fmaInvalid =>
    obtain ⟨right, left⟩ := mulInvalid_zero_inf zero inf
    rw [ffma_default m np nc x y z (by simp [right]), ffma_default m np nc y x z (by simp [left]), right, left]
    simp [flagIf]

end Sys2Proof.Machine
end

section
/-! SUPPORT. The block-FP words (R99 to R102): the check of their quantisation words, and the packed runs of mantissas as numbers
whose digits are the mantissas. -/

namespace Sys2Proof.Machine

/-! ### The check of the quantisation words (R100) -/

/-- A legal element format of a quantisation word (R100). -/
def QuantLegal (q : Word) : Prop := 2 ≤ qFmt q ∧ qFmt q ≤ 8

theorem fmtOk_iff (q : Word) : fmtOk (qFmt q) = true ↔ QuantLegal q := decide_eq_true_iff

section
variable {s : State} {p : Option Prefix} {b : BitVec 7} {i : Instr} {effect : State → State}

/-- With legal words in its active lanes such a word has its plain effect, and pops its queues. -/
theorem quantWord_legal (legal : ∀ l, l < (curWarp s).width → Active s p l → QuantLegal (srcB s p b l)) :
    quantWord s p b i effect = popOf i (effect s) := by
  have none : badQuant s p b = none := by
    rw [badQuant, lanesOf, List.find?_range_eq_none]
    intro l hl
    by_cases active : (activeMask s (pfx p)).getLsbD l = true
    · simp [(fmtOk_iff _).mpr (legal l hl ((activeMask_iff s p l).mp active))]
    · simp [active]
  rw [quantWord, none]

/-- The lowest active lane with an illegal word takes the trap. -/
theorem quantWord_trap {l : Nat} (hl : l < (curWarp s).width) (active : Active s p l) (illegal : ¬ QuantLegal (srcB s p b l))
    (lower : ∀ k, k < l → Active s p k → QuantLegal (srcB s p b k)) :
    quantWord s p b i effect = takeTrap s 15 l ((srcB s p b l).setWidth 64) 0 := by
  have found : badQuant s p b = some l := by
    rw [badQuant, lanesOf, List.find?_range_eq_some]
    refine ⟨?_, List.mem_range.mpr hl, fun k hk => ?_⟩
    · simp [(activeMask_iff s p l).mpr active, Bool.eq_false_iff.mpr fun ok => illegal ((fmtOk_iff _).mp ok)]
    · by_cases act : (activeMask s (pfx p)).getLsbD k = true
      · simp [(fmtOk_iff _).mpr (lower k hk ((activeMask_iff s p k).mp act))]
      · simp [act]
  rw [quantWord, found]

/-- The same for the one word of a scalar: legal, and, where `len` says so, with blocks no longer than the warp. -/
theorem quantScalar_legal {len : Bool} (legal : QuantLegal (scaB s p b))
    (fits : len = true → blockLen (qLen (scaB s p b)) ≤ (curWarp s).width) :
    quantScalar s p b len i effect = popOf i (effect s) := by
  refine if_neg ?_
  rintro (bad | ⟨asked, long⟩)
  · simp [(fmtOk_iff _).mpr legal] at bad
  · exact absurd (fits asked) (by omega)

theorem quantScalar_trap {len : Bool}
    (h : ¬ QuantLegal (scaB s p b) ∨ (len = true ∧ (curWarp s).width < blockLen (qLen (scaB s p b)))) :
    quantScalar s p b len i effect = takeTrap s 15 noLane ((scaB s p b).setWidth 64) 0 :=
  if_pos (h.imp_left fun illegal => Bool.eq_false_iff.mpr fun ok => illegal ((fmtOk_iff _).mp ok))

/-! A word that issues, by what its check finds. -/

theorem exec_quantWord (meaning : exec i s = word i s fun s => quantWord s p b i effect) (issues : Issues i s) :
    exec i s = .next (quantWord s p b i effect) := meaning.trans (word_next issues _)

theorem exec_quantScalar {len : Bool} (meaning : exec i s = word i s fun s => quantScalar s p b len i effect)
    (issues : Issues i s) : exec i s = .next (quantScalar s p b len i effect) := meaning.trans (word_next issues _)

end

/-! ### Runs of mantissas as digits (R102) -/

/-- The bits of a number are those of its digits to the base `2 ^ b`. -/
theorem testBit_ofDigits {b : Nat} (hb : 0 < b) (digits : List Nat) (small : ∀ d ∈ digits, d < 2 ^ b) (k : Nat) :
    (Nat.ofDigits (2 ^ b) digits).testBit k = (digits.getD (k / b) 0).testBit (k % b) := by
  have digit : Nat.ofDigits (2 ^ b) digits / (2 ^ b) ^ (k / b) % 2 ^ b = digits.getD (k / b) 0 := by
    have base : 0 < 2 ^ b := Nat.two_pow_pos b
    rw [Nat.ofDigits_div_pow_eq_ofDigits_drop _ base _ small, Nat.ofDigits_mod_eq_head!, List.getD_eq_getElem?_getD,
      ← List.head?_drop]
    cases tail : digits.drop (k / b) with
    | nil => simp
    | cons d t =>
      have : d < 2 ^ b := small d (List.mem_of_mem_drop (tail ▸ List.mem_cons_self))
      simp [Nat.mod_eq_of_lt this]
  rw [← digit, Nat.testBit_mod_two_pow, decide_eq_true (Nat.mod_lt _ hb), Bool.true_and, ← pow_mul,
    Nat.testBit_div_two_pow, Nat.mod_add_div]

/-- Lanes held as one number are its digits to the base `2 ^ 32`. -/
theorem bitString_eq_ofDigits (l : List Word) : bitString l = Nat.ofDigits (2 ^ 32) (l.map BitVec.toNat) := by
  induction l with
  | nil => rfl
  | cons w l ih => rw [bitString, ih, List.map_cons, Nat.ofDigits_cons]

/-- The digit that lane `l` gives to a packed run. -/
def packDigit (b : Nat) (act : Dword) (f : Nat → Word) (l : Nat) : Nat := if act.getLsbD l then (f l).toNat % 2 ^ b else 0

theorem packRun_range' (b : Nat) (act : Dword) (f : Nat → Word) (start n : Nat) :
    packRun b act f (List.range' start n) =
      2 ^ (b * start) * Nat.ofDigits (2 ^ b) ((List.range' start n).map (packDigit b act f)) := by
  induction n generalizing start with
  | zero => simp [packRun]
  | succ n ih =>
    have first : (if act.getLsbD start then (f start).toNat % 2 ^ b * 2 ^ (b * start) else 0) =
        2 ^ (b * start) * packDigit b act f start := by
      unfold packDigit
      split
      · exact Nat.mul_comm _ _
      · rfl
    rw [List.range'_succ, packRun, ih, first, List.map_cons, Nat.ofDigits_cons, Nat.mul_add b, Nat.mul_one, Nat.pow_add]
    ring

/-- The packed run of the lanes is the number of their digits to the base `2 ^ b`. -/
theorem packRun_eq_ofDigits (b : Nat) (act : Dword) (f : Nat → Word) (n : Nat) :
    packRun b act f (List.range n) = Nat.ofDigits (2 ^ b) ((List.range n).map (packDigit b act f)) := by
  rw [List.range_eq_range', packRun_range', Nat.mul_zero, Nat.pow_zero, Nat.one_mul]

/-- A digit of the lanes, 0 past the last one. -/
theorem getD_map_range (f : Nat → Nat) (n i : Nat) : ((List.range n).map f).getD i 0 = if i < n then f i else 0 := by
  split
  · simp [*]
  · simp [Nat.not_lt.mp ‹_›]

/-- Bit `k` of a packed run is a bit of an active lane's mantissa. -/
theorem testBit_packRun {b : Nat} (hb : 0 < b) (act : Dword) (f : Nat → Word) (n k : Nat) :
    (packRun b act f (List.range n)).testBit k =
      (decide (k / b < n) && act.getLsbD (k / b) && (f (k / b)).getLsbD (k % b)) := by
  have small : ∀ d ∈ (List.range n).map (packDigit b act f), d < 2 ^ b := by
    intro d hd
    obtain ⟨l, -, rfl⟩ := List.mem_map.mp hd
    unfold packDigit
    split
    · exact Nat.mod_lt _ (Nat.two_pow_pos b)
    · exact Nat.two_pow_pos b
  rw [packRun_eq_ofDigits, testBit_ofDigits hb _ small, getD_map_range]
  by_cases inside : k / b < n
  · cases active : act.getLsbD (k / b)
    · simp [packDigit, active]
    · rw [if_pos inside, packDigit, if_pos active, Nat.testBit_mod_two_pow, decide_eq_true (Nat.mod_lt k hb),
        decide_eq_true inside]
      rfl
  · simp [inside]

/-- Bit `k` of lanes held as one number. -/
theorem testBit_bitString (f : Nat → Word) (n k : Nat) :
    (bitString ((List.range n).map f)).testBit k = (decide (k / 32 < n) && (f (k / 32)).getLsbD (k % 32)) := by
  have small : ∀ d ∈ (List.range n).map fun l => (f l).toNat, d < 2 ^ 32 := by
    intro d hd
    obtain ⟨l, -, rfl⟩ := List.mem_map.mp hd
    exact (f l).isLt
  have lanes : BitVec.toNat ∘ f = fun l => (f l).toNat := rfl
  rw [bitString_eq_ofDigits, List.map_map, lanes, testBit_ofDigits (by decide) _ small, getD_map_range]
  split
  · simp [*, BitVec.getLsbD]
  · simp [*]

/-- A word of a run holds 32 consecutive bits of it. -/
theorem getLsbD_wordOfRun (r l : Nat) {j : Nat} (hj : j < 32) :
    (BitVec.ofNat 32 (r / 2 ^ (32 * l))).getLsbD j = r.testBit (32 * l + j) := by
  rw [BitVec.getLsbD_ofNat, decide_eq_true hj, Bool.true_and, Nat.testBit_div_two_pow, Nat.add_comm]

/-- A mantissa of `n` bits as an integer is its two's complement value. -/
theorem sextBits_eq_toInt (n v : Nat) : sextBits n v = (BitVec.ofNat n v).toInt := by
  rw [BitVec.toInt_eq_toNat_cond, BitVec.toNat_ofNat]
  unfold sextBits
  by_cases h : 2 * (v % 2 ^ n) < 2 ^ n
  · rw [if_pos h, if_neg (by omega)]
  · rw [if_neg h, if_pos (by omega)]

/-- A sign-extended mantissa repeats its top bit. -/
theorem getLsbD_sextBits {n : Nat} (hn : 0 < n) (v : Nat) {j : Nat} (hj : j < 32) :
    (BitVec.ofInt 32 (sextBits n v)).getLsbD j = v.testBit (min j (n - 1)) := by
  rw [sextBits_eq_toInt, show BitVec.ofInt 32 (BitVec.ofNat n v).toInt = (BitVec.ofNat n v).signExtend 32 from rfl,
    BitVec.getLsbD_signExtend, decide_eq_true hj, Bool.true_and]
  split
  · rw [BitVec.getLsbD_ofNat, decide_eq_true ‹_›, Bool.true_and, Nat.min_eq_left (by omega)]
  · rw [BitVec.msb_eq_getLsbD_last, BitVec.getLsbD_ofNat, decide_eq_true (by omega), Bool.true_and, Nat.min_eq_right (by omega)]

/-! ### The statement -/

/-- Settles O15: with legal quantisation words the block-FP words are vector words, and the bits of a packed run are those of its
digits; a bad quantisation word traps first. -/
theorem blockFloatWords : Obligations.BlockFloatWords := by
  unfold Obligations.BlockFloatWords
  refine ⟨fun p d a b s issues legal => ?qman, fun p d a b s issues legal => ?dq,
    fun p d a b s l hl active bad lower => ?laneTrap, fun p d a b s issues lo hi fits => ?qexp,
    fun p d a b s issues lo hi => ?packm, fun p d a b s issues lo hi => ?unpkm, fun p d a b s bad => ?scalarTrap,
    fun p d a b s issues long => ?blockTrap⟩
  case qman =>
    refine ⟨_, exec_quantWord rfl issues, ?_⟩
    rw [quantWord_legal legal]
    exact putVecF_popped issues p d _
  case dq =>
    refine ⟨_, exec_quantWord rfl issues, ?_⟩
    rw [quantWord_legal legal]
    exact putVec_popped issues p d _
  case laneTrap =>
    have illegal : ¬ QuantLegal (srcB s p b l) := by unfold QuantLegal; omega
    constructor
    · intro issues
      rw [exec_quantWord rfl issues, quantWord_trap hl active illegal lower]
    · intro issues
      rw [exec_quantWord rfl issues, quantWord_trap hl active illegal lower]
  case qexp =>
    refine ⟨_, exec_quantScalar rfl issues, ?_⟩
    rw [quantScalar_legal ⟨lo, hi⟩ fun _ => fits]
    exact putVecF_popped issues p d _
  case packm =>
    let run := packRun (qFmt (scaB s p b)) (activeMask s (pfx p)) (srcA s p a) (lanesOf (curWarp s))
    refine ⟨_, fun l => BitVec.ofNat 32 (run / 2 ^ (32 * l)), exec_quantScalar rfl issues, ?_, fun l j hj => ?_⟩
    · rw [quantScalar_legal ⟨lo, hi⟩ (by simp)]
      exact putVec_popped issues p d _
    · exact (getLsbD_wordOfRun _ _ hj).trans (testBit_packRun (Nat.lt_of_lt_of_le Nat.two_pos lo) _ _ _ _)
  case unpkm =>
    let n := qFmt (scaB s p b)
    let run := bitString ((lanesOf (curWarp s)).map (srcA s p a))
    refine ⟨_, fun l => BitVec.ofInt 32 (sextBits n (run / 2 ^ (n * l))), exec_quantScalar rfl issues, ?_, fun l j hj => ?_⟩
    · rw [quantScalar_legal ⟨lo, hi⟩ (by simp)]
      exact putVec_popped issues p d _
    · have bit := getLsbD_sextBits (n := n) (Nat.lt_of_lt_of_le Nat.two_pos lo) (run / 2 ^ (n * l)) hj
      rw [Nat.testBit_div_two_pow, Nat.add_comm] at bit
      exact bit.trans (testBit_bitString _ _ _)
  case scalarTrap =>
    have illegal : ¬ QuantLegal (scaB s p b) := by unfold QuantLegal scaB; omega
    refine ⟨fun issues => ?_, fun issues => ?_, fun issues => ?_⟩
    all_goals rw [exec_quantScalar rfl issues, quantScalar_trap (.inl illegal)]; rfl
  case blockTrap =>
    rw [exec_quantScalar rfl issues, quantScalar_trap (.inr ⟨rfl, long⟩)]; rfl

end Sys2Proof.Machine
end

section
/-! SUPPORT. The reductions and the scan (R109): a fold over the active lanes is a sum, a minimum or a maximum of their values,
and the scalar result pops its queue and merges its flags (R47, R64). -/

namespace Sys2Proof.Machine

/-! ### Scalar results of words that pop -/

/-- A second write of the current warp replaces the first. -/
theorem setCur_setCur (s : State) (w v : Warp) : setCur (setCur s w) v = setCur s v := by
  unfold setCur setWarp
  rw [Tbl.set_set]

/-- Merging no flag into `WSTAT` after a scalar write changes nothing. -/
theorem mergeFlags_zero_writeS (s : State) (n : Nat) (v : Word) : mergeFlags (writeS s n v) 0 = writeS s n v := by
  have none (x : Word) : x ||| ((0 : Flags).setWidth 32 <<< 3) = x := by simp
  rw [mergeFlags, none, writeS, setCur_setCur, curWarp_setCur]

/-- A word that writes a scalar, merges flags and pops its queues. -/
theorem writeS_popped {i : Instr} {s : State} (issues : Issues i s) (n : Nat) (v : Word) (g : Flags) :
    ScalarPopResult i n v g s (popOf i (mergeFlags (writeS s n v) g)) := by
  have merged : curWarp (mergeFlags (writeS s n v) g) = { curWarp (writeS s n v) with
      ctl := { (curWarp s).ctl with wstat := (curWarp s).ctl.wstat ||| (g.setWidth 32 <<< 3) } } := by
    simp [mergeFlags, writeS]
  obtain ⟨q, popped⟩ := popOf_warp i (mergeFlags (writeS s n v) g)
  have scalar (m : Nat) : readS (popOf i (mergeFlags (writeS s n v) g)) m = readS (writeS s n v) m := by
    unfold readS; rw [popped, merged]
  obtain ⟨value, others, warp, outside⟩ := writeS_result s n v
  refine ⟨(scalar n).trans value, fun m hm => (scalar m).trans (others m hm), fun k => ?_, ?_,
    (outside.trans (onlyWarp_setCur _ _)).log.trans (popOf_outside i _)⟩
  · rw [popOf_queue issues, merged]
    simp [writeS, queueOf]
  · rw [popped, merged]
    simp [writeS]

/-! ### Folds over the active lanes -/

/-- A fold over the active lanes is a fold over their values. -/
theorem foldLanes_eq_foldl (act : Dword) (f : Nat → Word) (g : Word → Word → Word) (z : Word) (ls : List Nat) :
    foldLanes act f g z ls = ((ls.filter fun l => act.getLsbD l).map f).foldl g z := by
  rw [foldLanes, List.foldl_map, List.foldl_filter]

/-- Words add up modulo `2 ^ 32`. -/
theorem foldl_add_eq_sum (l : List Word) : l.foldl (fun x y => x + y) 0 = BitVec.ofNat 32 (l.map BitVec.toNat).sum := by
  have hom := List.foldl_hom (BitVec.ofNat 32) (g₁ := fun n (w : Word) => n + w.toNat) (g₂ := fun x y => x + y) (l := l)
    (init := 0) fun n w => by simp [BitVec.ofNat_add]
  rw [List.sum_eq_foldl, List.foldl_map]
  exact hom

/-- An operation on words that acts on their signed values folds as it does on those. -/
theorem foldl_signed {g : Word → Word → Word} {op : Int → Int → Int} (acts : ∀ x y, (g x y).toInt = op x.toInt y.toInt)
    (l : List Word) (z : Word) : l.foldl g z = BitVec.ofInt 32 ((l.map BitVec.toInt).foldl op z.toInt) := by
  have hom := List.foldl_hom BitVec.toInt (g₁ := g) (g₂ := fun x (y : Word) => op x y.toInt) (l := l) (init := z)
    fun x y => (acts x y).symm
  rw [List.foldl_map, hom, BitVec.ofInt_toInt]

theorem toInt_smin32 (x y : Word) : (smin32 x y).toInt = min x.toInt y.toInt := by
  have less : x.slt y = true ↔ x.toInt < y.toInt := decide_eq_true_iff
  rw [smin32]
  split <;> (rename_i h; rw [less] at h; omega)

theorem toInt_smax32 (x y : Word) : (smax32 x y).toInt = max x.toInt y.toInt := by
  have less : x.slt y = true ↔ x.toInt < y.toInt := decide_eq_true_iff
  rw [smax32]
  split <;> (rename_i h; rw [less] at h; omega)

/-! ### What the words compute -/

/-- The tree of `VREDFADD` over the lanes of source `a`. -/
def faddLanes (s : State) (p : Option Prefix) (a : BitVec 7) : Word × Flags :=
  redFadd (modeOf s p) ((lanesOf (curWarp s)).map fun l =>
    if (activeMask s (pfx p)).getLsbD l then some (srcA s p a l) else none)

/-- Lane `l` of `VSCAN`: the sum of the active lanes up to it. -/
def scanLane (s : State) (p : Option Prefix) (a : BitVec 7) (l : Nat) : Word :=
  foldLanes (activeMask s (pfx p)) (srcA s p a) (fun x y => x + y) 0 (List.range (l + 1))

/-- A word that reduces to a scalar by a fold over its active lanes, and raises no flag. -/
theorem reduce_popped {i : Instr} {s : State} (issues : Issues i s) (p : Option Prefix) (d a : BitVec 7)
    (g : Word → Word → Word) (z : Word) : ScalarPopResult i (numD p d)
      ((((lanesOf (curWarp s)).filter fun l => (activeMask s (pfx p)).getLsbD l).map (srcA s p a)).foldl g z) 0 s
      (popOf i (reduce s p d a g z)) := by
  rw [reduce, foldLanes_eq_foldl, ← mergeFlags_zero_writeS]
  exact writeS_popped issues _ _ 0

/-! ### The statement -/

/-- Settles O17: each reduction is a fold over its active lanes, and so is each lane of the scan. -/
theorem reductionResults : Obligations.ReductionResults := by
  unfold Obligations.ReductionResults
  intro lanes
  refine ⟨fun p d a s issues => ?vredadd, fun p d a s issues => ?vredmin, fun p d a s issues => ?vredmax,
    fun p d a s issues => ?vredfadd, fun p d a s issues => ?vscan⟩
  case vredadd =>
    refine ⟨_, exec_vword issues (effect := fun s => reduce s p d a (fun x y => x + y) 0) rfl, ?_⟩
    have result := reduce_popped issues p d a (fun x y => x + y) 0
    rwa [foldl_add_eq_sum, List.map_map] at result
  case vredmin =>
    refine ⟨_, exec_vword issues (effect := fun s => reduce s p d a smin32 0x7FFFFFFF) rfl, ?_⟩
    have result := reduce_popped issues p d a smin32 0x7FFFFFFF
    rwa [foldl_signed toInt_smin32, List.map_map] at result
  case vredmax =>
    refine ⟨_, exec_vword issues (effect := fun s => reduce s p d a smax32 0x80000000) rfl, ?_⟩
    have result := reduce_popped issues p d a smax32 0x80000000
    rwa [foldl_signed toInt_smax32, List.map_map] at result
  case vredfadd =>
    exact ⟨_, exec_vword issues
      (effect := fun s => mergeFlags (writeS s (numD p d) (faddLanes s p a).1) (faddLanes s p a).2) rfl,
      writeS_popped issues _ _ _⟩
  case vscan =>
    refine ⟨_, exec_vword issues (effect := fun s => putVec s p d (scanLane s p a)) rfl, ?_⟩
    have sums : scanLane s p a = fun l => BitVec.ofNat 32 ((lanes s p (l + 1)).map fun i => (srcA s p a i).toNat).sum := by
      funext l
      rw [scanLane, foldLanes_eq_foldl, foldl_add_eq_sum, List.map_map]
      rfl
    rw [← sums]
    exact putVec_popped issues p d _

end Sys2Proof.Machine
end

section
/-! SUPPORT. Atomics: the write of a unit to its home (R190, R193, R205, R228), the indivisible read-modify-write (R214, R215),
and the end of an atomic or reduction (R39, R64, R80). -/

namespace Sys2Proof.Machine

/-! ### The write of a unit to memory -/

/-- Both states with their bytes replaced by the same ones. -/
theorem TrafficOnly.withMem {s t : State} (h : TrafficOnly s t) (m : Memory) :
    TrafficOnly { s with mem := m } { t with mem := m } := by
  have same := congrArg (fun u : State => { u with mem := m }) h
  exact same

/-- What a map over the values of a table keeps of each of them, it keeps of what a read gives. -/
theorem Tbl.get_map_values {α β : Type} (π : α → β) (f : Nat → α → α) (keeps : ∀ k x, π (f k x) = π x) (b : α)
    (t : Tbl α) (k : Nat) : π (Tbl.get b (t.map fun e => (e.1, f e.1 e.2)) k) = π (Tbl.get b t k) := by
  induction t with
  | nil => rfl
  | cons e t ih =>
    obtain ⟨j, x⟩ := e
    simp only [List.map_cons, Tbl.get]
    split
    · exact keeps _ _
    · exact ih

/-- Lines of a map over the blocks that leaves no new dirty line are where they were. -/
theorem NoDirtyLine.map_blocks {s : State} {a n : Nat} (h : NoDirtyLine s a n) {t : State} {f : Nat → Block → Block}
    (blocks : t.blocks = s.blocks.map fun e => (e.1, f e.1 e.2))
    (fewer : ∀ k b, ∀ l ∈ (f k b).lines, l.dirty = true → l ∈ b.lines) : NoDirtyLine t a n := by
  intro e he l hl dirty
  rw [blocks] at he
  obtain ⟨old, listed, rfl⟩ := List.mem_map.mp he
  exact h old listed l (fewer _ _ l hl dirty) dirty

/-- What a snoop leaves of one block. -/
def snoopedBlock (own : Nat) (skip : Option (Nat × Nat × Bool)) (a n : Nat) (drop : Bool) (k : Nat) (b : Block) : Block :=
  if !b.replay && b.lines.any (snoopHit skip a n k) then
    { b with
      lines := if drop then b.lines.filter fun l => !snoopHit skip a n k l
        else b.lines.map fun l => if snoopHit skip a n k l then { l with dirty := false, data := [] } else l
      eligible := b.eligible && (k == own ||
        !(b.lines.any fun l => snoopHit skip a n k l && b.slog.any fun e => e.1 == l.va)) }
  else b

theorem snoopBy_blocks (own : Nat) (s : State) (skip : Option (Nat × Nat × Bool)) (a n : Nat) (drop : Bool) :
    (snoopBy own s skip a n drop).blocks = s.blocks.map fun e => (e.1, snoopedBlock own skip a n drop e.1 e.2) := rfl

/-- A snoop makes no line dirty. -/
theorem snoopedBlock_fewer (own : Nat) (skip : Option (Nat × Nat × Bool)) (a n : Nat) (drop : Bool) (k : Nat) (b : Block) :
    ∀ l ∈ (snoopedBlock own skip a n drop k b).lines, l.dirty = true → l ∈ b.lines := by
  intro l hl dirty
  unfold snoopedBlock at hl
  split at hl
  · dsimp only at hl
    split at hl
    · exact (List.mem_filter.mp hl).1
    · obtain ⟨m, hm, rfl⟩ := List.mem_map.mp hl
      split at dirty
      · cases dirty
      · rwa [if_neg ‹_›]
  · exact hl

theorem snoopedBlock_replay (own : Nat) (skip : Option (Nat × Nat × Bool)) (a n : Nat) (drop : Bool) (k : Nat) (b : Block) :
    (snoopedBlock own skip a n drop k b).replay = b.replay := by
  unfold snoopedBlock
  split <;> rfl

/-- A snoop leaves a replay a replay, and no other block becomes one. -/
theorem snoop_replay (s : State) (skip : Option (Nat × Nat × Bool)) (a n : Nat) (drop : Bool) (k : Nat) :
    (blockOf (snoop s skip a n drop) k).replay = (blockOf s k).replay := by
  rw [blockOf, snoop, snoopBy_blocks]
  exact Tbl.get_map_values (fun b : Block => b.replay) _ (snoopedBlock_replay 0 skip a n drop) _ _ _

theorem NoDirtyLine.snoop {s : State} {a n : Nat} (h : NoDirtyLine s a n) (skip : Option (Nat × Nat × Bool)) (b m : Nat)
    (drop : Bool) : NoDirtyLine (snoop s skip b m drop) a n :=
  h.map_blocks (snoopBy_blocks 0 s skip b m drop) fun _ _ => snoopedBlock_fewer _ _ _ _ _ _ _

/-- A write notes the rings that it notifies, and no dirty line. -/
theorem NoDirtyLine.noteRings {s : State} {a n : Nat} (h : NoDirtyLine s a n) (b m : Nat) :
    NoDirtyLine (noteRings s b m) a n := by
  refine h.map_blocks (f := fun _ x => if hitsNotify s x b m then { x with ring := { x.ring with stored := true } } else x)
    rfl fun k x l hl _ => ?_
  split at hl <;> exact hl

/-- A write of bytes that no dirty line holds puts them into memory, and changes nothing else but the accounts. -/
theorem writeBytes_traffic {s : State} {a : Nat} {d : List Byte} (clean : NoDirtyLine s a d.length) :
    TrafficOnly { s with mem := Memory.writes s.mem a d } (writeBytes s a d) := by
  have snooped : TrafficOnly s (snoop (noteRings s a d.length) none a d.length true) :=
    TrafficOnly.trans (t := noteRings s a d.length) rfl (snoopBy_traffic (clean.noteRings _ _) _ _ _)
  have written := snooped.withMem (Memory.writes s.mem a d)
  rw [← snooped.mem] at written ⊢
  exact written

theorem storeUse_traffic (s s' : State) (k : Nat) (u : MUnit) (isStore : Bool) :
    TrafficOnly s' (storeUse s s' k u isStore) := by
  unfold storeUse
  dsimp only
  split
  · exact (homeUse_traffic _ _ _ _ _).trans (l1Put_traffic _ _ _)
  · exact homeUse_traffic _ _ _ _ _

/-- A unit outside a stash, of a block that is no replay, writes its bytes to memory (R190, R193). -/
theorem unitPut_traffic {s : State} {k : Nat} {u : MUnit} {d : List Byte} (stash : unitStash s k u = false)
    (run : (blockOf s k).replay = false) (clean : NoDirtyLine s u.pa d.length) (by_ : Writer) :
    TrafficOnly { s with mem := Memory.writes s.mem u.pa d } (unitPut s k u d by_) := by
  have used := (writeBytes_traffic clean).trans (storeUse_traffic s (writeBytes s u.pa d) k u (by_ == .warp))
  unfold unitPut
  rw [if_neg (by simp [stash]), if_neg (by simp [run])]
  dsimp only
  split
  · exact used
  · exact (used.trans (noteAudit_traffic _ _ _ _ _ _)).trans rfl

/-! ### The read-modify-write (R214, R215) -/

/-- The new value and flags of an atomic's unit, from the bytes that memory holds. -/
def rmwResult (s : State) (f : Rmw) (x : MUnit) : Nat × Flags :=
  rmwNew f x.len (leNat (Memory.reads s.mem x.pa x.len)) (leNat x.data) (leNat x.data2)

/-- The unit reads the old bytes and writes the new ones in one step. -/
structure ReadsModifiesWrites (s : State) (f : Rmw) (x : MUnit) (r : State × MUnit × Flags) : Prop where
  traffic : TrafficOnly { s with mem := Memory.writes s.mem x.pa (leBytes x.len (rmwResult s f x).1) } r.1
  unit : r.2.1 = { x with data := Memory.reads s.mem x.pa x.len, done := true }
  flags : r.2.2 = (rmwResult s f x).2

theorem rmwUnit_spec {s : State} {k : Nat} (f : Rmw) {x : MUnit} (stash : x.stash = false)
    (run : (blockOf s k).replay = false) (clean : NoDirtyLine s x.pa x.len) :
    ReadsModifiesWrites s f x (rmwUnit s k f x) := by
  have outside (t : State) : unitStash t k x = false := by simp [unitStash, stash]
  obtain ⟨traffic, bytes⟩ := unitBytes_readsMemory (outside s) run clean
  have after : (unitBytes s k x).1 = snoop s none x.pa x.len false := by
    rw [unitBytes, if_neg (by simp [outside])]
  have length := leBytes_length x.len (rmwResult s f x).1
  have put : TrafficOnly { s with mem := Memory.writes s.mem x.pa (leBytes x.len (rmwResult s f x).1) }
      (unitWrite (unitBytes s k x).1 k x (leBytes x.len (rmwResult s f x).1)) := by
    refine TrafficOnly.trans (traffic.withMem _) ?_
    rw [← traffic.mem]
    refine unitPut_traffic (outside _) ?_ ?_ .warp
    · rw [after, snoop_replay, run]
    · rw [after, length]
      exact clean.snoop _ _ _ _
  unfold rmwUnit
  dsimp only
  rw [bytes]
  exact ⟨put, rfl, rfl⟩

/-! ### An atomic has its turn -/

section
variable {s : State} {w op : Nat} {o : PendOp} {f : Rmw} (u : Nat) (here : opOf (warpOf s w) op = some o)
  (kind : rmwOf o.kind = some f)
include here kind

/-- An atomic with all its lanes done ends. -/
theorem exec_atomicPerform_complete (complete : isComplete o = true) :
    exec (.atomicPerform w op u) s = .next (finishAtomic s w o) := by
  change execAtomicPerform w op u s = _
  simp [execAtomicPerform, withOp, here, kind, complete]

/-- A unit that has its turn, and that nothing refuses, stops or holds, reads, modifies and writes its location (R205, R214). -/
theorem exec_atomicPerform_unit {x : MUnit} (turn : UnitTurn s w op u o x) (near : isPeer x.pa = false)
    (fate : storeFate s (warpOf s w).blk (blockOf s (warpOf s w).blk).world x = .perform)
    (goesOn : atomicStopped s (warpOf s w).blk o = false) (free : unitFree s w o x = true) :
    exec (.atomicPerform w op u) s = .next (
      let r := rmwUnit s (warpOf s w).blk f x
      atomicDone r.1 w { setUnit o u r.2.1 with flags := o.flags ||| r.2.2 }) := by
  obtain ⟨-, own, waits, home, may, alone⟩ := turn
  have travels : fillTravels s (warpOf s w).blk x = false := by simp [fillTravels, near]
  rw [← opOf_id here] at alone
  change execAtomicPerform w op u s = _
  simp [execAtomicPerform, withOp, here, kind, not_isComplete own waits, own, waits, home, may, alone, placeAtomic, fate,
    goesOn, free, travels]

end

/-- A unit that is not the last of its atomic leaves the atomic pending. -/
theorem atomicDone_pending {s : State} {w : Nat} {o : PendOp} (pending : isComplete o = false) :
    atomicDone s w o = setWarp s w (setOp (warpOf s w) o) := by
  rw [atomicDone, pending]; rfl

/-! ### An atomic ends (R39, R64, R80) -/

theorem curWarp_mergeFlags (s : State) (f : Flags) : curWarp (mergeFlags s f) =
    { curWarp s with ctl := { (curWarp s).ctl with wstat := (curWarp s).ctl.wstat ||| (f.setWidth 32 <<< 3) } } :=
  curWarp_setCur _ _

/-- The end of an operation whose flags merge: it leaves the warp in execution, which has a fragment left, and nothing else of it
changes but `WSTAT`. -/
structure FlagsRetired (o : PendOp) (s t : State) : Prop where
  warp : ∃ g, curWarp t = { curWarp s with
    ctl := { (curWarp s).ctl with wstat := (curWarp s).ctl.wstat ||| (o.flags.setWidth 32 <<< 3) }
    pend := ((curWarp s).pend.filter fun x => x.id != o.id).dropWhile fun x => x.kind == .point, flags := g }
  count : ∀ f, flagCount (curWarp t) f = flagCount (curWarp s) f - (if o.flag ≠ 15#4 ∧ f = o.flag.toNat then 1 else 0)
  cur : t.cur = s.cur
  outside : OnlyWarp s t

theorem retireOp_mergeFlags {s : State} {w : Nat} (cur : s.cur = w) (runs : (usedEntries (curWarp s)).isEmpty = false)
    (o : PendOp) : FlagsRetired o s (retireOp (mergeFlags s o.flags) w o) := by
  have merged := curWarp_mergeFlags s o.flags
  have finish : retireOp (mergeFlags s o.flags) w o =
      setCur (mergeFlags s o.flags) (dropOp (curWarp (mergeFlags s o.flags)) o) :=
    retireOp_current (t := mergeFlags s o.flags) cur (by rw [merged]; exact runs) o
  obtain ⟨g, drop, count⟩ := dropOp_warp (curWarp (mergeFlags s o.flags)) o
  rw [finish]
  refine ⟨⟨g, ?_⟩, fun f => ?_, rfl, (onlyWarp_setCur _ _).trans (onlyWarp_setCur _ _)⟩
  · rw [curWarp_setCur, drop, merged]
  · rw [curWarp_setCur, drop]
    exact (count f).trans (by rw [merged]; rfl)

/-- What the end of an atomic does: it leaves its warp, its flags merge, and the lanes of its `regs` registers from `d` on hold
the old values. -/
structure AtomicFinished (o : PendOp) (d regs : Nat) (s t : State) : Prop where
  retired : OpRetired o s t
  lanes : ∀ r l, l < 64 → readV t r l =
    if (d ≤ r ∧ r < d + regs) ∧ l < (curWarp s).width then
      if o.active.getLsbD l then wordOf (laneBytes o l (4 * regs)) (r - d)
      else if o.zeroed.getLsbD l then 0 else readV s r l
    else readV s r l
  flags : (warpOf t s.cur).ctl.wstat = (curWarp s).ctl.wstat ||| (o.flags.setWidth 32 <<< 3)
  scalars : (warpOf t s.cur).scalars = (curWarp s).scalars
  outside : OnlyWarpLog s t

theorem finishAtomic_atomic {s : State} {w : Nat} {o : PendOp} {d regs : Nat} {f : Rmw} (kind : o.kind = .atomic d regs f)
    (runs : StillRuns s w) : AtomicFinished o d regs (asWarp s w o.frag) (finishAtomic s w o) := by
  let t := writeRun (asWarp s w o.frag) o d (fun i l => wordOf (laneBytes o l (4 * regs)) i) regs
  have written : OnlyWarpLog (asWarp s w o.frag) t := writeRun_outside _ _ _ _ _
  have cur : t.cur = (asWarp s w o.frag).cur := congrArg (fun v => v.cur) written.rest
  obtain ⟨v, g, warp⟩ : ∃ v g, curWarp t = { curWarp (asWarp s w o.frag) with vecs := v, vlog := g } :=
    writeRun_warp _ _ _ _ _
  have finish : finishAtomic s w o = retireOp (mergeFlags t o.flags) w o := by rw [finishAtomic, kind]
  obtain ⟨⟨g', after⟩, count, same, outside⟩ := retireOp_mergeFlags (s := t) (w := w) cur (by rw [warp]; exact runs) o
  have atCur : warpOf (retireOp (mergeFlags t o.flags) w o) (asWarp s w o.frag).cur =
      curWarp (retireOp (mergeFlags t o.flags) w o) := by rw [curWarp, same, cur]
  rw [finish]
  refine ⟨⟨?_, fun k => ?_⟩, fun r l hl => ?_, ?_, ?_, written.trans outside.log⟩
  · rw [after, warp]
  · rw [count, warp]; rfl
  · have kept : readV (retireOp (mergeFlags t o.flags) w o) r l = readV t r l := by rw [readV, after]; rfl
    rw [kept]
    exact readV_writeRun _ _ _ _ _ _ _ hl
  · rw [atCur, after, warp]
  · rw [atCur, after, warp]

/-- What the end of a reduction does: it leaves its warp and its flags merge. -/
structure ReductionFinished (o : PendOp) (s t : State) : Prop where
  retired : OpRetired o s t
  vecs : (warpOf t s.cur).vecs = (curWarp s).vecs
  scalars : (warpOf t s.cur).scalars = (curWarp s).scalars
  flags : (warpOf t s.cur).ctl.wstat = (curWarp s).ctl.wstat ||| (o.flags.setWidth 32 <<< 3)
  outside : OnlyWarp s t

theorem finishAtomic_red {s : State} {w : Nat} {o : PendOp} {f : Rmw} (kind : o.kind = .red f) (runs : StillRuns s w) :
    ReductionFinished o (asWarp s w o.frag) (finishAtomic s w o) := by
  have finish : finishAtomic s w o = retireOp (mergeFlags (asWarp s w o.frag) o.flags) w o := by rw [finishAtomic, kind]
  obtain ⟨⟨g, after⟩, count, same, outside⟩ := retireOp_mergeFlags (s := asWarp s w o.frag) (w := w) rfl runs o
  have atCur : warpOf (retireOp (mergeFlags (asWarp s w o.frag) o.flags) w o) (asWarp s w o.frag).cur =
      curWarp (retireOp (mergeFlags (asWarp s w o.frag) o.flags) w o) := by rw [curWarp, same]
  rw [finish]
  refine ⟨⟨by rw [after], count⟩, ?_, ?_, ?_, outside⟩ <;> rw [atCur, after]

/-! ### The new values of R214 -/

/-- The signed minimum of R214, as the model chooses it. -/
theorem signedMin_toNat (x y : Word) :
    (if y.toInt < x.toInt then y.toNat else x.toNat) = (BitVec.ofInt 32 (min x.toInt y.toInt)).toNat := by
  split
  · rw [min_eq_right (by omega), BitVec.ofInt_toInt]
  · rw [min_eq_left (by omega), BitVec.ofInt_toInt]

theorem signedMax_toNat (x y : Word) :
    (if x.toInt < y.toInt then y.toNat else x.toNat) = (BitVec.ofInt 32 (max x.toInt y.toInt)).toNat := by
  split
  · rw [max_eq_right (by omega), BitVec.ofInt_toInt]
  · rw [max_eq_left (by omega), BitVec.ofInt_toInt]

/-- The new value of a compare and swap. -/
theorem cas_toNat {n : Nat} (old v v2 : BitVec n) :
    (if old.toNat = v.toNat then v2.toNat else old.toNat) = (if old = v then v2 else old).toNat := by
  rw [apply_ite BitVec.toNat]
  simp only [BitVec.toNat_inj]

/-! ### The statement -/

/-- Settles O34: a unit that has its turn reads, modifies and writes its location in one step; an atomic with all its lanes done
writes the old values and merges its flags, a reduction merges its flags only; and the new values are those of R214. -/
theorem atomicPerforms : Obligations.AtomicPerforms := by
  unfold Obligations.AtomicPerforms
  refine ⟨fun s w op u o x f turn kind _ stash near fate goesOn free clean run ⟨v, z, other, unit, waits⟩ => ?unit,
    fun s w op u o d regs f here kind complete runs => ?atomic, fun s w op u o f here kind complete runs => ?reduction,
    fun old v v2 r => ?word, fun old v v2 => ?dword⟩
  case unit =>
    intro q
    have here : opOf (warpOf s w) op = some o := turn.1
    obtain ⟨traffic, unitDone, flags⟩ := rmwUnit_spec (k := (warpOf s w).blk) f stash run clean
    let o' : PendOp := { o with
      units := o.units.set u { x with data := Memory.reads s.mem x.pa x.len, done := true }, flags := o.flags ||| q.2 }
    let t := (rmwUnit s (warpOf s w).blk f x).1
    have pending : isComplete o' = false :=
      not_isComplete (v := v) (z := z) (by rw [← unit]; exact List.getElem?_set_ne (Ne.symm other)) waits
    have same : warpOf t w = warpOf s w := traffic.warpOf w
    refine ⟨setWarp t w (setOp (warpOf t w) o'), ?_, fun a => ?_, ?_, ?_, ?_⟩
    · rw [exec_atomicPerform_unit u here kind turn near fate goesOn free, ← atomicDone_pending pending]
      dsimp only
      rw [unitDone, flags]
      rfl
    · have memory : t.mem = Memory.writes s.mem x.pa (leBytes x.len q.1) := traffic.mem
      rw [setWarp_mem, memory, Memory.byte_writes, leBytes_length]
    · obtain rfl : o.id = op := opOf_id here
      rw [warpOf_setWarp_same, same]
      exact opOf_setOp (o' := o') here
    · rw [warpOf_setWarp_same, same]; rfl
    · rw [warpOf_setWarp_same, same]; rfl
  case atomic =>
    obtain ⟨retired, lanes, flags, scalars, outside⟩ := finishAtomic_atomic kind runs
    refine ⟨_, exec_atomicPerform_complete (f := f) u here (by rw [kind]; rfl) complete, retired, fun i l hi hl act => ?_,
      fun r l hl out => ?_, flags, scalars, outside⟩
    · rw [lanes _ _ (BitVec.lt_of_getLsbD act), if_pos ⟨by omega, hl⟩, if_pos act, Nat.add_sub_cancel_left]
      rfl
    · rw [lanes _ _ hl]
      rcases out with out | out | ⟨act, zer⟩
      · rw [if_neg (by omega)]
      · rw [if_neg (by omega)]
      · simp [act, zer]
  case reduction =>
    obtain ⟨retired, vecs, scalars, flags, outside⟩ := finishAtomic_red kind runs
    exact ⟨_, exec_atomicPerform_complete (f := f) u here (by rw [kind]; rfl) complete, retired, vecs, scalars, flags,
      outside⟩
  case word =>
    have signed (x : Word) : (BitVec.ofNat (8 * 4) x.toNat).toInt = x.toInt := by rw [BitVec.ofNat_toNat, BitVec.setWidth_eq]
    refine ⟨by rw [BitVec.toNat_add]; rfl, ?_, ?_, rfl, rfl, ?_, ?_, ?_, rfl, ?_, rfl⟩
    · rw [← signedMin_toNat, ← signed old, ← signed v]; rfl
    · rw [← signedMax_toNat, ← signed old, ← signed v]; rfl
    · rw [BitVec.toNat_and]; rfl
    · rw [BitVec.toNat_or]; rfl
    · rw [BitVec.toNat_xor]; rfl
    · rw [← cas_toNat]; rfl
  case dword =>
    exact ⟨by rw [BitVec.toNat_add]; rfl, by rw [← cas_toNat]; rfl⟩

end Sys2Proof.Machine
end

section
/-! SUPPORT. Reads of special registers: the value and the state that a read gives (R123, R298 to R301, R304, R305), and the word
that delivers it at once (R39, R301). -/

namespace Sys2Proof.Machine

/-! ### What a read changes of the state -/

/-- Registers whose read changes no state: all but the violation log and the monitors, which a service core reads as free
values and which count, and `SVMSG`, which pops. -/
theorem csrRead_state {s : State} {n : Nat} (vlog : ¬ (0x40 ≤ n ∧ n ≤ 0x4F)) (pmon : ¬ (0x60 ≤ n ∧ n ≤ 0x67))
    (msg : n ≠ 0x805) : (csrRead s n).1 = s := by
  simp only [csrRead, vlog, pmon, msg, if_false, apply_ite Prod.fst, ite_self]

theorem csrRead_vlog {s : State} {n : Nat} (h : 0x40 ≤ n ∧ n ≤ 0x4F) : csrRead s n =
    if isService s then freeDword s else (s, Tbl.get 0 (tenantOf s (curTenant s)).vlog (n - 0x40)) := by
  simp (disch := omega) only [csrRead, if_neg, if_pos h]

theorem csrRead_pmon {s : State} {n : Nat} (h : 0x60 ≤ n ∧ n ≤ 0x67) : csrRead s n = readPmon s (n - 0x60) := by
  simp (disch := omega) only [csrRead, if_neg, if_pos h]

theorem csrRead_msg (s : State) :
    csrRead s 0x805 = ((popMessage s s.cur).1, (popMessage s s.cur).2.setWidth 64) := rfl

theorem csrRead_cap {s : State} {n : Nat} (h : 0x21 ≤ n ∧ n ≤ 0x28) :
    csrRead s n = (s, (capWord s (n - 0x21)).setWidth 64) := by
  simp (disch := omega) only [csrRead, if_neg, if_pos h]

theorem csrRead_work {s : State} {n : Nat} (h : 0x806 ≤ n ∧ n ≤ 0x809) :
    csrRead s n = (s, (Tbl.get 0 (svcOf s s.cur).work (n - 0x806)).setWidth 64) := by
  simp (disch := omega) only [csrRead, if_neg, if_pos h]

/-- A read of register `n` changes no warp; it may draw free values, a read of `SVMSG` may pop, and a read of a monitor may
count. -/
structure CsrReadOnly (n : Nat) (s u : State) : Prop where
  plain : n < 0x60 ∨ 0x67 < n → { u with svcs := s.svcs, freeCtr := s.freeCtr } = s
  svcs : n ≠ 0x805 → u.svcs = s.svcs
  rest : { u with svcs := s.svcs, tenants := s.tenants, freeCtr := s.freeCtr } = s

theorem csrRead_only (s : State) (n : Nat) : CsrReadOnly n s (csrRead s n).1 := by
  by_cases vlog : 0x40 ≤ n ∧ n ≤ 0x4F
  · rw [csrRead_vlog vlog]
    split <;> exact ⟨fun _ => rfl, fun _ => rfl, rfl⟩
  · by_cases pmon : 0x60 ≤ n ∧ n ≤ 0x67
    · have counts : ¬ (n < 0x60 ∨ 0x67 < n) := by omega
      rw [csrRead_pmon pmon]
      unfold readPmon
      dsimp only
      split
      · exact ⟨fun _ => rfl, fun _ => rfl, rfl⟩
      · split
        · exact ⟨fun h => absurd h counts, fun _ => rfl, rfl⟩
        · exact ⟨fun _ => rfl, fun _ => rfl, rfl⟩
    · by_cases msg : n = 0x805
      · subst msg
        rw [csrRead_msg]
        unfold popMessage
        dsimp only
        split
        · exact ⟨fun _ => rfl, fun _ => rfl, rfl⟩
        · exact ⟨fun _ => rfl, fun h => absurd rfl h, rfl⟩
      · rw [csrRead_state vlog pmon msg]
        exact ⟨fun _ => rfl, fun _ => rfl, rfl⟩

/-! ### The values -/

/-- The low byte of `MSTAT` without its reserved bits (R123). -/
theorem readMstat_low (s : State) (k : Nat) : readMstat s k &&& 0xFF = (warpOf s k).ctl.mstat &&& 0x8F := by
  have high (x : Nat) (whole : x % 256 = 0) : BitVec.ofNat 32 x &&& 0xFF#32 = 0#32 := by
    have low : x % 2 ^ 32 &&& 0xFF = x % 2 ^ 32 % 2 ^ 8 := Nat.and_two_pow_sub_one_eq_mod _ 8
    have none : x % 2 ^ 32 % 2 ^ 8 = 0 := by omega
    apply BitVec.eq_of_toNat_eq
    rw [BitVec.toNat_and, BitVec.toNat_ofNat]
    exact low.trans none
  unfold readMstat
  dsimp only
  rw [BitVec.and_or_distrib_right, BitVec.and_assoc]
  refine (congrArg ((warpOf s k).ctl.mstat &&& 0x8F#32 ||| ·) (high _ ?_)).trans BitVec.or_zero
  split <;> omega

/-- The profile bits of `FEAT` after bring-up (R300). -/
theorem featWord_bits {s : State} (up : 7 ≤ s.plat.step) (service scalar matrix : Bool) :
    (featWord s service scalar matrix).getLsbD 4 = service ∧ (featWord s service scalar matrix).getLsbD 3 = scalar ∧
    (featWord s service scalar matrix).getLsbD 0 = matrix ∧
    (featWord s service scalar matrix).getLsbD 1 = decide (s.part = .gx9) ∧
    (featWord s service scalar matrix).getLsbD 2 = decide (s.part = .gx9) := by
  rw [featWord, if_neg (by omega)]
  cases s.part <;> cases service <;> cases scalar <;> cases matrix <;> decide

theorem featWord_down {s : State} (down : s.plat.step < 7) (service scalar matrix : Bool) :
    featWord s service scalar matrix = 0 := if_pos down

theorem capWord_down {s : State} (down : s.plat.step < 7) (n : Nat) : capWord s n = 0 := if_pos down

theorem capWord_zero {s : State} (up : 7 ≤ s.plat.step) :
    capWord s 0 = if s.part = .gx9 then 0x000BFA00 else 0x0005FD00 := by
  refine (if_neg (Nat.not_lt.mpr up)).trans ?_
  cases s.part <;> rfl

theorem capWord_five {s : State} (up : 7 ≤ s.plat.step) : capWord s 5 = s.fsto :=
  (if_neg (Nat.not_lt.mpr up)).trans (by cases s.part <;> rfl)

/-- The placement of a warp of a tenant core (R299). -/
theorem warpIdWord_tenant {k : Nat} (h : 16 ≤ k) (w : Warp) : warpIdWord k w =
    BitVec.ofNat 32 ((if w.upper then 2 ^ 19 else 0) + 2 ^ 17 * (w.core / 40) + 2 ^ 11 * (w.core % 40) + 2 ^ 5 * w.slot +
      w.index) := if_neg (Nat.not_lt.mpr h)

/-! ### Delivery of the value -/

/-- The value enters a pair or one scalar (R301). -/
def putCsr (s : State) (r : Nat) (wide : Bool) (v : Dword) : State :=
  if wide then writeP s r v else writeS s r (v.setWidth 32)

/-- What that does to the registers of the warp, and that it does nothing else. -/
structure CsrPut (r : Nat) (wide : Bool) (v : Dword) (s t : State) : Prop where
  narrow : wide = false → readS t r = v.setWidth 32
  pair : wide = true → readP t r = v
  others : ∀ m, m ≠ r → (m ≠ r + 1 ∨ wide = false) → readS t m = readS s m
  warp : { curWarp t with scalars := (curWarp s).scalars } = curWarp s
  outside : OnlyWarp s t

theorem putCsr_put (s : State) (r : Nat) (wide : Bool) (v : Dword) : CsrPut r wide v s (putCsr s r wide v) := by
  cases wide with
  | false =>
    obtain ⟨value, others, warp, outside⟩ := writeS_result s r (v.setWidth 32)
    exact ⟨fun _ => value, fun h => (by cases h), fun m h _ => others m h, warp, outside⟩
  | true =>
    obtain ⟨value, others, warp, outside⟩ := writeP_result s r v
    exact ⟨fun h => (by cases h), fun _ => value, fun m h h' => others m h (h'.resolve_right (by simp)), warp, outside⟩

/-- A word that completes as it issues changes the flags and the split table of its warp only. -/
theorem opNow_warp (s : State) (c : Cls) : ∃ g x, curWarp (opNow s c) = { curWarp s with flags := g, split := x } := by
  obtain ⟨g, h⟩ := flagDone_warp (curWarp s) (clsFlag (curEntry s) c) 1
  refine ⟨g, Tbl.set (curWarp s).split s.frag (remIssued (curEntry s) c), ?_⟩
  rw [opNow, curWarp_setCur, h]
  rfl

theorem opNow_atOnce (s : State) (c : Cls) : OpAtOnce c s (opNow s c) := by
  have count := flagCount_flagDone (curWarp s) (clsFlag (curEntry s) c) 1
  obtain ⟨g, h⟩ := flagDone_warp (curWarp s) (clsFlag (curEntry s) c) 1
  have warp : curWarp (opNow s c) =
      setEntry (flagDone (curWarp s) (clsFlag (curEntry s) c) 1) s.frag (remIssued (curEntry s) c) := curWarp_setCur _ _
  refine ⟨fun f => ?_, ?_, fun e he => ?_⟩
  · rw [warp]; exact count f
  · rw [curEntry, warp]; exact entryOf_setEntry_same _ _ _
  · rw [warp, entryOf_setEntry, if_neg (Ne.symm he), h]; rfl

/-- The flags and the fragments are all that matters of the state before. -/
theorem OpAtOnce.of_same {c : Cls} {s u t : State} (h : OpAtOnce c u t) (flags : (curWarp u).flags = (curWarp s).flags)
    (split : (curWarp u).split = (curWarp s).split) (frag : u.frag = s.frag) : OpAtOnce c s t := by
  have entries (e : Nat) : entryOf (curWarp u) e = entryOf (curWarp s) e := by rw [entryOf, split]; rfl
  have entry : curEntry u = curEntry s := by rw [curEntry, entries, frag]; rfl
  obtain ⟨count, now, others⟩ := h
  refine ⟨fun f => ?_, by rw [now, entry], fun e he => ?_⟩
  · rw [count, entry, flagCount, flags]; rfl
  · rw [others e (by rw [frag]; exact he), entries]

/-- `CSRRD` that issues: the read, then the delivery. -/
def csrrdDone (s : State) (p : Option Prefix) (d : BitVec 7) (i : BitVec 14) : State :=
  opNow (putCsr (csrRead s i.toNat).1 (numD p d) (csrIsWide i) (csrRead s i.toNat).2) .a

theorem exec_csrrd {p : Option Prefix} {d : BitVec 7} {i : BitVec 14} {s : State} (issues : Issues (.csrrd p d i) s) :
    exec (.csrrd p d i) s = .next (csrrdDone s p d i) :=
  word_next issues fun s => csrrdDone s p d i

/-- What `CSRRD` does to the state, `u` being the state that the read gives and `v` the value. -/
structure CsrDelivered (r : Nat) (wide : Bool) (v : Dword) (s u t : State) : Prop where
  narrow : wide = false → readS t r = v.setWidth 32
  pair : wide = true → readP t r = v
  scalars : ∀ m, m ≠ r → (m ≠ r + 1 ∨ wide = false) → readS t m = readS s m
  now : OpAtOnce .a s t
  warp : { curWarp t with
    scalars := (curWarp s).scalars, flags := (curWarp s).flags, split := (curWarp s).split } = curWarp s
  warps : ∀ k, k ≠ s.cur → warpOf t k = warpOf s k
  outside : { t with warps := u.warps } = u

/-- A state that differs in no warp and in nothing of the word in execution. -/
theorem csrDelivered {s u : State} {n : Nat} (read : CsrReadOnly n s u) (r : Nat) (wide : Bool) (v : Dword) :
    CsrDelivered r wide v s u (opNow (putCsr u r wide v) .a) := by
  have warps : u.warps = s.warps := congrArg (fun x => x.warps) read.rest
  have cur : u.cur = s.cur := congrArg (fun x => x.cur) read.rest
  have frag : u.frag = s.frag := congrArg (fun x => x.frag) read.rest
  have same : curWarp u = curWarp s := by rw [curWarp, warpOf, warps, cur]; rfl
  obtain ⟨narrow, pair, others, putWarp, putOutside⟩ := putCsr_put u r wide v
  obtain ⟨g, x, now⟩ := opNow_warp (putCsr u r wide v) .a
  have outside : OnlyWarp u (opNow (putCsr u r wide v) .a) := putOutside.trans (onlyWarp_setCur _ _)
  have scalar (m : Nat) : readS (opNow (putCsr u r wide v) .a) m = readS (putCsr u r wide v) m := by rw [readS, now]; rfl
  have before (m : Nat) : readS u m = readS s m := by rw [readS, same]; rfl
  refine ⟨fun h => (scalar r).trans (narrow h), fun h => ?_, fun m h h' => ?_, ?_, ?_, fun k hk => ?_, outside.rest⟩
  · rw [readP, scalar, scalar]; exact pair h
  · rw [scalar, others m h h', before]
  · refine (opNow_atOnce _ _).of_same ?_ ?_ ?_
    · rw [← same, ← putWarp]
    · rw [← same, ← putWarp]
    · rw [← frag]; exact congrArg (fun x => x.frag) putOutside.rest
  · rw [now, ← same, ← putWarp]
  · rw [outside.others k (by rw [cur]; exact hk), warpOf, warps]; rfl

/-- A word that travels in a pair arrives as it was. -/
theorem setWidth_setWidth_word (x : Word) : (x.setWidth 64).setWidth 32 = x := by
  rw [BitVec.setWidth_setWidth_of_le _ (by decide), BitVec.setWidth_eq]

/-- The oldest message leaves the queue, and only its core changes (R305). -/
theorem popMessage_cons {s : State} {k : Nat} {m : Word} {rest : List Word} (h : (svcOf s k).msgs = m :: rest) :
    popMessage s k = (setSvc s k { svcOf s k with msgs := rest }, m) := by
  rw [popMessage]
  simp only [h]

theorem popMessage_nil {s : State} {k : Nat} (h : (svcOf s k).msgs = []) : popMessage s k = (s, 0xFFFFFFFF) := by
  rw [popMessage]
  simp only [h]

/-- A read of `SVMSG` by a service core pops the oldest message into its scalar. -/
theorem exec_svmsgPop {s : State} {core d : Nat} {m : Word} {rest : List Word} (hc : core < 16) (hd : d < 192)
    (h : (svcOf s core).msgs = m :: rest) : exec (.svmsgPop core d) s =
      .next (writeS (asWarp (setSvc s core { svcOf s core with msgs := rest }) core 0) d m) := by
  change execSvmsgPop core d s = _
  rw [execSvmsgPop, if_neg (by omega), popMessage_cons h]

/-! ### The statement -/

/-- The registers that move through a pair: the violation log, the monitors, `SHPC`, `SHVAL` and `FWBASE` (R298). -/
abbrev CsrPair (k : Nat) : Prop :=
  (0x40 ≤ k ∧ k ≤ 0x4F) ∨ (0x60 ≤ k ∧ k ≤ 0x67) ∨ k = 0x801 ∨ k = 0x803 ∨ k = 0x811

section
variable {s : State} {i : BitVec 14} {k r : Nat} {u t : State} (hi : i.toNat = k)
  (done : CsrDelivered r (csrIsWide i) (csrRead s i.toNat).2 s u t)
include hi done

/-- A register of 32 bits arrives in the scalar. -/
theorem CsrDelivered.scalar {x : Word} (one : ¬ CsrPair k) (value : (csrRead s k).2 = x.setWidth 64) : readS t r = x := by
  subst hi
  rw [done.narrow (Bool.eq_false_iff.mpr fun h => one ((csrIsWide_iff i).mp h)), value, setWidth_setWidth_word]

/-- A register of 64 bits arrives in the pair. -/
theorem CsrDelivered.dword {x : Dword} (both : CsrPair k) (value : (csrRead s k).2 = x) : readP t r = x := by
  subst hi
  rw [done.pair ((csrIsWide_iff i).mpr both), value]

end

/-- A monitor that has been read holds the value that was delivered; one that counts no cycles holds what it held (R367). -/
theorem readPmon_value {s : State} (n : Nat) (tenant : isService s = false) :
    (readPmon s n).2 = Tbl.get 0 (tenantOf (readPmon s n).1 (curTenant s)).pmon n ∧
    (pmonCode (tenantOf s (curTenant s)) n ≠ 0 → (readPmon s n).2 = Tbl.get 0 (tenantOf s (curTenant s)).pmon n) := by
  unfold readPmon
  dsimp only
  rw [if_neg (by simp [tenant])]
  split
  · refine ⟨?_, fun h => absurd ‹_› h⟩
    rw [tenantOf_setTenant_same]
    exact (Tbl.get_set_same _ _ _ _).symm
  · exact ⟨rfl, fun _ => rfl⟩

/-- Settles O45: each register has its value, which is delivered at once; only `SVMSG` pops, and only a monitor counts. -/
theorem specialRegisterReads : Obligations.SpecialRegisterReads := by
  unfold Obligations.SpecialRegisterReads
  refine ⟨fun p d i s issues => ?csrrd, fun core d s m rest hc hd queue => ?svmsgPop⟩
  case csrrd =>
    intro n r w c top
    have read := csrRead_only s n
    have done : CsrDelivered r (csrIsWide i) (csrRead s n).2 s (csrRead s n).1 (csrrdDone s p d i) := csrDelivered read _ _ _
    have svcs (k : Nat) : svcOf (csrrdDone s p d i) k = svcOf (csrRead s n).1 k := by
      rw [svcOf, ← done.outside]; rfl
    let matrix : Bool := !isService s && (curBlock s).ctx.isSome
    have feat (hn : n = 0x20) : readS (csrrdDone s p d i) r = featWord s (atService s) (isService s) matrix :=
      done.scalar hn (by decide) rfl
    refine ⟨csrrdDone s p d i, exec_csrrd issues, done.now, fun hn => done.scalar hn (by decide) rfl, fun hn => ?mstat,
      fun hn => done.scalar hn (by decide) rfl, fun hn => done.scalar hn (by decide) rfl, fun hn hc => ?warpid,
      fun lo hi down => ?unborn, fun hn up => ?feat, fun hn up => ?cap0, fun hn up => ?cap5, fun lo hi hc => ?vlog,
      fun lo hi hc => ?pmon, fun hn => done.scalar hn (by decide) rfl, fun hn => done.dword hn (by decide) rfl,
      fun hn => done.scalar hn (by decide) rfl, fun hn => done.dword hn (by decide) rfl,
      fun hn => done.scalar hn (by decide) rfl, fun hn queue => ?empty, fun m rest hn queue => ?popped, fun lo hi => ?work,
      fun hn => done.scalar hn (by decide) rfl, fun hn => done.dword hn (by decide) rfl,
      fun hn => done.scalar hn (by decide) rfl, fun m h h' => done.scalars m h (h'.imp_right fun one => ?narrow),
      fun hn k => ?svcs, done.warps, done.warp, fun hn => ?plain, ?rest⟩
    case mstat =>
      rw [done.scalar hn (by decide) (x := readMstat s s.cur) rfl]
      exact readMstat_low s s.cur
    case warpid =>
      rw [done.scalar hn (by decide) (x := warpIdWord s.cur w) rfl]
      exact warpIdWord_tenant hc w
    case unborn =>
      by_cases hn : n = 0x20
      · rw [feat hn]
        exact featWord_down down _ _ _
      · have cap : 0x21 ≤ n ∧ n ≤ 0x28 := by omega
        refine done.scalar (k := n) rfl (by unfold CsrPair; omega) ?_
        rw [csrRead_cap cap, capWord_down down]
    case feat =>
      rw [feat hn]
      obtain ⟨service, scalar, matrixBit, bit1, bit2⟩ := featWord_bits up (atService s) (isService s) matrix
      have tenant : (!isService s) = decide (16 ≤ s.cur) := by
        rw [isService, ← decide_not]
        exact decide_eq_decide.mpr Nat.not_lt
      exact ⟨service, scalar, by rw [matrixBit, ← tenant], bit1, bit2⟩
    case cap0 =>
      rw [done.scalar hn (by decide) (x := capWord s 0) rfl]
      exact capWord_zero up
    case cap5 =>
      rw [done.scalar hn (by decide) (x := capWord s 5) rfl]
      exact capWord_five up
    case vlog =>
      refine done.dword (k := n) rfl (.inl ⟨lo, hi⟩) ?_
      rw [csrRead_vlog ⟨lo, hi⟩, isService, decide_eq_false (by omega)]
      rfl
    case pmon =>
      obtain ⟨held, kept⟩ := readPmon_value (s := s) (n - 0x60) (decide_eq_false (by omega))
      have value : readP (csrrdDone s p d i) r = (readPmon s (n - 0x60)).2 :=
        done.dword (k := n) rfl (.inr (.inl ⟨lo, hi⟩)) (by rw [csrRead_pmon ⟨lo, hi⟩])
      have tenants : tenantOf (csrrdDone s p d i) (curTenant s) = tenantOf (readPmon s (n - 0x60)).1 (curTenant s) := by
        rw [← csrRead_pmon ⟨lo, hi⟩, tenantOf, ← done.outside]; rfl
      rw [value, tenants]
      exact ⟨held, kept⟩
    case empty => exact done.scalar hn (by decide) (by rw [csrRead_msg, popMessage_nil queue])
    case popped =>
      refine ⟨done.scalar hn (by decide) (by rw [csrRead_msg, popMessage_cons queue]), ?_⟩
      rw [svcs, hn, csrRead_msg, popMessage_cons queue]
      exact svcOf_setSvc_same _ _ _
    case work =>
      refine done.scalar (k := n) rfl (by unfold CsrPair; omega) ?_
      rw [csrRead_work ⟨lo, hi⟩]
    case narrow => exact beq_eq_false_iff_ne.mpr one
    case svcs =>
      rw [svcs, svcOf, read.svcs hn]
      rfl
    case plain =>
      have delivered := congrArg (fun x : State => { x with warps := s.warps, svcs := s.svcs, freeCtr := s.freeCtr }) done.outside
      exact delivered.trans (congrArg (fun x : State => { x with warps := s.warps }) (read.plain hn))
    case rest =>
      have delivered := congrArg (fun x : State => { x with
        warps := s.warps, svcs := s.svcs, tenants := s.tenants, freeCtr := s.freeCtr }) done.outside
      exact delivered.trans (congrArg (fun x : State => { x with warps := s.warps }) read.rest)
  case svmsgPop =>
    let popped : State := asWarp (setSvc s core { svcOf s core with msgs := rest }) core 0
    obtain ⟨value, others, warp, outside⟩ := writeS_result popped d m
    refine ⟨_, exec_svmsgPop hc hd queue, value, ?_, others, warp, fun k hk => ⟨outside.others k hk, ?_⟩⟩
    · exact svcOf_setSvc_same _ _ _
    · exact (svcOf_setSvc s core k _).trans (if_neg (Ne.symm hk))

end Sys2Proof.Machine
end

section
/-! SUPPORT. The vector integer, logic and scalar words: their operand forms as the families of the statements, and their lane
functions as the arithmetic of R83 to R85, R87, R88, R110 and R111. -/

namespace Sys2Proof.Machine

/-! ### From the operand forms of the model to the families of the statements -/

theorem VecOp2.of_exec {mk : Option Prefix → BitVec 7 → BitVec 7 → BitVec 7 → Instr} {f : Word → Word → Word}
    (g : Word → Word → Word) (meaning : ∀ p d a b s, exec (mk p d a b) s = vword (mk p d a b) s fun s => vec2 s p d a b g)
    (same : ∀ x y, g x y = f x y) : VecOp2 mk f := by
  obtain rfl : g = f := funext fun x => funext (same x)
  exact fun p d a b s issues => ⟨_, exec_vword issues (meaning p d a b s), putVec_popped issues p d _⟩

theorem VecOp3.of_exec {mk : Option Prefix → BitVec 7 → BitVec 7 → BitVec 7 → Instr} {f : Word → Word → Word → Word}
    (g : Word → Word → Word → Word)
    (meaning : ∀ p d a b s, exec (mk p d a b) s = vword (mk p d a b) s fun s => vec3 s p d a b g)
    (same : ∀ x y z, g x y z = f x y z) : VecOp3 mk f := by
  obtain rfl : g = f := funext fun x => funext fun y => funext (same x y)
  exact fun p d a b s issues => ⟨_, exec_vword issues (meaning p d a b s), putVec_popped issues p d _⟩

theorem VecImm.of_exec {mk : Option Prefix → BitVec 7 → BitVec 7 → BitVec 7 → Instr} {f : Word → BitVec 7 → Word}
    (g : BitVec 7 → Word → Word)
    (meaning : ∀ p d a i s, exec (mk p d a i) s = vword (mk p d a i) s fun s => vec1 s p d a (g i))
    (same : ∀ x i, g i x = f x i) : VecImm mk f := by
  obtain rfl : (fun x i => g i x) = f := funext fun x => funext (same x)
  exact fun p d a i s issues => ⟨_, exec_vword issues (meaning p d a i s), putVec_popped issues p d _⟩

theorem ScaOp2.of_exec {mk : Option Prefix → BitVec 7 → BitVec 7 → BitVec 7 → Instr} {f : Word → Word → Word}
    (g : Word → Word → Word) (meaning : ∀ p d a b s, exec (mk p d a b) s = word (mk p d a b) s fun s => sca2 s p d a b g)
    (same : ∀ x y, g x y = f x y) : ScaOp2 mk f := by
  obtain rfl : g = f := funext fun x => funext (same x)
  exact fun p d a b s issues => ⟨_, (meaning p d a b s).trans (word_next issues _), writeS_result s _ _⟩

theorem ScaImm.of_exec {mk : Option Prefix → BitVec 7 → BitVec 7 → BitVec 7 → Instr} {f : Word → BitVec 7 → Word}
    (g : BitVec 7 → Word → Word)
    (meaning : ∀ p d a i s, exec (mk p d a i) s = word (mk p d a i) s fun s => sca1 s p d a (g i))
    (same : ∀ x i, g i x = f x i) : ScaImm mk f := by
  obtain rfl : (fun x i => g i x) = f := funext fun x => funext (same x)
  exact fun p d a i s issues => ⟨_, (meaning p d a i s).trans (word_next issues _), writeS_result s _ _⟩

theorem PairOp2.of_exec {mk : Option Prefix → BitVec 7 → BitVec 7 → BitVec 7 → Instr} {f : Dword → Dword → Dword}
    (g : Dword → Dword → Dword)
    (meaning : ∀ p d a b s, exec (mk p d a b) s =
      word (mk p d a b) s fun s => writeP s (numD p d) (g (pairA s p a) (pairB s p b)))
    (same : ∀ x y, g x y = f x y) : PairOp2 mk f := by
  obtain rfl : g = f := funext fun x => funext (same x)
  exact fun p d a b s issues => ⟨_, (meaning p d a b s).trans (word_next issues _), writeP_result s _ _⟩

theorem PairImm.of_exec {mk : Option Prefix → BitVec 7 → BitVec 7 → BitVec 7 → Instr} {f : Dword → BitVec 7 → Dword}
    (g : Dword → BitVec 7 → Dword)
    (meaning : ∀ p d a i s, exec (mk p d a i) s = word (mk p d a i) s fun s => writeP s (numD p d) (g (pairA s p a) i))
    (same : ∀ x i, g x i = f x i) : PairImm mk f := by
  obtain rfl : g = f := funext fun x => funext (same x)
  exact fun p d a i s issues => ⟨_, (meaning p d a i s).trans (word_next issues _), writeP_result s _ _⟩

/-- A word without vector sources writes its register under the common frame. -/
theorem exec_word_putVec {i : Instr} {s : State} (issues : Issues i s) (p : Option Prefix) (d : BitVec 7)
    (f : State → Nat → Word) (meaning : exec i s = word i s fun s => putVec s p d (f s))
    (noQueues : ∀ g, form i = some g → queueOpds g = []) : ∃ t, exec i s = .next t ∧ VecResult i p d (f s) s t := by
  have written := word_putVec issues p d (f s) noQueues
  rwa [word_next issues, ← word_next issues fun s => putVec s p d (f s), ← meaning] at written

/-- A word that writes a scalar, whatever it computes from the state. -/
theorem exec_word_writeS {i : Instr} {s : State} (issues : Issues i s) (n : Nat) (v : State → Word)
    (meaning : exec i s = word i s fun s => writeS s n (v s)) : ∃ t, exec i s = .next t ∧ ScalarResult n (v s) s t :=
  ⟨_, meaning.trans (word_next issues _), writeS_result s n (v s)⟩

/-- The same for a pair. -/
theorem exec_word_writeP {i : Instr} {s : State} (issues : Issues i s) (n : Nat) (v : State → Dword)
    (meaning : exec i s = word i s fun s => writeP s n (v s)) : ∃ t, exec i s = .next t ∧ PairResult n (v s) s t :=
  ⟨_, meaning.trans (word_next issues _), writeP_result s n (v s)⟩

/-! ### Sums, differences and products -/

theorem add_eq_ofInt {w : Nat} (x y : BitVec w) : x + y = BitVec.ofInt w (x.toInt + y.toInt) := by
  rw [BitVec.ofInt_add, BitVec.ofInt_toInt, BitVec.ofInt_toInt]

theorem neg_eq_ofInt {w : Nat} (x : BitVec w) : -x = BitVec.ofInt w (-x.toInt) := by
  rw [BitVec.ofInt_neg, BitVec.ofInt_toInt]

theorem sub_eq_ofInt {w : Nat} (x y : BitVec w) : x - y = BitVec.ofInt w (x.toInt - y.toInt) := by
  rw [Int.sub_eq_add_neg, BitVec.ofInt_add, BitVec.ofInt_neg, BitVec.ofInt_toInt, BitVec.ofInt_toInt, BitVec.sub_eq_add_neg]

theorem mul_eq_ofInt {w : Nat} (x y : BitVec w) : x * y = BitVec.ofInt w (x.toInt * y.toInt) := by
  rw [BitVec.ofInt_mul, BitVec.ofInt_toInt, BitVec.ofInt_toInt]

theorem mul_add_eq_ofInt (x y z : Word) : x * y + z = BitVec.ofInt 32 (x.toInt * y.toInt + z.toInt) := by
  rw [BitVec.ofInt_add, ← mul_eq_ofInt, BitVec.ofInt_toInt]

/-! An immediate has its signed value at every width (R30). -/

theorem add_signExtend {w : Nat} (x : BitVec w) (i : BitVec 7) :
    x + i.signExtend w = BitVec.ofInt w (x.toInt + i.toInt) := by
  rw [BitVec.ofInt_add, BitVec.ofInt_toInt]; rfl

theorem mul_sext7 (x : Word) (i : BitVec 7) : x * sext7 i = BitVec.ofInt 32 (x.toInt * i.toInt) := by
  rw [BitVec.ofInt_mul, BitVec.ofInt_toInt]; rfl

/-- An immediate of 14 bits below a shifted word (R88). -/
theorem hi14_eq (x : Word) (i : BitVec 14) : hi14 x i = BitVec.ofNat 32 (x.toNat * 2 ^ 14 + i.toNat) := by
  have disjoint : (x <<< 14 &&& i.setWidth 32) = 0 := by
    ext k hk
    simp only [BitVec.getElem_and, BitVec.getElem_shiftLeft, BitVec.getElem_setWidth]
    by_cases h : k < 14
    · simp [h]
    · simp [BitVec.getLsbD_of_ge i k (by omega)]
  have sum : hi14 x i = x <<< 14 + i.setWidth 32 := (BitVec.add_eq_or_of_and_eq_zero _ _ disjoint).symm
  apply BitVec.eq_of_toNat_eq
  rw [sum, BitVec.toNat_add, BitVec.toNat_shiftLeft, BitVec.toNat_setWidth, BitVec.toNat_ofNat, Nat.shiftLeft_eq]
  omega

/-! ### Extremes and saturation (R83) -/

theorem smin32_eq (x y : Word) : smin32 x y = BitVec.ofInt 32 (min x.toInt y.toInt) := by
  rw [← toInt_smin32, BitVec.ofInt_toInt]

theorem smax32_eq (x y : Word) : smax32 x y = BitVec.ofInt 32 (max x.toInt y.toInt) := by
  rw [← toInt_smax32, BitVec.ofInt_toInt]

theorem umin32_eq (x y : Word) : umin32 x y = BitVec.ofNat 32 (min x.toNat y.toNat) := by
  have less : x.ult y = true ↔ x.toNat < y.toNat := decide_eq_true_iff
  rw [umin32]
  split
  · rw [Nat.min_eq_left (less.mp ‹_›).le, BitVec.ofNat_toNat, BitVec.setWidth_eq]
  · rw [Nat.min_eq_right (not_lt.mp (mt less.mpr ‹_›)), BitVec.ofNat_toNat, BitVec.setWidth_eq]

theorem umax32_eq (x y : Word) : umax32 x y = BitVec.ofNat 32 (max x.toNat y.toNat) := by
  have less : x.ult y = true ↔ x.toNat < y.toNat := decide_eq_true_iff
  rw [umax32]
  split
  · rw [Nat.max_eq_right (less.mp ‹_›).le, BitVec.ofNat_toNat, BitVec.setWidth_eq]
  · rw [Nat.max_eq_left (not_lt.mp (mt less.mpr ‹_›)), BitVec.ofNat_toNat, BitVec.setWidth_eq]

/-- The sign bit decides whether the value is negated. -/
theorem abs_eq (x : Word) : (if x.msb then -x else x) = BitVec.ofInt 32 |x.toInt| := by
  have negative : x.msb = decide (x.toInt < 0) := BitVec.msb_eq_toInt
  rw [negative]
  by_cases h : x.toInt < 0
  · rw [decide_eq_true h, if_pos rfl, abs_of_neg h, neg_eq_ofInt]
  · rw [decide_eq_false h, if_neg Bool.false_ne_true, abs_of_nonneg (by omega), BitVec.ofInt_toInt]

theorem usat32_add (x y : Word) : usat32 (x.toNat + y.toNat : Int) = BitVec.ofNat 32 (min (2 ^ 32 - 1) (x.toNat + y.toNat)) := by
  rw [usat32, show max 0 (min 4294967295 (x.toNat + y.toNat : Int)) = ((min (2 ^ 32 - 1) (x.toNat + y.toNat) : Nat) : Int) by
    omega, BitVec.ofInt_natCast]

theorem usat32_sub (x y : Word) : usat32 (x.toNat - y.toNat : Int) = BitVec.ofNat 32 (x.toNat - y.toNat) := by
  have hx := x.isLt
  rw [usat32, show max 0 (min 4294967295 (x.toNat - y.toNat : Int)) = ((x.toNat - y.toNat : Nat) : Int) by omega,
    BitVec.ofInt_natCast]

/-! ### Shifts and rotations (R84) -/

theorem shl_eq {w : Nat} (x : BitVec w) (n : Nat) : x <<< n = if w ≤ n then 0 else BitVec.ofNat w (x.toNat * 2 ^ n) := by
  split
  · exact BitVec.shiftLeft_eq_zero ‹_›
  · exact BitVec.eq_of_toNat_eq (by rw [BitVec.toNat_shiftLeft, BitVec.toNat_ofNat, Nat.shiftLeft_eq])

theorem shr_eq (x : Word) (n : Nat) : shr32 x n = if 32 ≤ n then 0 else BitVec.ofNat 32 (x.toNat / 2 ^ n) := by
  unfold shr32
  split
  · exact BitVec.ushiftRight_eq_zero ‹_›
  · rw [← Nat.shiftRight_eq_div_pow, ← BitVec.toNat_ushiftRight, BitVec.ofNat_toNat, BitVec.setWidth_eq]

/-- From 32 places on, an arithmetic shift leaves copies of the sign bit. -/
theorem sra_eq (x : Word) (n : Nat) : sra32 x n =
    if 32 ≤ n then (if x.msb then 0xFFFFFFFF else 0) else BitVec.ofInt 32 (x.toInt / 2 ^ n) := by
  unfold sra32
  split
  · cases sign : x.msb with
    | false => rw [BitVec.sshiftRight_eq_of_msb_false sign, BitVec.ushiftRight_eq_zero ‹_›]; rfl
    | true => rw [BitVec.sshiftRight_eq_of_msb_true sign, BitVec.ushiftRight_eq_zero ‹_›]; rfl
  · rw [← BitVec.ofInt_toInt (x := x.sshiftRight n), BitVec.toInt_sshiftRight, Int.shiftRight_eq_div_pow]
    norm_cast

/-- The bits that a rotation moves past the top come in below. -/
theorem rol_eq (x : Word) (n : Nat) :
    rol32 x n = BitVec.ofNat 32 (x.toNat * 2 ^ (n % 32) + x.toNat / 2 ^ (32 - n % 32)) := by
  have fits : x.toNat / 2 ^ (32 - n % 32) < 2 ^ (n % 32) := by
    rw [Nat.div_lt_iff_lt_mul (Nat.two_pow_pos _), ← Nat.pow_add, Nat.add_sub_cancel' (Nat.mod_lt n (by decide)).le]
    exact x.isLt
  apply BitVec.eq_of_toNat_eq
  rw [rol32, BitVec.toNat_rotateLeft, Nat.mod_mod, BitVec.toNat_ofNat, ← Nat.shiftLeft_eq, Nat.shiftRight_eq_div_pow,
    Nat.shiftLeft_add_eq_or_of_lt fits, Nat.or_mod_two_pow,
    Nat.mod_eq_of_lt (Nat.lt_of_le_of_lt (Nat.div_le_self _ _) x.isLt)]

/-- The count of a shift is the low byte of its operand (R84). -/
theorem shiftCount_eq (y : Word) : shiftCount y = y.toNat % 256 := by
  rw [shiftCount, BitVec.extractLsb'_toNat, Nat.shiftRight_zero]

theorem shl_count (x y : Word) : shl32 x (shiftCount y) =
    if 32 ≤ y.toNat % 256 then 0 else BitVec.ofNat 32 (x.toNat * 2 ^ (y.toNat % 256)) := by
  rw [← shiftCount_eq]; exact shl_eq x _

theorem shr_count (x y : Word) : shr32 x (shiftCount y) =
    if 32 ≤ y.toNat % 256 then 0 else BitVec.ofNat 32 (x.toNat / 2 ^ (y.toNat % 256)) := by
  rw [← shiftCount_eq]; exact shr_eq x _

theorem sra_count (x y : Word) : sra32 x (shiftCount y) =
    if 32 ≤ y.toNat % 256 then (if x.msb then 0xFFFFFFFF else 0) else BitVec.ofInt 32 (x.toInt / 2 ^ (y.toNat % 256)) := by
  rw [← shiftCount_eq]; exact sra_eq x _

theorem rol_count (x y : Word) : rol32 x (shiftCount y) =
    BitVec.ofNat 32 (x.toNat * 2 ^ (y.toNat % 32) + x.toNat / 2 ^ (32 - y.toNat % 32)) := by
  rw [rol_eq, shiftCount_eq, Nat.mod_mod_of_dvd _ (by decide)]

/-! ### Bits and bit fields (R85) -/

theorem popCount_eq {w : Nat} (x : BitVec w) : popCount x = ((List.range w).filter fun i => x.getLsbD i).length :=
  List.countP_eq_length_filter

/-- The leading zeros of a nonzero word stand above its highest one. -/
theorem clz_eq (x : Word) : x.clz = if x = 0 then 32 else BitVec.ofNat 32 (31 - Nat.log2 x.toNat) := by
  split
  · exact BitVec.clz_eq_iff_eq_zero.mpr ‹_›
  · have nonzero : x ≠ 0#32 := ‹_›
    have small : x.clz < 32#32 := BitVec.clz_lt_iff_ne_zero.mpr nonzero
    have high := BitVec.two_pow_sub_clz_le_toNat_of_ne_zero (by decide) nonzero
    have low := BitVec.toNat_lt_two_pow_sub_clz (x := x)
    have range : x.clz.toNat < 32 := small
    have top : Nat.log2 x.toNat = 31 - x.clz.toNat := by
      rw [Nat.log2_eq_iff fun h => nonzero (BitVec.eq_of_toNat_eq h), show 31 - x.clz.toNat + 1 = 32 - x.clz.toNat by omega]
      exact ⟨high, low⟩
    rw [top, show 31 - (31 - x.clz.toNat) = x.clz.toNat by omega, BitVec.ofNat_toNat, BitVec.setWidth_eq]

theorem bfPos_eq (b : Word) : bfPos b = b.toNat % 32 := by
  rw [bfPos, BitVec.extractLsb'_toNat, Nat.shiftRight_zero]

theorem bfLen_eq (b : Word) : bfLen b = min (b.toNat / 256 % 64) (32 - b.toNat % 32) := by
  rw [bfLen, bfPos_eq, BitVec.extractLsb'_toNat, Nat.shiftRight_eq_div_pow]

theorem bfLen_le (b : Word) : bfPos b + bfLen b ≤ 32 := by
  rw [bfLen_eq, bfPos_eq]; omega

theorem getLsbD_lowOnes {n : Nat} (hn : n ≤ 32) (k : Nat) : (lowOnes n).getLsbD k = decide (k < n) := by
  rw [lowOnes, BitVec.getLsbD_ofNat, Nat.testBit_two_pow_sub_one, ← Bool.decide_and, decide_eq_decide]
  omega

/-- An extracted field is the quotient at its position, cut to its length. -/
theorem bfExtract_eq (x b : Word) : bfExtract x b = BitVec.ofNat 32 (x.toNat / 2 ^ bfPos b % 2 ^ bfLen b) := by
  ext k hk
  have len : bfLen b ≤ 32 := (Nat.le_add_left _ _).trans (bfLen_le b)
  rw [← BitVec.getLsbD_eq_getElem, ← BitVec.getLsbD_eq_getElem, bfExtract, BitVec.getLsbD_and, getLsbD_lowOnes len, BitVec.getLsbD_ofNat,
    Nat.testBit_mod_two_pow, Nat.testBit_div_two_pow, BitVec.getLsbD_ushiftRight, BitVec.getLsbD, Nat.add_comm k]
  simp [hk, Bool.and_comm]

/-- A number with the field of `n` bits at `p` replaced, in its three parts. -/
theorem replaced_field (c x p n : Nat) :
    c - c / 2 ^ p % 2 ^ n * 2 ^ p + x % 2 ^ n * 2 ^ p = 2 ^ p * (2 ^ n * (c / 2 ^ p / 2 ^ n) + x % 2 ^ n) + c % 2 ^ p := by
  have whole := Nat.div_add_mod c (2 ^ p)
  have upper := Nat.div_add_mod (c / 2 ^ p) (2 ^ n)
  have split : c = 2 ^ p * (2 ^ n * (c / 2 ^ p / 2 ^ n)) + c / 2 ^ p % 2 ^ n * 2 ^ p + c % 2 ^ p := by
    rw [Nat.mul_comm (c / 2 ^ p % 2 ^ n), ← Nat.mul_add, upper, whole]
  rw [Nat.mul_add, Nat.mul_comm (2 ^ p) (x % 2 ^ n)]
  omega

/-- An inserted field replaces the bits at its position. -/
theorem bfInsert_eq (x b c : Word) : bfInsert x b c = BitVec.ofNat 32
    (c.toNat - c.toNat / 2 ^ bfPos b % 2 ^ bfLen b * 2 ^ bfPos b + x.toNat % 2 ^ bfLen b * 2 ^ bfPos b) := by
  ext k hk
  have len : bfLen b ≤ 32 := (Nat.le_add_left _ _).trans (bfLen_le b)
  rw [replaced_field, ← BitVec.getLsbD_eq_getElem, ← BitVec.getLsbD_eq_getElem, BitVec.getLsbD_ofNat,
    Nat.testBit_two_pow_mul_add _ (Nat.mod_lt _ (Nat.two_pow_pos _)), bfInsert]
  simp only [BitVec.getLsbD_or, BitVec.getLsbD_and, BitVec.getLsbD_not, BitVec.getLsbD_shiftLeft, getLsbD_lowOnes len, hk,
    decide_true, Bool.true_and]
  by_cases below : k < bfPos b
  · simp [below, BitVec.getLsbD]
  · rw [if_neg below, Nat.testBit_two_pow_mul_add _ (Nat.mod_lt _ (Nat.two_pow_pos _))]
    by_cases inside : k - bfPos b < bfLen b
    · simp [below, inside, BitVec.getLsbD]
    · rw [if_neg inside, Nat.testBit_div_two_pow, Nat.testBit_div_two_pow,
        show k - bfPos b - bfLen b + bfLen b + bfPos b = k by omega]
      simp [below, inside, BitVec.getLsbD]

/-! ### Conditions as words (R110) -/

theorem bit32_slt (x y : Word) : bit32 (x.slt y) = if x.toInt < y.toInt then 1 else 0 := by
  simp [bit32, BitVec.slt]

theorem bit32_ult (x y : Word) : bit32 (x.ult y) = if x.toNat < y.toNat then 1 else 0 := by
  simp [bit32, BitVec.ult]

theorem bit32_beq (x y : Word) : bit32 (x == y) = if x = y then 1 else 0 := by
  simp [bit32]

/-! ### Ill-formed pairs (R32, R49) -/

/-- A word with operands is judged by its form, then by its own rule. -/
theorem illegal_of_form {i : Instr} {f : Form} (hf : form i = some f) : illegal i = (formWhy f).or (ownRule i) := by
  unfold illegal
  split
  · cases hf
  · rw [hf]

/-- Any breach of a field rule makes the form illegal. -/
theorem formWhy_isSome {f : Form} {y : Why} (breach : y ∈ formWhys f) : (formWhy f).isSome = true := by
  obtain ⟨first, others, parts⟩ := List.exists_cons_of_ne_nil (List.ne_nil_of_mem breach)
  rw [formWhy, Option.isSome_or, parts]
  exact Bool.or_true _

/-- A destination pair starts at an even scalar. -/
theorem wf_odd_pair {i : Instr} {f : Form} (hf : form i = some f) {n : BitVec 7} (pair : f.d = .pair n)
    (odd : fieldNumber n (effPrefix f).dh % 2 = 1) : Instr.wf i = false := by
  obtain ⟨y, breach⟩ : ∃ y, opdWhy f.d (effPrefix f).dh false = some y := by
    rw [pair, ← Option.isSome_iff_exists]
    simp [opdWhy, scalarWhy, ifWhy, odd]
  have listed : y ∈ formWhys f := by
    rw [formWhys, List.mem_filterMap]
    exact ⟨some y, by simp [breach], rfl⟩
  rw [Instr.wf, illegal_of_form hf, Option.isNone_or, ← Option.not_isSome, formWhy_isSome listed]
  rfl

/-! ### The statements -/

/-- Settles O11: each shift word is its operand form with the shift of R84. -/
theorem shiftRule : Obligations.ShiftRule := by
  unfold Obligations.ShiftRule
  intro left right arith rot count
  refine ⟨?shl, ?shli, ?shr, ?shri, ?sra, ?srai, ?rol, ?roli, ?sshl, ?sshli, ?sshr, ?sshri, ?ssra⟩
  case shl => exact .of_exec _ (fun _ _ _ _ _ => rfl) fun x _ => shl_eq x _
  case shli => exact .of_exec _ (fun _ _ _ _ _ => rfl) fun x _ => shl_eq x _
  case shr => exact .of_exec _ (fun _ _ _ _ _ => rfl) fun x _ => shr_eq x _
  case shri => exact .of_exec _ (fun _ _ _ _ _ => rfl) fun x _ => shr_eq x _
  case sra => exact .of_exec _ (fun _ _ _ _ _ => rfl) fun x _ => sra_eq x _
  case srai => exact .of_exec _ (fun _ _ _ _ _ => rfl) fun x _ => sra_eq x _
  case rol => exact .of_exec _ (fun _ _ _ _ _ => rfl) fun x _ => rol_eq x _
  case roli => exact .of_exec _ (fun _ _ _ _ _ => rfl) fun x _ => rol_eq x _
  case sshl => exact .of_exec _ (fun _ _ _ _ _ => rfl) fun x _ => shl_eq x _
  case sshli => exact .of_exec _ (fun _ _ _ _ _ => rfl) fun x _ => shl_eq x _
  case sshr => exact .of_exec _ (fun _ _ _ _ _ => rfl) fun x _ => shr_eq x _
  case sshri => exact .of_exec _ (fun _ _ _ _ _ => rfl) fun x _ => shr_eq x _
  case ssra => exact .of_exec _ (fun _ _ _ _ _ => rfl) fun x _ => sra_eq x _

/-- Settles O1: each word is its operand form with the lane function of R83, R87 or R88. -/
theorem vectorIntegerResults : Obligations.VectorIntegerResults := by
  unfold Obligations.VectorIntegerResults
  refine ⟨⟨?iadd, ?isub, ?imul, ?imulh, ?umulh, ?imin, ?imax, ?umin, ?umax, ?iabs, ?ineg, ?iadds, ?isubs, ?uadds, ?usubs, ?imad⟩,
    ?iaddi, ?shli, ?shri, ?srai, ?andi, ?ori, ?xori, ?roli, ?imuli, fun p d i s issues => ?movi, fun p d i s issues => ?movhi,
    fun p d s issues => ?laneid, fun p d i s issues => ?smovi, fun p d i s issues => ?smovhi⟩
  case iadd => exact .of_exec _ (fun _ _ _ _ _ => rfl) add_eq_ofInt
  case isub => exact .of_exec _ (fun _ _ _ _ _ => rfl) sub_eq_ofInt
  case imul => exact .of_exec _ (fun _ _ _ _ _ => rfl) mul_eq_ofInt
  case imulh => exact .of_exec mulHigh (fun _ _ _ _ _ => rfl) fun _ _ => rfl
  case umulh => exact .of_exec umulHigh (fun _ _ _ _ _ => rfl) fun _ _ => rfl
  case imin => exact .of_exec _ (fun _ _ _ _ _ => rfl) smin32_eq
  case imax => exact .of_exec _ (fun _ _ _ _ _ => rfl) smax32_eq
  case umin => exact .of_exec _ (fun _ _ _ _ _ => rfl) umin32_eq
  case umax => exact .of_exec _ (fun _ _ _ _ _ => rfl) umax32_eq
  case iabs => exact .of_exec _ (fun _ _ _ _ => rfl) abs_eq
  case ineg => exact .of_exec _ (fun _ _ _ _ => rfl) neg_eq_ofInt
  case iadds => exact .of_exec _ (fun _ _ _ _ _ => rfl) fun _ _ => rfl
  case isubs => exact .of_exec _ (fun _ _ _ _ _ => rfl) fun _ _ => rfl
  case uadds => exact .of_exec _ (fun _ _ _ _ _ => rfl) usat32_add
  case usubs => exact .of_exec _ (fun _ _ _ _ _ => rfl) usat32_sub
  case imad => exact .of_exec _ (fun _ _ _ _ _ => rfl) mul_add_eq_ofInt
  case iaddi => exact .of_exec _ (fun _ _ _ _ _ => rfl) add_signExtend
  case shli => exact .of_exec _ (fun _ _ _ _ _ => rfl) fun x _ => shl_eq x _
  case shri => exact .of_exec _ (fun _ _ _ _ _ => rfl) fun x _ => shr_eq x _
  case srai => exact .of_exec _ (fun _ _ _ _ _ => rfl) fun x _ => sra_eq x _
  case andi => exact .of_exec _ (fun _ _ _ _ _ => rfl) fun _ _ => rfl
  case ori => exact .of_exec _ (fun _ _ _ _ _ => rfl) fun _ _ => rfl
  case xori => exact .of_exec _ (fun _ _ _ _ _ => rfl) fun _ _ => rfl
  case roli => exact .of_exec _ (fun _ _ _ _ _ => rfl) fun x _ => rol_eq x _
  case imuli => exact .of_exec _ (fun _ _ _ _ _ => rfl) mul_sext7
  case movi => exact exec_word_putVec issues p d (fun _ _ => sext14 i) rfl (by rintro _ ⟨⟩; cases p <;> rfl)
  case movhi =>
    have written := exec_word_putVec issues p d (fun s l => hi14 (readV s (regD s p d) l) i) rfl
      (by rintro _ ⟨⟩; cases p <;> rfl)
    simpa only [hi14_eq] using written
  case laneid => exact exec_word_putVec issues p d (fun _ l => BitVec.ofNat 32 l) rfl (by rintro _ ⟨⟩; cases p <;> rfl)
  case smovi => exact exec_word_writeS issues _ (fun _ => sext14 i) rfl
  case smovhi => rw [← hi14_eq]; exact exec_word_writeS issues _ (fun s => hi14 (readS s (numD p d)) i) rfl

/-- Settles O2: each word is its operand form with the function of R84 and R85. -/
theorem vectorLogicResults : Obligations.VectorLogicResults := by
  unfold Obligations.VectorLogicResults
  refine ⟨?and, ?or, ?xor, ?andn, ?not, ?shl, ?shr, ?sra, ?rol, ?popc, ?clz, ?brev, ?bfe, ?bfi, ?mov⟩
  case and => exact .of_exec _ (fun _ _ _ _ _ => rfl) fun _ _ => rfl
  case or => exact .of_exec _ (fun _ _ _ _ _ => rfl) fun _ _ => rfl
  case xor => exact .of_exec _ (fun _ _ _ _ _ => rfl) fun _ _ => rfl
  case andn => exact .of_exec _ (fun _ _ _ _ _ => rfl) fun _ _ => rfl
  case not => exact .of_exec _ (fun _ _ _ _ => rfl) fun _ => rfl
  case shl => exact .of_exec _ (fun _ _ _ _ _ => rfl) shl_count
  case shr => exact .of_exec _ (fun _ _ _ _ _ => rfl) shr_count
  case sra => exact .of_exec _ (fun _ _ _ _ _ => rfl) sra_count
  case rol => exact .of_exec _ (fun _ _ _ _ _ => rfl) rol_count
  case popc => exact .of_exec _ (fun _ _ _ _ => rfl) fun x => congrArg _ (popCount_eq x)
  case clz => exact .of_exec _ (fun _ _ _ _ => rfl) clz_eq
  case brev => exact .of_exec _ (fun _ _ _ _ => rfl) fun _ => rfl
  case bfe =>
    exact .of_exec _ (fun _ _ _ _ _ => rfl) fun x y => by rw [bfExtract_eq, bfLen_eq, bfPos_eq]
  case bfi =>
    exact .of_exec _ (fun _ _ _ _ _ => rfl) fun x y z => by rw [bfInsert_eq, bfLen_eq, bfPos_eq]
  case mov => exact .of_exec _ (fun _ _ _ _ => rfl) fun _ => rfl

/-- Settles O4: each word writes its scalar or pair once, whatever `EXEC` holds. -/
theorem scalarResults : Obligations.ScalarResults := by
  unfold Obligations.ScalarResults
  refine ⟨?sadd, ?ssub, ?smul, ?sand, ?sor, ?sxor, ?sshl, ?sshr, ?ssra, ?smin, ?smax, ?sslt, ?ssltu, ?sseq,
    fun p d a s issues => ?smov, fun p d a s issues => ?s2v, ?saddi, ?sshli, ?sshri, ?sandi, ?sori, ?saddi64, ?sadd64, ?ssub64,
    ?sshli64, fun p d a s issues => ?smov64, fun p d a i b odd => ?oddPair⟩
  case sadd => exact .of_exec _ (fun _ _ _ _ _ => rfl) add_eq_ofInt
  case ssub => exact .of_exec _ (fun _ _ _ _ _ => rfl) sub_eq_ofInt
  case smul => exact .of_exec _ (fun _ _ _ _ _ => rfl) mul_eq_ofInt
  case sand => exact .of_exec _ (fun _ _ _ _ _ => rfl) fun _ _ => rfl
  case sor => exact .of_exec _ (fun _ _ _ _ _ => rfl) fun _ _ => rfl
  case sxor => exact .of_exec _ (fun _ _ _ _ _ => rfl) fun _ _ => rfl
  case sshl => exact .of_exec _ (fun _ _ _ _ _ => rfl) shl_count
  case sshr => exact .of_exec _ (fun _ _ _ _ _ => rfl) shr_count
  case ssra => exact .of_exec _ (fun _ _ _ _ _ => rfl) sra_count
  case smin => exact .of_exec _ (fun _ _ _ _ _ => rfl) smin32_eq
  case smax => exact .of_exec _ (fun _ _ _ _ _ => rfl) smax32_eq
  case sslt => exact .of_exec _ (fun _ _ _ _ _ => rfl) bit32_slt
  case ssltu => exact .of_exec _ (fun _ _ _ _ _ => rfl) bit32_ult
  case sseq => exact .of_exec _ (fun _ _ _ _ _ => rfl) bit32_beq
  case smov => exact exec_word_writeS issues _ (fun s => scaA s p a) rfl
  case s2v => exact exec_word_putVec issues p d (fun s _ => scaA s p a) rfl (by rintro _ ⟨⟩; cases p <;> rfl)
  case saddi => exact .of_exec _ (fun _ _ _ _ _ => rfl) add_signExtend
  case sshli => exact .of_exec _ (fun _ _ _ _ _ => rfl) fun x _ => shl_eq x _
  case sshri => exact .of_exec _ (fun _ _ _ _ _ => rfl) fun x _ => shr_eq x _
  case sandi => exact .of_exec _ (fun _ _ _ _ _ => rfl) fun _ _ => rfl
  case sori => exact .of_exec _ (fun _ _ _ _ _ => rfl) fun _ _ => rfl
  case saddi64 => exact .of_exec (fun x i => x + i.signExtend 64) (fun _ _ _ _ _ => rfl) add_signExtend
  case sadd64 => exact .of_exec (fun x y => x + y) (fun _ _ _ _ _ => rfl) add_eq_ofInt
  case ssub64 => exact .of_exec (fun x y => x - y) (fun _ _ _ _ _ => rfl) sub_eq_ofInt
  case sshli64 => exact .of_exec (fun x i => x <<< i.toNat) (fun _ _ _ _ _ => rfl) fun x _ => shl_eq x _
  case smov64 => exact exec_word_writeP issues _ (fun s => pairA s p a) rfl
  case oddPair =>
    refine ⟨?_, ?_, ?_, ?_, ?_⟩
    all_goals exact wf_odd_pair rfl rfl odd

end Sys2Proof.Machine
end

section
/-! SUPPORT. Masks: the words that write them (R89 to R93), and the selection that they govern (R86). -/

namespace Sys2Proof.Machine

/-! ### What a word that issues obeys (R49) -/

section
variable {i : Instr} {s : State} (issues : Issues i s)
include issues

theorem Issues.legal : illegal i = none := by
  have passed := issues.1
  unfold issueFault wordFault at passed
  split at passed
  · cases passed
  · assumption

/-- Its form breaks no field rule. -/
theorem Issues.formWhys_eq_nil {f : Form} (hf : form i = some f) : formWhys f = [] := by
  have legal := issues.legal
  rw [illegal_of_form hf, Option.or_eq_none_iff] at legal
  obtain ⟨none, -⟩ := legal
  by_contra breaches
  obtain ⟨y, breach⟩ := List.exists_mem_of_ne_nil _ breaches
  have some := formWhy_isSome breach
  rw [none] at some
  cases some

/-- It zeroes lanes only where its form accepts that (R46). -/
theorem Issues.zeroes_nothing {f : Form} (hf : form i = some f) (never : f.zeroes = false) : (effPrefix f).z = false := by
  by_contra zeroes
  obtain ⟨y, breach⟩ : ∃ y, prefixWhy f (effPrefix f) = some y := by
    rw [← Option.isSome_iff_exists]
    simp [prefixWhy, ifWhy, never, zeroes]
  have listed : y ∈ formWhys f := by
    rw [formWhys, List.mem_filterMap]
    exact ⟨some y, by simp [breach], rfl⟩
  rw [issues.formWhys_eq_nil hf] at listed
  cases listed

end

/-! ### Masks bit by bit (R91) -/

theorem getLsbD_widthMask (w : Warp) (l : Nat) : (widthMask w).getLsbD l = (decide (l < w.width) && decide (l < 64)) := by
  rw [widthMask, BitVec.getLsbD_ofNat, Nat.testBit_two_pow_sub_one, Bool.and_comm]

/-- A mask holds nothing at or above the width. -/
theorem readK_and_widthMask (s : State) (n : Nat) : readK s n &&& widthMask (curWarp s) = readK s n := by
  unfold readK
  split
  · exact BitVec.and_self
  · rw [BitVec.and_assoc, BitVec.and_self]

theorem getLsbD_readK_and_widthMask (s : State) (n l : Nat) :
    ((readK s n).getLsbD l && (widthMask (curWarp s)).getLsbD l) = (readK s n).getLsbD l := by
  rw [← BitVec.getLsbD_and, readK_and_widthMask]

theorem getLsbD_readK_zero {s : State} (fits : (curWarp s).width ≤ 64) (l : Nat) :
    (readK s 0).getLsbD l = decide (l < (curWarp s).width) := by
  rw [readK, if_pos rfl, getLsbD_widthMask, ← Bool.decide_and, decide_eq_decide]
  omega

theorem getLsbD_readK_above (s : State) (n : Nat) {l : Nat} (above : (curWarp s).width ≤ l) :
    (readK s n).getLsbD l = false := by
  rw [← readK_and_widthMask, BitVec.getLsbD_and, getLsbD_widthMask, decide_eq_false (Nat.not_lt.mpr above)]
  simp

/-- The bits that a predicate sets in a list of lanes. -/
theorem getLsbD_foldl_lanes (f : Nat → Bool) (ls : List Nat) (m : Dword) (l : Nat) :
    (ls.foldl (fun m l => if f l then m ||| BitVec.twoPow 64 l else m) m).getLsbD l =
      (m.getLsbD l || (decide (l ∈ ls) && decide (l < 64) && f l)) := by
  induction ls generalizing m with
  | nil => simp
  | cons k ls ih =>
    have step : (if f k then m ||| BitVec.twoPow 64 k else m).getLsbD l =
        (m.getLsbD l || (decide (l = k) && decide (l < 64) && f l)) := by
      by_cases here : l = k
      · subst here
        cases f l <;> simp [BitVec.getLsbD_twoPow]
      · cases f k <;> simp [here, Ne.symm here, BitVec.getLsbD_twoPow]
    rw [List.foldl_cons, ih, step, Bool.or_assoc, ← Bool.and_or_distrib_right, ← Bool.and_or_distrib_right, ← Bool.decide_or]
    simp only [List.mem_cons]

theorem getLsbD_maskOf (w : Warp) (f : Nat → Bool) (l : Nat) :
    (maskOf w f).getLsbD l = (decide (l < w.width) && decide (l < 64) && f l) := by
  rw [maskOf, getLsbD_foldl_lanes]
  simp [lanesOf]

/-! ### Writes of masks -/

theorem writeK_warp (s : State) (n : Nat) (v : Dword) : ∃ m, curWarp (writeK s n v) = { curWarp s with masks := m } := by
  unfold writeK
  split
  · exact ⟨_, rfl⟩
  · exact ⟨_, curWarp_setCur _ _⟩

theorem writeK_outside (s : State) (n : Nat) (v : Dword) : OnlyWarp s (writeK s n v) := by
  unfold writeK
  split
  · exact .refl s
  · exact onlyWarp_setCur _ _

/-- Bit `l` of the mask that is written: `k0` keeps its ones, and no bit stands above the width. -/
theorem getLsbD_readK_writeK {s : State} {n : Nat} (nonzero : n ≠ 0) (v : Dword) (l : Nat) :
    (readK (writeK s n v) n).getLsbD l = (v.getLsbD l && (widthMask (curWarp s)).getLsbD l) := by
  rw [readK_writeK, if_pos ⟨rfl, nonzero⟩, BitVec.getLsbD_and]

theorem readK_writeK_ne {s : State} {n m : Nat} (other : m ≠ n) (v : Dword) : readK (writeK s n v) m = readK s m := by
  rw [readK_writeK, if_neg fun h => other h.1.symm]

/-- A mask word writes the bits of the lanes of `EXEC` (R92). -/
theorem kput_result (s : State) (d : BitVec 3) {v : Dword} {f : Nat → Bool}
    (bits : ∀ l, l < (curWarp s).width → l < 64 → v.getLsbD l = f l) :
    MaskResult d.toNat (fun l => (execMask s).getLsbD l = true) f s (kput s d v) := by
  obtain ⟨m, warp⟩ := writeK_warp s d.toNat ((v &&& execMask s) ||| (readK s d.toNat &&& ~~~ execMask s))
  have below {l : Nat} (on : (execMask s).getLsbD l = true) : l < 64 := BitVec.lt_of_getLsbD on
  unfold kput putMask
  refine ⟨⟨fun l hl nonzero on => ?written, fun l off => ?kept, fun m other => readK_writeK_ne other _⟩, by rw [warp],
    writeK_outside _ _ _⟩
  case written =>
    rw [getLsbD_readK_writeK nonzero, getLsbD_widthMask, BitVec.getLsbD_or, BitVec.getLsbD_and, BitVec.getLsbD_and,
      BitVec.getLsbD_not, on, bits l hl (below on)]
    simp [hl, below on]
  case kept =>
    by_cases zero : d.toNat = 0
    · rw [zero]; rfl
    · have out : (execMask s).getLsbD l = false := by simpa [zero] using off
      rw [getLsbD_readK_writeK zero, BitVec.getLsbD_or, BitVec.getLsbD_and, BitVec.getLsbD_and, BitVec.getLsbD_not, out,
        Bool.and_false, Bool.false_or, Bool.not_false, Bool.and_true]
      by_cases hl : l < 64
      · rw [decide_eq_true hl, Bool.and_true, getLsbD_readK_and_widthMask]
      · simp [BitVec.getLsbD_of_ge _ l (Nat.not_lt.mp hl)]

/-- A word that does so, whatever it computes from the state. -/
theorem exec_word_kput {i : Instr} {s : State} (issues : Issues i s) (d : BitVec 3) (v : State → Dword) {f : Nat → Bool}
    (meaning : exec i s = word i s fun s => kput s d (v s))
    (bits : ∀ l, l < (curWarp s).width → l < 64 → (v s).getLsbD l = f l) :
    ∃ t, exec i s = .next t ∧ MaskResult d.toNat (fun l => (execMask s).getLsbD l = true) f s t :=
  ⟨_, meaning.trans (word_next issues _), kput_result s d bits⟩

theorem MaskOp2.of_exec {mk : Option Prefix → BitVec 3 → BitVec 3 → BitVec 3 → Instr} {f : Bool → Bool → Bool}
    (g : Dword → Dword → Dword)
    (meaning : ∀ p d a b s, exec (mk p d a b) s = word (mk p d a b) s fun s => kput s d (g (readK s a.toNat) (readK s b.toNat)))
    (bits : ∀ x y l, l < 64 → (g x y).getLsbD l = f (x.getLsbD l) (y.getLsbD l)) : MaskOp2 mk f :=
  fun p d a b s issues =>
    exec_word_kput issues d (fun s => g (readK s a.toNat) (readK s b.toNat)) (meaning p d a b s) fun l _ hl => bits _ _ l hl

/-- The lowest lane of a mask, or all ones for none (R92). -/
theorem lowestOne_spec (x : Dword) : (lowestOne x = 0xFFFFFFFF ∧ x = 0) ∨
    (x.getLsbD (lowestOne x).toNat = true ∧ ∀ l, l < (lowestOne x).toNat → x.getLsbD l = false) := by
  unfold lowestOne
  split
  · rename_i k found
    obtain ⟨one, range, lower⟩ := List.find?_range_eq_some.mp found
    have small : k < 64 := List.mem_range.mp range
    have number : (BitVec.ofNat 32 k).toNat = k := by rw [BitVec.toNat_ofNat, Nat.mod_eq_of_lt (by omega)]
    rw [number]
    exact .inr ⟨one, fun l hl => by simpa using lower l hl⟩
  · rename_i none
    refine .inl ⟨rfl, BitVec.eq_of_getLsbD_eq fun l hl => ?_⟩
    simpa using List.find?_range_eq_none.mp none l hl

/-! ### The fragment in execution -/

/-- A change of the current entry changes nothing else of the warp. -/
theorem setFrag_only (s : State) (x : Entry) : (∀ e, e ≠ s.frag → entryOf (curWarp (setFrag s x)) e = entryOf (curWarp s) e) ∧
    { curWarp (setFrag s x) with split := (curWarp s).split } = curWarp s ∧ OnlyWarp s (setFrag s x) := by
  unfold setFrag
  rw [curWarp_setCur]
  exact ⟨fun e other => by rw [entryOf_setEntry, if_neg (Ne.symm other)], rfl, onlyWarp_setCur _ _⟩

/-! ### The statement of the mask words -/

/-- Settles O6: each mask word writes the bits of `EXEC` of its mask, or the scalar or pair of the table; `XWR` changes the one
field of its entry. -/
theorem maskWords : Obligations.MaskWords := by
  unfold Obligations.MaskWords
  refine ⟨⟨?kand, ?kor, ?kxor, ?kandn, fun p d a s issues => ?knot, fun p d a s issues => ?kmov, fun p d a s issues => ?stok,
    fun p d a b s issues => ?kset, fun p d a s issues => ?ktos, fun p d s issues => ?xrd, fun p d a s issues => ?kpopc,
    fun p d a s issues => ?kffs, fun s l fits => getLsbD_readK_zero fits l, fun s n l above _ => getLsbD_readK_above s n above⟩,
    fun p a s issues => ?xwr⟩
  case kand => exact .of_exec (fun x y => x &&& y) (fun _ _ _ _ _ => rfl) fun _ _ _ _ => BitVec.getLsbD_and
  case kor => exact .of_exec (fun x y => x ||| y) (fun _ _ _ _ _ => rfl) fun _ _ _ _ => BitVec.getLsbD_or
  case kxor => exact .of_exec (fun x y => x ^^^ y) (fun _ _ _ _ _ => rfl) fun _ _ _ _ => BitVec.getLsbD_xor
  case kandn => exact .of_exec (fun x y => x &&& ~~~ y) (fun _ _ _ _ _ => rfl) fun _ _ _ hl => by simp [hl]
  case knot => exact exec_word_kput issues d (fun s => ~~~ readK s a.toNat) rfl fun _ _ hl => by simp [hl]
  case kmov => exact exec_word_kput issues d (fun s => readK s a.toNat) rfl fun _ _ _ => rfl
  case stok => exact exec_word_kput issues d (fun s => pairA s p a) rfl fun _ _ _ => rfl
  case kset =>
    refine exec_word_kput issues d
      (fun s => maskOf (curWarp s) fun l => decide ((scaA s p a).toNat ≤ l ∧ l < (scaB s p b).toNat)) rfl fun l hw hl => ?_
    rw [getLsbD_maskOf, decide_eq_true hw, decide_eq_true hl]
    rfl
  case ktos => exact exec_word_writeP issues _ (fun s => readK s a.toNat) rfl
  case xrd => exact exec_word_writeP issues _ execMask rfl
  case kpopc =>
    rw [← popCount_eq]
    exact exec_word_writeS issues _ (fun s => BitVec.ofNat 32 (popCount (readK s a.toNat &&& execMask s))) rfl
  case kffs =>
    obtain ⟨t, next, result⟩ := exec_word_writeS issues (numD p d) (fun s => lowestOne (readK s a.toNat &&& execMask s)) rfl
    exact ⟨t, next, _, result, lowestOne_spec _⟩
  case xwr =>
    obtain ⟨others, warp, outside⟩ := setFrag_only s { curEntry s with exec := pairA s p a &&& (curEntry s).owned }
    refine ⟨_, word_next issues fun s => setFrag s { curEntry s with exec := pairA s p a &&& (curEntry s).owned }, ?_, ?_, others,
      warp, outside⟩
    · rw [execMask, curEntry_setFrag]; rfl
    · rw [curEntry_setFrag]

/-! ### Compares (R89, R90) -/

theorem getLsbD_combine (c : BitVec 2) (old t : Dword) (l : Nat) :
    (combine c old t).getLsbD l = combined c (old.getLsbD l) (t.getLsbD l) := by
  obtain rfl | rfl | rfl | rfl : c = 0#2 ∨ c = 1#2 ∨ c = 2#2 ∨ c = 3#2 := by revert c; decide
  · rfl
  · exact BitVec.getLsbD_and
  · exact BitVec.getLsbD_or
  · exact BitVec.getLsbD_or

/-- A lane that the word clears is not active. -/
theorem Zeroed.not_active {s : State} {p : Option Prefix} {l : Nat} (zero : Zeroed s p l) : ¬ Active s p l := by
  rintro ⟨-, set⟩
  obtain ⟨-, -, clear⟩ := zero
  rw [clear] at set
  cases set

/-- Only a compare in mode set clears its zeroed lanes. -/
theorem getLsbD_compareZero {s : State} {p : Option Prefix} (c : BitVec 2) {l : Nat} (hl : l < 64) :
    (if c = 0#2 then zeroMask s (pfx p) else 0).getLsbD l = true ↔ Zeroed s p l ∧ c = 0#2 := by
  split
  · rw [zeroMask_iff s p l hl]
    simp [*]
  · simp [*]

/-- A compare combines into the active lanes of its mask. -/
theorem compareWord_written (s : State) (p : Option Prefix) (c : BitVec 2) {d : BitVec 3} (nonzero : d.toNat ≠ 0) (f : Nat → Bool) :
    CompareWritten p c d f s (compareWord s p c d f) := by
  have bit (l : Nat) (hl : l < 64) : (readK (compareWord s p c d f) d.toNat).getLsbD l =
      ((if (activeMask s (pfx p)).getLsbD l then combined c ((readK s d.toNat).getLsbD l) ((maskOf (curWarp s) f).getLsbD l)
        else (readK s d.toNat).getLsbD l && !(if c = 0#2 then zeroMask s (pfx p) else 0).getLsbD l) &&
      (widthMask (curWarp s)).getLsbD l) := by
    rw [compareWord, getLsbD_readK_writeK nonzero]
    simp only [BitVec.getLsbD_or, BitVec.getLsbD_and, BitVec.getLsbD_not, getLsbD_combine, hl, decide_true, Bool.true_and]
    cases (activeMask s (pfx p)).getLsbD l <;> simp
  refine ⟨fun l hw act => ?active, fun l zero set => ?zeroed, fun l act zero => ?kept, fun m other => readK_writeK_ne other _⟩
  case active =>
    rw [bit l act.lt, if_pos ((activeMask_iff s p l).mpr act), getLsbD_maskOf, getLsbD_widthMask]
    simp [hw, act.lt]
  case zeroed =>
    rw [bit l zero.lt, if_neg (fun h => zero.not_active ((activeMask_iff s p l).mp h)), (getLsbD_compareZero c zero.lt).mpr ⟨zero, set⟩]
    simp
  case kept =>
    by_cases hl : l < 64
    · have stays := Bool.eq_false_iff.mpr fun h => zero ((getLsbD_compareZero c hl).mp h)
      rw [bit l hl, if_neg (fun h => act ((activeMask_iff s p l).mp h)), stays, Bool.not_false, Bool.and_true,
        getLsbD_readK_and_widthMask]
    · rw [BitVec.getLsbD_of_ge _ l (Nat.not_lt.mp hl), BitVec.getLsbD_of_ge _ l (Nat.not_lt.mp hl)]

/-- What a compare that merges the flags `g` does, its pops included. -/
structure CompareResult (i : Instr) (p : Option Prefix) (c : BitVec 2) (d : BitVec 3) (f : Nat → Bool) (g : Flags)
    (s t : State) : Prop where
  written : CompareWritten p c d f s t
  queues : QueuesPopped i s t
  warp : { curWarp t with masks := (curWarp s).masks, queues := (curWarp s).queues } =
    { curWarp s with ctl := { (curWarp s).ctl with wstat := (curWarp s).ctl.wstat ||| (g.setWidth 32 <<< 3) } }
  outside : OnlyWarpLog s t

theorem compare_popped {i : Instr} {s : State} (issues : Issues i s) (p : Option Prefix) (c : BitVec 2) {d : BitVec 3}
    (nonzero : d.toNat ≠ 0) (f : Nat → Bool) (g : Flags) :
    CompareResult i p c d f g s (popOf i (mergeFlags (compareWord s p c d f) g)) := by
  obtain ⟨m, masks⟩ : ∃ m, curWarp (compareWord s p c d f) = { curWarp s with masks := m } := writeK_warp _ _ _
  obtain ⟨q, popped⟩ := popOf_warp i (mergeFlags (compareWord s p c d f) g)
  have merged := curWarp_mergeFlags (compareWord s p c d f) g
  have mask (n : Nat) : readK (popOf i (mergeFlags (compareWord s p c d f) g)) n = readK (compareWord s p c d f) n := by
    unfold readK widthMask; rw [popped, merged]
  obtain ⟨active, zeroed, kept, others⟩ := compareWord_written s p c nonzero f
  refine ⟨⟨?_, ?_, ?_, ?_⟩, fun k => ?_, ?_, ((writeK_outside _ _ _).trans (onlyWarp_setCur _ _)).log.trans (popOf_outside i _)⟩
  · simpa only [mask] using active
  · simpa only [mask] using zeroed
  · simpa only [mask] using kept
  · simpa only [mask] using others
  · rw [popOf_queue issues, merged, masks]; rfl
  · rw [popped, merged, masks]

/-- An integer compare raises no flag. -/
theorem mergeFlags_zero_compareWord {s : State} {p : Option Prefix} {c : BitVec 2} {d : BitVec 3} (nonzero : d.toNat ≠ 0)
    (f : Nat → Bool) : mergeFlags (compareWord s p c d f) 0 = compareWord s p c d f := by
  have none (x : Word) : x ||| ((0 : Flags).setWidth 32 <<< 3) = x := by simp
  rw [mergeFlags, none, compareWord, writeK, if_neg nonzero, setCur_setCur, curWarp_setCur]

/-- The operand form of the compares. -/
def compareForm (p : Option Prefix) (a b : BitVec 7) : Form :=
  ⟨p, .none, .vecq a, .vecq b, .none, true, true, false, false⟩

/-- A compare that issues writes a mask other than `k0` (R52). -/
theorem Issues.compare_dest {i : Instr} {s : State} (issues : Issues i s) {f : Form} {c : BitVec 2} {d : BitVec 3}
    (rules : illegal i = (formWhy f).or (compareWhy c d)) : d.toNat ≠ 0 := by
  intro zero
  have legal := issues.legal
  obtain rfl : d = 0 := BitVec.eq_of_toNat_eq zero
  rw [rules, Option.or_eq_none_iff] at legal
  obtain ⟨-, legal⟩ := legal
  simp [compareWhy, ifWhy] at legal

theorem wf_compare_k0 {i : Instr} {f : Form} {c : BitVec 2} (rules : illegal i = (formWhy f).or (compareWhy c 0)) :
    Instr.wf i = false := by
  rw [Instr.wf, rules, Option.isNone_or]
  exact Bool.and_false _

theorem IntCompare.of_exec {mk : Option Prefix → BitVec 2 → BitVec 3 → BitVec 7 → BitVec 7 → Instr} {f : Word → Word → Bool}
    (g : Word → Word → Bool)
    (meaning : ∀ p c d a b s, exec (mk p c d a b) s = vword (mk p c d a b) s fun s => icmp s p c d a b g)
    (rules : ∀ p c d a b, illegal (mk p c d a b) = (formWhy (compareForm p a b)).or (compareWhy c d))
    (same : ∀ x y, g x y = f x y) : IntCompare mk f := by
  obtain rfl : g = f := funext fun x => funext (same x)
  intro p c d a b s issues
  have nonzero := issues.compare_dest (rules p c d a b)
  obtain ⟨written, queues, warp, outside⟩ := compare_popped issues p c nonzero (fun l => g (srcA s p a l) (srcB s p b l)) 0
  rw [mergeFlags_zero_compareWord nonzero] at written queues warp outside
  refine ⟨_, exec_vword issues (meaning p c d a b s), written, queues, warp.trans ?_, outside⟩
  simp

/-- One flag over the active lanes. -/
theorem laneFlags_flagIf (act : Dword) (b : Nat → Bool) (f : Flags) (ls : List Nat) :
    laneFlags act (fun l => flagIf (b l) f) ls = flagIf (ls.any fun l => act.getLsbD l && b l) f := by
  induction ls with
  | nil => rfl
  | cons l ls ih =>
    have first : (if act.getLsbD l then flagIf (b l) f else 0) = flagIf (act.getLsbD l && b l) f := by
      cases act.getLsbD l <;> rfl
    rw [laneFlags, ih, first, flagIf_or, List.any_cons, Bool.or_comm]

theorem FloatCompare.of_exec {mk : Option Prefix → BitVec 2 → BitVec 3 → BitVec 7 → BitVec 7 → Instr} {f nv : Fp → Fp → Bool}
    (anyNan : Bool) (g : Fp → Fp → Bool)
    (meaning : ∀ p c d a b s, exec (mk p c d a b) s = vword (mk p c d a b) s fun s => fcmp s p c d a b anyNan g)
    (rules : ∀ p c d a b, illegal (mk p c d a b) = (formWhy (compareForm p a b)).or (compareWhy c d))
    (same : ∀ x y, g x y = f x y)
    (invalid : ∀ x y, (if anyNan then flagIf (x.isNan || y.isNan) flagNV else snanFlags [x, y]) = flagIf (nv x y) flagNV) :
    FloatCompare mk f nv := by
  obtain rfl : g = f := funext fun x => funext (same x)
  intro p c d a b s issues x y
  have nonzero := issues.compare_dest (rules p c d a b)
  let raised := (lanesOf (curWarp s)).any fun l => (activeMask s (pfx p)).getLsbD l && nv (x l) (y l)
  have flags : laneFlags (activeMask s (pfx p))
      (fun l => if anyNan then flagIf ((x l).isNan || (y l).isNan) flagNV else snanFlags [x l, y l]) (lanesOf (curWarp s)) =
      flagIf raised flagNV := by
    simp only [invalid, laneFlags_flagIf, raised]
  obtain ⟨written, queues, warp, outside⟩ :=
    compare_popped issues p c nonzero (fun l => g (x l) (y l)) (flagIf raised flagNV)
  refine ⟨popOf (mk p c d a b) (mergeFlags (compareWord s p c d fun l => g (x l) (y l)) (flagIf raised flagNV)), ?_, written,
    queues, outside, raised, ?_, warp.trans ?_⟩
  · rw [exec_vword issues (meaning p c d a b s), ← flags]; rfl
  · simp [raised, lanesOf, activeMask_iff]
  · cases raised <;> rfl

/-- Nothing is below, or equal to, a NaN. -/
theorem unordered_nan {x y : Fp} (h : (x.isNan || y.isNan) = true) : ltFp x y = false ∧ eqFp x y = false := by
  cases x with
  | nan => exact ⟨rfl, rfl⟩
  | inf => cases y with
    | nan => exact ⟨rfl, rfl⟩
    | inf => cases h
    | fin => cases h
  | fin => cases y with
    | nan => exact ⟨rfl, rfl⟩
    | inf => cases h
    | fin => cases h

/-- An order that holds of no NaN needs no test for one. -/
theorem ordered_and {t : Fp → Fp → Bool} (unordered : ∀ x y, (x.isNan || y.isNan) = true → t x y = false) (x y : Fp) :
    t x y = (!(x.isNan || y.isNan) && t x y) := by
  cases h : x.isNan || y.isNan
  · rfl
  · exact unordered x y h

theorem snanFlags_two (x y : Fp) : snanFlags [x, y] = flagIf (x.isSnan || y.isSnan) flagNV := by
  simp [snanFlags]

/-! ### Selection (R86) -/

/-- The common frame for any active and zeroed lanes. -/
theorem writeLanes_written (s : State) (r : Nat) (act zer : Dword) (f : Nat → Word) :
    LanesWritten r (fun l => act.getLsbD l = true) (fun l => act.getLsbD l = false ∧ zer.getLsbD l = true) f s
      (writeLanes s r act zer f) where
  active l hl on := by
    rw [readV_writeLanes _ _ _ _ _ _ _ (BitVec.lt_of_getLsbD on), if_pos ⟨rfl, hl⟩, if_pos on]
  zeroed l hl off := by
    obtain ⟨off, zero⟩ := off
    rw [readV_writeLanes _ _ _ _ _ _ _ (BitVec.lt_of_getLsbD zero), if_pos ⟨rfl, hl⟩, if_neg (by simp [off]), if_pos zero]
  kept l hl off nonzero := by
    have inactive : act.getLsbD l = false := Bool.eq_false_iff.mpr off
    by_cases small : l < 64
    · rw [readV_writeLanes _ _ _ _ _ _ _ small, if_pos ⟨rfl, hl⟩, if_neg off, if_neg fun zero => nonzero ⟨inactive, zero⟩]
    · have place (t : State) : readV t r l = readV t (r + l / 64) (l % 64) := by
        unfold readV vecKey; congr 1; omega
      rw [place, place, readV_writeLanes _ _ _ _ _ _ _ (Nat.mod_lt _ (by decide)), if_neg (by omega)]
  others x l hl out := by
    rw [readV_writeLanes _ _ _ _ _ _ _ hl, if_neg (by omega)]

/-- Lanes of one state in another that reads the same. -/
theorem LanesWritten.of_readV {r : Nat} {act zer : Nat → Prop} {f : Nat → Word} {s t u : State}
    (written : LanesWritten r act zer f s t) (same : ∀ x l, readV u x l = readV t x l) : LanesWritten r act zer f s u := by
  obtain ⟨active, zeroed, kept, others⟩ := written
  exact ⟨by simpa only [same] using active, by simpa only [same] using zeroed, by simpa only [same] using kept,
    by simpa only [same] using others⟩

/-- Settles O3: `SEL` writes the lanes of `EXEC`, and one that zeroes does not issue. -/
theorem selectResult : Obligations.SelectResult := by
  unfold Obligations.SelectResult
  intro p d a b s issues
  let chosen (l : Nat) : Word := if (readK s (pfx p).k.toNat).getLsbD l then srcA s p a l else srcB s p b l
  let t := writeLanes s (regD s p d) (execMask s) 0 chosen
  obtain ⟨v, g, warp⟩ := writeLanes_warp s (regD s p d) (execMask s) 0 chosen
  obtain ⟨q, popped⟩ := popOf_warp (.sel p d a b) t
  have lanes (x l : Nat) : readV (popOf (.sel p d a b) t) x l = readV t x l := by unfold readV; rw [popped]
  obtain ⟨active, -, kept, others⟩ :=
    (writeLanes_written s (regD s p d) (execMask s) 0 chosen).of_readV (u := popOf (.sel p d a b) t) lanes
  refine ⟨_, exec_vword issues (effect := fun s => writeLanes s (regD s p d) (execMask s) 0 fun l =>
      if (readK s (pfx p).k.toNat).getLsbD l then srcA s p a l else srcB s p b l) rfl,
    ⟨active, fun l _ none => none.elim, fun l hl off _ => kept l hl off (by simp), others⟩, fun k => ?queues, ?warp,
    (writeLanes_outside s _ _ _ _).trans (popOf_outside _ _), issues.zeroes_nothing rfl rfl, ?unprefixed⟩
  case queues => rw [popOf_queue issues, warp]; rfl
  case warp => unfold OnlyVecs; rw [popped, warp]
  case unprefixed =>
    rintro rfl l hl on fits
    rw [active l hl on]
    exact if_pos ((getLsbD_readK_zero fits l).trans (decide_eq_true hl))

/-! ### The statement of the compares -/

/-- Settles O5: each compare combines its predicate into the active lanes; those on words of binary32 raise NV by their rule. -/
theorem compares : Obligations.Compares := by
  unfold Obligations.Compares
  refine ⟨?icmpEq, ?icmpNe, ?icmpLt, ?icmpLe, ?icmpGt, ?icmpGe, ?icmpLtu, ?icmpLeu, ?icmpGtu, ?icmpGeu, fun p c a b => ?k0, ?fcmp⟩
  case icmpEq => exact .of_exec _ (fun _ _ _ _ _ _ => rfl) (fun _ _ _ _ _ => rfl) fun x y => beq_eq_decide x y
  case icmpNe => exact .of_exec _ (fun _ _ _ _ _ _ => rfl) (fun _ _ _ _ _ => rfl) fun x y => by rw [bne, beq_eq_decide, decide_not]
  case icmpLt => exact .of_exec _ (fun _ _ _ _ _ _ => rfl) (fun _ _ _ _ _ => rfl) fun _ _ => rfl
  case icmpLe => exact .of_exec _ (fun _ _ _ _ _ _ => rfl) (fun _ _ _ _ _ => rfl) fun _ _ => rfl
  case icmpGt => exact .of_exec _ (fun _ _ _ _ _ _ => rfl) (fun _ _ _ _ _ => rfl) fun _ _ => rfl
  case icmpGe => exact .of_exec _ (fun _ _ _ _ _ _ => rfl) (fun _ _ _ _ _ => rfl) fun _ _ => rfl
  case icmpLtu => exact .of_exec _ (fun _ _ _ _ _ _ => rfl) (fun _ _ _ _ _ => rfl) fun _ _ => rfl
  case icmpLeu => exact .of_exec _ (fun _ _ _ _ _ _ => rfl) (fun _ _ _ _ _ => rfl) fun _ _ => rfl
  case icmpGtu => exact .of_exec _ (fun _ _ _ _ _ _ => rfl) (fun _ _ _ _ _ => rfl) fun _ _ => rfl
  case icmpGeu => exact .of_exec _ (fun _ _ _ _ _ _ => rfl) (fun _ _ _ _ _ => rfl) fun _ _ => rfl
  case k0 => exact ⟨wf_compare_k0 rfl, wf_compare_k0 rfl⟩
  case fcmp =>
    intro nan sig
    refine ⟨?eq, ?ne, ?lt, ?le, ?gt, ?ge, ?ord, ?uno, ?zeros⟩
    case eq =>
      exact .of_exec false _ (fun _ _ _ _ _ _ => rfl) (fun _ _ _ _ _ => rfl)
        (ordered_and fun _ _ h => (unordered_nan h).2) snanFlags_two
    case ne =>
      refine .of_exec false _ (fun _ _ _ _ _ _ => rfl) (fun _ _ _ _ _ => rfl) (fun x y => ?_) snanFlags_two
      cases h : nan x y
      · rfl
      · rw [(unordered_nan h).2]; rfl
    case lt =>
      exact .of_exec true _ (fun _ _ _ _ _ _ => rfl) (fun _ _ _ _ _ => rfl)
        (ordered_and fun _ _ h => (unordered_nan h).1) fun _ _ => rfl
    case le =>
      exact .of_exec true _ (fun _ _ _ _ _ _ => rfl) (fun _ _ _ _ _ => rfl)
        (ordered_and fun _ _ h => by rw [(unordered_nan h).1, (unordered_nan h).2]; rfl) fun _ _ => rfl
    case gt =>
      exact .of_exec true _ (fun _ _ _ _ _ _ => rfl) (fun _ _ _ _ _ => rfl)
        (ordered_and fun _ _ h => (unordered_nan ((Bool.or_comm _ _).trans h)).1) fun _ _ => rfl
    case ge =>
      exact .of_exec true _ (fun _ _ _ _ _ _ => rfl) (fun _ _ _ _ _ => rfl)
        (ordered_and fun _ _ h => by rw [(unordered_nan ((Bool.or_comm _ _).trans h)).1, (unordered_nan h).2]; rfl) fun _ _ => rfl
    case ord => exact .of_exec false _ (fun _ _ _ _ _ _ => rfl) (fun _ _ _ _ _ => rfl) (fun _ _ => rfl) snanFlags_two
    case uno => exact .of_exec false _ (fun _ _ _ _ _ _ => rfl) (fun _ _ _ _ _ => rfl) (fun _ _ => rfl) snanFlags_two
    case zeros => decide

end Sys2Proof.Machine
end

section
/-! SUPPORT. The order of the binary32 words as numbers (R57, R95), their classes (R96), and the special operands of the special
functions (R97). -/

namespace Sys2Proof.Machine

/-! ### The value of a word -/

/-- The magnitude of the binary32 word with low 31 bits `m`, in units of the smallest subnormal; an infinity counts as the next
value above the largest number. -/
def magUnits (m : Nat) : Nat := if m / 8388608 = 0 then m else (m % 8388608 + 8388608) * 2 ^ (m / 8388608 - 1)

/-- Magnitudes are ordered as their words are. -/
theorem magUnits_strictMono : StrictMono magUnits := by
  refine strictMono_nat_of_lt_succ fun m => ?_
  unfold magUnits
  by_cases carry : m % 8388608 = 8388607
  · rw [show (m + 1) / 8388608 = m / 8388608 + 1 by omega, show (m + 1) % 8388608 = 0 by omega, carry, if_neg (Nat.succ_ne_zero _),
      Nat.add_sub_cancel]
    by_cases subnormal : m / 8388608 = 0
    · rw [if_pos subnormal, subnormal]; omega
    · obtain ⟨e, he⟩ : ∃ e, m / 8388608 = e + 1 := ⟨m / 8388608 - 1, by omega⟩
      have positive := Nat.two_pow_pos e
      rw [if_neg subnormal, he, Nat.add_sub_cancel, Nat.pow_succ]
      omega
  · rw [show (m + 1) / 8388608 = m / 8388608 by omega, show (m + 1) % 8388608 = m % 8388608 + 1 by omega]
    split
    · omega
    · exact Nat.mul_lt_mul_of_pos_right (by omega) (Nat.two_pow_pos _)

/-- The signed value of a word that is no NaN, in those units. -/
def signedUnits (x : Word) : Int := if x.msb then -(magUnits (x.toNat % 2 ^ 31) : Int) else magUnits (x.toNat % 2 ^ 31)

/-- A finite value in smaller units. -/
theorem units_scale (x : Dy) {q r : Int} (low : r ≤ q) (high : q ≤ x.exp) : x.units r = x.units q * (2 ^ (q - r).toNat : Nat) := by
  have power : pow2 (x.exp - r) = pow2 (x.exp - q) * 2 ^ (q - r).toNat := by
    unfold pow2
    rw [← Nat.pow_add]
    congr 1; omega
  unfold Dy.units
  rw [power]
  split <;> (push_cast; ring)

/-- Two finite values compare as their units do, however small the units are. -/
theorem units_compare {x y : Dy} {r : Int} (hx : r ≤ x.exp) (hy : r ≤ y.exp) :
    (x.units (min x.exp y.exp) < y.units (min x.exp y.exp) ↔ x.units r < y.units r) ∧
      (x.units (min x.exp y.exp) = y.units (min x.exp y.exp) ↔ x.units r = y.units r) := by
  have low : r ≤ min x.exp y.exp := le_min hx hy
  have positive : (0 : Int) < (2 ^ (min x.exp y.exp - r).toNat : Nat) := by positivity
  rw [units_scale x low (min_le_left _ _), units_scale y low (min_le_right _ _)]
  exact ⟨(Int.mul_lt_mul_right positive).symm, (mul_left_inj' positive.ne').symm⟩

/-- The sign field is the top bit. -/
theorem decide_sign (x : Word) : decide (x.toNat / 2147483648 % 2 = 1) = x.msb := by
  have hx := x.isLt
  rw [BitVec.msb_eq_decide, decide_eq_decide]
  omega

/-- What a word that is no NaN holds: an infinity, or a finite value of its signed units. -/
theorem unpack_number {x : Word} (number : nanWord x = false) :
    (x.toNat % 2 ^ 31 = 0x7F800000 ∧ unpack binary32 x.toNat = .inf x.msb) ∨
      (x.toNat % 2 ^ 31 < 0x7F800000 ∧ ∃ d : Dy, unpack binary32 x.toNat = .fin d ∧ d.neg = x.msb ∧ -149 ≤ d.exp ∧
        d.units (-149) = signedUnits x) := by
  have notNan : ¬ 0x7F800000 < x.toNat % 2 ^ 31 := of_decide_eq_false number
  rw [unpack_binary32, decide_sign]
  by_cases infinite : x.toNat / 8388608 % 256 = 255
  · rw [if_pos infinite, if_pos (by omega)]
    exact .inl ⟨by omega, rfl⟩
  · rw [if_neg infinite]
    refine .inr ⟨by omega, ?_⟩
    by_cases subnormal : x.toNat / 8388608 % 256 = 0
    · rw [if_pos subnormal]
      refine ⟨_, rfl, rfl, le_rfl, ?_⟩
      have mag : magUnits (x.toNat % 2 ^ 31) = x.toNat % 8388608 := by
        rw [magUnits, if_pos (by omega)]; omega
      rw [signedUnits, mag, Dy.units]
      simp [pow2]
    · rw [if_neg subnormal]
      refine ⟨_, rfl, rfl, by dsimp only; omega, ?_⟩
      have mag : magUnits (x.toNat % 2 ^ 31) = (x.toNat % 8388608 + 8388608) * 2 ^ (x.toNat / 8388608 % 256 - 1) := by
        rw [magUnits, if_neg (by omega)]
        congr 2 <;> omega
      rw [signedUnits, mag, Dy.units]
      have exponent : (-149 + ((x.toNat / 8388608 % 256 - 1 : Nat) : Int) - -149).toNat = x.toNat / 8388608 % 256 - 1 := by omega
      simp only [pow2, exponent, Nat.cast_mul]

/-- A finite value is smaller than the infinities. -/
theorem signedUnits_finite {x : Word} (finite : x.toNat % 2 ^ 31 < 0x7F800000) :
    -(magUnits 0x7F800000 : Int) < signedUnits x ∧ signedUnits x < magUnits 0x7F800000 := by
  have smaller : magUnits (x.toNat % 2 ^ 31) < magUnits 0x7F800000 := magUnits_strictMono finite
  unfold signedUnits
  split <;> omega

/-- Words that are no NaN compare as their values do. -/
theorem compare_numbers {x y : Word} (hx : nanWord x = false) (hy : nanWord y = false) :
    ltFp (unpack binary32 x.toNat) (unpack binary32 y.toNat) = decide (signedUnits x < signedUnits y) ∧
      eqFp (unpack binary32 x.toNat) (unpack binary32 y.toNat) = decide (signedUnits x = signedUnits y) := by
  have positive : 0 < magUnits 0x7F800000 := magUnits_strictMono (a := 0) (by decide)
  have infinite {z : Word} (mag : z.toNat % 2 ^ 31 = 0x7F800000) :
      signedUnits z = if z.msb then -(magUnits 0x7F800000 : Int) else magUnits 0x7F800000 := by rw [signedUnits, mag]
  rcases unpack_number hx with ⟨mx, ux⟩ | ⟨mx, dx, ux, -, ex, vx⟩
  · rcases unpack_number hy with ⟨my, uy⟩ | ⟨my, dy, uy, -, ey, vy⟩
    · rw [ux, uy, infinite mx, infinite my]
      cases x.msb <;> cases y.msb <;> simp [ltFp, eqFp] <;> omega
    · have bounds := signedUnits_finite my
      rw [ux, uy, infinite mx]
      cases x.msb <;> simp [ltFp, eqFp] <;> omega
  · rcases unpack_number hy with ⟨my, uy⟩ | ⟨my, dy, uy, -, ey, vy⟩
    · have bounds := signedUnits_finite mx
      rw [ux, uy, infinite my]
      cases y.msb <;> simp [ltFp, eqFp] <;> omega
    · obtain ⟨lt, eq⟩ := units_compare ex ey
      rw [ux, uy, ← vx, ← vy]
      exact ⟨decide_eq_decide.mpr lt, decide_eq_decide.mpr eq⟩

theorem isNeg_number {x : Word} (hx : nanWord x = false) : (unpack binary32 x.toNat).isNeg = x.msb := by
  rcases unpack_number hx with ⟨-, ux⟩ | ⟨-, d, ux, sign, -, -⟩
  · rw [ux]; rfl
  · rw [ux]; exact sign

/-! ### Minima and maxima (R95) -/

/-- The place of a word in the order of R95: -0 just below +0. -/
def orderKey (x : Word) : Int := if x.msb then -((x.toNat % 2 ^ 31 : Nat) : Int) - 1 else x.toNat

/-- Sign and magnitude of the key. -/
theorem orderKey_eq (x : Word) : orderKey x =
    if x.msb then -((x.toNat % 2 ^ 31 : Nat) : Int) - 1 else ((x.toNat % 2 ^ 31 : Nat) : Int) := by
  have hx := x.isLt
  rw [orderKey, BitVec.msb_eq_decide]
  split
  · rfl
  · rename_i positive
    rw [decide_eq_true_eq] at positive
    omega

theorem orderKey_injective {x y : Word} (same : orderKey x = orderKey y) : x = y := by
  have hx := x.isLt
  have hy := y.isLt
  simp only [orderKey, BitVec.msb_eq_decide, decide_eq_true_eq] at same
  refine BitVec.eq_of_toNat_eq ?_
  split at same <;> split at same <;> omega

/-- By value, and -0 below +0, words that are no NaN are in the order of their keys. -/
theorem below_iff_orderKey {x y : Word} (hx : nanWord x = false) (hy : nanWord y = false) :
    (ltFp (unpack binary32 x.toNat) (unpack binary32 y.toNat) || (eqFp (unpack binary32 x.toNat) (unpack binary32 y.toNat) &&
      (unpack binary32 x.toNat).isNeg && !(unpack binary32 y.toNat).isNeg)) = decide (orderKey x < orderKey y) := by
  obtain ⟨lt, eq⟩ := compare_numbers hx hy
  have less := magUnits_strictMono.lt_iff_lt (a := x.toNat % 2 ^ 31) (b := y.toNat % 2 ^ 31)
  have more := magUnits_strictMono.lt_iff_lt (a := y.toNat % 2 ^ 31) (b := x.toNat % 2 ^ 31)
  rw [lt, eq, isNeg_number hx, isNeg_number hy, signedUnits, signedUnits, orderKey_eq, orderKey_eq, Bool.eq_iff_iff]
  generalize magUnits (x.toNat % 2 ^ 31) = u at less more ⊢
  generalize magUnits (y.toNat % 2 ^ 31) = v at less more ⊢
  generalize x.toNat % 2 ^ 31 = m at less more ⊢
  generalize y.toNat % 2 ^ 31 = n at less more ⊢
  cases x.msb <;> cases y.msb <;> simp <;> omega

/-- The choice of R95 between two words. -/
def chosenWord (small : Bool) (x y : Word) : Word :=
  if nanWord x && nanWord y then 0x7FC00000 else if nanWord x then y else if nanWord y then x
    else if decide (orderKey x ≤ orderKey y) = small then x else y

/-- Of two numbers that are not equal words, the key decides; of equal ones either may be taken. -/
theorem chosenWord_number (max : Bool) {x y : Word} (hx : nanWord x = false) (hy : nanWord y = false) :
    chosenWord (!max) x y = if decide (orderKey x < orderKey y) != max then x else y := by
  rw [chosenWord, hx, hy]
  rcases Int.lt_trichotomy (orderKey x) (orderKey y) with less | equal | more
  · rw [decide_eq_true less, decide_eq_true less.le]
    cases max <;> rfl
  · rw [orderKey_injective equal]
    simp
  · rw [decide_eq_false (by omega), decide_eq_false (by omega)]
    cases max <;> rfl

theorem ofNat_toNat_word (x : Word) : BitVec.ofNat 32 x.toNat = x := by
  rw [BitVec.ofNat_toNat, BitVec.setWidth_eq]

theorem fminmax_eq (max : Bool) (x y : Word) : w32 (fminmax binary32 max x.toNat y.toNat) =
    (chosenWord (!max) x y, if snanWord x || snanWord y then flagNV else 0) := by
  cases hx : nanWord x with
  | true => cases hy : nanWord y with
    | true => simp only [fminmax, isNan_unpack, hx, hy, snanFlags_pair, chosenWord]; rfl
    | false =>
      simp only [fminmax, isNan_unpack, hx, hy, snanFlags_pair, chosenWord, w32, ofNat_toNat_word]; rfl
  | false => cases hy : nanWord y with
    | true => simp only [fminmax, isNan_unpack, hx, hy, snanFlags_pair, chosenWord, w32, ofNat_toNat_word]; rfl
    | false =>
      have chosen := chosenWord_number max hx hy
      rw [← below_iff_orderKey hx hy] at chosen
      simp only [fminmax, isNan_unpack, hx, hy, snanFlags_pair, chosen, w32]
      split
      · rw [ofNat_toNat_word]; rfl
      · rw [ofNat_toNat_word]; rfl

/-! ### Classes (R96) -/

/-- The number of the class bit of a word. -/
def classBit (x : Word) : Nat :=
  if 0x7F800000 < x.toNat % 2 ^ 31 then (if x.getLsbD 22 then 9 else 8)
  else if x.toNat % 2 ^ 31 = 0x7F800000 then (if x.msb then 0 else 7)
  else if 0x00800000 ≤ x.toNat % 2 ^ 31 then (if x.msb then 1 else 6)
  else if x.toNat % 2 ^ 31 ≠ 0 then (if x.msb then 2 else 5)
  else (if x.msb then 3 else 4)

/-- The fields of a word give its class. -/
theorem fclass_eq (x : Word) : fclass binary32 x.toNat = 2 ^ classBit x := by
  have quiet : decide (x.toNat % 8388608 < 4194304) = !x.getLsbD 22 := by
    have bit : x.getLsbD 22 = decide (x.toNat / 4194304 % 2 = 1) := Nat.testBit_eq_decide_div_mod_eq
    rw [bit, ← decide_not, decide_eq_decide]; omega
  have precision : 2 ^ (binary32.prec - 1) = 8388608 := rfl
  rw [fclass, unpack_binary32, decide_sign, quiet, classBit]
  by_cases special : x.toNat / 8388608 % 256 = 255
  · rw [if_pos special]
    by_cases infinite : x.toNat % 8388608 = 0
    · rw [if_pos infinite, if_neg (by omega), if_pos (by omega)]
      cases x.msb <;> rfl
    · rw [if_neg infinite, if_pos (by omega)]
      cases x.getLsbD 22 <;> rfl
  · rw [if_neg special, if_neg (c := 0x7F800000 < _) (by omega), if_neg (c := x.toNat % 2 ^ 31 = 0x7F800000) (by omega)]
    by_cases subnormal : x.toNat / 8388608 % 256 = 0
    · rw [if_pos subnormal, if_neg (c := 0x00800000 ≤ _) (by omega)]
      by_cases zero : x.toNat % 8388608 = 0
      · rw [if_neg (c := _ ≠ _) (by omega)]
        simp only [zero]
        cases x.msb <;> rfl
      · rw [if_pos (c := _ ≠ _) (by omega)]
        simp only [zero, if_false, precision, show x.toNat % 8388608 < 8388608 by omega, if_true]
        cases x.msb <;> rfl
    · rw [if_neg subnormal, if_pos (c := 0x00800000 ≤ _) (by omega)]
      simp only [show x.toNat % 8388608 + 8388608 ≠ 0 by omega, if_false, precision,
        show ¬ x.toNat % 8388608 + 8388608 < 8388608 by omega]
      cases x.msb <;> rfl

/-! ### The statement of the minima, maxima and classes -/

/-- Settles O12: `FMIN` and `FMAX` choose by the key of R95, and `FCLASS` sets the bit of the word's class. -/
theorem minMaxAndClass : Obligations.MinMaxAndClass := by
  unfold Obligations.MinMaxAndClass
  intro nan sig key pick bit
  refine ⟨?fmin, ?fmax, ?fclass⟩
  case fmin => exact .of_exec (fun _ => fop2 (fminmax binary32 false)) (fun _ _ _ _ _ => rfl) fun _ => fminmax_eq false
  case fmax => exact .of_exec (fun _ => fop2 (fminmax binary32 true)) (fun _ _ _ _ _ => rfl) fun _ => fminmax_eq true
  case fclass => exact .of_exec _ (fun _ _ _ _ => rfl) fun x => congrArg _ (fclass_eq x)

end Sys2Proof.Machine
end

section
/-! SUPPORT. The special operands of the special functions (R97), and the overflow of large results (R62). -/

namespace Sys2Proof.Machine

/-! ### Rounding past the largest number (R62) -/

/-- A value rounded to 24 bits keeps its leading one. -/
theorem roundAt_lower (mode : Nat) {x : Dy} (nonzero : x.man ≠ 0) : 2 ^ 23 ≤ (roundAt mode x (x.log - 23)).1 := by
  have leading : 2 ^ Nat.log2 x.man ≤ x.man := Nat.log2_self_le nonzero
  unfold roundAt Dy.log pow2
  by_cases short : (Nat.log2 x.man : Int) + x.exp - 23 ≤ x.exp
  · rw [if_pos short]
    obtain ⟨k, hk⟩ : ∃ k, Nat.log2 x.man + k = 23 := ⟨23 - Nat.log2 x.man, by omega⟩
    calc 2 ^ 23 = 2 ^ Nat.log2 x.man * 2 ^ k := by rw [← Nat.pow_add, hk]
      _ ≤ x.man * 2 ^ k := Nat.mul_le_mul_right _ leading
      _ = _ := by rw [show (x.exp - ((Nat.log2 x.man : Int) + x.exp - 23)).toNat = k by omega]
  · rw [if_neg short]
    obtain ⟨k, hk⟩ : ∃ k, Nat.log2 x.man = 23 + k := ⟨Nat.log2 x.man - 23, by omega⟩
    have quotient : 2 ^ 23 ≤ x.man / 2 ^ ((Nat.log2 x.man : Int) + x.exp - 23 - x.exp).toNat := by
      rw [show ((Nat.log2 x.man : Int) + x.exp - 23 - x.exp).toNat = k by omega, Nat.le_div_iff_mul_le (Nat.two_pow_pos k),
        ← Nat.pow_add, ← hk]
      exact leading
    dsimp only
    split
    · exact Nat.le_succ_of_le quotient
    · exact quotient

theorem overflowBits_nearest (neg : Bool) : overflowBits binary32 0 neg = binary32.bits neg binary32.infBits := by
  unfold overflowBits
  exact congrArg (binary32.bits neg) (if_pos rfl)

/-- A value of 2^128 or more overflows to infinity under round to nearest. -/
theorem roundDy_overflow {x : Dy} (nonzero : x.man ≠ 0) (large : 128 ≤ x.log) :
    roundDy binary32 0 x = (binary32.bits x.neg binary32.infBits, flagOF ||| flagNX) := by
  have leading : 23 ≤ Nat.log2 (roundAt 0 x (x.log - 23)).1 :=
    (Nat.le_log2 (by have := roundAt_lower 0 nonzero; omega)).mpr (roundAt_lower 0 nonzero)
  have precision : ((binary32.prec - 1 : Nat) : Int) = 23 := rfl
  have greatest : binary32.emax = 127 := rfl
  unfold roundDy
  dsimp only
  rw [if_neg nonzero, precision, greatest, if_pos (by omega), overflowBits_nearest]

/-! ### Powers of two from 2^128 up (R97) -/

theorem le_expSum (y n k t : Nat) : t ≤ expSum y (n + 1) k t := Nat.le_add_right _ _

/-- The fraction's power of two is at least one. -/
theorem one_le_exp2Frac (f : Nat) : 2 ^ fxBits ≤ exp2Frac f := by
  unfold exp2Frac
  generalize fxBits = places
  exact le_expSum _ 109 0 _

/-- A value of 128 or more in fixed point. -/
theorem toFx_large {x : Dy} (nonzero : x.man ≠ 0) (large : 7 ≤ x.log) : 128 * 2 ^ fxBits ≤ x.toFx := by
  have leading : 2 ^ Nat.log2 x.man ≤ x.man := Nat.log2_self_le nonzero
  unfold Dy.log at large
  calc 128 * 2 ^ fxBits = 2 ^ (7 + fxBits) := by rw [Nat.pow_add]
    _ ≤ 2 ^ (Nat.log2 x.man + (x.exp + fxBits).toNat) := Nat.pow_le_pow_right (by decide) (by omega)
    _ = 2 ^ Nat.log2 x.man * 2 ^ (x.exp + fxBits).toNat := Nat.pow_add _ _ _
    _ ≤ x.toFx := Nat.mul_le_mul_right _ leading

/-- Two to an operand of 128 or more is 2^128 or more. -/
theorem specFin_exp2_large {x : Dy} (positive : x.neg = false) (nonzero : x.man ≠ 0) (large : 7 ≤ x.log) :
    (specFin .exp2 x).neg = false ∧ (specFin .exp2 x).man ≠ 0 ∧ 128 ≤ (specFin .exp2 x).log := by
  have quotient : 128 ≤ x.toFx / 2 ^ fxBits := by
    have positive : 0 < 2 ^ fxBits := by positivity
    rw [Nat.le_div_iff_mul_le positive]
    exact toFx_large nonzero large
  have whole : (128 : Int) ≤ (x.toFx : Int) / (2 ^ fxBits : Nat) := by
    rw [← Int.natCast_ediv]
    omega
  simp only [specFin, positive, Bool.false_eq_true, if_false]
  split
  · exact ⟨rfl, by decide, by decide⟩
  · split
    · refine ⟨rfl, Nat.one_ne_zero, ?_⟩
      rw [Dy.log, show Nat.log2 1 = 0 by decide]
      dsimp only
      omega
    · generalize ((x.toFx : Int) % (2 ^ fxBits : Nat)).toNat = f
      have leading : fxBits + 1 ≤ Nat.log2 (2 * exp2Frac f + 1) := by
        rw [Nat.le_log2 (Nat.succ_ne_zero _), Nat.pow_succ]
        have := one_le_exp2Frac f
        omega
      refine ⟨rfl, Nat.succ_ne_zero _, ?_⟩
      rw [fxDy, sticky, Dy.log]
      dsimp only
      omega

/-! ### Special operands (R97) -/

theorem special_nan (g : Spec) {x : Word} (nan : nanWord x = true) :
    special g x = (0x7FC00000, if x.getLsbD 22 then 0 else flagNV) := by
  have signalling : (unpack binary32 x.toNat).isSnan = !x.getLsbD 22 := by rw [isSnan_unpack, snanWord, nan]; rfl
  cases value : unpack binary32 x.toNat with
  | nan s =>
    obtain rfl : s = !x.getLsbD 22 := by rw [value] at signalling; exact signalling
    simp only [special, value]
    cases x.getLsbD 22 <;> rfl
  | inf n => have := isNan_unpack x; rw [value, nan] at this; cases this
  | fin d => have := isNan_unpack x; rw [value, nan] at this; cases this

/-- A negative operand other than -0 has no square root and no logarithm. -/
theorem special_negative {x : Word} (sign : x.msb = true) (nonzero : x ≠ 0x80000000) (number : nanWord x = false) :
    special .rsq x = (0x7FC00000, flagNV) ∧ special .sqrt x = (0x7FC00000, flagNV) ∧ special .log2 x = (0x7FC00000, flagNV) := by
  rcases unpack_number number with ⟨-, value⟩ | ⟨-, d, value, negative, -, -⟩
  · simp only [special, value, sign, if_true]
    exact ⟨rfl, rfl, rfl⟩
  · have magnitude : d.man ≠ 0 := by
      have zero := isZero_unpack x.toNat
      rw [value, Fp.isZero, Bool.eq_iff_iff, beq_iff_eq, decide_eq_true_iff] at zero
      rw [Ne, zero]
      intro clear
      refine nonzero (BitVec.eq_of_toNat_eq ?_)
      have top : 2 ^ 31 ≤ x.toNat := BitVec.toNat_ge_of_msb_true sign
      have := x.isLt
      change x.toNat = 0x80000000
      omega
    simp only [special, value, magnitude, if_false, negative, sign, if_true]
    exact ⟨rfl, rfl, rfl⟩

/-- A finite operand of 128 or more, in its parts. -/
theorem unpack_large {x : Word} (low : 0x43000000 ≤ x.toNat) (high : x.toNat < 0x7F800000) :
    ∃ d : Dy, unpack binary32 x.toNat = .fin d ∧ d.neg = false ∧ d.man ≠ 0 ∧ 7 ≤ d.log := by
  rw [unpack_binary32, if_neg (by omega), if_neg (by omega)]
  refine ⟨_, rfl, decide_eq_false (by omega), Nat.succ_ne_zero _, ?_⟩
  have leading : 23 ≤ Nat.log2 (x.toNat % 8388608 + 8388608) := (Nat.le_log2 (Nat.succ_ne_zero _)).mpr (Nat.le_add_left _ _)
  rw [Dy.log]
  dsimp only
  omega

theorem special_exp2_large {x : Word} (low : 0x43000000 ≤ x.toNat) (high : x.toNat < 0x7F800000) :
    special .exp2 x = (0x7F800000, flagOF ||| flagNX) := by
  obtain ⟨d, value, positive, nonzero, large⟩ := unpack_large low high
  obtain ⟨sign, magnitude, huge⟩ := specFin_exp2_large positive nonzero large
  simp only [special, value, nonzero, if_false, roundDy_overflow magnitude huge, sign]
  rfl

/-! ### The statement -/

/-- Settles O14: the NaNs, the negative operands and the large powers by the laws above, the single words by their values. -/
theorem specialFunctionSpecials : Obligations.SpecialFunctionSpecials := by
  unfold Obligations.SpecialFunctionSpecials
  refine ⟨fun g x nan => special_nan g (decide_eq_true nan), rfl, rfl, rfl, rfl, rfl, rfl, rfl,
    fun x sign nonzero number => special_negative sign nonzero (decide_eq_false ?_), rfl, rfl, rfl, rfl,
    fun x low high => special_exp2_large low high, rfl, rfl, rfl, ?infinite, rfl, rfl⟩
  · have top : 2 ^ 31 ≤ x.toNat := BitVec.toNat_ge_of_msb_true sign
    omega
  case infinite =>
    rintro x (rfl | rfl)
    · exact ⟨rfl, rfl⟩
    · exact ⟨rfl, rfl⟩

end Sys2Proof.Machine
end

section
/-! SUPPORT. Shuffles (R104) and byte words (R108): the source lanes, and the bytes of words and of runs of registers. -/

namespace Sys2Proof.Machine

/-- A vector word that computes the lanes `g` from the state. -/
theorem exec_putVec {i : Instr} {s : State} (issues : Issues i s) (p : Option Prefix) (d : BitVec 7) (f : State → Nat → Word)
    (meaning : exec i s = vword i s fun s => putVec s p d (f s)) {g : Nat → Word} (same : ∀ l, f s l = g l) :
    ∃ t, exec i s = .next t ∧ VecResult i p d g s t := by
  obtain rfl : f s = g := funext same
  exact ⟨_, exec_vword issues (effect := fun s => putVec s p d (f s)) meaning, putVec_popped issues p d _⟩

/-- A lane number modulo a width that is a power of two is its low bits (R104). -/
theorem mod_width {w : Nat} (power : ∃ k, w = 2 ^ k ∧ k ≤ 6) (n : Nat) : n % w = n &&& (w - 1) := by
  obtain ⟨k, rfl, -⟩ := power
  exact (Nat.and_two_pow_sub_one_eq_mod n k).symm

/-! ### Bytes -/

theorem byteOf_eq (x i : Nat) : byteOf x i = x / 256 ^ i % 256 := by
  rw [byteOf, Nat.pow_mul]

theorem byteOf_lt (x i : Nat) : byteOf x i < 256 := Nat.mod_lt _ (by decide)

theorem testBit_byteOf (x i t : Nat) : (byteOf x i).testBit t = (decide (t < 8) && x.testBit (8 * i + t)) := by
  have byte : byteOf x i = x / 2 ^ (8 * i) % 2 ^ 8 := rfl
  rw [byte, Nat.testBit_mod_two_pow, Nat.testBit_div_two_pow, Nat.add_comm t]

/-- A word made of four bytes has those bytes. -/
theorem byteOf_ofBytes {f : Nat → Nat} (small : ∀ i, f i < 256) {i : Nat} (hi : i < 4) :
    (ofBytes f).toNat / 256 ^ i % 256 = f i := by
  have h0 := small 0
  have h1 := small 1
  have h2 := small 2
  have h3 := small 3
  rw [ofBytes, BitVec.toNat_ofNat]
  interval_cases i <;> omega

/-- Byte `j` of a run of registers is a byte of one of them (R33). -/
theorem byteOf_laneRun (s : State) (r n l : Nat) {j : Nat} (hj : j < 4 * n) :
    byteOf (laneRun s r n l) j = byteOf (readV s (r + j / 4) l).toNat (j % 4) := by
  refine Nat.eq_of_testBit_eq fun t => ?_
  rw [testBit_byteOf, testBit_byteOf, laneRun, testBit_bitString fun i => readV s (r + i) l]
  by_cases ht : t < 8
  · rw [show (8 * j + t) / 32 = j / 4 by omega, show (8 * j + t) % 32 = 8 * (j % 4) + t by omega,
      decide_eq_true (show j / 4 < n by omega), Bool.true_and]
    rfl
  · simp [ht]

/-- A byte word: each byte of a lane is computed from the state. -/
theorem exec_byteWord {i : Instr} {s : State} (issues : Issues i s) (p : Option Prefix) (d : BitVec 7)
    (f : State → Nat → Nat → Nat) (meaning : exec i s = vword i s fun s => putVec s p d fun l => ofBytes (f s l))
    (small : ∀ l k, f s l k < 256) {g : Nat → Nat → Nat} (same : ∀ l k, k < 4 → f s l k = g l k) :
    ∃ t h, exec i s = .next t ∧ VecResult i p d h s t ∧ ∀ l k, k < 4 → (h l).toNat / 256 ^ k % 256 = g l k :=
  ⟨_, fun l => ofBytes (f s l), exec_vword issues (effect := fun s => putVec s p d fun l => ofBytes (f s l)) meaning,
    putVec_popped issues p d _, fun l k hk => (byteOf_ofBytes (small l) hk).trans (same l k hk)⟩

/-! ### The statement -/

/-- Settles O16: the shuffles read their source lane, and the byte words choose bytes of a run of registers. -/
theorem shuffleAndByteWords : Obligations.ShuffleAndByteWords := by
  unfold Obligations.ShuffleAndByteWords
  refine ⟨fun p d a b s issues power => ?shfl, fun p d a b s issues power => ?shflx, fun p d a b s issues => ?shflu,
    fun p d a b s issues => ?shfld, fun p d a b s issues power => ?vbcast, fun p d a b s issues => ?blut,
    fun p d a b s issues => ?bluth, fun p d a b s issues => ?bprm⟩
  case shfl =>
    exact exec_putVec issues p d (fun s l => srcA s p a ((srcB s p b l).toNat % (curWarp s).width)) rfl fun l => by
      rw [mod_width power]
  case shflx =>
    exact exec_putVec issues p d (fun s l => srcA s p a (l ^^^ ((scaB s p b).toNat % (curWarp s).width))) rfl fun l => by
      rw [mod_width power]; rfl
  case shflu =>
    exact exec_putVec issues p d
      (fun s l => srcA s p a (if l < (scaB s p b).toNat then l else l - (scaB s p b).toNat)) rfl fun _ => rfl
  case shfld =>
    exact exec_putVec issues p d (fun s l => srcA s p a
      (if (curWarp s).width ≤ l + (scaB s p b).toNat then l else l + (scaB s p b).toNat)) rfl fun _ => rfl
  case vbcast =>
    exact exec_putVec issues p d (fun s _ => srcA s p a ((scaB s p b).toNat % (curWarp s).width)) rfl fun _ => by
      rw [mod_width power]; rfl
  case blut =>
    refine exec_byteWord issues p d
      (fun s l k => byteOf (laneRun s (regB s p b) 4 l) (byteOf (srcA s p a l).toNat k % 16)) rfl (fun _ _ => byteOf_lt _ _)
      fun l k _ => ?_
    rw [byteOf_laneRun _ _ _ _ (by omega), byteOf_eq, byteOf_eq, Nat.mod_mod_of_dvd _ (by decide)]
  case bluth =>
    refine exec_byteWord issues p d
      (fun s l k => byteOf (laneRun s (regB s p b) 4 l) (byteOf (srcA s p a l).toNat k / 16)) rfl (fun _ _ => byteOf_lt _ _)
      fun l k _ => ?_
    have low := byteOf_lt (srcA s p a l).toNat k
    rw [byteOf_laneRun _ _ _ _ (by omega), byteOf_eq, byteOf_eq]
  case bprm =>
    refine exec_byteWord issues p d (fun s l k => if 128 ≤ byteOf (srcB s p b l).toNat k then 0
      else byteOf (laneRun s (regA s p a) 2 l) (byteOf (srcB s p b l).toNat k % 8)) rfl (fun l k => ?_) fun l k _ => ?_
    · split
      · decide
      · exact byteOf_lt _ _
    · rw [byteOf_laneRun _ _ _ _ (by omega), Nat.mod_mod_of_dvd _ (show 4 ∣ 8 by decide), byteOf_eq, byteOf_eq]

end Sys2Proof.Machine
end

section
/-! SUPPORT. Matrix words at issue (R113 to R117, R119, R122, R126, R130): the entry of the context's queue, the legal format
blocks, and the order of the checks of an `MMA`. -/

namespace Sys2Proof.Machine

/-! ### The queue of a context (R126) -/

@[simp] theorem matrixQueue_setQueue (c : CoreSt) (ctx : Nat) (l : List MEntry) : matrixQueue (setQueue c ctx l) ctx = l := by
  by_cases h : ctx = 0 <;> simp [matrixQueue, setQueue, h]

/-- A queue's change touches nothing else of its core. -/
theorem setQueue_rest (c : CoreSt) (ctx : Nat) (l : List MEntry) : { setQueue c ctx l with q0 := c.q0, q1 := c.q1 } = c := by
  by_cases h : ctx = 0 <;> simp [setQueue, h]

/-- The core of a warp whose matrix word has entered the queue of context `ctx`. -/
theorem pushMatrix_eq (s : State) (c : Cls) (act zer : Dword) (units : List MUnit) (checked : Option (List (List Word)))
    (m : MOp) : pushMatrix s c act zer units checked m =
      setCore (pushOp s c false { newOp s .matrix with scope := 0, active := act, zeroed := zer, units := units })
        (curWarp s).core (setQueue (coreOf s (curWarp s).core) ((curBlock s).ctx.getD 0)
          (matrixQueue (coreOf s (curWarp s).core) ((curBlock s).ctx.getD 0) ++
            [⟨s.cur, (curWarp s).nextOp, m, act, false, checked, [], [], [], [], false⟩])) := by
  by_cases h : (curBlock s).ctx.getD 0 = 0 <;> simp only [pushMatrix, setQueue, matrixQueue, h, if_true, if_false] <;> rfl

/-- An operation that keeps its flag changes no flag of the warp as it enters the list. -/
theorem pushOp_late (s : State) (c : Cls) (o : PendOp) : ∃ h, pushOp s c false o = setCur s (setEntry { curWarp s with
    pend := (curWarp s).pend ++ [{ o with flag := clsFlag (curEntry s) c }], nextOp := (curWarp s).nextOp + 1 }
      s.frag { remIssued (curEntry s) c with holds := h }) := ⟨_, rfl⟩

/-- The entry in execution of a warp that replaces it. -/
theorem curEntry_setCore_setEntry (s : State) (w : Warp) (x : Entry) (k : Nat) (c : CoreSt) :
    curEntry (setCore (setCur s (setEntry w s.frag x)) k c) = x := by
  rw [curEntry, show curWarp (setCore (setCur s (setEntry w s.frag x)) k c) = setEntry w s.frag x from curWarp_setCur _ _]
  exact entryOf_setEntry_same _ _ _

theorem pushMatrix_issued (s : State) (c : Cls) (act zer : Dword) (units : List MUnit)
    (checked : Option (List (List Word))) (m : MOp) :
    MatrixIssued c act zer units checked m s (pushMatrix s c act zer units checked m) := by
  obtain ⟨holds, push⟩ := pushOp_late s c { newOp s .matrix with scope := 0, active := act, zeroed := zer, units := units }
  obtain ⟨remA, remB, issued⟩ := remIssued_entry (curEntry s) c
  rw [pushMatrix_eq, push]
  have warp (w : Warp) (x : CoreSt) : curWarp (setCore (setCur s w) (curWarp s).core x) = w := curWarp_setCur s w
  refine ⟨?_, ?_, fun k other => ?_, ?_, ?_, ?_, fun e other => ?_, ?_, fun k other => ?_, rfl⟩
  · rw [coreOf_setCore_same, matrixQueue_setQueue]
  · rw [coreOf_setCore_same, setQueue_rest]
  · rw [coreOf_setCore, if_neg (Ne.symm other)]; rfl
  · rw [warp]; rfl
  · rw [warp]; rfl
  · rw [curEntry_setCore_setEntry, issued]
  · rw [warp, entryOf_setEntry, if_neg (Ne.symm other)]; rfl
  · rw [warp]; rfl
  · rw [warpOf_setCore, warpOf_setCur, if_neg (Ne.symm other)]

/-- A matrix word other than an `MMA` that issues. -/
theorem exec_matrixIssued {i : Instr} {s : State} {c : Cls} (issues : Issues i s) (act zer : State → Dword) (m : State → MOp)
    (meaning : exec i s = word i s fun s => pushMatrix s c (act s) (zer s) [] none (m s)) :
    ∃ t, exec i s = .next t ∧ MatrixIssued c (act s) (zer s) [] none (m s) s t :=
  ⟨_, by rw [meaning, word_next issues], pushMatrix_issued ..⟩

/-! ### The checks of an `MMA` (R113, R114, R116, R117) -/

theorem isBfp_iff (f : Nat) : isBfp f = true ↔ f = 2 ∨ f = 4 ∨ f = 8 := by simp [isBfp, or_assoc]

/-- The descriptors of A and of B in the format block of the word (R114). -/
abbrev descA (s : State) (p : Option Prefix) : MDesc := matrixDesc (readP s (formatBase p))
abbrev descB (s : State) (p : Option Prefix) : MDesc := matrixDesc (readP s (formatBase p + 2))

/-- A format block that R113 and R114 allow. -/
abbrev FormatsLegal (s : State) (p : Option Prefix) : Prop :=
  ((descA s p).good && (descB s p).good && fmtsOk (descA s p).fmt (descB s p).fmt) = true

/-- The same of the bits of its two descriptors. -/
theorem formatsLegal_iff (s : State) (p : Option Prefix) :
    let x := readP s (formatBase p)
    let y := readP s (formatBase p + 2)
    let f := (x.extractLsb' 56 4).toNat
    let g := (y.extractLsb' 56 4).toNat
    (x.extractLsb' 62 2 = 0 ∧ y.extractLsb' 62 2 = 0 ∧ x.getLsbD 55 = false ∧ y.getLsbD 55 = false ∧
      ((f = 2 ∨ f = 4 ∨ f = 8) ∧ (g = 2 ∨ g = 4 ∨ g = 8) ∨ f = 9 ∧ g = 9 ∨ f = 10 ∧ g = 10)) ↔ FormatsLegal s p := by
  simp only [FormatsLegal, descA, descB, matrixDesc, fmtsOk, Bool.and_eq_true, Bool.or_eq_true, Bool.not_eq_true',
    isBfp_iff, beq_iff_eq, and_assoc, and_left_comm, or_assoc]
  rfl

/-- A legal pair is of block floating point or of 16-bit formats, as its first format says. -/
theorem FormatsLegal.bfp {s : State} {p : Option Prefix} (legal : FormatsLegal s p) :
    isBfp (descA s p).fmt = !decide ((descA s p).fmt = 9 ∨ (descA s p).fmt = 10) := by
  simp only [FormatsLegal, fmtsOk, Bool.and_eq_true, Bool.or_eq_true, isBfp_iff, beq_iff_eq] at legal
  obtain ⟨-, (⟨h | h | h, -⟩ | ⟨h, -⟩) | ⟨h, -⟩⟩ := legal <;> simp [h, isBfp]

theorem runFault_none {s : State} {r n : Nat} (fits : r + n ≤ (curWarp s).vregs) : runFault s r n = none := by
  simp [runFault, fits]

theorem runFault_some {s : State} {r n : Nat} (beyond : (curWarp s).vregs < r + n) :
    runFault s r n = some (max r (curWarp s).vregs) := by simp [runFault, beyond]

/-- The bytes of the exponent ranges of A and of B: none for a 16-bit format (R115). -/
def scaleBytesA (s : State) (p : Option Prefix) : Nat :=
  if (descA s p).fmt = 9 ∨ (descA s p).fmt = 10 then 0
  else expBytesA (descA s p).fmt (descB s p).fmt (descA s p).len (curWarp s).width
def scaleBytesB (s : State) (p : Option Prefix) : Nat :=
  if (descA s p).fmt = 9 ∨ (descA s p).fmt = 10 then 0 else expBytesB (descA s p).fmt (descB s p).fmt (descB s p).len

/-- The ranges lie in one stash region each, if the formats have exponents (R115). -/
def ScalesMapped (s : State) (p : Option Prefix) : Prop :=
  (descA s p).fmt = 9 ∨ (descA s p).fmt = 10 ∨
    (inOneRegion (curBlock s) (descA s p).scale.toNat (scaleBytesA s p) = true ∧
      inOneRegion (curBlock s) (descB s p).scale.toNat (scaleBytesB s p) = true)

/-- Both runs of registers lie inside the allocation (R116, R117). -/
def RunsFit (s : State) (p : Option Prefix) (sp : BitVec 1) (a b : BitVec 7) : Prop :=
  regA s p a + regsA (descA s p).fmt (descB s p).fmt (decide (sp = 1#1)) ≤ (curWarp s).vregs ∧
    regB s p b + regsB (descA s p).fmt (descB s p).fmt (curWarp s).width ≤ (curWarp s).vregs

/-- The units of the exponent reads (R115). -/
def scaleUnits (s : State) (p : Option Prefix) : List MUnit :=
  expUnits s (descA s p).scale (scaleBytesA s p) ++ expUnits s (descB s p).scale (scaleBytesB s p)

/-- The operation as the queue holds it. -/
def mmaOp (p : Option Prefix) (sp z nb na : BitVec 1) (tile : BitVec 4) (a b : BitVec 7) (s : State) : MOp :=
  .mma (descA s p).fmt (descB s p).fmt (descA s p).len (descB s p).len (decide (sp = 1#1)) (decide (z = 1#1))
    (decide (nb = 1#1)) (decide (na = 1#1)) tile.toNat (regA s p a) (regB s p b) (descA s p).scale (descB s p).scale

section
variable {s : State} {p : Option Prefix} (legal : FormatsLegal s p)
include legal

theorem FormatsLegal.scaleBytesA : (if isBfp (descA s p).fmt = true
    then expBytesA (descA s p).fmt (descB s p).fmt (descA s p).len (curWarp s).width else 0) = scaleBytesA s p := by
  rw [legal.bfp]
  simp only [Bool.not_eq_true', decide_eq_false_iff_not, ite_not, Machine.scaleBytesA]

theorem FormatsLegal.scaleBytesB : (if isBfp (descA s p).fmt = true
    then expBytesB (descA s p).fmt (descB s p).fmt (descB s p).len else 0) = scaleBytesB s p := by
  rw [legal.bfp]
  simp only [Bool.not_eq_true', decide_eq_false_iff_not, ite_not, Machine.scaleBytesB]

theorem FormatsLegal.unmapped : (isBfp (descA s p).fmt &&
    !(inOneRegion (curBlock s) (descA s p).scale.toNat (Machine.scaleBytesA s p) &&
      inOneRegion (curBlock s) (descB s p).scale.toNat (Machine.scaleBytesB s p))) = true ↔ ¬ ScalesMapped s p := by
  rw [legal.bfp, ← Bool.not_or]
  simp only [ScalesMapped, Bool.not_eq_true', ← Bool.not_eq_true, Bool.or_eq_true, decide_eq_true_iff, Bool.and_eq_true,
    or_assoc]

end

/-- An `MMA` traps on the metadata of a sparse A as it issues (R122, R123). -/
abbrev ChecksMeta (s : State) (sp : BitVec 1) : Prop := sp = 1#1 ∧ (curWarp s).ctl.mstat.getLsbD 7 = true

section
variable {p : Option Prefix} {sp z nb na : BitVec 1} {tile : BitVec 4} {a b : BitVec 7} {s : State}
  (issues : Issues (.mma p sp z nb na tile a b) s)
include issues

/-- The format block decides first (R113, R114). -/
theorem exec_mma_malformed (bad : ¬ FormatsLegal s p) :
    exec (.mma p sp z nb na tile a b) s = .next (takeTrap s 16 255 0 0) := by
  change execMma p sp z nb na tile a b s = _
  simp only [execMma, word_next issues, Bool.eq_false_of_not_eq_true bad, if_true]
  rfl

variable (legal : FormatsLegal s p)
include legal

/-- Then the runs of registers (R116, R117). -/
theorem exec_mma_beyond {r : Nat}
    (beyond : (runFault s (regA s p a) (regsA (descA s p).fmt (descB s p).fmt (decide (sp = 1#1)))).or
      (runFault s (regB s p b) (regsB (descA s p).fmt (descB s p).fmt (curWarp s).width)) = some r) :
    exec (.mma p sp z nb na tile a b) s = .next (takeTrap s 4 255 (BitVec.ofNat 64 r) 0) := by
  change execMma p sp z nb na tile a b s = _
  simp only [execMma, word_next issues, legal, beq_eq_decide, beyond, Bool.true_eq_false, if_false]
  rfl

variable (fits : RunsFit s p sp a b)
include fits

/-- Then the exponent ranges (R115). -/
theorem exec_mma_unmapped (unmapped : ¬ ScalesMapped s p) :
    exec (.mma p sp z nb na tile a b) s = .next (takeTrap s 16 255 0 0) := by
  change execMma p sp z nb na tile a b s = _
  simp only [execMma, word_next issues, legal, beq_eq_decide, runFault_none fits.1,
    runFault_none fits.2, Option.or_none, legal.scaleBytesA, legal.scaleBytesB, legal.unmapped, unmapped,
    Bool.true_eq_false, not_false_eq_true, if_true, if_false]
  rfl

variable (mapped : ScalesMapped s p)
include mapped

/-- Then the metadata (R122). -/
theorem exec_mma_badMeta (checks : ChecksMeta s sp) {l : Nat}
    (bad : badMeta s (activeMask s (pfx p)) (regA s p a) (descA s p).fmt (descB s p).fmt = some l) :
    exec (.mma p sp z nb na tile a b) s = .next (takeTrap (noteMstat s s.cur 4) 16 l (BitVec.ofNat 64 l) 0) := by
  change execMma p sp z nb na tile a b s = _
  simp only [execMma, word_next issues, legal, beq_eq_decide, runFault_none fits.1,
    runFault_none fits.2, Option.or_none, legal.scaleBytesA, legal.scaleBytesB, legal.unmapped, mapped, if_pos checks, bad,
    Bool.true_eq_false, not_true_eq_false, if_false]

/-- What passes the checks takes a queue entry (R119, R126). -/
theorem exec_mma_queued {checked : Option (List (List Word))}
    (passes : (if ChecksMeta s sp then badMeta s (activeMask s (pfx p)) (regA s p a) (descA s p).fmt (descB s p).fmt else none) =
      none)
    (kept : checked = if ChecksMeta s sp then
      some (runRows (curWarp s) (regA s p a) (regsA (descA s p).fmt (descB s p).fmt true)) else none) :
    ∃ t, exec (.mma p sp z nb na tile a b) s = .next t ∧
      MatrixIssued .b (activeMask s (pfx p)) 0 (scaleUnits s p) checked (mmaOp p sp z nb na tile a b s) s t := by
  have enters : exec (.mma p sp z nb na tile a b) s = .next (pushMatrix s .b (activeMask s (pfx p)) 0 (scaleUnits s p) checked
      (mmaOp p sp z nb na tile a b s)) := by
    change execMma p sp z nb na tile a b s = _
    simp only [execMma, word_next issues, legal, beq_eq_decide, runFault_none fits.1, runFault_none fits.2, Option.or_none,
      legal.scaleBytesA, legal.scaleBytesB, legal.unmapped, mapped, passes, ← kept, Bool.true_eq_false, not_true_eq_false,
      if_false]
    rfl
  exact ⟨_, enters, pushMatrix_issued ..⟩

end

/-! ### The statement -/

/-- Settles O41: each word that passes its checks enters the queue by `pushMatrix`; the checks of an `MMA` decide in their order. -/
theorem matrixIssue : Obligations.MatrixIssue := by
  refine ⟨fun p d s issues => ?_, fun p d a b s issues => ?_, fun p d a b s issues => ?_, fun p d a b s issues => ?_,
    fun p d s issues => ?_, fun p d a b s issues => ?_, fun p sp z nb na tile a b s issues => ?_⟩
  · exact exec_matrixIssued issues (fun s => activeMask s (pfx p)) (fun _ => 0) (fun _ => .accz d.toNat) rfl
  · exact exec_matrixIssued issues (fun s => activeMask s (pfx p)) (fun s => zeroMask s (pfx p))
      (fun s => .accrd (regD s p d) a.toNat b.toNat (BitVec.ofNat 3 (modeOf s p))) rfl
  · exact exec_matrixIssued issues (fun s => activeMask s (pfx p)) (fun _ => 0)
      (fun s => .accwr d.toNat (regA s p a) b.toNat) rfl
  · exact exec_matrixIssued issues (fun s => activeMask s (pfx p)) (fun _ => 0)
      (fun s => .accadd d.toNat (regA s p a) b.toNat) rfl
  · exact exec_matrixIssued issues (fun _ => 0) (fun _ => 0) (fun _ => .mstatrd (numD p d)) rfl
  · exact exec_matrixIssued issues (fun s => activeMask s (pfx p)) (fun _ => 0)
      (fun _ => .mctx d.toNat a.toNat (decide (b = 1#1))) rfl
  intro i base x y fa fb la lb bfp legal ra rb n v va vb ea eb fits mapped op
  have formats : legal ↔ FormatsLegal s p := formatsLegal_iff s p
  refine ⟨fun bad => exec_mma_malformed issues (mt formats.mpr bad), fun ok beyond => ?_, fun ok inside beyond => ?_,
    fun ok inside unmapped => exec_mma_unmapped issues (formats.mp ok) inside unmapped,
    fun ok inside inRegions unchecked => ?_, fun ok inside inRegions sparse trapen => ⟨fun l bad => ?_, fun good => ?_⟩⟩
  · exact exec_mma_beyond issues (formats.mp ok) (congrArg (Option.or · _) (runFault_some beyond))
  · exact exec_mma_beyond issues (formats.mp ok) (congrArg₂ Option.or (runFault_none inside) (runFault_some beyond))
  · have skips : ¬ ChecksMeta s sp := by
      rintro ⟨sparse, trapen⟩
      rcases unchecked with dense | off
      · rw [sparse] at dense; exact absurd dense (by decide)
      · rw [trapen] at off; cases off
    exact exec_mma_queued issues (formats.mp ok) inside inRegions (if_neg skips) (if_neg skips).symm
  · exact exec_mma_badMeta issues (formats.mp ok) inside inRegions ⟨sparse, trapen⟩ bad
  · have checks : ChecksMeta s sp := ⟨sparse, trapen⟩
    exact exec_mma_queued issues (formats.mp ok) inside inRegions ((if_pos checks).trans good) (if_pos checks).symm

end Sys2Proof.Machine
end

section
/-! SUPPORT. The matrix engine takes an entry (R115, R119, R126): a read of an engine keeps every register and every core, and the
head of the queue goes on with its operands. -/

namespace Sys2Proof.Machine

/-! ### What a read of an engine keeps (R184, R192, R193, R328) -/

/-- No core and no scalar or vector register of any warp changes. -/
structure RegistersKept (s t : State) : Prop where
  cores : t.cores = s.cores
  warps : ∀ k, (warpOf t k).scalars = (warpOf s k).scalars ∧ (warpOf t k).vecs = (warpOf s k).vecs

namespace RegistersKept

theorem refl (s : State) : RegistersKept s s := ⟨rfl, fun _ => ⟨rfl, rfl⟩⟩

theorem trans {s t u : State} (h : RegistersKept s t) (k : RegistersKept t u) : RegistersKept s u :=
  ⟨k.cores.trans h.cores, fun j => ⟨(k.warps j).1.trans (h.warps j).1, (k.warps j).2.trans (h.warps j).2⟩⟩

/-- Traffic changes accounts only, and whatever else leaves cores and warps as they are. -/
theorem of_traffic {s t : State} (h : TrafficOnly s t) : RegistersKept s t :=
  ⟨congrArg (fun u => u.cores) h, fun k => by rw [h.warpOf k]; exact ⟨rfl, rfl⟩⟩

theorem of_same {s t u : State} (h : RegistersKept s t) (cores : u.cores = t.cores) (warps : u.warps = t.warps) :
    RegistersKept s u := h.trans ⟨cores, fun k => by rw [warpOf, warps]; exact ⟨rfl, rfl⟩⟩

theorem setBlock (s : State) (k : Nat) (b : Block) : RegistersKept s (setBlock s k b) := ⟨rfl, fun _ => ⟨rfl, rfl⟩⟩

theorem setDie (s : State) (k : Nat) (d : Die) : RegistersKept s (setDie s k d) := ⟨rfl, fun _ => ⟨rfl, rfl⟩⟩

/-- A warp replaced by one with the same registers. -/
theorem setWarp (s : State) (k : Nat) {w : Warp} (scalars : w.scalars = (warpOf s k).scalars)
    (vecs : w.vecs = (warpOf s k).vecs) : RegistersKept s (setWarp s k w) := by
  refine ⟨rfl, fun j => ?_⟩
  rw [warpOf_setWarp]
  split
  · rename_i same; subst same; exact ⟨scalars, vecs⟩
  · exact ⟨rfl, rfl⟩

theorem foldl {α : Type} {f : State → α → State} (h : ∀ t x, RegistersKept t (f t x)) (s : State) (l : List α) :
    RegistersKept s (l.foldl f s) := by
  induction l generalizing s with
  | nil => exact refl s
  | cons x l ih => exact (h s x).trans (ih _)

end RegistersKept

theorem snoopBy_keeps (own : Nat) (s : State) (skip : Option (Nat × Nat × Bool)) (a n : Nat) (drop : Bool) :
    RegistersKept s (snoopBy own s skip a n drop) :=
  (RegistersKept.foldl (fun t _ => .of_traffic (noteLines_traffic t _ _ _ _)) s _).of_same rfl rfl

theorem fillLine_keeps (s : State) (k : Nat) (u : MUnit) : RegistersKept s (fillLine s k u) := by
  unfold fillLine
  split
  · exact .refl s
  · exact ((snoopBy_keeps ..).trans (.of_traffic (homeUse_traffic ..))).of_same rfl rfl

theorem dropReplaced_keeps (s : State) (k : Nat) (u : MUnit) : RegistersKept s (dropReplaced s k u) := by
  unfold dropReplaced
  dsimp only
  split
  · exact (RegistersKept.of_traffic (noteLines_traffic s k _ _ _)).of_same rfl rfl
  · exact .refl s

theorem unitBytes_keeps (s : State) (k : Nat) (u : MUnit) : RegistersKept s (unitBytes s k u).1 := by
  unfold unitBytes
  dsimp only
  split
  · split
    · exact (fillLine_keeps s k u).trans (dropReplaced_keeps ..)
    · exact fillLine_keeps s k u
  · exact snoopBy_keeps ..

theorem unitRead_keeps (s : State) (k : Nat) (u : MUnit) : RegistersKept s (unitRead s k u).1 := by
  unfold unitRead
  dsimp only
  split
  · exact unitBytes_keeps s k u
  · exact (unitBytes_keeps s k u).trans (.of_traffic (homeUse_traffic ..))

/-- A replay that ends stops its warps, registers and all. -/
theorem abandonReplay_keeps (s : State) (k : Nat) : RegistersKept s (abandonReplay s k) := by
  have stops (t : State) (l : List Nat) : RegistersKept t (l.foldl (fun t w => if (warpOf t w).status = .exited then t
      else setWarp t w { warpOf t w with status := .stopped, lease := none }) t) := by
    refine .foldl (fun t w => ?_) t l
    split
    · exact .refl t
    · exact .setWarp t w rfl rfl
  unfold abandonReplay
  dsimp only
  split
  · exact ((RegistersKept.setDie ..).trans (stops ..)).trans (.setBlock ..)
  · exact (stops ..).trans (.setBlock ..)

theorem engRead_keeps (s : State) (c : Client) (va : Dword) (n : Nat) : RegistersKept s (engRead s c va n).1 := by
  unfold engRead
  split
  · split
    · exact abandonReplay_keeps ..
    · split
      · exact .refl s
      · split
        · exact .refl s
        · exact unitRead_keeps ..
  all_goals exact .refl s

theorem expRun_keeps (s : State) (c : Client) (va : Dword) (l : List (Nat × Nat)) : RegistersKept s (expRun s c va l).1 := by
  induction l generalizing s with
  | nil => exact .refl s
  | cons e l ih =>
    have first := engRead_keeps s c (va + BitVec.ofNat 64 e.1) e.2
    unfold expRun
    split
    · rename_i s1 read
      rw [read] at first; exact first
    · rename_i s1 r _ read
      rw [read] at first
      have run := ih s1
      split
      · rename_i s2 rest
        rw [rest] at run; exact first.trans run
      · rename_i s2 d bad rest
        rw [rest] at run
        split <;> exact first.trans run

/-! ### The head of a queue (R126) -/

/-- The context whose head the engine looks at. -/
def engineTurn (c : CoreSt) : Nat := if headWaits c c.turn then c.turn else 1 - c.turn

theorem exec_matrixEngineEntry (core : Nat) (s : State) :
    exec (.matrixEngineEntry core) s = .next (takeHead s core (engineTurn (coreOf s core))) := by
  change execMatrixEngineEntry core s = _
  unfold execMatrixEngineEntry engineTurn
  dsimp only
  split <;> rfl

/-- An operation that has read its registers keeps those of its warp. -/
theorem readsDone_registers (w : Warp) (op : Nat) : (readsDone w op).scalars = w.scalars ∧ (readsDone w op).vecs = w.vecs := by
  unfold readsDone
  split
  · exact ⟨rfl, rfl⟩
  · rename_i o _
    obtain ⟨g, done⟩ := flagDone_warp w o.flag 1
    dsimp only
    rw [done]
    exact ⟨rfl, rfl⟩

@[simp] theorem setQueue_acc (c : CoreSt) (ctx : Nat) (l : List MEntry) : (setQueue c ctx l).acc = c.acc := by
  unfold setQueue; split <;> rfl

/-- The engine has taken a head: the entry `e` with its operands stands in its place, and the other context has the next turn
(R119, R126); `u` is the state after the fills. -/
structure EntryTaken (core ctx : Nat) (e : MEntry) (rest : List MEntry) (s u t : State) : Prop where
  queue : matrixQueue (coreOf t core) ctx = e :: rest
  turn : (coreOf t core).turn = 1 - ctx
  acc : (coreOf t core).acc = (coreOf s core).acc
  cores : ∀ k, k ≠ core → coreOf t k = coreOf s k
  registers : ∀ k, (warpOf t k).scalars = (warpOf s k).scalars ∧ (warpOf t k).vecs = (warpOf s k).vecs
  outside : { t with warps := u.warps, cores := u.cores } = u

section
variable {s : State} {core ctx : Nat} {e : MEntry} {rest : List MEntry}
  (head : matrixQueue (coreOf s core) ctx = e :: rest) (waits : e.started = false) (ready : exponentsReady s e = true)
include head waits ready

theorem takeHead_of_wait (unread : (readOperands s e).2 = none) : takeHead s core ctx = s := by
  obtain ⟨u, read⟩ : ∃ u, readOperands s e = (u, none) := ⟨_, Prod.ext rfl unread⟩
  simp [takeHead, head, waits, ready, read]

theorem takeHead_of_read {u : State} {e' : MEntry} (read : readOperands s e = (u, some e')) (kept : RegistersKept s u) :
    EntryTaken core ctx e' rest s u (takeHead s core ctx) := by
  have cores (k : Nat) : coreOf u k = coreOf s k := by rw [coreOf, kept.cores]; rfl
  obtain ⟨v, taken, same, vcores, vrest⟩ : ∃ v, takeHead s core ctx = setCore v core
        { setQueue (coreOf v core) ctx (e' :: rest) with turn := 1 - ctx } ∧
      RegistersKept u v ∧ (∀ k, coreOf v k = coreOf u k) ∧ { v with warps := u.warps } = u := by
    refine ⟨_, by simp only [takeHead, head, waits, ready, read]; rfl, ?_, fun k => ?_, ?_⟩
    all_goals split
    · obtain ⟨scalars, vecs⟩ := readsDone_registers (warpOf u e.warp) e.op
      exact .setWarp u e.warp scalars vecs
    · exact .refl u
    all_goals rfl
  have queue : matrixQueue { setQueue (coreOf v core) ctx (e' :: rest) with turn := 1 - ctx } ctx = e' :: rest :=
    matrixQueue_setQueue (coreOf v core) ctx (e' :: rest)
  rw [taken]
  refine ⟨?_, ?_, ?_, fun k other => ?_, fun k => (kept.trans same).warps k, ?_⟩
  · rw [coreOf_setCore_same, queue]
  · rw [coreOf_setCore_same]
  · rw [coreOf_setCore_same]; exact (setQueue_acc ..).trans (by rw [vcores, cores])
  · rw [coreOf_setCore, if_neg (Ne.symm other), vcores, cores]
  · have same := congrArg (fun x : State => { x with cores := u.cores }) vrest
    exact same

end

/-- The engine's turn, when the head has its operands. -/
theorem matrixEngineEntry_takes {s u : State} {core : Nat} {e e' : MEntry} {rest : List MEntry}
    (head : matrixQueue (coreOf s core) (engineTurn (coreOf s core)) = e :: rest) (waits : e.started = false)
    (ready : exponentsReady s e = true) (read : readOperands s e = (u, some e')) (kept : RegistersKept s u) :
    ∃ t, exec (.matrixEngineEntry core) s = .next t ∧ EntryTaken core (engineTurn (coreOf s core)) e' rest s u t :=
  ⟨_, exec_matrixEngineEntry core s, takeHead_of_read head waits ready read kept⟩

/-! ### The operands of an entry (R115, R119) -/

theorem linesOf_zero (va : Nat) : linesOf va 0 = [] := by
  refine List.filterMap_eq_nil_iff.mpr fun i _ => if_neg ?_
  omega

/-- An entry without operands in registers or memory. -/
theorem readOperands_plain (s : State) {e : MEntry}
    (plain : (e.what matches .accz .. | .accrd .. | .mstatrd .. | .mctx ..) = true) :
    readOperands s e = (s, some { e with started := true }) := by
  cases what : e.what <;> simp only [what, Bool.false_eq_true] at plain <;> simp only [readOperands, what]

theorem readOperands_row (s : State) {e : MEntry} {tile a conv : Nat}
    (what : e.what = .accwr tile a conv ∨ e.what = .accadd tile a conv) : readOperands s e =
      (s, some { e with started := true, rows := runRows (warpOf s e.warp) a (convRegs (BitVec.ofNat 2 conv)) }) := by
  rcases what with what | what <;> simp only [readOperands, what]

section
variable {s : State} {e : MEntry} {fa fb la lb : Nat} {sp z nb na : Bool} {tile ra rb : Nat} {sa sb : Dword}
  (what : e.what = .mma fa fb la lb sp z nb na tile ra rb sa sb)
include what

/-- A 16-bit `MMA` reads no exponents. -/
theorem readOperands_half (half : isBfp fa = false) : readOperands s e = (s, some { e with
    started := true, rows := e.checked.getD (runRows (warpOf s e.warp) ra (regsA fa fb sp))
    cols := runRows (warpOf s e.warp) rb (regsB fa fb (warpOf s e.warp).width), expA := [], expB := [], spoi := false }) := by
  simp only [readOperands, what, half, Bool.false_eq_true, if_false, linesOf_zero, expRun]
  rfl

variable (bfp : isBfp fa = true)
include bfp

/-- A block floating-point one waits for the lines of A's exponents, -/
theorem readOperands_waitsA (unread : (expRun s { warpClient s e.warp with warp := e.warp, op := e.op } sa
    (linesOf sa.toNat (expBytesA fa fb la (warpOf s e.warp).width))).2 = none) : (readOperands s e).2 = none := by
  obtain ⟨u, read⟩ : ∃ u, expRun s { warpClient s e.warp with warp := e.warp, op := e.op } sa
    (linesOf sa.toNat (expBytesA fa fb la (warpOf s e.warp).width)) = (u, none) := ⟨_, Prod.ext rfl unread⟩
  simp only [readOperands, what, bfp, if_true, read]

variable {s1 : State} {xa : List Byte} {pa : Bool}
  (readA : expRun s { warpClient s e.warp with warp := e.warp, op := e.op } sa
    (linesOf sa.toNat (expBytesA fa fb la (warpOf s e.warp).width)) = (s1, some (xa, pa)))
include readA

/-- for those of B's, -/
theorem readOperands_waitsB (unread : (expRun s1 { warpClient s e.warp with warp := e.warp, op := e.op } sb
    (linesOf sb.toNat (expBytesB fa fb lb))).2 = none) : (readOperands s e).2 = none := by
  obtain ⟨u, read⟩ : ∃ u, expRun s1 { warpClient s e.warp with warp := e.warp, op := e.op } sb
    (linesOf sb.toNat (expBytesB fa fb lb)) = (u, none) := ⟨_, Prod.ext rfl unread⟩
  simp only [readOperands, what, bfp, if_true, readA, read]

/-- and then has its operands. -/
theorem readOperands_bfp {s2 : State} {xb : List Byte} {pb : Bool}
    (readB : expRun s1 { warpClient s e.warp with warp := e.warp, op := e.op } sb
      (linesOf sb.toNat (expBytesB fa fb lb)) = (s2, some (xb, pb))) : readOperands s e = (s2, some { e with
      started := true, rows := e.checked.getD (runRows (warpOf s e.warp) ra (regsA fa fb sp))
      cols := runRows (warpOf s e.warp) rb (regsB fa fb (warpOf s e.warp).width), expA := xa, expB := xb, spoi := pa || pb }) := by
  simp only [readOperands, what, bfp, if_true, readA, readB]

end

end Sys2Proof.Machine
end

section
/-! SUPPORT. The matrix engine completes an entry (R121, R123, R125, R129, R130): the elements of a tile after its rows are
written, what else an operation changes, and the end of the operation. -/

namespace Sys2Proof.Machine

/-! ### Elements of a tile (R125) -/

theorem getD_accRow (s : State) (core c t i : Nat) {j : Nat} (hj : j < 16) :
    (accRow s core c t i).getD j 0 = Tbl.get 0 (coreOf s core).acc (accKey c t i j) := by
  simp [accRow, hj]

/-- A table after a run of entries from `base` on is set, the first of them with number `n`. -/
theorem get_foldl_set (base n : Nat) (l : List (BitVec 34)) (m : Tbl (BitVec 34)) (key : Nat) :
    Tbl.get 0 ((l.zipIdx n).foldl (fun m e => Tbl.set m (base + e.2) e.1) m) key =
      if base + n ≤ key ∧ key < base + n + l.length then l.getD (key - (base + n)) 0 else Tbl.get 0 m key := by
  induction l generalizing n m with
  | nil => rw [if_neg (by simp only [List.length_nil]; omega)]; rfl
  | cons x l ih =>
    rw [List.zipIdx_cons, List.foldl_cons, ih, Tbl.get_set, List.length_cons]
    by_cases first : base + n = key
    · subst first
      simp
    · by_cases inside : base + n ≤ key ∧ key < base + n + (l.length + 1)
      · obtain ⟨k, rfl⟩ : ∃ k, key = base + n + (k + 1) := ⟨key - (base + n) - 1, by omega⟩
        rw [if_pos inside, if_pos (by omega), show base + n + (k + 1) - (base + n) = k + 1 by omega,
          show base + n + (k + 1) - (base + (n + 1)) = k by omega, List.getD_cons_succ]
      · rw [if_neg inside, if_neg (by omega), if_neg first]

/-- Nothing changes but blocks and the elements of one core. -/
structure ElementsOnly (core : Nat) (s t : State) : Prop where
  same : { coreOf t core with acc := (coreOf s core).acc } = coreOf s core
  outside : { t with blocks := s.blocks, cores := s.cores } = s

namespace ElementsOnly

theorem refl (core : Nat) (s : State) : ElementsOnly core s s := ⟨rfl, rfl⟩

theorem trans {core : Nat} {s t u : State} (h : ElementsOnly core s t) (k : ElementsOnly core t u) : ElementsOnly core s u where
  same := (congrArg (fun c : CoreSt => { c with acc := (coreOf s core).acc }) k.same).trans h.same
  outside := (congrArg (fun x : State => { x with blocks := s.blocks, cores := s.cores }) k.outside).trans h.outside

end ElementsOnly

/-- The undo log changes its block only (R323). -/
theorem logRow_block (s : State) (k core c t i : Nat) : ∃ b, logRow s k core c t i = { s with blocks := b } := by
  unfold logRow
  dsimp only
  split
  · exact ⟨_, rfl⟩
  · split
    · exact ⟨_, rfl⟩
    · exact ⟨_, rfl⟩

theorem setRow_eq (s : State) (k core c t i : Nat) (l : List (BitVec 34)) : ∃ b, setRow s k core c t i l =
    setCore { s with blocks := b } core { coreOf s core with
      acc := l.zipIdx.foldl (fun m e => Tbl.set m (accKey c t i 0 + e.2) e.1) (coreOf s core).acc } := by
  obtain ⟨b, logged⟩ := logRow_block s k core c t i
  exact ⟨b, by rw [setRow, logged]; rfl⟩

theorem setRow_elementsOnly (s : State) (k core c t i : Nat) (l : List (BitVec 34)) :
    ElementsOnly core s (setRow s k core c t i l) := by
  obtain ⟨b, row⟩ := setRow_eq s k core c t i l
  rw [row]
  exact ⟨by rw [coreOf_setCore_same], rfl⟩

/-- The elements after a row of 16 is written: its own, and no other. -/
theorem get_setRow (s : State) (k core c t i : Nat) {l : List (BitVec 34)} (columns : l.length = 16) (key : Nat) :
    Tbl.get 0 (coreOf (setRow s k core c t i l) core).acc key =
      if accKey c t i 0 ≤ key ∧ key < accKey c t i 0 + 16 then l.getD (key - accKey c t i 0) 0
      else Tbl.get 0 (coreOf s core).acc key := by
  obtain ⟨b, row⟩ := setRow_eq s k core c t i l
  rw [row, coreOf_setCore_same]
  have := get_foldl_set (accKey c t i 0) 0 l (coreOf s core).acc key
  rwa [columns] at this

/-! ### The rows of an operation (R121, R130) -/

section
variable (k core c t : Nat) (act : Dword) (f : Nat → Nat → Nat → Nat × Flags)

theorem updateRows_elementsOnly (s : State) (ls : List Nat) : ElementsOnly core s (updateRows s k core c t act f ls).1 := by
  induction ls with
  | nil => exact .refl core s
  | cons i ls ih =>
    unfold updateRows
    dsimp only
    split
    · exact ih.trans (setRow_elementsOnly ..)
    · exact ih

/-- The elements after the first active row of the list is written over what the others leave. -/
theorem get_updateRows_cons (s : State) {i : Nat} (ls : List Nat) (active : act.getLsbD i = true) (key : Nat) :
    Tbl.get 0 (coreOf (updateRows s k core c t act f (i :: ls)).1 core).acc key =
      if accKey c t i 0 ≤ key ∧ key < accKey c t i 0 + 16 then
        BitVec.ofNat 34 (f i (key - accKey c t i 0)
          (Tbl.get 0 (coreOf (updateRows s k core c t act f ls).1 core).acc key).toNat).1
      else Tbl.get 0 (coreOf (updateRows s k core c t act f ls).1 core).acc key := by
  simp only [updateRows, active, if_true]
  rw [get_setRow _ _ _ _ _ _ (by simp [accRow])]
  refine ite_congr rfl (fun inside => ?_) fun _ => rfl
  obtain ⟨j, rfl⟩ : ∃ j, key = accKey c t i 0 + j := ⟨key - accKey c t i 0, by omega⟩
  have column : j < 16 := by omega
  rw [Nat.add_sub_cancel_left, show accKey c t i 0 + j = accKey c t i j from rfl]
  simp [accRow, column]

/-- Elements outside the active rows stay as they are. -/
theorem get_updateRows_other (s : State) {ls : List Nat} {key : Nat}
    (outside : ∀ i ∈ ls, act.getLsbD i = true → ¬ (accKey c t i 0 ≤ key ∧ key < accKey c t i 0 + 16)) :
    Tbl.get 0 (coreOf (updateRows s k core c t act f ls).1 core).acc key = Tbl.get 0 (coreOf s core).acc key := by
  induction ls with
  | nil => rfl
  | cons i ls ih =>
    have rest := ih fun m hm => outside m (List.mem_cons_of_mem _ hm)
    by_cases active : act.getLsbD i = true
    · rw [get_updateRows_cons _ _ _ _ _ _ _ _ active, if_neg (outside i (by simp) active), rest]
    · rw [updateRows, if_neg active, rest]

/-- Each element of an active row takes its value from the old one: no other row meets it. -/
theorem get_updateRows_row (s : State) {ls : List Nat} (once : ls.Nodup) {i j : Nat} (listed : i ∈ ls)
    (active : act.getLsbD i = true) (column : j < 16) :
    Tbl.get 0 (coreOf (updateRows s k core c t act f ls).1 core).acc (accKey c t i j) =
      BitVec.ofNat 34 (f i j (Tbl.get 0 (coreOf s core).acc (accKey c t i j)).toNat).1 := by
  have place : accKey c t i j = accKey c t i 0 + j := rfl
  have apart (m : Nat) (other : m ≠ i) : ¬ (accKey c t m 0 ≤ accKey c t i j ∧ accKey c t i j < accKey c t m 0 + 16) := by
    unfold accKey; omega
  induction ls with
  | nil => cases listed
  | cons m ls ih =>
    obtain ⟨new, once⟩ := List.nodup_cons.mp once
    by_cases own : m = i
    · subst own
      rw [get_updateRows_cons _ _ _ _ _ _ _ _ active, if_pos (by omega),
        get_updateRows_other _ _ _ _ _ _ _ fun n hn _ => apart n fun same => new (same ▸ hn), place, Nat.add_sub_cancel_left]
    · have rest := ih once ((List.mem_cons.mp listed).resolve_left (Ne.symm own))
      by_cases first : act.getLsbD m = true
      · rw [get_updateRows_cons _ _ _ _ _ _ _ _ first, if_neg (apart m own), rest]
      · rw [updateRows, if_neg first, rest]

/-- An operation over the active rows updates its tile. -/
theorem updateRows_tileUpdated (s : State) (width : Nat) : TileUpdated core c t width act (fun i j x => (f i j x).1) s
    (updateRows s k core c t act f (List.range width)).1 := by
  refine ⟨fun i j _ lane column active => ?_, fun key outside => ?_⟩
  · exact get_updateRows_row _ _ _ _ _ _ s List.nodup_range (List.mem_range.mpr lane) active column
  · refine get_updateRows_other _ _ _ _ _ _ s fun i listed active inside => ?_
    refine outside i (key - accKey c t i 0) (BitVec.lt_of_getLsbD active) (List.mem_range.mp listed) (by omega) active ?_
    exact (Nat.add_sub_cancel' inside.1).symm

end

/-! ### What else an operation changes (R121, R123, R129, R130) -/

/-- Beside elements, blocks and accounts, an operation of warp `w` changes the warp's registers and status words only. -/
structure EffectFrame (core w : Nat) (s t : State) : Prop where
  memory : t.mem = s.mem
  queues : (coreOf t core).q0 = (coreOf s core).q0 ∧ (coreOf t core).q1 = (coreOf s core).q1
  others : ∀ k, k ≠ w → warpOf t k = warpOf s k
  warp : { warpOf t w with
    scalars := (warpOf s w).scalars, vecs := (warpOf s w).vecs, vlog := (warpOf s w).vlog, ctl := (warpOf s w).ctl } = warpOf s w

namespace EffectFrame

theorem trans {core w : Nat} {s t u : State} (h : EffectFrame core w s t) (k : EffectFrame core w t u) :
    EffectFrame core w s u where
  memory := k.memory.trans h.memory
  queues := ⟨k.queues.1.trans h.queues.1, k.queues.2.trans h.queues.2⟩
  others j other := (k.others j other).trans (h.others j other)
  warp := (congrArg (fun x : Warp => { x with
    scalars := (warpOf s w).scalars, vecs := (warpOf s w).vecs, vlog := (warpOf s w).vlog, ctl := (warpOf s w).ctl })
      k.warp).trans h.warp

theorem noteMstat (core w : Nat) (s : State) (v : Word) : EffectFrame core w s (noteMstat s w v) where
  memory := rfl
  queues := ⟨rfl, rfl⟩
  others k other := by rw [Machine.noteMstat, warpOf_setWarp, if_neg (Ne.symm other)]
  warp := by rw [Machine.noteMstat, warpOf_setWarp_same]

end EffectFrame

theorem ElementsOnly.warpOf {core : Nat} {s t : State} (h : ElementsOnly core s t) (k : Nat) :
    warpOf t k = Machine.warpOf s k := by
  rw [Machine.warpOf, show t.warps = s.warps from congrArg (fun x => x.warps) h.outside]; rfl

theorem ElementsOnly.frame {core : Nat} {s t : State} (h : ElementsOnly core s t) (w : Nat) : EffectFrame core w s t where
  memory := congrArg (fun x => x.mem) h.outside
  queues := ⟨congrArg (fun x => x.q0) h.same, congrArg (fun x => x.q1) h.same⟩
  others k _ := h.warpOf k
  warp := by rw [h.warpOf]

/-- What a write of registers leaves outside its warp. -/
theorem EffectFrame.of_log {core : Nat} {s t : State} {r v : Tbl Word} {g : List (Nat × List Word)} {c : Ctl}
    (h : OnlyWarpLog s t) (warp : curWarp t = { curWarp s with scalars := r, vecs := v, vlog := g, ctl := c }) :
    EffectFrame core s.cur s t := by
  have cur : t.cur = s.cur := congrArg (fun x => x.cur) h.rest
  have cores : coreOf t core = coreOf s core := by
    rw [coreOf, show t.cores = s.cores from congrArg (fun x => x.cores) h.rest]; rfl
  refine ⟨congrArg (fun x => x.mem) h.rest, by rw [cores]; exact ⟨rfl, rfl⟩, h.others, ?_⟩
  rw [← cur, show warpOf t t.cur = _ from warp, cur]
  rfl

/-- Which word is in execution makes no difference. -/
theorem EffectFrame.of_asWarp {core w k f : Nat} {s t : State} (h : EffectFrame core w (asWarp s k f) t) :
    EffectFrame core w s t := ⟨h.memory, h.queues, h.others, h.warp⟩

/-- Converted rows enter their registers, with their flags (R129). -/
theorem mergeFlags_writeRun (t : State) (o : PendOp) (d : Nat) (f : Nat → Nat → Word) (n : Nat) (fl : Flags) :
    OnlyWarpLog t (mergeFlags (writeRun t o d f n) fl) ∧
      ∃ v g c, curWarp (mergeFlags (writeRun t o d f n) fl) = { curWarp t with vecs := v, vlog := g, ctl := c } := by
  obtain ⟨v, g, run⟩ := writeRun_warp t o d f n
  exact ⟨(writeRun_outside t o d f n).trans (onlyWarp_setCur _ _).log, v, g, _, by rw [curWarp_mergeFlags, run]⟩

/-- The effect of any operation. -/
theorem matrixEffect_frame (s : State) (core ctx : Nat) (e : MEntry) (o : PendOp) :
    EffectFrame core e.warp s (matrixEffect s core ctx e o) := by
  have rows (k t : Nat) (f : Nat → Nat → Nat → Nat × Flags) (u : State) :
      EffectFrame core e.warp u (updateRows u k core ctx t e.active f (lanesOf (warpOf s e.warp))).1 :=
    (updateRows_elementsOnly _ _ _ _ _ _ _ _).frame _
  cases what : e.what with
  | mma fa fb la lb sp z nb na tile ra rb sa sb =>
    simp only [matrixEffect, what]
    exact (rows _ _ _ _).trans (.noteMstat ..)
  | accz tile =>
    simp only [matrixEffect, what]
    exact rows _ _ _ _
  | accrd d tile conv rnd =>
    simp only [matrixEffect, what]
    obtain ⟨outside, v, g, c, warp⟩ := mergeFlags_writeRun (asWarp s e.warp o.frag) o d
      (fun r l => rowOut (accRow s core ctx tile l) conv rnd.toNat r) (convRegs (BitVec.ofNat 2 conv))
      (laneFlags e.active (fun l => rowFlags (accRow s core ctx tile l) conv rnd.toNat) (lanesOf (warpOf s e.warp)))
    exact (EffectFrame.of_log outside warp).of_asWarp
  | accwr tile a conv =>
    simp only [matrixEffect, what]
    exact rows _ _ _ _
  | accadd tile a conv =>
    simp only [matrixEffect, what]
    exact (rows _ _ _ _).trans (.noteMstat ..)
  | mstatrd d =>
    simp only [matrixEffect, what]
    exact (EffectFrame.of_log (onlyWarp_setCur _ _).log (curWarp_setCur _ _)).of_asWarp
  | mctx d a swap =>
    cases swap with
    | false => simp only [matrixEffect, what]; exact rows _ _ _ _
    | true => simp only [matrixEffect, what]; exact (rows _ _ _ _).trans (rows _ _ _ _)

/-! ### What each operation computes (R121, R123, R129, R130) -/

/-- A tile of active rows takes new elements, and the registers of warp `w` stay. -/
structure TileEffect (core ctx tile width : Nat) (act : Dword) (f : Nat → Nat → Nat → Nat) (w : Nat) (s t : State) : Prop where
  tile : TileUpdated core ctx tile width act f s t
  scalars : (warpOf t w).scalars = (warpOf s w).scalars
  vecs : (warpOf t w).vecs = (warpOf s w).vecs

/-- Only the values of the 16 columns matter. -/
theorem updateRows_tileEffect (s : State) (k core ctx tile : Nat) (act : Dword) {f : Nat → Nat → Nat → Nat × Flags}
    {g : Nat → Nat → Nat → Nat} (values : ∀ i j x, j < 16 → (f i j x).1 = g i j x) (w : Nat) :
    TileEffect core ctx tile (warpOf s w).width act g w s
      (updateRows s k core ctx tile act f (lanesOf (warpOf s w))).1 := by
  have same := (updateRows_elementsOnly k core ctx tile act f s (lanesOf (warpOf s w))).warpOf w
  obtain ⟨elements, others⟩ := updateRows_tileUpdated k core ctx tile act f s (warpOf s w).width
  exact ⟨⟨fun i j row lane column active => (values i j _ column) ▸ elements i j row lane column active, others⟩,
    by rw [same], by rw [same]⟩

/-- Flags of `MSTAT` change no element and no register (R123). -/
theorem TileEffect.noteMstat {core ctx tile width : Nat} {act : Dword} {f : Nat → Nat → Nat → Nat} {w : Nat} {s t : State}
    (h : TileEffect core ctx tile width act f w s t) (v : Word) :
    TileEffect core ctx tile width act f w s (noteMstat t w v) :=
  ⟨h.tile, by rw [Machine.noteMstat, warpOf_setWarp_same]; exact h.scalars,
    by rw [Machine.noteMstat, warpOf_setWarp_same]; exact h.vecs⟩

/-- Operation `e` gives the elements of `tile` the values `f` of their row, column and old value (R121, R130). -/
def TileOperation (s : State) (core ctx : Nat) (e : MEntry) (tile : Nat) (f : Nat → Nat → Nat → Nat) : Prop :=
  (e.what = .accz tile ∧ f = (fun _ _ _ => 0)) ∨
  (∃ a conv, e.what = .accwr tile a conv ∧ f = fun i j _ => elemIn (e.rows.getD i []) conv j) ∨
  (∃ a conv, e.what = .accadd tile a conv ∧
    f = fun i j x => (a34Add x (unpack a34 (elemIn (e.rows.getD i []) conv j))).1) ∨
  (∃ fa fb la lb sp z nb na ra rb sa sb, e.what = .mma fa fb la lb sp z nb na tile ra rb sa sb ∧
    f = fun i j x => (mmaElem fa fb la lb sp z (na != nb) (e.rows.getD i []) (rowBits e.cols.flatten) e.expA e.expB i j x).1) ∨
  (∃ a, e.what = .mctx tile a false ∧ f = fun i j _ => (Tbl.get 0 (coreOf s core).acc (accKey ctx a i j)).toNat)

theorem matrixEffect_tile {s : State} {core ctx : Nat} {e : MEntry} {tile : Nat} {f : Nat → Nat → Nat → Nat} (o : PendOp)
    (operation : TileOperation s core ctx e tile f) :
    TileEffect core ctx tile (warpOf s e.warp).width e.active f e.warp s (matrixEffect s core ctx e o) := by
  rcases operation with ⟨what, rfl⟩ | ⟨a, conv, what, rfl⟩ | ⟨a, conv, what, rfl⟩ |
    ⟨fa, fb, la, lb, sp, z, nb, na, ra, rb, sa, sb, what, rfl⟩ | ⟨a, what, rfl⟩ <;> simp only [matrixEffect, what]
  · exact updateRows_tileEffect _ _ _ _ _ _ (by intros; rfl) _
  · exact updateRows_tileEffect _ _ _ _ _ _ (by intros; rfl) _
  · exact (updateRows_tileEffect _ _ _ _ _ _ (by intros; rfl) _).noteMstat _
  · exact (updateRows_tileEffect _ _ _ _ _ _ (by intros; rfl) _).noteMstat _
  · exact updateRows_tileEffect _ _ _ _ _ _ (fun _ _ _ column => by rw [getD_accRow _ _ _ _ _ column]) _

/-- `ACCRD` writes converted rows, and no element and no scalar (R129, R130). -/
structure RowsRead (core ctx d tile conv : Nat) (rnd : BitVec 3) (w : Nat) (act : Dword) (s t : State) : Prop where
  cur : t.cur = w
  acc : (coreOf t core).acc = (coreOf s core).acc
  scalars : (warpOf t w).scalars = (warpOf s w).scalars
  lanes : ∀ r l, r < convRegs (BitVec.ofNat 2 conv) → l < (warpOf s w).width → act.getLsbD l = true →
    readV t (d + r) l = rowOut (accRow s core ctx tile l) conv rnd.toNat r

theorem matrixEffect_accrd (s : State) (core ctx : Nat) {e : MEntry} (o : PendOp) {d tile conv : Nat} {rnd : BitVec 3}
    (what : e.what = .accrd d tile conv rnd) :
    RowsRead core ctx d tile conv rnd e.warp o.active s (matrixEffect s core ctx e o) := by
  simp only [matrixEffect, what]
  obtain ⟨outside, v, g, c, warp⟩ := mergeFlags_writeRun (asWarp s e.warp o.frag) o d
    (fun r l => rowOut (accRow s core ctx tile l) conv rnd.toNat r) (convRegs (BitVec.ofNat 2 conv))
    (laneFlags e.active (fun l => rowFlags (accRow s core ctx tile l) conv rnd.toNat) (lanesOf (warpOf s e.warp)))
  have cur := congrArg (fun x => x.cur) outside.rest
  have cores := congrArg (fun x => x.cores) outside.rest
  refine ⟨cur, congrArg (fun m : Tbl CoreSt => (Tbl.get CoreSt.blank m core).acc) cores, ?_, fun r l register lane active => ?_⟩
  · exact (congrArg (fun k => (warpOf _ k).scalars) cur).symm.trans (congrArg (fun w => w.scalars) warp)
  · rw [readV, curWarp_mergeFlags]
    refine (readV_writeRun _ _ _ _ _ _ _ (BitVec.lt_of_getLsbD active)).trans ?_
    rw [if_pos ⟨by omega, lane⟩, if_pos active, Nat.add_sub_cancel_left]

/-- `MSTATRD` writes `MSTAT` into its scalar, and nothing else (R123, R124). -/
structure StatusRead (core d : Nat) (w f : Nat) (s t : State) : Prop where
  cur : t.cur = w
  acc : (coreOf t core).acc = (coreOf s core).acc
  value : readS t d &&& 0xFF = (warpOf s w).ctl.mstat &&& 0x8F
  scalars : ∀ m, m ≠ d → readS t m = readS (asWarp s w f) m
  vecs : (warpOf t w).vecs = (warpOf s w).vecs

theorem matrixEffect_mstatrd (s : State) (core ctx : Nat) {e : MEntry} (o : PendOp) {d : Nat}
    (what : e.what = .mstatrd d) :
    StatusRead core d e.warp o.frag s (matrixEffect s core ctx e o) := by
  simp only [matrixEffect, what]
  obtain ⟨value, others, -, -⟩ := writeS_result (asWarp s e.warp o.frag) d (readMstat s e.warp)
  exact ⟨rfl, rfl, by rw [value, readMstat_low], others, congrArg (fun w => w.vecs) (warpOf_setWarp_same ..)⟩

/-! ### The end of an operation (R39, R367) -/

theorem countMma_tenants (s : State) (e : MEntry) : ∃ x, countMma s e = { s with tenants := x } := by
  have counts : ∃ x, countFor s e.warp 2 1 = { s with tenants := x } := by
    unfold countFor pmonCount
    dsimp only
    split
    · exact ⟨_, rfl⟩
    · split <;> exact ⟨_, rfl⟩
  unfold countMma
  split
  · exact counts
  · exact ⟨_, rfl⟩

/-- An operation that has left its warp is not in the list. -/
theorem opOf_dropOp (w : Warp) (o : PendOp) : opOf (dropOp w o) o.id = none := by
  obtain ⟨g, drop, -⟩ := dropOp_warp w o
  rw [opOf, drop]
  refine List.find?_eq_none.mpr fun x listed => ?_
  have kept := (List.dropWhile_sublist _).subset listed
  simpa using (List.mem_filter.mp kept).2

theorem StillRuns.of_split {s t : State} {w : Nat} (runs : StillRuns s w) (split : (warpOf t w).split = (warpOf s w).split) :
    StillRuns t w := by
  unfold StillRuns usedEntries entryOf
  rw [split]
  exact runs

/-- The state without the head of the queue, on which its effect is computed. -/
def popHead (s : State) (core ctx : Nat) (rest : List MEntry) : State :=
  setCore s core (setQueue (coreOf s core) ctx rest)

/-- The head takes its effect, is counted, and leaves its warp. -/
theorem exec_matrixOpComplete {s : State} {core ctx : Nat} {e : MEntry} {rest : List MEntry} {o : PendOp}
    (head : matrixQueue (coreOf s core) ctx = e :: rest) (taken : e.started = true)
    (here : opOf (warpOf s e.warp) e.op = some o) (runs : StillRuns s e.warp) :
    let u := matrixEffect (popHead s core ctx rest) core ctx e o
    ∃ x, exec (.matrixOpComplete core ctx) s = .next (setWarp { u with tenants := x } e.warp (dropOp (warpOf u e.warp) o)) := by
  intro u
  have frame := matrixEffect_frame (popHead s core ctx rest) core ctx e o
  obtain ⟨x, count⟩ := countMma_tenants u e
  have goes : StillRuns (countMma u e) e.warp := by
    rw [count]
    exact runs.of_split (congrArg (fun w => w.split) frame.warp)
  refine ⟨x, ?_⟩
  change execMatrixOpComplete core ctx s = _
  have ends : retireOp (countMma u e) e.warp o = setWarp { u with tenants := x } e.warp (dropOp (warpOf u e.warp) o) := by
    rw [retireOp_eq goes, count]; rfl
  have popped : opOf (warpOf (setCore s core (setQueue (coreOf s core) ctx rest)) e.warp) e.op = some o := here
  simp only [execMatrixOpComplete, head, taken, Bool.true_eq_false, if_false, withOp, popped]
  exact congrArg _ ends

/-- What the end of an operation changes of the state `u` that its effect gives: monitors, and the operation of its warp. -/
structure MatrixEnded (core : Nat) (e : MEntry) (o : PendOp) (u t : State) : Prop where
  memory : t.mem = u.mem
  cores : coreOf t core = coreOf u core
  others : ∀ k, k ≠ e.warp → warpOf t k = warpOf u k
  gone : opOf (warpOf t e.warp) e.op = none
  scalars : (warpOf t e.warp).scalars = (warpOf u e.warp).scalars
  vecs : (warpOf t e.warp).vecs = (warpOf u e.warp).vecs
  readV : u.cur = e.warp → ∀ r l, readV t r l = readV u r l
  readS : u.cur = e.warp → ∀ m, readS t m = readS u m

theorem matrixEnded_setWarp (core : Nat) {e : MEntry} {o : PendOp} (number : o.id = e.op) (u : State) (x : Tbl Tenant) :
    MatrixEnded core e o u (setWarp { u with tenants := x } e.warp (dropOp (warpOf u e.warp) o)) := by
  obtain ⟨g, drop, -⟩ := dropOp_warp (warpOf u e.warp) o
  have current (cur : u.cur = e.warp) : curWarp (setWarp { u with tenants := x } e.warp (dropOp (warpOf u e.warp) o)) =
      dropOp (curWarp u) o := by
    rw [curWarp, curWarp, setWarp_cur, show ({ u with tenants := x } : State).cur = u.cur from rfl, cur, warpOf_setWarp_same]
  refine ⟨rfl, rfl, fun k other => ?_, ?_, ?_, ?_, fun cur r l => ?_, fun cur m => ?_⟩
  · rw [warpOf_setWarp, if_neg (Ne.symm other)]; rfl
  · rw [warpOf_setWarp_same, ← number, opOf_dropOp]
  · rw [warpOf_setWarp_same, drop]
  · rw [warpOf_setWarp_same, drop]
  · rw [Machine.readV, current cur, curWarp, cur, drop, Machine.readV, curWarp, cur]
  · rw [Machine.readS, current cur, curWarp, cur, drop, Machine.readS, curWarp, cur]

theorem matrixOpComplete_ends {s : State} {core ctx : Nat} {e : MEntry} {rest : List MEntry} {o : PendOp}
    (head : matrixQueue (coreOf s core) ctx = e :: rest) (taken : e.started = true)
    (here : opOf (warpOf s e.warp) e.op = some o) (runs : StillRuns s e.warp) :
    ∃ t, exec (.matrixOpComplete core ctx) s = .next t ∧
      MatrixEnded core e o (matrixEffect (popHead s core ctx rest) core ctx e o) t := by
  obtain ⟨x, run⟩ := exec_matrixOpComplete head taken here runs
  exact ⟨_, run, matrixEnded_setWarp core (opOf_id here) _ x⟩

/-! ### The statement -/

/-- Settles O42: the engine's turn is `takeHead` with the operands that `readOperands` gives; a completed head is its effect on the
state without it, and then the end of its operation. -/
theorem matrixEngine : Obligations.MatrixEngine := by
  refine ⟨?entry, ?scales, ?complete⟩
  case entry =>
    intro s core e rest e' c ctx head waits ready operands
    have read : readOperands s e = (s, some e') := by
      rcases operands with ⟨plain, rfl⟩ | ⟨tile, a, conv, what, rfl⟩ |
        ⟨f, la, lb, sp, z, nb, na, tile, ra, rb, sa, sb, half, what, rfl⟩
      · exact readOperands_plain s plain
      · exact readOperands_row s what
      · exact readOperands_half what (by rcases half with rfl | rfl <;> rfl)
    obtain ⟨t, run, taken⟩ := matrixEngineEntry_takes head waits ready read (.refl s)
    exact ⟨t, run, taken.queue, taken.turn, taken.acc, taken.cores, taken.registers, taken.outside⟩
  case scales =>
    intro s core e rest fa fb la lb sp z nb na tile ra rb sa sb c ctx head waits ready what bfp _ w g ea eb
    have floats : isBfp fa = true := (isBfp_iff fa).mpr bfp
    have stays (unread : (readOperands s e).2 = none) : exec (.matrixEngineEntry core) s = .next s := by
      rw [exec_matrixEngineEntry]
      exact congrArg _ (takeHead_of_wait head waits ready unread)
    refine ⟨fun unread => stays (readOperands_waitsA what floats unread), fun s1 xa pa readA =>
      ⟨fun unread => stays (readOperands_waitsB what floats readA unread), fun s2 xb pb readB => ?_⟩⟩
    have keptA : RegistersKept s s1 := by
      have := expRun_keeps s g sa ea
      rwa [readA] at this
    have keptB : RegistersKept s1 s2 := by
      have := expRun_keeps s1 g sb eb
      rwa [readB] at this
    obtain ⟨t, run, taken⟩ := matrixEngineEntry_takes head waits ready (readOperands_bfp what floats readA readB)
      (keptA.trans keptB)
    exact ⟨t, run, taken.queue, taken.turn, taken.acc, taken.cores, taken.registers,
      congrArg (fun x => x.mem) taken.outside⟩
  case complete =>
    intro s core ctx e rest o head taken here runs
    obtain ⟨t, run, ended⟩ := matrixOpComplete_ends head taken here runs
    have frame := matrixEffect_frame (popHead s core ctx rest) core ctx e o
    have popped : coreOf (popHead s core ctx rest) core = setQueue (coreOf s core) ctx rest := coreOf_setCore_same ..
    have acc : (coreOf (popHead s core ctx rest) core).acc = (coreOf s core).acc := by rw [popped, setQueue_acc]
    refine ⟨t, run, ?queue, ended.gone, fun a => by rw [ended.memory, frame.memory]; rfl,
      fun k other => (ended.others k other).trans (frame.others k other), fun tile f operation => ?tiles,
      fun d tile conv rnd what _ => ?rows, fun d what => ?status⟩
    case queue =>
      have same : matrixQueue (coreOf t core) ctx = matrixQueue (coreOf (popHead s core ctx rest) core) ctx := by
        rw [ended.cores, matrixQueue, frame.queues.1, frame.queues.2]; rfl
      rw [same, popped, matrixQueue_setQueue]
    case tiles =>
      have operation : TileOperation (popHead s core ctx rest) core ctx e tile f := by
        rw [TileOperation, acc]; exact operation
      obtain ⟨elements, scalars, vecs⟩ := matrixEffect_tile o operation
      refine ⟨?_, ended.scalars.trans scalars, ended.vecs.trans vecs⟩
      rw [TileUpdated, acc] at elements
      rw [TileUpdated, ended.cores]
      exact elements
    case rows =>
      obtain ⟨cur, kept, scalars, lanes⟩ := matrixEffect_accrd (popHead s core ctx rest) core ctx o what
      have rows (l : Nat) : accRow (popHead s core ctx rest) core ctx tile l = accRow s core ctx tile l := by
        rw [accRow, acc]; rfl
      refine ⟨by rw [ended.cores, kept, acc], ended.scalars.trans scalars, fun r l register lane active => ?_⟩
      rw [ended.readV cur, lanes r l register lane active, rows]
    case status =>
      obtain ⟨cur, kept, value, scalars, vecs⟩ := matrixEffect_mstatrd (popHead s core ctx rest) core ctx o what
      refine ⟨by rw [ended.cores, kept, acc], ?_, fun m other => ?_, ended.vecs.trans vecs⟩
      · rw [ended.readS cur]; exact value
      · rw [ended.readS cur]; exact scalars m other

end Sys2Proof.Machine
end

section
/-! SUPPORT. The state after reset (R364, R365). -/

namespace Sys2Proof.Machine

/-- Settles O56: every table but that of the worlds is empty after reset, so that it reads as its blank value. -/
theorem resetState : Obligations.ResetState := by
  unfold Obligations.ResetState
  intro s
  have worlds (w : Nat) (other : w ≠ 0) : worldOf s w = World.blank := if_neg (Ne.symm other)
  have unrevoked (a : Nat) : keyRevoked s a = false := Bool.and_false _
  refine ⟨rfl, fun a _ => ⟨rfl, ?_⟩, fun f => ⟨(by decide : teType 0 = 0), (by decide : teCount 0 = 0)⟩, fun k => rfl, rfl, fun w other => ?_, rfl,
    fun k => ⟨rfl, rfl, rfl, rfl, rfl⟩, fun k => ⟨rfl, rfl, rfl, rfl, rfl, rfl, rfl⟩, rfl, rfl⟩
  · show ((false || keyRevoked s a) || false) = false
    rw [unrevoked]; rfl
  · rw [worlds w other]; rfl

end Sys2Proof.Machine
end

section
/-! SUPPORT. The split table (R132): its FREE entries and the others, and a divergent branch (R133). -/

namespace Sys2Proof.Machine

/-! ### Entries -/

theorem entryOf_setEntry_ne (w : Warp) {e j : Nat} (x : Entry) (other : j ≠ e) : entryOf (setEntry w e x) j = entryOf w j := by
  rw [entryOf_setEntry, if_neg (Ne.symm other)]

@[simp] theorem mem_freeEntries {w : Warp} {i : Nat} : i ∈ freeEntries w ↔ i < 8 ∧ (entryOf w i).state = .free := by
  simp [freeEntries]

theorem freeEntries_nodup (w : Warp) : (freeEntries w).Nodup := List.nodup_range.filter _

@[simp] theorem mem_usedEntries {w : Warp} {i : Nat} : i ∈ usedEntries w ↔ i < 8 ∧ (entryOf w i).state ≠ .free := by
  simp [usedEntries]

/-- A word that issues takes its effect. -/
theorem exec_word {i : Instr} {s : State} {effect : State → State} (issues : Issues i s) (meaning : exec i s = word i s effect) :
    exec i s = .next (effect s) := meaning.trans (word_next issues effect)

/-! ### A divergent branch -/

section
variable {w : Warp} {stamp e : Nat} {tk tgt : Dword} {r : BitVec 16} {i j : Nat} {rest : List Nat}

theorem diverge_two (free : freeEntries w = i :: j :: rest) : diverge w stamp e tk tgt r =
    some (setEntry (setEntry (setEntry w e
        { entryOf w e with state := .join, pc := refAt (entryOf w e).pc r, holds := [], left := 0 }) i
        (childLeaf tk tk tgt e r (entryOf w e).holds stamp)) j
        (childLeaf ((entryOf w e).owned &&& ~~~ tk) ((entryOf w e).exec &&& ~~~ tk) (entryOf w e).pc e r (entryOf w e).holds
          stamp)) := by
  unfold diverge; simp only [free]

theorem diverge_one (free : freeEntries w = [i]) : diverge w stamp e tk tgt r =
    some (setEntry (setEntry w e
        { entryOf w e with state := .join, pc := refAt (entryOf w e).pc r, holds := [], left := 0 }) i
        { childLeaf tk tk tgt e r (entryOf w e).holds stamp with
          ser := 1, pend := (entryOf w e).owned &&& ~~~ tk, pendx := (entryOf w e).exec &&& ~~~ tk
          altOff := refOff (entryOf w e).pc }) := by
  unfold diverge; simp only [free]

theorem diverge_none (free : freeEntries w = []) : diverge w stamp e tk tgt r =
    if (entryOf w e).ser = 0#2 then some (setEntry w e { entryOf w e with
      owned := tk, exec := tk, pc := tgt, ser := 2, srcv := r, pend := (entryOf w e).owned &&& ~~~ tk
      pendx := (entryOf w e).exec &&& ~~~ tk, altOff := refOff (entryOf w e).pc, left := 0, readyAt := stamp })
    else none := by
  unfold diverge; simp only [free]

end

/-- A branch that divides the active lanes. -/
theorem exec_br_diverges {s : State} {n : BitVec 1} {m : BitVec 3} {o : BitVec 21} (issues : Issues (.br n m o) s)
    (active : execMask s ≠ 0) (taken : takenLanes s n m ≠ 0) (divided : takenLanes s n m ≠ execMask s) :
    exec (.br n m o) s = .next (branchDiverges s (takenLanes s n m) (labelOff s o)) := by
  have effect : exec (.br n m o) s = .next (branchWord s n m o) := exec_word (effect := fun s => branchWord s n m o) issues rfl
  rw [effect, branchWord, if_neg active, if_neg divided, if_neg taken]

/-- Settles O22: the table of R133 by the number of FREE entries, each distinct from the entry that splits. -/
theorem divergentBranch : Obligations.DivergentBranch := by
  unfold Obligations.DivergentBranch
  intro w stamp e tk tgt r _ used x join
  have distinct {i : Nat} (free : i ∈ freeEntries w) : i ≠ e := fun same => used (same ▸ (mem_freeEntries.mp free).2)
  refine ⟨fun i j rest free => ?_, fun i free => ?_, fun free ser => ?_, fun free ser => ?_, rfl, ?_⟩
  · have ie : i ≠ e := distinct (by simp [free])
    have je : j ≠ e := distinct (by simp [free])
    have ij : i ≠ j := by
      have once := freeEntries_nodup w
      simp only [free, List.nodup_cons, List.mem_cons, not_or] at once
      exact once.1.1
    refine ⟨_, diverge_two free, ?_⟩
    rw [entryOf_setEntry_same, entryOf_setEntry_ne _ _ ij, entryOf_setEntry_same, entryOf_setEntry_ne _ _ je.symm,
      entryOf_setEntry_ne _ _ ie.symm, entryOf_setEntry_same]
    exact ⟨rfl, rfl, rfl, rfl, rfl, rfl, rfl, rfl, rfl, rfl, rfl, rfl, rfl, rfl, rfl,
      fun k ke ki kj => by rw [entryOf_setEntry_ne _ _ kj, entryOf_setEntry_ne _ _ ki, entryOf_setEntry_ne _ _ ke], rfl⟩
  · have ie : i ≠ e := distinct (by simp [free])
    refine ⟨_, diverge_one free, ?_⟩
    rw [entryOf_setEntry_same, entryOf_setEntry_ne _ _ ie.symm, entryOf_setEntry_same]
    exact ⟨rfl, rfl, rfl, rfl, rfl, rfl, rfl, rfl, rfl, rfl, rfl,
      fun k ke ki => by rw [entryOf_setEntry_ne _ _ ki, entryOf_setEntry_ne _ _ ke], rfl⟩
  · exact ⟨_, (diverge_none free).trans (if_pos ser), entryOf_setEntry_same .., fun k ke => entryOf_setEntry_ne _ _ ke, rfl⟩
  · exact (diverge_none free).trans (if_neg ser)
  · intro n m o s issues active taken divided good
    rw [exec_br_diverges issues active taken divided, branchDiverges, if_neg (by simp [good])]
    split <;> simp_all [noLane]

end Sys2Proof.Machine
end

section
/-! SUPPORT. Folds over warps and tables, the operations of the split table (R132 to R134, R176), a trap of a tenant's warp (R314),
and the release of a barrier (R153, R154, R322). -/

namespace Sys2Proof.Machine

/-! ### Tables and folds -/

/-- A read of a table whose values have been mapped by a function that keeps the blank value. -/
theorem Tbl.get_map {α : Type} {b : α} {f : α → α} (blank : f b = b) (t : Tbl α) (k : Nat) :
    Tbl.get b (t.map fun e => (e.1, f e.2)) k = f (Tbl.get b t k) := by
  induction t with
  | nil => exact blank.symm
  | cons e t ih =>
    obtain ⟨j, x⟩ := e
    simp only [List.map_cons, Tbl.get, ih]
    split <;> rfl

/-- A fold keeps what each of its steps keeps. -/
theorem foldl_preserves {α β : Type} {P : β → Prop} {f : β → α → β} (step : ∀ t x, P t → P (f t x)) {b : β} (l : List α)
    (start : P b) : P (l.foldl f b) := by
  induction l generalizing b with
  | nil => exact start
  | cons x l ih => exact ih (step b x start)

/-- The same operation on the warps of a list, which a second time changes nothing. -/
theorem warpOf_foldl_setWarp {f : Warp → Warp} (again : ∀ w, f (f w) = f w) (s : State) (l : List Nat) (k : Nat) :
    warpOf (l.foldl (fun t w => setWarp t w (f (warpOf t w))) s) k = if k ∈ l then f (warpOf s k) else warpOf s k := by
  induction l generalizing s with
  | nil => rfl
  | cons j l ih =>
    rw [List.foldl_cons, ih]
    by_cases same : j = k
    · subst same; simp [again]
    · simp [warpOf_setWarp, same, Ne.symm same]

/-- Changes of warps one after another change nothing else. -/
theorem foldl_setWarp_rest (g : State → Nat → Warp) (s : State) (l : List Nat) :
    { l.foldl (fun t w => setWarp t w (g t w)) s with warps := s.warps } = s :=
  foldl_preserves (P := fun t : State => { t with warps := s.warps } = s) (by exact fun _ _ same => same) l rfl

theorem getLsbD_foldl_or {n : Nat} (f : Nat → BitVec n) (l : List Nat) (m : BitVec n) (b : Nat) :
    (l.foldl (fun m i => m ||| f i) m).getLsbD b = true ↔ m.getLsbD b = true ∨ ∃ i ∈ l, (f i).getLsbD b = true := by
  induction l generalizing m with
  | nil => simp
  | cons i l ih => simp [ih, or_assoc]

theorem getLsbD_foldl_or_zero {n : Nat} (f : Nat → BitVec n) (l : List Nat) (b : Nat) :
    (l.foldl (fun m i => m ||| f i) 0).getLsbD b = true ↔ ∃ i ∈ l, (f i).getLsbD b = true := by
  rw [getLsbD_foldl_or]
  simp

/-! ### Operations of the split table -/

theorem usedEntries_eq_nil {w : Warp} : usedEntries w = [] ↔ ∀ i, i < 8 → (entryOf w i).state = .free := by
  simp [usedEntries, List.filter_eq_nil_iff]

theorem mem_childrenOf {w : Warp} {i j : Nat} :
    i ∈ childrenOf w j ↔ i < 8 ∧ (entryOf w i).state ≠ .free ∧ (entryOf w i).parent.toNat = j := by
  simp [childrenOf, and_assoc]

/-- A freed entry is no longer under its JOIN. -/
theorem mem_childrenOf_freed {w : Warp} {e i j : Nat} :
    i ∈ childrenOf (setEntry w e Entry.blank) j ↔ i ∈ childrenOf w j ∧ i ≠ e := by
  rw [mem_childrenOf, mem_childrenOf]
  by_cases same : i = e
  · subst same; simp [Entry.blank]
  · simp [entryOf_setEntry_ne _ _ same, same]

theorem entryOf_freeAll (w : Warp) (l : List Nat) (e : Nat) :
    entryOf (freeAll w l) e = if e ∈ l then Entry.blank else entryOf w e := by
  unfold freeAll
  induction l generalizing w with
  | nil => rfl
  | cons i l ih =>
    rw [List.foldl_cons, ih, entryOf_setEntry]
    by_cases same : i = e
    · simp [same]
    · simp [same, Ne.symm same]

theorem freeAll_rest (w : Warp) (l : List Nat) : { freeAll w l with split := w.split } = w :=
  foldl_preserves (P := fun v : Warp => { v with split := w.split } = w) (by exact fun _ _ same => same) l rfl

theorem addPoint_eq (w : Warp) : ∃ p n, addPoint w = { w with pend := p, nextOp := n } := by
  unfold addPoint
  split <;> exact ⟨_, _, rfl⟩

/-- A table with entries freed and one entry set anew, at a reconvergence point, leaves the rest of its warp. -/
theorem fused_rest {v w : Warp} (rest : { v with split := w.split } = w) (e : Nat) (x : Entry) :
    { addPoint (setEntry v e x) with split := w.split, pend := w.pend, nextOp := w.nextOp } = w := by
  obtain ⟨p, n, point⟩ := addPoint_eq (setEntry v e x)
  rw [point]
  have same := congrArg (fun u : Warp => { u with split := w.split, pend := w.pend, nextOp := w.nextOp }) rest
  exact same

theorem usedEntries_setEntry {w : Warp} {e : Nat} {x : Entry} (before : (entryOf w e).state ≠ .free) (after : x.state ≠ .free) :
    usedEntries (setEntry w e x) = usedEntries w := by
  refine List.filter_congr fun i _ => ?_
  rw [entryOf_setEntry]
  split
  · next here => subst here; rw [bne_iff_ne.mpr before, bne_iff_ne.mpr after]
  · rfl

@[simp] theorem entryOf_addPoint (w : Warp) (e : Nat) : entryOf (addPoint w) e = entryOf w e := by
  obtain ⟨p, n, eq⟩ := addPoint_eq w
  rw [eq]; rfl

/-- Nothing happens above an entry that is no JOIN, or has no number. -/
theorem settle_of_no_join {w : Warp} {j : Nat} (stamp n : Nat) (none : 8 ≤ j ∨ (entryOf w j).state ≠ .join) :
    settle w stamp j n = w := by
  cases n with
  | zero => rfl
  | succ n => rw [settle]; exact if_pos none

/-- A JOIN waits while an entry under it has not arrived (R134). -/
theorem settle_of_waiting {w : Warp} {i j : Nat} (stamp n : Nat) (child : i ∈ childrenOf w j) (away : (entryOf w i).state ≠ .arrived) :
    settle w stamp j n = w := by
  cases n with
  | zero => rfl
  | succ n =>
    rw [settle]
    split
    · rfl
    · exact if_pos (List.all_eq_false.mpr ⟨i, child, by simpa using away⟩)

/-- All fragments under a JOIN have arrived: they fuse (R134). -/
theorem settle_fuses {w : Warp} {j : Nat} (stamp n : Nat) (number : j < 8) (join : (entryOf w j).state = .join)
    (here : ∀ i ∈ childrenOf w j, (entryOf w i).state = .arrived)
    (lanes : (childrenOf w j).foldl (fun m i => m ||| (entryOf w i).owned) 0 ≠ 0) :
    settle w stamp j (n + 1) = addPoint (setEntry (freeAll w (childrenOf w j)) j (takesOver { entryOf w j with
      owned := (childrenOf w j).foldl (fun m i => m ||| (entryOf w i).owned) 0
      exec := (childrenOf w j).foldl (fun m i => m ||| (entryOf w i).exec) 0
      holds := (childrenOf w j).foldl (fun l i => l ++ (entryOf w i).holds) (entryOf w j).holds } stamp)) := by
  have all : ((childrenOf w j).all fun i => (entryOf w i).state == .arrived) = true :=
    List.all_eq_true.mpr fun i child => by simpa using here i child
  rw [settle]
  dsimp only
  rw [if_neg (by simpa [join] using number), if_neg (by simp [all]), if_neg lanes]

/-! ### The warp barrier (R176) -/

theorem barwReady_of_leaf {w : Warp} {i : Nat} (number : i < 8) (leaf : (entryOf w i).state = .leaf) : barwReady w = false := by
  have used : i ∈ usedEntries w := by simp [number, leaf]
  have away : ((usedEntries w).all fun i => (entryOf w i).state == .join || (barwRefs (entryOf w i)).isSome) = false :=
    List.all_eq_false.mpr ⟨i, used, by simp [barwRefs, leaf]⟩
  rw [barwReady, away, Bool.false_and]

theorem barwReady_of_unused {w : Warp} (none : usedEntries w = []) : barwReady w = false := by
  rw [barwReady, none]; rfl

/-- A warp whose barrier is not ready is left as it is. -/
theorem barwCheck_of_unready {s : State} {k : Nat} (unready : barwReady (warpOf s k) = false) : barwCheck s k = s := if_pos unready

/-! ### A trap of a tenant's warp (R314) -/

theorem stopAt_eq (w : Warp) (e : Nat) (pc : Dword) : ∃ g x, stopAt w e pc = { w with flags := g, split := x } := by
  obtain ⟨g, hg⟩ := flagDone_warp w (entryOf w e).flagA (entryOf w e).remA
  obtain ⟨h, hh⟩ := flagDone_warp { w with flags := g } (entryOf w e).flagB (entryOf w e).remB
  have stopped : flagDone (flagDone w (entryOf w e).flagA (entryOf w e).remA) (entryOf w e).flagB (entryOf w e).remB =
      { w with flags := h } := by rw [hg, hh]
  exact ⟨h, _, by rw [stopAt, stopped]; rfl⟩

/-- A tenant's warp that has raised a trap. -/
def trappedWarp (w : Warp) (t : Trap) : Warp :=
  match w.trap with
  | some _ => stopAt w t.frag t.pc
  | none => { stopAt w t.frag t.pc with trap := some t, status := .trapping, lease := none }

/-- A trap other than *poison consumed* changes the warp alone. -/
theorem raiseTrap_tenant {k : Nat} (tenant : 16 ≤ k) {t : Trap} (cause : t.cause ≠ 18) (s : State) :
    raiseTrap s k t = setWarp s k (trappedWarp (warpOf s k) t) := by
  obtain ⟨g, x, stopped⟩ := stopAt_eq (warpOf s k) t.frag t.pc
  rw [raiseTrap, if_neg (fun both => cause both.1), raiseBare, if_neg (by omega), trappedWarp, stopped]
  cases trap : (warpOf s k).trap <;> simp

theorem trappedWarp_first {w : Warp} (none : w.trap = none) (t : Trap) :
    (trappedWarp w t).trap = some t ∧ (trappedWarp w t).status = .trapping := by
  rw [trappedWarp, none]
  exact ⟨rfl, rfl⟩

/-- A warp that drains after a trap keeps that trap (assumption 8). -/
theorem trappedWarp_later {w : Warp} {x : Trap} (first : w.trap = some x) (t : Trap) :
    (trappedWarp w t).trap = some x ∧ (trappedWarp w t).status = w.status := by
  obtain ⟨g, y, stopped⟩ := stopAt_eq w t.frag t.pc
  rw [trappedWarp, first, stopped]
  exact ⟨first, rfl⟩

/-! ### The release of a barrier (R153, R322) -/

/-- What a release leaves of a warp: its parked entries may go on, and a checkpoint empties its logs. -/
structure WarpWoken (stamp : Nat) (w v : Warp) : Prop where
  rest : { v with split := w.split, vlog := w.vlog, llog := w.llog } = w
  entries : ∀ e, entryOf v e = entryOf w e ∨
    ((entryOf w e).state = .parked ∧ entryOf v e = takesOver (entryOf w e) stamp)

namespace WarpWoken

theorem refl (stamp : Nat) (w : Warp) : WarpWoken stamp w w := ⟨rfl, fun _ => .inl rfl⟩

theorem trans {stamp : Nat} {u v w : Warp} (h : WarpWoken stamp u v) (k : WarpWoken stamp v w) : WarpWoken stamp u w where
  rest := by
    have step := congrArg (fun x : Warp => { x with split := u.split, vlog := u.vlog, llog := u.llog }) k.rest
    exact step.trans h.rest
  entries e := by
    rcases h.entries e with same | ⟨parked, woken⟩
    · rw [← same]; exact k.entries e
    · refine .inr ⟨parked, ?_⟩
      rcases k.entries e with same | ⟨still, -⟩
      · rw [same, woken]
      · rw [woken] at still; cases still

variable {stamp : Nat} {w v : Warp} (h : WarpWoken stamp w v)
include h

theorem status : v.status = w.status := by have same := congrArg Warp.status h.rest; exact same
theorem queues : v.queues = w.queues := by have same := congrArg Warp.queues h.rest; exact same
theorem streams : v.streams = w.streams := by have same := congrArg Warp.streams h.rest; exact same
theorem lease : v.lease = w.lease := by have same := congrArg Warp.lease h.rest; exact same
theorem scalars : v.scalars = w.scalars := by have same := congrArg Warp.scalars h.rest; exact same
theorem vecs : v.vecs = w.vecs := by have same := congrArg Warp.vecs h.rest; exact same
theorem masks : v.masks = w.masks := by have same := congrArg Warp.masks h.rest; exact same
theorem ctl : v.ctl = w.ctl := by have same := congrArg Warp.ctl h.rest; exact same

/-- An entry that is not parked stays as it is. -/
theorem entry {e : Nat} (awake : (entryOf w e).state ≠ .parked) : entryOf v e = entryOf w e :=
  (h.entries e).resolve_right fun parked => awake parked.1

theorem unused (none : usedEntries w = []) : usedEntries v = [] := by
  rw [usedEntries_eq_nil] at none ⊢
  intro i number
  rw [h.entry (by simp [none i number]), none i number]

end WarpWoken

/-- What a release leaves of a block, beside its barriers. -/
def BlockReleased (b c : Block) : Prop :=
  { c with
    saved := b.saved, checkpoint := b.checkpoint, slog := b.slog, rlog := b.rlog, eligible := b.eligible
    overflow := b.overflow } = b

/-- Warps and blocks after waiting members have been released and a checkpoint perhaps taken. -/
structure Woken (s t : State) : Prop where
  warps : ∀ k, WarpWoken s.stamp (warpOf s k) (warpOf t k)
  blocks : ∀ k, BlockReleased (blockOf s k) (blockOf t k)
  rest : { t with warps := s.warps, blocks := s.blocks } = s

theorem BlockReleased.trans {a b c : Block} (h : BlockReleased a b) (k : BlockReleased b c) : BlockReleased a c := by
  have step := congrArg (fun x : Block => { x with
    saved := a.saved, checkpoint := a.checkpoint, slog := a.slog, rlog := a.rlog, eligible := a.eligible
    overflow := a.overflow }) k
  exact step.trans h

namespace Woken

theorem refl (s : State) : Woken s s := ⟨fun _ => .refl .., fun _ => rfl, rfl⟩

theorem stamp {s t : State} (h : Woken s t) : t.stamp = s.stamp := by have same := congrArg State.stamp h.rest; exact same

theorem trans {s t u : State} (h : Woken s t) (k : Woken t u) : Woken s u where
  warps j := (h.warps j).trans (h.stamp ▸ k.warps j)
  blocks j := (h.blocks j).trans (k.blocks j)
  rest := by
    have step := congrArg (fun x : State => { x with warps := s.warps, blocks := s.blocks }) k.rest
    exact step.trans h.rest

theorem foldl {f : State → Nat → State} (step : ∀ t x, Woken t (f t x)) (s : State) (l : List Nat) : Woken s (l.foldl f s) :=
  foldl_preserves (P := Woken s) (fun _ _ same => same.trans (step _ _)) l (.refl s)

theorem setBlock {s : State} {k : Nat} {b : Block} (same : BlockReleased (blockOf s k) b) : Woken s (setBlock s k b) where
  warps _ := .refl ..
  blocks j := by
    rw [blockOf_setBlock]
    split
    · next here => rw [← here]; exact same
    · rfl
  rest := rfl

/-- A release leaves every barrier as it is. -/
theorem barrierOf {s t : State} (h : Woken s t) (lvl key n : Nat) : barrierOf t lvl key n = barrierOf s lvl key n := by
  have grids : t.grids = s.grids := by have same := congrArg State.grids h.rest; exact same
  have barriers : (blockOf t key).barriers = (blockOf s key).barriers := by
    have same := congrArg Block.barriers (h.blocks key)
    exact same
  unfold Machine.barrierOf gridOf
  split <;> simp only [grids, barriers]

end Woken

theorem wakeEntry_blank (lvl n : Nat) (phase : Bool) (stamp : Nat) : wakeEntry lvl n phase stamp Entry.blank = Entry.blank := rfl

theorem entryOf_wakeWarp (lvl n : Nat) (phase : Bool) (stamp : Nat) (w : Warp) (e : Nat) :
    entryOf (wakeWarp lvl n phase stamp w) e = wakeEntry lvl n phase stamp (entryOf w e) :=
  Tbl.get_map (wakeEntry_blank lvl n phase stamp) w.split e

theorem wakeEntry_eq (lvl n : Nat) (phase : Bool) (stamp : Nat) (x : Entry) :
    wakeEntry lvl n phase stamp x = x ∨ (x.state = .parked ∧ wakeEntry lvl n phase stamp x = takesOver x stamp) := by
  unfold wakeEntry
  split
  · next parked _ =>
    split
    · exact .inr ⟨parked, rfl⟩
    · exact .inl rfl
  · exact .inl rfl

theorem wakeEntry_again (lvl n : Nat) (phase : Bool) (stamp : Nat) (x : Entry) :
    wakeEntry lvl n phase stamp (wakeEntry lvl n phase stamp x) = wakeEntry lvl n phase stamp x := by
  rcases wakeEntry_eq lvl n phase stamp x with same | ⟨-, woken⟩
  · rw [same]; exact same
  · rw [woken]; rfl

theorem wakeWarp_again (lvl n : Nat) (phase : Bool) (stamp : Nat) (w : Warp) :
    wakeWarp lvl n phase stamp (wakeWarp lvl n phase stamp w) = wakeWarp lvl n phase stamp w := by
  simp [wakeWarp, wakeEntry_again]

theorem wakeWarp_woken (lvl n : Nat) (phase : Bool) (stamp : Nat) (w : Warp) : WarpWoken stamp w (wakeWarp lvl n phase stamp w) :=
  ⟨rfl, fun e => by rw [entryOf_wakeWarp]; exact wakeEntry_eq ..⟩

/-- The warps of a block after a release, and what else the release changes. -/
theorem warpOf_wakeBlock (s : State) (lvl n : Nat) (phase : Bool) (k j : Nat) : warpOf (wakeBlock s lvl n phase k) j =
    if j ∈ (blockOf s k).warps then wakeWarp lvl n phase s.stamp (warpOf s j) else warpOf s j :=
  warpOf_foldl_setWarp (wakeWarp_again lvl n phase s.stamp) s (blockOf s k).warps j

theorem blockOf_rest {s t : State} (rest : { t with warps := s.warps } = s) (k : Nat) : blockOf t k = blockOf s k := by
  have same := congrArg (fun u : State => blockOf u k) rest
  exact same

theorem wakeBlock_woken (s : State) (lvl n : Nat) (phase : Bool) (k : Nat) : Woken s (wakeBlock s lvl n phase k) := by
  let s1 := (blockOf s k).warps.foldl (fun t w => setWarp t w (wakeWarp lvl n phase s.stamp (warpOf t w))) s
  have rest : { s1 with warps := s.warps } = s := foldl_setWarp_rest _ s _
  have first : Woken s s1 := by
    refine ⟨fun j => ?_, fun j => by rw [blockOf_rest rest]; rfl, ?_⟩
    · rw [warpOf_foldl_setWarp (wakeWarp_again lvl n phase s.stamp)]
      split
      · exact wakeWarp_woken ..
      · exact .refl ..
    · have same := congrArg (fun u : State => { u with blocks := s.blocks }) rest
      exact same
  exact first.trans (.setBlock rfl)

theorem takeCheckpoint_woken (s : State) (k : Nat) : Woken s (takeCheckpoint s k) := by
  let live := (blockOf s k).warps.filter fun w => (warpOf s w).status != .exited
  let s1 := live.foldl (fun t w => setWarp t w { warpOf t w with vlog := [], llog := [] }) s
  have rest : { s1 with warps := s.warps } = s := foldl_setWarp_rest _ s _
  have first : Woken s s1 := by
    refine ⟨fun j => ?_, fun j => by rw [blockOf_rest rest]; rfl, ?_⟩
    · rw [warpOf_foldl_setWarp (f := fun w => { w with vlog := [], llog := [] }) (fun _ => rfl)]
      split
      · exact ⟨rfl, fun _ => .inl rfl⟩
      · exact .refl ..
    · have same := congrArg (fun u : State => { u with blocks := s.blocks }) rest
      exact same
  refine first.trans (.setBlock ?_)
  rw [blockOf_rest rest]
  rfl

/-- A barrier that is full: its phase flips, its arrivals are gone, and its members go on. -/
theorem barrierCheck_full {s : State} {lvl key n : Nat} (full : barrierFull s lvl key n = true) :
    ∃ ck : Bool, barrierCheck s lvl key n =
      let s1 := setBarrier s lvl key n ⟨[], !(barrierOf s lvl key n).phase⟩
      let s2 := (barrierBlocks s1 lvl key).foldl (fun t k => wakeBlock t lvl n (!(barrierOf s lvl key n).phase) k) s1
      if ck then takeCheckpoint s2 key else s2 := by
  rw [barrierCheck, if_neg (by simp [full])]
  exact ⟨_, rfl⟩

theorem barrierCheck_waits {s : State} {lvl key n : Nat} (waits : barrierFull s lvl key n = false) :
    barrierCheck s lvl key n = s := if_pos waits

/-- After a barrier has been set, what follows in its release. -/
theorem barrierCheck_woken {s : State} {lvl key n : Nat} (full : barrierFull s lvl key n = true) :
    Woken (setBarrier s lvl key n ⟨[], !(barrierOf s lvl key n).phase⟩) (barrierCheck s lvl key n) := by
  obtain ⟨ck, released⟩ := barrierCheck_full full
  rw [released]
  have woken := Woken.foldl (fun t k => wakeBlock_woken t lvl n (!(barrierOf s lvl key n).phase) k)
    (setBarrier s lvl key n ⟨[], !(barrierOf s lvl key n).phase⟩)
    (barrierBlocks (setBarrier s lvl key n ⟨[], !(barrierOf s lvl key n).phase⟩) lvl key)
  dsimp only
  split
  · exact woken.trans (takeCheckpoint_woken ..)
  · exact woken

theorem barrierOf_setBarrier (s : State) (lvl key n : Nat) (x : Barrier) : barrierOf (setBarrier s lvl key n x) lvl key n = x := by
  unfold barrierOf setBarrier
  split <;> simp

/-! ### Looking at barriers again (R154) -/

/-- Warps, blocks and grids after barriers have been looked at. -/
structure Rechecked (s t : State) : Prop where
  warps : ∀ k, WarpWoken s.stamp (warpOf s k) (warpOf t k)
  blocks : ∀ k, BlockReleased { blockOf s k with barriers := (blockOf t k).barriers } (blockOf t k)
  rest : { t with warps := s.warps, blocks := s.blocks, grids := s.grids } = s

namespace Rechecked

theorem refl (s : State) : Rechecked s s := ⟨fun _ => .refl .., fun _ => rfl, rfl⟩

theorem of_woken {s t : State} (h : Woken s t) : Rechecked s t where
  warps := h.warps
  blocks k := by
    have barriers : (blockOf t k).barriers = (blockOf s k).barriers := by
      have same := congrArg Block.barriers (h.blocks k)
      exact same
    rw [barriers]; exact h.blocks k
  rest := by
    have step := congrArg (fun x : State => { x with grids := s.grids }) h.rest
    exact step

theorem trans {s t u : State} (h : Rechecked s t) (k : Rechecked t u) : Rechecked s u where
  warps j := by
    have stamp : t.stamp = s.stamp := by have same := congrArg State.stamp h.rest; exact same
    exact (h.warps j).trans (stamp ▸ k.warps j)
  blocks j := by
    have step : BlockReleased { blockOf s j with barriers := (blockOf u j).barriers }
        { blockOf t j with barriers := (blockOf u j).barriers } := by
      have same := congrArg (fun b : Block => { b with barriers := (blockOf u j).barriers }) (h.blocks j)
      exact same
    exact BlockReleased.trans step (k.blocks j)
  rest := by
    have step := congrArg (fun x : State => { x with warps := s.warps, blocks := s.blocks, grids := s.grids }) k.rest
    exact step.trans h.rest

theorem foldl {f : State → Nat → State} (step : ∀ t x, Rechecked t (f t x)) (s : State) (l : List Nat) :
    Rechecked s (l.foldl f s) :=
  foldl_preserves (P := Rechecked s) (fun _ _ same => same.trans (step _ _)) l (.refl s)

theorem setBarrier (s : State) (lvl key n : Nat) (x : Barrier) : Rechecked s (setBarrier s lvl key n x) := by
  unfold Machine.setBarrier
  split
  · refine ⟨fun _ => .refl .., fun j => ?_, rfl⟩
    dsimp only
    rw [blockOf_setBlock]
    split
    · next here => rw [← here]; rfl
    · rfl
  · exact ⟨fun _ => .refl .., fun _ => rfl, rfl⟩
  · exact ⟨fun _ => .refl .., fun _ => rfl, rfl⟩

theorem mem {s t : State} (h : Rechecked s t) : t.mem = s.mem := by have same := congrArg State.mem h.rest; exact same

end Rechecked

theorem barrierCheck_rechecked (s : State) (lvl key n : Nat) : Rechecked s (barrierCheck s lvl key n) := by
  cases full : barrierFull s lvl key n with
  | false => rw [barrierCheck_waits full]; exact .refl s
  | true => exact (Rechecked.setBarrier ..).trans (.of_woken (barrierCheck_woken full))

theorem recheckBarriers_rechecked (s : State) (k : Nat) : Rechecked s (recheckBarriers s k) :=
  ((Rechecked.foldl (fun t n => barrierCheck_rechecked t 0 k n) ..).trans
    (Rechecked.foldl (fun t n => barrierCheck_rechecked t 1 _ n) ..)).trans
    (Rechecked.foldl (fun t n => barrierCheck_rechecked t 2 _ n) ..)

end Sys2Proof.Machine
end

section
/-! SUPPORT. The end of a fragment (R134, R171) and of its warp (R154, R248). -/

namespace Sys2Proof.Machine

theorem setFrag_onlyEntry (s : State) (x : Entry) : OnlyEntry x s (setFrag s x) := by
  obtain ⟨others, warp, outside⟩ := setFrag_only s x
  exact ⟨curEntry_setFrag s x, others, warp, outside⟩

/-- A warp with a fragment left does not end (R171). -/
theorem warpEnd_of_used {s : State} {k i : Nat} (number : i < 8) (used : (entryOf (warpOf s k) i).state ≠ .free) :
    warpEnd s k = s := by
  have entries : (usedEntries (warpOf s k)).isEmpty = false := by
    rw [List.isEmpty_eq_false_iff]
    exact List.ne_nil_of_mem (mem_usedEntries.mpr ⟨number, used⟩)
  exact if_pos (warpOver_of_entries entries)

/-- The end of a path that is the fragment's only one. -/
theorem endFragment_plain {w : Warp} {e : Nat} (stamp : Nat) (plain : (entryOf w e).ser = 0) :
    endFragment w stamp e = settle (setEntry w e Entry.blank) stamp (entryOf w e).parent.toNat 8 := by
  have ends : endPath w stamp e = (setEntry w e Entry.blank, true) := if_pos plain
  rw [endFragment, ends]
  rfl

/-- The end of the first path of a serialised entry (R134). -/
theorem endFragment_serial {w : Warp} {e : Nat} (stamp : Nat) (serial : (entryOf w e).ser ≠ 0)
    (pending : (entryOf w e).altOff ≠ 0xFFFF) : endFragment w stamp e = setEntry w e (takesOver
      { switchPath (entryOf w e) (entryOf w (entryOf w e).parent.toNat).pc with pend := 0, pendx := 0 } stamp) := by
  have ends : endPath w stamp e = (setEntry w e (takesOver
      { switchPath (entryOf w e) (entryOf w (entryOf w e).parent.toNat).pc with pend := 0, pendx := 0 } stamp), false) :=
    (if_neg serial).trans (if_pos pending)
  rw [endFragment, ends]
  rfl

/-- `EXIT` that leaves a LEAF of the warp: what becomes of the split table is all that happens. -/
theorem exitFragment_of_leaf {s : State} {w : Warp} {i : Nat} (ends : endFragment (curWarp s) s.stamp s.frag = w)
    (number : i < 8) (leaf : (entryOf w i).state = .leaf) : exitFragment s = setCur s w := by
  have warp : warpOf (setCur s w) s.cur = w := curWarp_setCur s w
  have used : (entryOf (warpOf (setCur s w) s.cur) i).state ≠ .free := by rw [warp, leaf]; exact fun same => by cases same
  rw [exitFragment, ends]
  rw [barwCheck_of_unready (by rw [warp]; exact barwReady_of_leaf number leaf), warpEnd_of_used number used]

theorem usedEntries_freed {w : Warp} {e : Nat} (only : usedEntries w = [e]) : usedEntries (setEntry w e Entry.blank) = [] := by
  refine usedEntries_eq_nil.mpr fun i number => ?_
  by_cases here : i = e
  · rw [here, entryOf_setEntry_same]; rfl
  · rw [entryOf_setEntry_ne _ _ here]
    by_contra used
    exact here (by simpa [only] using mem_usedEntries.mpr ⟨number, used⟩)

/-- `EXIT` of the last fragment: the table is empty, and the warp ends if nothing of it is pending. -/
theorem exitFragment_of_last {s : State} (only : usedEntries (curWarp s) = [s.frag]) (plain : (curEntry s).ser = 0)
    (root : (curEntry s).parent = 15) : exitFragment s = warpEnd (setFrag s Entry.blank) s.cur := by
  have ends : endFragment (curWarp s) s.stamp s.frag = setEntry (curWarp s) s.frag Entry.blank := by
    rw [endFragment_plain _ plain]
    exact settle_of_no_join _ _ (.inl (by rw [show (entryOf (curWarp s) s.frag).parent = 15 from root]; decide))
  have warp : warpOf (setFrag s Entry.blank) s.cur = setEntry (curWarp s) s.frag Entry.blank := curWarp_setCur s _
  rw [exitFragment, ends]
  exact congrArg (warpEnd · s.cur) (barwCheck_of_unready (s := setFrag s Entry.blank)
    (by rw [warp]; exact barwReady_of_unused (usedEntries_freed only)))

/-- A block with a live warp goes on (R154). -/
theorem blockEnd_of_live {s : State} {k i : Nat} (live : i ∈ liveWarps (blockOf s k)) : blockEnd s k = s := by
  have going : blockOver s k = false := by
    have some_live : (liveWarps (blockOf s k)).isEmpty = false := List.isEmpty_eq_false_iff.mpr (List.ne_nil_of_mem live)
    simp [blockOver, some_live]
  exact if_pos going

/-- A tenant's warp has ended (R154, R196, R248): streams and queues are gone, its lease has ended, and it has left the members of
its barriers. -/
structure WarpExited (k : Nat) (w : Warp) (s t : State) : Prop where
  status : (warpOf t k).status = .exited
  entries : usedEntries (warpOf t k) = []
  queues : (warpOf t k).queues = []
  streams : (warpOf t k).streams = []
  lease : (warpOf t k).lease = none
  scalars : (warpOf t k).scalars = w.scalars
  vecs : (warpOf t k).vecs = w.vecs
  gone : (blockOf t w.blk).gone = w.index :: (blockOf s w.blk).gone
  mem : t.mem = s.mem

theorem warpEnd_exits {s : State} {k i : Nat} (tenant : 16 ≤ k) (ended : warpOver (warpOf s k) = true)
    (live : i ∈ liveWarps (blockOf s (warpOf s k).blk)) (other : i ≠ (warpOf s k).index) :
    WarpExited k (warpOf s k) s (warpEnd s k) := by
  obtain ⟨w, same⟩ : ∃ w, warpOf s k = w := ⟨_, rfl⟩
  rw [same] at ended live other ⊢
  have empty : usedEntries w = [] := by
    simp only [warpOver, Bool.and_eq_true, List.isEmpty_iff] at ended
    exact ended.1.1.1.1
  let s1 := setWarp s k { w with status := .exited, queues := [], streams := [], lease := none }
  let s2 := setBlock s1 w.blk { blockOf s1 w.blk with gone := w.index :: (blockOf s1 w.blk).gone }
  have step : warpEnd s k = blockEnd (recheckBarriers s2 w.blk) w.blk := by
    rw [warpEnd]
    dsimp only
    rw [same, if_neg (by simp [ended]), if_neg (by omega)]
  obtain ⟨t, here, looked⟩ : ∃ t, recheckBarriers s2 w.blk = t ∧ Rechecked s2 t := ⟨_, rfl, recheckBarriers_rechecked s2 w.blk⟩
  rw [here] at step
  have warp : warpOf s2 k = { w with status := .exited, queues := [], streams := [], lease := none } :=
    warpOf_setWarp_same s k _
  have block : blockOf s2 w.blk = { blockOf s w.blk with gone := w.index :: (blockOf s w.blk).gone } :=
    blockOf_setBlock_same s1 w.blk _
  have kept := looked.blocks w.blk
  have gone : (blockOf t w.blk).gone = w.index :: (blockOf s w.blk).gone := by
    have field := congrArg Block.gone kept
    rw [block] at field
    exact field
  have cmd : (blockOf t w.blk).cmd = (blockOf s w.blk).cmd := by
    have field := congrArg Block.cmd kept
    rw [block] at field
    exact field
  have going : i ∈ liveWarps (blockOf t w.blk) := by
    simp only [liveWarps, gone, cmd, List.mem_filter, List.contains_cons, Bool.not_eq_true', Bool.or_eq_false_iff] at live ⊢
    exact ⟨live.1, by simpa using other, live.2⟩
  rw [step, blockEnd_of_live going]
  have woken := warp ▸ looked.warps k
  exact ⟨woken.status, woken.unused empty, woken.queues, woken.streams, woken.lease, woken.scalars, woken.vecs, gone, looked.mem⟩

/-! ### The statement -/

/-- Settles O25: in each case the one operation of the split table that `endFragment` comes to, and whether a fragment is left for
the warp to go on with. -/
theorem exitWord : Obligations.ExitWord := by
  unfold Obligations.ExitWord
  have exits {p : Option Prefix} {s : State} (issues : Issues (.exit p) s) : exec (.exit p) s = .next (exitFragment s) :=
    exec_word issues rfl
  refine ⟨fun p s i issues plain number other leaf under => ?_,
    fun p s j issues plain up number other join apart arrived lanes => ?_, fun p s issues frag serial pending => ?_,
    fun p s issues only plain root notExited notAbsent => ⟨fun pending => ?_, fun done counters tenant live => ?_⟩⟩
  · have kept (k : Nat) (ne : k ≠ s.frag) : entryOf (setEntry (curWarp s) s.frag Entry.blank) k = entryOf (curWarp s) k :=
      entryOf_setEntry_ne _ _ ne
    have ends : endFragment (curWarp s) s.stamp s.frag = setEntry (curWarp s) s.frag Entry.blank := by
      rw [endFragment_plain _ plain]
      rcases under with root | same
      · exact settle_of_no_join _ _ (.inl (by rw [show (entryOf (curWarp s) s.frag).parent = 15 from root]; decide))
      · exact settle_of_waiting _ _ (mem_childrenOf.mpr ⟨number, by simp [kept i other, leaf], by rw [kept i other, same]; rfl⟩)
          (by simp [kept i other, leaf])
    exact ⟨_, exits issues, exitFragment_of_leaf ends number (by rw [kept i other, leaf]) ▸ setFrag_onlyEntry s _⟩
  · let w1 := setEntry (curWarp s) s.frag Entry.blank
    have kept (k : Nat) (ne : k ≠ s.frag) : entryOf w1 k = entryOf (curWarp s) k := entryOf_setEntry_ne _ _ ne
    have child {i : Nat} : i ∈ childrenOf w1 j ↔ i ∈ childrenOf (curWarp s) j ∧ i ≠ s.frag := mem_childrenOf_freed
    have union (f : Entry → Dword) (b : Nat) :
        ((childrenOf w1 j).foldl (fun m i => m ||| f (entryOf w1 i)) 0).getLsbD b = true ↔
        ∃ i ∈ childrenOf (curWarp s) j, i ≠ s.frag ∧ (f (entryOf (curWarp s) i)).getLsbD b = true := by
      rw [getLsbD_foldl_or_zero fun i => f (entryOf w1 i)]
      refine exists_congr fun i => ?_
      rw [child, and_assoc]
      exact and_congr_right fun _ => and_congr_right fun ne => by rw [kept i ne]
    have ends := settle_fuses (w := w1) s.stamp 7 number (by rw [kept j other.symm.symm, join])
      (fun i mem => by rw [kept i (child.mp mem).2]; exact arrived i (child.mp mem).1 (child.mp mem).2)
      (fun none => by
        obtain ⟨i, b, listed, ne, bit⟩ := lanes
        have lane := (union Entry.owned b).mpr ⟨i, listed, ne, bit⟩
        rw [none] at lane
        simp at lane)
    rw [kept j other] at ends
    have ended : endFragment (curWarp s) s.stamp s.frag = _ :=
      (endFragment_plain _ plain).trans ((congrArg (settle w1 s.stamp · 8) up).trans ends)
    refine ⟨_, exits issues, ?_⟩
    rw [exitFragment_of_leaf ended number (by rw [entryOf_addPoint, entryOf_setEntry_same]; rfl)]
    simp only [curWarp_setCur, entryOf_addPoint, entryOf_setEntry_same]
    have freed (k : Nat) (ne : k ≠ j) (gone : k ∈ childrenOf w1 j ∨ k = s.frag) (x : Entry) :
        (entryOf (setEntry (freeAll w1 (childrenOf w1 j)) j x) k).state = .free := by
      rw [entryOf_setEntry_ne _ _ ne, entryOf_freeAll]
      split
      · rfl
      · next away =>
        rw [gone.resolve_left away, entryOf_setEntry_same]
        rfl
    refine ⟨rfl, rfl, union Entry.owned, union Entry.exec, freed _ (Ne.symm other) (.inr rfl) _, fun i listed => ?_, ?_,
      onlyWarp_setCur s _⟩
    · have ne : i ≠ j := fun same => apart (same ▸ (mem_childrenOf.mp listed).2.2)
      exact freed i ne ((em (i = s.frag)).symm.imp_left fun away => child.mpr ⟨listed, away⟩) _
    · have rest := congrArg (fun w : Warp => { w with split := (curWarp s).split }) (freeAll_rest w1 (childrenOf w1 j))
      exact fused_rest (v := freeAll w1 (childrenOf w1 j)) rest j _
  · have ends := endFragment_serial s.stamp (w := curWarp s) (e := s.frag) serial pending
    exact ⟨_, exits issues, exitFragment_of_leaf ends frag (by rw [entryOf_setEntry_same]; rfl) ▸ setFrag_onlyEntry s _⟩
  all_goals
    have last := exitFragment_of_last only plain root
    have warp : warpOf (setFrag s Entry.blank) s.cur = setEntry (curWarp s) s.frag Entry.blank := curWarp_setCur s _
    have empty := usedEntries_freed only
  · have pends : warpOver (setEntry (curWarp s) s.frag Entry.blank) = false := by
      have some_left : (curWarp s).pend.isEmpty = false := List.isEmpty_eq_false_iff.mpr pending
      simp [warpOver, setEntry, some_left]
    have stays : exitFragment s = setFrag s Entry.blank := last.trans (if_pos (by rw [warp]; exact pends))
    obtain ⟨-, kept, outside⟩ := setFrag_only s Entry.blank
    exact ⟨_, exits issues, stays ▸ (curWarp_setCur s _).symm ▸ empty, stays ▸ kept, stays ▸ outside⟩
  · have ended : warpOver (warpOf (setFrag s Entry.blank) s.cur) = true := by
      rw [warp]
      simp only [warpOver, empty, Bool.and_eq_true, bne_iff_ne, List.isEmpty_iff]
      exact ⟨⟨⟨⟨trivial, done⟩, counters⟩, notExited⟩, notAbsent⟩
    obtain ⟨i, alive, away⟩ := live
    have exited := warpEnd_exits tenant ended (i := i) (by rw [warp]; exact alive) (by rw [warp]; exact away)
    rw [warp, ← last] at exited
    exact ⟨_, exits issues, exited.status, exited.entries, exited.queues, exited.streams, exited.lease, exited.scalars,
      exited.vecs, exited.gone, fun a => by rw [exited.mem]; rfl⟩

end Sys2Proof.Machine
end

section
/-! SUPPORT. The warp barrier and the limit of a wait (R155, R176). -/

namespace Sys2Proof.Machine

/-! ### The fragments that wait at a `BARW` -/

theorem barwRefs_isSome {x : Entry} (waits : (barwRefs x).isSome = true) :
    ∃ r, barwRefs x = some (r :: x.side.toList) := by
  unfold barwRefs at waits ⊢
  split at waits
  · exact ⟨_, rfl⟩
  · cases waits

/-- A ready warp barrier has a first fragment that waits there. -/
theorem barwReady_waiter {w : Warp} (ready : barwReady w = true) :
    ∃ i l r, barwWaiters w = i :: l ∧ barwRefs (entryOf w i) = some (r :: (entryOf w i).side.toList) := by
  have waiter : ∃ i, i ∈ barwWaiters w := by
    simp only [barwReady, Bool.and_eq_true, List.any_eq_true] at ready
    obtain ⟨i, used, waits⟩ := ready.2
    exact ⟨i, List.mem_filter.mpr ⟨used, waits⟩⟩
  obtain ⟨i, l, waiters⟩ := List.exists_cons_of_ne_nil (List.ne_nil_of_mem waiter.choose_spec)
  have listed : i ∈ barwWaiters w := by simp [waiters]
  obtain ⟨r, refs⟩ := barwRefs_isSome (List.mem_filter.mp listed).2
  exact ⟨i, l, r, waiters, refs⟩

/-- Overlay and offset of the first fragment's wait stand among the places. -/
theorem placeOf_mem_barwPlaces {w : Warp} {i : Nat} {l : List Nat} {r : Dword} {side : List Dword} (waiters : barwWaiters w = i :: l)
    (refs : barwRefs (entryOf w i) = some (r :: side)) : ∃ q, barwPlaces w = placeOf r :: q := by
  rw [barwPlaces, waiters, List.flatMap_cons, refs]
  exact ⟨_, rfl⟩

/-! ### Fusion -/

section
variable {w : Warp} {i : Nat} {l : List Nat} {r : Dword} {side : List Dword} (stamp : Nat)

theorem entryOf_barwFuse (waiters : barwWaiters w = i :: l) (refs : barwRefs (entryOf w i) = some (r :: side)) :
    entryOf (barwFuse w stamp) 0 = takesOver { Entry.blank with
      owned := (barwWaiters w).foldl (fun m i => m ||| (entryOf w i).owned ||| (entryOf w i).pend) 0
      exec := (barwWaiters w).foldl (fun m i => m ||| (entryOf w i).exec ||| (entryOf w i).pendx) 0
      pc := refAt r (refOff r + 1), parent := 15, rcvOff := 0xFFFF
      holds := (barwWaiters w).foldl (fun h i => h ++ (entryOf w i).holds) [] } stamp := by
  rw [barwFuse, entryOf_addPoint, entryOf_setEntry_same, waiters]
  dsimp only
  rw [refs]

theorem usedEntries_barwFuse : usedEntries (barwFuse w stamp) = [0] := by
  have used (i : Nat) (number : i ∈ List.range 8) :
      ((entryOf (barwFuse w stamp) i).state != .free) = decide (i = 0) := by
    rw [barwFuse, entryOf_addPoint, entryOf_setEntry, entryOf_freeAll, if_pos number]
    split
    · next here => subst here; rfl
    · next away => simpa [Entry.blank] using Ne.symm away
  rw [usedEntries, List.filter_congr used]
  rfl

theorem barwFuse_rest : { barwFuse w stamp with split := w.split, pend := w.pend, nextOp := w.nextOp } = w :=
  fused_rest (freeAll_rest w (List.range 8)) 0 _

end

/-- Bits of the lanes that a warp barrier puts together. -/
theorem getLsbD_lanes (f g : Nat → Dword) (l : List Nat) (b : Nat) :
    (l.foldl (fun m i => m ||| f i ||| g i) 0).getLsbD b = true ↔
      ∃ i ∈ l, (f i).getLsbD b = true ∨ (g i).getLsbD b = true := by
  have grouped := getLsbD_foldl_or_zero (fun i => f i ||| g i) l b
  simp only [← BitVec.or_assoc, BitVec.getLsbD_or, Bool.or_eq_true] at grouped
  exact grouped

/-- All fragments wait at one place: the warp fuses (R176). -/
theorem barwCheck_fuses {s : State} {k : Nat} {y : Nat × BitVec 16} (ready : barwReady (warpOf s k) = true)
    (one : ∀ z ∈ barwPlaces (warpOf s k), z = y) : barwCheck s k = setWarp s k (barwFuse (warpOf s k) s.stamp) := by
  obtain ⟨i, l, r, waiters, refs⟩ := barwReady_waiter ready
  obtain ⟨q, places⟩ := placeOf_mem_barwPlaces waiters refs
  have first : placeOf r = y := one _ (by simp [places])
  have same : (q.all fun z => z == placeOf r) = true := by
    rw [List.all_eq_true]
    intro z listed
    simpa [first] using one z (by simp [places, listed])
  unfold barwCheck
  dsimp only
  rw [if_neg (by simp [ready]), places]
  exact if_pos same

/-- The fragments wait at two places: the first of them takes *barrier fault*, and the warp drains (R176). -/
theorem barwCheck_faults {s : State} {k : Nat} {y z : Nat × BitVec 16} (tenant : 16 ≤ k) (ready : barwReady (warpOf s k) = true)
    (hy : y ∈ barwPlaces (warpOf s k)) (hz : z ∈ barwPlaces (warpOf s k)) (two : y ≠ z) (quiet : (warpOf s k).trap = none) :
    (∃ x, (warpOf (barwCheck s k) k).trap = some x ∧ x.cause = 8 ∧ (warpOf (barwCheck s k) k).status = .trapping) ∧
      (barwCheck s k).mem = s.mem ∧ (barwCheck s k).cur = s.cur := by
  obtain ⟨i, l, r, waiters, refs⟩ := barwReady_waiter ready
  obtain ⟨q, places⟩ := placeOf_mem_barwPlaces waiters refs
  have differ : ¬ (q.all fun z => z == placeOf r) = true := by
    intro same
    have all (v : Nat × BitVec 16) (hv : v ∈ barwPlaces (warpOf s k)) : v = placeOf r := by
      rw [places] at hv
      rcases List.mem_cons.mp hv with first | later
      · exact first
      · simpa using List.all_eq_true.mp same v later
    exact two ((all y hy).trans (all z hz).symm)
  let fault (t : State) (i : Nat) : State := match barwRefs (entryOf (warpOf s k) i) with
    | some (r :: _) => raiseTrap t k ⟨8, i, noLane, 0, 0, r⟩
    | _ => t
  have folded : barwCheck s k = l.foldl fault (raiseTrap s k ⟨8, i, noLane, 0, 0, r⟩) := by
    unfold barwCheck
    dsimp only
    rw [if_neg (by simp [ready]), places]
    dsimp only
    rw [if_neg differ, waiters]
    have first : fault s i = raiseTrap s k ⟨8, i, noLane, 0, 0, r⟩ := by
      dsimp only [fault]
      rw [refs]
    exact congrArg (List.foldl fault · l) first
  let Faulted (t : State) : Prop := (∃ x, (warpOf t k).trap = some x ∧ x.cause = 8 ∧ (warpOf t k).status = .trapping) ∧
    t.mem = s.mem ∧ t.cur = s.cur
  have later (t : State) (j : Nat) (before : Faulted t) : Faulted (fault t j) := by
    dsimp only [fault]
    split
    · obtain ⟨⟨x, trap, cause, status⟩, mem, cur⟩ := before
      rw [raiseTrap_tenant tenant (by show (8 : Nat) ≠ 18; decide)]
      obtain ⟨kept, still⟩ := trappedWarp_later trap ⟨8, j, noLane, 0, 0, _⟩
      exact ⟨⟨x, by rw [warpOf_setWarp_same]; exact kept, cause, by rw [warpOf_setWarp_same]; exact still.trans status⟩, mem, cur⟩
    · exact before
  rw [folded]
  refine foldl_preserves (P := Faulted) later l ?_
  obtain ⟨trap, status⟩ := trappedWarp_first quiet ⟨8, i, noLane, 0, 0, r⟩
  rw [raiseTrap_tenant tenant (by show (8 : Nat) ≠ 18; decide)]
  exact ⟨⟨_, by rw [warpOf_setWarp_same]; exact trap, rfl, by rw [warpOf_setWarp_same]; exact status⟩, rfl, rfl⟩

/-! ### The limit of a wait (R155) -/

/-- The warp drains after a *barrier timeout* of barrier `n`. -/
def TimedOut (n : Nat) (w : Warp) : Prop :=
  ∃ x, w.trap = some x ∧ x.cause = 9 ∧ x.value = BitVec.ofNat 64 n ∧ w.status = .trapping

/-- What a timeout leaves of the other warps and of the rest of the state. -/
def OnlyThisWarp (k : Nat) (s t : State) : Prop := (∀ j, j ≠ k → warpOf t j = warpOf s j) ∧ { t with warps := s.warps } = s

section
variable {lvl n k : Nat} (tenant : 16 ≤ k)
include tenant

/-- One waiting fragment of a tenant's warp takes *barrier timeout*. -/
theorem timeout_step (t : State) (e : Nat) (x : Entry) (pc : Dword) :
    let u := raiseTrap (setWarp t k (setEntry (warpOf t k) e x)) k ⟨9, e, noLane, BitVec.ofNat 64 n, 0, pc⟩
    ((warpOf t k).trap = none ∨ TimedOut n (warpOf t k) → TimedOut n (warpOf u k)) ∧ OnlyThisWarp k t u := by
  rw [raiseTrap_tenant tenant (by show (9 : Nat) ≠ 18; decide)]
  dsimp only
  rw [warpOf_setWarp_same, warpOf_setWarp_same]
  refine ⟨?_, fun j other => ?_, rfl⟩
  · rintro (quiet | ⟨y, trap, cause, value, status⟩)
    · obtain ⟨trap, status⟩ := trappedWarp_first (w := setEntry (warpOf t k) e x) quiet
        ⟨9, e, noLane, BitVec.ofNat 64 n, 0, pc⟩
      exact ⟨_, trap, rfl, rfl, status⟩
    · obtain ⟨kept, still⟩ := trappedWarp_later (w := setEntry (warpOf t k) e x) trap
        ⟨9, e, noLane, BitVec.ofNat 64 n, 0, pc⟩
      exact ⟨y, kept, cause, value, still.trans status⟩
  · rw [warpOf_setWarp, if_neg (Ne.symm other), warpOf_setWarp, if_neg (Ne.symm other)]

theorem timeoutWarp_only (s : State) : OnlyThisWarp k s (timeoutWarp lvl n s k) := by
  refine foldl_preserves (P := OnlyThisWarp k s) (fun t e same => ?_) _ ⟨fun _ _ => rfl, rfl⟩
  obtain ⟨-, others, rest⟩ := timeout_step (n := n) tenant t e { entryOf (warpOf t k) e with state := .leaf, wait := .none }
    (waitRef (entryOf (warpOf t k) e))
  refine ⟨fun j other => (others j other).trans (same.1 j other), ?_⟩
  have step := congrArg (fun v : State => { v with warps := s.warps }) rest
  exact step.trans same.2

theorem timeoutWarp_timedOut {s : State} (out : TimedOut n (warpOf s k)) : TimedOut n (warpOf (timeoutWarp lvl n s k) k) :=
  foldl_preserves (P := fun t => TimedOut n (warpOf t k))
    (by exact fun t e before => (timeout_step tenant t e _ _).1 (.inr before)) _ out

theorem timeoutWarp_first {s : State} (waits : waitersOf (warpOf s k) lvl n ≠ []) (quiet : (warpOf s k).trap = none) :
    TimedOut n (warpOf (timeoutWarp lvl n s k) k) := by
  obtain ⟨e, l, waiters⟩ := List.exists_cons_of_ne_nil waits
  rw [timeoutWarp, waiters, List.foldl_cons]
  refine foldl_preserves (P := fun t => TimedOut n (warpOf t k))
    (by exact fun t e before => (timeout_step tenant t e _ _).1 (.inr before)) l ?_
  exact (timeout_step tenant s e _ _).1 (.inl quiet)

end

/-- BARLIM passes at the members `ks` of a barrier. -/
theorem foldl_timeoutWarp {lvl n : Nat} {ks : List Nat} (tenants : ∀ k ∈ ks, 16 ≤ k) (s : State) :
    let t := ks.foldl (timeoutWarp lvl n) s
    (∀ k, TimedOut n (warpOf s k) → TimedOut n (warpOf t k)) ∧
      (∀ k ∈ ks, waitersOf (warpOf s k) lvl n ≠ [] → (warpOf s k).trap = none → TimedOut n (warpOf t k)) ∧
      (∀ k, k ∉ ks → warpOf t k = warpOf s k) ∧ { t with warps := s.warps } = s := by
  induction ks generalizing s with
  | nil => exact ⟨fun _ out => out, fun _ none => by simp at none, fun _ _ => rfl, rfl⟩
  | cons j ks ih =>
    have tenant : 16 ≤ j := tenants j (by simp)
    obtain ⟨later, first, others, rest⟩ := ih (fun k listed => tenants k (by simp [listed])) (timeoutWarp lvl n s j)
    obtain ⟨apart, outside⟩ := timeoutWarp_only (lvl := lvl) (n := n) tenant s
    rw [List.foldl_cons]
    refine ⟨fun k out => later k ?_, fun k listed waits quiet => ?_, fun k away => ?_, ?_⟩
    · by_cases here : k = j
      · subst here; exact timeoutWarp_timedOut tenant out
      · rw [apart k here]; exact out
    · by_cases here : k = j
      · subst here; exact later k (timeoutWarp_first tenant waits quiet)
      · exact first k ((List.mem_cons.mp listed).resolve_left here) (by rwa [apart k here]) (by rwa [apart k here])
    · simp only [List.mem_cons, not_or] at away
      rw [others k away.2, apart k away.1]
    · have step := congrArg (fun v : State => { v with warps := s.warps }) rest
      exact step.trans outside

/-! ### The statement -/

theorem getLsbD_refAt (r : Dword) (o : BitVec 16) (i : Nat) :
    (refAt r o).getLsbD i = if i < 16 then o.getLsbD i else r.getLsbD i := by
  show BitVec.getLsbD (w := 48 + 16) (r.extractLsb' 16 48 ++ o) i = _
  rw [BitVec.getLsbD_append]
  split
  · rfl
  · next above =>
    rw [BitVec.getLsbD_extractLsb', Nat.add_sub_cancel' (by omega)]
    by_cases small : i < 64
    · simp [show i - 16 < 48 by omega]
    · rw [BitVec.getLsbD_of_ge r i (by omega), Bool.and_false]

theorem refOff_refAt (r : Dword) (o : BitVec 16) : refOff (refAt r o) = o := by
  refine BitVec.eq_of_getLsbD_eq fun i small => ?_
  simp [refOff, getLsbD_refAt, small]

theorem refId_refAt (r : Dword) (o : BitVec 16) : refId (refAt r o) = refId r := by
  refine congrArg BitVec.toNat (BitVec.eq_of_getLsbD_eq fun i small => ?_)
  simp [getLsbD_refAt, show ¬ 44 + i < 16 by omega]

theorem refAt_refAt (r : Dword) (o p : BitVec 16) : refAt (refAt r o) p = refAt r p := by
  refine BitVec.eq_of_getLsbD_eq fun i small => ?_
  simp only [getLsbD_refAt]
  split <;> rfl
/-- The warp after its fragment has parked at a `BARW`. -/
def parkedAtBarw (s : State) : Warp :=
  setEntry (curWarp s) s.frag { curEntry s with
    state := .parked, wait := .barw (refAt (curEntry s).pc (curEntry s).here), left := 0 }

theorem exec_barw {s : State} (issues : Issues .barw s) (plain : (curEntry s).ser = 0) :
    exec .barw s = .next (barwCheck (setCur s (parkedAtBarw s)) s.cur) := by
  have effect : exec .barw s = .next (barwWord s) := exec_word (effect := barwWord) issues rfl
  rw [effect, barwWord]
  exact congrArg _ (if_neg (fun both => both.1 plain))

theorem barrierOf_rest {s t : State} (rest : { t with warps := s.warps } = s) (lvl key n : Nat) :
    barrierOf t lvl key n = barrierOf s lvl key n := by
  have same := congrArg (fun u : State => barrierOf u lvl key n) rest
  exact same

/-- The fragments of the warp fuse by this `BARW`. -/
theorem exec_barw_fuses {s : State} {y : Nat × BitVec 16} (issues : Issues .barw s) (plain : (curEntry s).ser = 0)
    (ready : barwReady (parkedAtBarw s) = true) (one : ∀ z ∈ barwPlaces (parkedAtBarw s), z = y) :
    ∃ t, exec .barw s = .next t ∧ curWarp t = barwFuse (parkedAtBarw s) s.stamp ∧
      { curWarp t with
        split := (curWarp s).split, pend := (curWarp s).pend, nextOp := (curWarp s).nextOp } = curWarp s ∧ OnlyWarp s t := by
  have warp : warpOf (setCur s (parkedAtBarw s)) s.cur = parkedAtBarw s := curWarp_setCur s _
  have fuses := barwCheck_fuses (s := setCur s (parkedAtBarw s)) (k := s.cur) (by rw [warp]; exact ready) (by rw [warp]; exact one)
  rw [warp] at fuses
  have now : curWarp (setCur (setCur s (parkedAtBarw s)) (barwFuse (parkedAtBarw s) s.stamp)) =
      barwFuse (parkedAtBarw s) s.stamp := curWarp_setCur _ _
  refine ⟨_, (exec_barw issues plain).trans (congrArg _ fuses), now, ?_, (onlyWarp_setCur s _).trans (onlyWarp_setCur _ _)⟩
  have rest := barwFuse_rest (w := parkedAtBarw s) s.stamp
  have same := congrArg (fun w : Warp => { w with split := (curWarp s).split }) rest
  exact (congrArg (fun w : Warp => { w with
    split := (curWarp s).split, pend := (curWarp s).pend, nextOp := (curWarp s).nextOp }) now).trans same

/-- Settles O28: the fused entry of `barwFuse`, the first trap of a warp whose waits stand apart, and the fold of timeouts. -/
theorem warpBarrierAndLimits : Obligations.WarpBarrierAndLimits := by
  unfold Obligations.WarpBarrierAndLimits
  have warp (s : State) (w : Warp) : warpOf (setCur s w) s.cur = w := curWarp_setCur s w
  refine ⟨?_, ?_, ?_, ?_, ?_, ?_⟩
  · intro s issues only leaf plain pend pendx side
    have here : entryOf (parkedAtBarw s) s.frag = { curEntry s with
        state := .parked, wait := .barw (refAt (curEntry s).pc (curEntry s).here), left := 0 } := entryOf_setEntry_same ..
    have used : usedEntries (parkedAtBarw s) = [s.frag] :=
      (usedEntries_setEntry (by rw [show (entryOf (curWarp s) s.frag).state = .leaf from leaf]; exact fun no => by cases no)
        (fun no => by cases no)).trans only
    have refs : barwRefs (entryOf (parkedAtBarw s) s.frag) = some (refAt (curEntry s).pc (curEntry s).here :: []) := by
      rw [here]; simp [barwRefs, side]
    have waiters : barwWaiters (parkedAtBarw s) = [s.frag] := by
      rw [barwWaiters, used, List.filter_cons, refs]; rfl
    have ready : barwReady (parkedAtBarw s) = true := by simp [barwReady, used, refs]
    have places : barwPlaces (parkedAtBarw s) = [placeOf (refAt (curEntry s).pc (curEntry s).here)] := by
      rw [barwPlaces, waiters, List.flatMap_cons, refs]; rfl
    obtain ⟨t, next, now, rest, outside⟩ := exec_barw_fuses issues plain ready
      (y := placeOf (refAt (curEntry s).pc (curEntry s).here)) (by simp [places])
    refine ⟨t, next, ?_⟩
    rw [now, usedEntries_barwFuse, entryOf_barwFuse s.stamp waiters refs, waiters, refOff_refAt, refAt_refAt]
    refine ⟨rfl, rfl, ?_, ?_, rfl, rfl, rfl, rfl, now ▸ rest, outside⟩
    · show 0 ||| (entryOf (parkedAtBarw s) s.frag).owned ||| (entryOf (parkedAtBarw s) s.frag).pend = _
      rw [here]; simp [pend]
    · show 0 ||| (entryOf (parkedAtBarw s) s.frag).exec ||| (entryOf (parkedAtBarw s) s.frag).pendx = _
      rw [here]; simp [pendx]
  · intro s issues plain ref w ready
    refine ⟨fun one => ?_, fun ⟨y, hy, z, hz, two⟩ tenant quiet => ?_⟩
    · obtain ⟨t, next, now, rest, outside⟩ := exec_barw_fuses issues plain ready one
      obtain ⟨i, l, r, waiters, refs⟩ := barwReady_waiter ready
      obtain ⟨q, places⟩ := placeOf_mem_barwPlaces waiters refs
      have first : placeOf r = placeOf ref := one _ (by simp [places])
      obtain ⟨id, off⟩ := Prod.mk.inj first
      have entry : entryOf (curWarp t) 0 = _ := now ▸ entryOf_barwFuse s.stamp waiters refs
      refine ⟨t, next, now ▸ usedEntries_barwFuse s.stamp, ?_⟩
      rw [entry]
      refine ⟨rfl, rfl, getLsbD_lanes _ _ _, getLsbD_lanes _ _ _, ?_, rest, outside⟩
      show (refId (refAt r (refOff r + 1)), refOff (refAt r (refOff r + 1))) = _
      rw [refId_refAt, refOff_refAt, id, off]
    · obtain ⟨⟨x, trap, cause, status⟩, mem, cur⟩ := barwCheck_faults (s := setCur s (parkedAtBarw s)) tenant
        (by rw [warp]; exact ready) (by rw [warp]; exact hy) (by rw [warp]; exact hz) two (by rw [warp]; exact quiet)
      refine ⟨_, x, exec_barw issues plain, ?_, cause, ?_, fun a => by rw [mem]; rfl⟩
      · rw [curWarp, cur]; exact trap
      · rw [curWarp, cur]; exact status
  · intro s e issues plain other number leaf
    have away : entryOf (parkedAtBarw s) e = entryOf (curWarp s) e := entryOf_setEntry_ne _ _ other
    refine ⟨_, exec_barw issues plain, ?_⟩
    rw [barwCheck_of_unready (by rw [warp]; exact barwReady_of_leaf number (by rw [away, leaf]))]
    exact setFrag_onlyEntry s _
  · intro lvl key n s below ks tenants runs ⟨k, listed, waits⟩
    have level : lvl ≠ 3 := by omega
    let s1 := setBarrier s lvl key n { barrierOf s lvl key n with arrived := [] }
    have warps (k : Nat) : warpOf s1 k = warpOf s k := by
      have same : s1.warps = s.warps := by
        dsimp only [s1]; unfold setBarrier; split <;> rfl
      rw [warpOf, same]; rfl
    obtain ⟨-, out, others, rest⟩ := foldl_timeoutWarp (lvl := lvl) (n := n) tenants s1
    have next : exec (.barrierTimeout lvl key n) s = .next (ks.foldl (timeoutWarp lvl n) s1) := by
      have some_wait : (ks.any fun k => !(waitersOf (warpOf s k) lvl n).isEmpty) = true :=
        List.any_eq_true.mpr ⟨k, listed, by simpa using waits⟩
      change execBarrierTimeout lvl key n s = _
      simp only [execBarrierTimeout, limitWarps, if_neg level]
      rw [if_pos (by rw [runs, some_wait]; rfl)]
    refine ⟨_, next, ?_, fun k listed waits quiet => ?_, fun k away => ?_, fun a => ?_⟩
    · rw [barrierOf_rest rest, barrierOf_setBarrier]
    · exact out k listed (by rwa [warps]) (by rwa [warps])
    · rw [others k away, warps]
    · have mem : (ks.foldl (timeoutWarp lvl n) s1).mem = s1.mem := by
        have same := congrArg State.mem rest
        exact same
      rw [mem, (Rechecked.setBarrier s lvl key n _).mem]
  · intro key s tenant runs waits
    obtain ⟨-, out, others, rest⟩ := foldl_timeoutWarp (lvl := 3) (n := 0) (ks := [key]) (by simpa using tenant) s
    have next : exec (.barrierTimeout 3 key 0) s = .next ([key].foldl (timeoutWarp 3 0) s) := by
      have some_wait : (([key] : List Nat).any fun k => !(waitersOf (warpOf s k) 3 0).isEmpty) = true := by
        simpa using waits
      change execBarrierTimeout 3 key 0 s = _
      simp only [execBarrierTimeout, limitWarps, if_true]
      rw [if_pos (by rw [runs, some_wait]; rfl)]
    refine ⟨_, next, fun quiet => out key (by simp) waits quiet, fun k away => others k (by simpa using away), fun a => ?_⟩
    have mem := congrArg (fun u : State => Memory.byte u.mem a) rest
    exact mem
  · intro lvl key n s halted
    change execBarrierTimeout lvl key n s = _
    simp [execBarrierTimeout, halted]

end Sys2Proof.Machine
end

section
/-! SUPPORT. The barriers of a block, a cluster and a grid (R153, R173 to R175, R322). -/

namespace Sys2Proof.Machine

/-! ### An arrival -/

/-- An arrival changes its barrier and the eligibility of its block. -/
theorem recordArrival_rest (s : State) (lvl n : Nat) : { recordArrival s lvl n with blocks := s.blocks, grids := s.grids } = s := by
  have set : { setBarrier s lvl (barrierKey s lvl (curWarp s).blk) n
      ⟨arrivalCode lvl (curBlock s) (curWarp s).index :: (barrierOf s lvl (barrierKey s lvl (curWarp s).blk) n).arrived,
        (barrierOf s lvl (barrierKey s lvl (curWarp s).blk) n).phase⟩ with blocks := s.blocks, grids := s.grids } = s := by
    unfold setBarrier; split <;> rfl
  unfold recordArrival
  dsimp only
  split
  · exact set
  · unfold ineligible
    split <;> exact set

/-- The barriers of clusters and grids stand apart from the blocks. -/
theorem barrierOf_setBlock (s : State) {lvl : Nat} (above : lvl ≠ 0) (key n k : Nat) (b : Block) :
    barrierOf (setBlock s k b) lvl key n = barrierOf s lvl key n :=
  match lvl, above with
  | 1, _ => rfl
  | _ + 2, _ => rfl

theorem barrierOf_ineligible (s : State) {lvl : Nat} (above : lvl ≠ 0) (key n k : Nat) :
    barrierOf (ineligible s k) lvl key n = barrierOf s lvl key n := by
  unfold ineligible
  split
  · rfl
  · exact barrierOf_setBlock s above ..

theorem barrierOf_recordArrival (s : State) (lvl n : Nat) :
    barrierOf (recordArrival s lvl n) lvl (barrierKey s lvl (curWarp s).blk) n =
      ⟨arrivalCode lvl (curBlock s) (curWarp s).index :: (barrierOf s lvl (barrierKey s lvl (curWarp s).blk) n).arrived,
        (barrierOf s lvl (barrierKey s lvl (curWarp s).blk) n).phase⟩ := by
  unfold recordArrival
  dsimp only
  split
  · exact barrierOf_setBarrier ..
  · next above => rw [barrierOf_ineligible _ above]; exact barrierOf_setBarrier ..

/-- The warps and the position of an arrival's state are those before it. -/
theorem curWarp_recordArrival (s : State) (lvl n : Nat) : curWarp (recordArrival s lvl n) = curWarp s := by
  have same := congrArg curWarp (recordArrival_rest s lvl n)
  exact same

theorem frag_recordArrival (s : State) (lvl n : Nat) : (recordArrival s lvl n).frag = s.frag := by
  have same := congrArg State.frag (recordArrival_rest s lvl n)
  exact same

theorem curEntry_recordArrival (s : State) (lvl n : Nat) : curEntry (recordArrival s lvl n) = curEntry s := by
  have same := congrArg curEntry (recordArrival_rest s lvl n)
  exact same

/-! ### What follows an arrival -/

/-- The word has arrived at barrier `n` of a level, and `u` is the state in which it has done the rest of its work: what is left of
the barrier once it has been looked at, and what that changes of the warp. -/
structure ArrivalChecked (lvl n : Nat) (s u t : State) : Prop where
  waits : barrierFull (recordArrival s lvl n) lvl (barrierKey s lvl (curWarp s).blk) n = false → t = u ∧
    barrierOf t lvl (barrierKey s lvl (curWarp s).blk) n =
      ⟨arrivalCode lvl (curBlock s) (curWarp s).index :: (barrierOf s lvl (barrierKey s lvl (curWarp s).blk) n).arrived,
        (barrierOf s lvl (barrierKey s lvl (curWarp s).blk) n).phase⟩
  flips : barrierFull (recordArrival s lvl n) lvl (barrierKey s lvl (curWarp s).blk) n = true →
    barrierOf t lvl (barrierKey s lvl (curWarp s).blk) n = ⟨[], !(barrierOf s lvl (barrierKey s lvl (curWarp s).blk) n).phase⟩
  woken : WarpWoken u.stamp (curWarp u) (warpOf t s.cur)
  cur : t.cur = s.cur
  frag : t.frag = s.frag
  mem : t.mem = s.mem

theorem arrivalChecked {lvl n : Nat} {s u : State} (rest : { u with warps := s.warps } = recordArrival s lvl n) :
    ArrivalChecked lvl n s u (barrierCheck u lvl (barrierKey s lvl (curWarp s).blk) n) := by
  obtain ⟨key, here⟩ : ∃ key, barrierKey s lvl (curWarp s).blk = key := ⟨_, rfl⟩
  have before := barrierOf_recordArrival s lvl n
  rw [here] at before
  have fullness : barrierFull u lvl key n = barrierFull (recordArrival s lvl n) lvl key n := by
    have same := congrArg (fun v : State => barrierFull v lvl key n) rest
    exact same
  have barrier : barrierOf u lvl key n = barrierOf (recordArrival s lvl n) lvl key n := by
    have same := congrArg (fun v : State => barrierOf v lvl key n) rest
    exact same
  have arrived := recordArrival_rest s lvl n
  rw [← rest] at arrived
  have cur : u.cur = s.cur := by have same := congrArg State.cur arrived; exact same
  have frag : u.frag = s.frag := by have same := congrArg State.frag arrived; exact same
  have mem : u.mem = s.mem := by have same := congrArg State.mem arrived; exact same
  obtain ⟨t, checked, looked⟩ : ∃ t, barrierCheck u lvl key n = t ∧ Rechecked u t := ⟨_, rfl, barrierCheck_rechecked u lvl key n⟩
  have woken := looked.warps s.cur
  have position : warpOf u s.cur = curWarp u := by rw [curWarp, cur]
  refine ⟨fun waits => ?_, fun full => ?_, position ▸ here ▸ checked ▸ woken, ?_, ?_, ?_⟩
  all_goals rw [here]
  · rw [here] at waits
    rw [barrierCheck_waits (fullness.trans waits)]
    exact ⟨rfl, barrier.trans before⟩
  · rw [here] at full
    rw [(barrierCheck_woken (fullness.trans full)).barrierOf, barrierOf_setBarrier, barrier, before]
  · rw [checked]
    have same := congrArg State.cur looked.rest
    exact same.trans cur
  · rw [checked]
    have same := congrArg State.frag looked.rest
    exact same.trans frag
  · rw [checked, looked.mem, mem]

/-- A fragment that waits at a block barrier goes on when its phase flips (R173). -/
theorem entry_released {s : State} {key n : Nat} {k e : Nat} (full : barrierFull s 0 key n = true)
    (member : k ∈ (blockOf s key).warps) (parked : (entryOf (warpOf s k) e).state = .parked)
    (waits : (entryOf (warpOf s k) e).wait = .barrier 0 n (barrierOf s 0 key n).phase) :
    entryOf (warpOf (barrierCheck s 0 key n) k) e = takesOver (entryOf (warpOf s k) e) s.stamp := by
  obtain ⟨ck, released⟩ := barrierCheck_full full
  let s1 := setBarrier s 0 key n ⟨[], !(barrierOf s 0 key n).phase⟩
  let s2 := wakeBlock s1 0 n (!(barrierOf s 0 key n).phase) key
  have warps : (blockOf s1 key).warps = (blockOf s key).warps := by
    show (blockOf (setBlock s key _) key).warps = _
    rw [blockOf_setBlock_same]
  have woken : entryOf (warpOf s2 k) e = takesOver (entryOf (warpOf s k) e) s.stamp := by
    rw [warpOf_wakeBlock, if_pos (warps ▸ member), entryOf_wakeWarp]
    show wakeEntry 0 n _ s.stamp (entryOf (warpOf s k) e) = _
    simp [wakeEntry, parked, waits]
  rw [released]
  show entryOf (warpOf (if ck then takeCheckpoint s2 key else s2) k) e = _
  split
  · rw [((takeCheckpoint_woken s2 key).warps k).entry (by rw [woken]; exact fun no => by cases no), woken]
  · exact woken

/-! ### The faults of R175 -/

theorem fullReconv_iff (w : Warp) : fullReconv w = false ↔
    ∀ i, (List.range 8).filter (fun e => decide ((entryOf w e).state ≠ .free)) ≠ [i] := by
  have used : usedEntries w = (List.range 8).filter fun e => decide ((entryOf w e).state ≠ .free) :=
    List.filter_congr fun i _ => by rw [Bool.eq_iff_iff]; simp
  rw [← used, fullReconv, beq_eq_false_iff_ne, ne_eq, List.length_eq_one_iff, not_exists]

theorem barrierFault_service {s : State} (service : s.cur < 16) (lvl n : Nat) (arrives : Bool) :
    barrierFault s lvl n arrives = true := by
  simp [barrierFault, isService, service]

theorem barrierFault_tenant {s : State} (tenant : 16 ≤ s.cur) (lvl n : Nat) (arrives : Bool) :
    barrierFault s lvl n arrives = true ↔
      (lvl = 0 ∧ (curBlock s).cmd.bmemb ≠ 0 ∧ (curBlock s).cmd.bmemb.getLsbD (curWarp s).index = false) ∨
      (lvl = 2 ∧ (curBlock s).cmd.flags.testBit 3 = false) ∨
      (∀ i, (List.range 8).filter (fun e => decide ((entryOf (curWarp s) e).state ≠ .free)) ≠ [i]) ∨
      (arrives = true ∧ arrivalCode lvl (curBlock s) (curWarp s).index ∈
        (barrierOf s lvl (barrierKey s lvl (curWarp s).blk) n).arrived) := by
  have core : isService s = false := decide_eq_false (by omega)
  rw [← fullReconv_iff]
  simp [barrierFault, core, blockMember, or_assoc]

/-! ### Barrier words -/

section
variable {i : Instr} {s : State} {lvl n : Nat}

/-- The block is not being rolled back, and no cluster or grid barrier is met in a replay. -/
def BarrierMet (s : State) (lvl : Nat) : Prop :=
  ¬ (lvl = 0 ∧ (curBlock s).status = .rolling) ∧ ¬ (lvl ≠ 0 ∧ (curBlock s).replay = true)

theorem barrierWord_fault (met : BarrierMet s lvl) {arrives : Bool} (fault : barrierFault s lvl n arrives = true)
    (k : Nat → Barrier → State) : barrierWord s lvl n arrives k = takeTrap s 8 255 (BitVec.ofNat 64 n) 0 := by
  rw [barrierWord, if_neg met.1, if_neg met.2, if_pos fault]
  rfl

theorem barrierWord_met (met : BarrierMet s lvl) {arrives : Bool} (free : barrierFault s lvl n arrives = false)
    (k : Nat → Barrier → State) : barrierWord s lvl n arrives k =
      k (barrierKey s lvl (curWarp s).blk) (barrierOf s lvl (barrierKey s lvl (curWarp s).blk) n) := by
  rw [barrierWord, if_neg met.1, if_neg met.2, if_neg (by simp [free])]

/-- `BARB`, `BARC`, `BARG`: the arrival, and the wait of the fragment for the phase to flip (R173). -/
structure Arrives (lvl n : Nat) (s t : State) : Prop where
  parked : barrierFull (recordArrival s lvl n) lvl (barrierKey s lvl (curWarp s).blk) n = false →
    barrierOf t lvl (barrierKey s lvl (curWarp s).blk) n =
      ⟨arrivalCode lvl (curBlock s) (curWarp s).index :: (barrierOf s lvl (barrierKey s lvl (curWarp s).blk) n).arrived,
        (barrierOf s lvl (barrierKey s lvl (curWarp s).blk) n).phase⟩ ∧
    curEntry t = { curEntry s with
      state := .parked, wait := .barrier lvl n (barrierOf s lvl (barrierKey s lvl (curWarp s).blk) n).phase, left := 0 }
  flips : barrierFull (recordArrival s lvl n) lvl (barrierKey s lvl (curWarp s).blk) n = true →
    barrierOf t lvl (barrierKey s lvl (curWarp s).blk) n = ⟨[], !(barrierOf s lvl (barrierKey s lvl (curWarp s).blk) n).phase⟩ ∧
    (lvl = 0 → s.cur ∈ (curBlock s).warps → (curEntry t).state = .leaf ∧ (curEntry t).wait = .none)
  scalars : (warpOf t s.cur).scalars = (curWarp s).scalars
  vecs : (warpOf t s.cur).vecs = (curWarp s).vecs
  masks : (warpOf t s.cur).masks = (curWarp s).masks
  ctl : (warpOf t s.cur).ctl = (curWarp s).ctl
  mem : t.mem = s.mem

theorem barArrive_arrives (met : BarrierMet s lvl) (free : barrierFault s lvl n true = false) :
    Arrives lvl n s (barArrive s lvl n) := by
  let phase := (barrierOf s lvl (barrierKey s lvl (curWarp s).blk) n).phase
  let u := parkAtBarrier (recordArrival s lvl n) lvl n phase
  have rest : { u with warps := s.warps } = recordArrival s lvl n := by
    have warps : (recordArrival s lvl n).warps = s.warps := by
      have same := congrArg State.warps (recordArrival_rest s lvl n)
      exact same
    rw [← warps]; rfl
  have checked := arrivalChecked (n := n) rest
  have step : barArrive s lvl n = barrierCheck u lvl (barrierKey s lvl (curWarp s).blk) n := barrierWord_met met free _
  have parked : curEntry u = { curEntry s with state := .parked, wait := .barrier lvl n phase, left := 0 } := by
    rw [← curEntry_recordArrival s lvl n]; exact curEntry_setFrag ..
  have warp : curWarp u = setEntry (curWarp s) s.frag { curEntry s with state := .parked, wait := .barrier lvl n phase, left := 0 } := by
    have now : curWarp u = setEntry (curWarp (recordArrival s lvl n)) (recordArrival s lvl n).frag { curEntry (recordArrival s lvl n) with
      state := .parked, wait := .barrier lvl n phase, left := 0 } := curWarp_setCur _ _
    rw [now, curWarp_recordArrival, frag_recordArrival, curEntry_recordArrival]
  rw [step]
  have woken := checked.woken
  rw [warp] at woken
  refine ⟨fun waits => ?_, fun full => ⟨checked.flips full, fun block member => ?_⟩, woken.scalars, woken.vecs, woken.masks,
    woken.ctl, checked.mem⟩
  · obtain ⟨same, barrier⟩ := checked.waits waits
    exact ⟨barrier, by rw [same]; exact parked⟩
  · subst block
    have fullness : barrierFull u 0 (curWarp s).blk n = true := by
      have same := congrArg (fun v : State => barrierFull v 0 (curWarp s).blk n) rest
      exact same.trans full
    have warps : (blockOf u (curWarp s).blk).warps = (curBlock s).warps := by
      have same := congrArg Block.warps ((Rechecked.setBarrier s 0 (curWarp s).blk n
        ⟨arrivalCode 0 (curBlock s) (curWarp s).index :: (barrierOf s 0 (curWarp s).blk n).arrived,
          (barrierOf s 0 (curWarp s).blk n).phase⟩).blocks (curWarp s).blk)
      exact same
    have barrier : (barrierOf u 0 (curWarp s).blk n).phase = phase := by
      have same := congrArg (fun v : State => barrierOf v 0 (curWarp s).blk n) rest
      have arrived : barrierOf (recordArrival s 0 n) 0 (curWarp s).blk n = _ := barrierOf_recordArrival s 0 n
      have now := congrArg Barrier.phase (Eq.trans same arrived)
      exact now
    have cur : u.cur = s.cur := by
      have same := congrArg State.cur (recordArrival_rest s 0 n)
      exact same
    have entry : entryOf (warpOf u s.cur) s.frag =
        { curEntry s with state := .parked, wait := .barrier 0 n phase, left := 0 } := by
      rw [← cur]; show entryOf (curWarp u) s.frag = _
      rw [warp, entryOf_setEntry_same]
    have released := entry_released (e := s.frag) fullness (warps ▸ member) (by rw [entry]) (by rw [entry, barrier])
    rw [curEntry, curWarp, checked.cur, checked.frag]
    show (entryOf (warpOf (barrierCheck u 0 (curWarp s).blk n) s.cur) s.frag).state = .leaf ∧ _
    rw [show barrierKey s 0 (curWarp s).blk = (curWarp s).blk from rfl, released]
    exact ⟨rfl, rfl⟩

/-- `ARRB`, `ARRC`, `ARRG`: the arrival, and the phase bit as it stood in scalar `d` (R173). -/
structure Signals (lvl n d : Nat) (s t : State) : Prop where
  waits : barrierFull (recordArrival s lvl n) lvl (barrierKey s lvl (curWarp s).blk) n = false →
    barrierOf t lvl (barrierKey s lvl (curWarp s).blk) n =
      ⟨arrivalCode lvl (curBlock s) (curWarp s).index :: (barrierOf s lvl (barrierKey s lvl (curWarp s).blk) n).arrived,
        (barrierOf s lvl (barrierKey s lvl (curWarp s).blk) n).phase⟩
  flips : barrierFull (recordArrival s lvl n) lvl (barrierKey s lvl (curWarp s).blk) n = true →
    barrierOf t lvl (barrierKey s lvl (curWarp s).blk) n = ⟨[], !(barrierOf s lvl (barrierKey s lvl (curWarp s).blk) n).phase⟩
  entry : (curEntry s).state = .leaf → (curEntry t).state = .leaf
  scalars : (warpOf t s.cur).scalars =
    Tbl.set (curWarp s).scalars d (if (barrierOf s lvl (barrierKey s lvl (curWarp s).blk) n).phase then 1 else 0)
  vecs : (warpOf t s.cur).vecs = (curWarp s).vecs
  masks : (warpOf t s.cur).masks = (curWarp s).masks
  ctl : (warpOf t s.cur).ctl = (curWarp s).ctl
  mem : t.mem = s.mem

theorem barSignal_signals (met : BarrierMet s lvl) (free : barrierFault s lvl n true = false) (d : Nat) :
    Signals lvl n d s (barSignal s lvl n d) := by
  let v : Word := if (barrierOf s lvl (barrierKey s lvl (curWarp s).blk) n).phase then 1 else 0
  let u := opNow (writeS (recordArrival s lvl n) d v) .a
  have rest : { u with warps := s.warps } = recordArrival s lvl n := by
    have warps : (recordArrival s lvl n).warps = s.warps := by
      have same := congrArg State.warps (recordArrival_rest s lvl n)
      exact same
    rw [← warps]; rfl
  have checked := arrivalChecked (n := n) rest
  have step : barSignal s lvl n d = barrierCheck u lvl (barrierKey s lvl (curWarp s).blk) n := barrierWord_met met free _
  obtain ⟨g, x, warp⟩ : ∃ g x, curWarp u = { curWarp s with scalars := Tbl.set (curWarp s).scalars d v, flags := g, split := x } := by
    obtain ⟨g, x, now⟩ := opNow_warp (writeS (recordArrival s lvl n) d v) .a
    have written : curWarp (writeS (recordArrival s lvl n) d v) =
        { curWarp s with scalars := Tbl.set (curWarp s).scalars d v } := by
      rw [writeS, curWarp_setCur, curWarp_recordArrival]
    exact ⟨g, x, by rw [now, written]⟩
  have entry : curEntry u = remIssued (curEntry s) .a := by
    rw [(opNow_atOnce (writeS (recordArrival s lvl n) d v) .a).entry]
    have written : curEntry (writeS (recordArrival s lvl n) d v) = curEntry (recordArrival s lvl n) := by
      rw [curEntry, writeS, curWarp_setCur]; rfl
    rw [written, curEntry_recordArrival]
  rw [step]
  have woken := checked.woken
  have scalars := woken.scalars
  have vecs := woken.vecs
  have masks := woken.masks
  have ctl := woken.ctl
  rw [warp] at scalars vecs masks ctl
  refine ⟨fun waits => (checked.waits waits).2, checked.flips, fun leaf => ?_, scalars, vecs, masks, ctl, checked.mem⟩
  have frag : u.frag = s.frag := frag_recordArrival s lvl n
  have before : (entryOf (curWarp u) s.frag).state = .leaf := by
    rw [← frag]
    show (curEntry u).state = .leaf
    rw [entry]
    exact leaf
  rw [curEntry, curWarp, checked.cur, checked.frag, woken.entry (by rw [before]; exact fun no => by cases no), before]

/-- What a barrier word does, by the scalar that it writes and the one that it reads. -/
def BarrierWordDoes (i : Instr) (lvl n : Nat) (dest source : Option Nat) (s : State) : Prop :=
  let key := barrierKey s lvl (curWarp s).blk
  let x := barrierOf s lvl key n
  let mine := arrivalCode lvl (curBlock s) (curWarp s).index
  (barrierFault s lvl n source.isNone = true → exec i s = .next (takeTrap s 8 255 (BitVec.ofNat 64 n) 0)) ∧
  (source = none → barrierFault s lvl n true = false →
    ∃ t, exec i s = .next t ∧
      (barrierFull (recordArrival s lvl n) lvl key n = false →
        barrierOf t lvl key n = ⟨mine :: x.arrived, x.phase⟩ ∧
        (dest = none → curEntry t = { curEntry s with state := .parked, wait := .barrier lvl n x.phase, left := 0 })) ∧
      (barrierFull (recordArrival s lvl n) lvl key n = true → barrierOf t lvl key n = ⟨[], !x.phase⟩ ∧
        (dest = none → lvl = 0 → s.cur ∈ (curBlock s).warps → (curEntry t).state = .leaf ∧ (curEntry t).wait = .none)) ∧
      (∀ d, dest = some d → Tbl.get 0 (warpOf t s.cur).scalars d = (if x.phase then 1 else 0) ∧
        ((curEntry s).state = .leaf → (curEntry t).state = .leaf)) ∧
      (∀ m, dest ≠ some m → Tbl.get 0 (warpOf t s.cur).scalars m = readS s m) ∧
      (warpOf t s.cur).vecs = (curWarp s).vecs ∧ (warpOf t s.cur).masks = (curWarp s).masks ∧
      (warpOf t s.cur).ctl = (curWarp s).ctl ∧ ∀ a, Memory.byte t.mem a = Memory.byte s.mem a) ∧
  (∀ r, source = some r → barrierFault s lvl n false = false →
    ∃ t, exec i s = .next t ∧ barrierOf t lvl key n = x ∧
      (x.phase ≠ (readS s r).getLsbD 0 → curEntry t = curEntry s) ∧
      (x.phase = (readS s r).getLsbD 0 →
        curEntry t = { curEntry s with state := .parked, wait := .barrier lvl n x.phase, left := 0 }) ∧
      { curWarp t with split := (curWarp s).split } = curWarp s ∧ ∀ a, Memory.byte t.mem a = Memory.byte s.mem a)

theorem barArrive_does (issues : Issues i s) (met : BarrierMet s lvl) (meaning : exec i s = word i s fun s => barArrive s lvl n) :
    BarrierWordDoes i lvl n none none s := by
  have next := exec_word issues meaning
  refine ⟨fun fault => next.trans (congrArg _ (barrierWord_fault met fault _)), fun _ free => ?_, fun r no => by cases no⟩
  have arrives := barArrive_arrives met free
  exact ⟨_, next, fun waits => ⟨(arrives.parked waits).1, fun _ => (arrives.parked waits).2⟩,
    fun full => ⟨(arrives.flips full).1, fun _ => (arrives.flips full).2⟩, (fun d no => by cases no),
    fun m _ => by rw [arrives.scalars]; rfl, arrives.vecs, arrives.masks, arrives.ctl, fun a => by rw [arrives.mem]⟩

theorem barSignal_does (issues : Issues i s) (met : BarrierMet s lvl) {d : Nat}
    (meaning : exec i s = word i s fun s => barSignal s lvl n d) : BarrierWordDoes i lvl n (some d) none s := by
  have next := exec_word issues meaning
  refine ⟨fun fault => next.trans (congrArg _ (barrierWord_fault met fault _)), fun _ free => ?_, fun r no => by cases no⟩
  have signals := barSignal_signals met free d
  refine ⟨_, next, fun waits => ⟨signals.waits waits, (fun no => by cases no)⟩,
    fun full => ⟨signals.flips full, (fun no => by cases no)⟩, fun k same => ?_, fun m other => ?_, signals.vecs, signals.masks,
    signals.ctl, fun a => by rw [signals.mem]⟩
  · cases same
    exact ⟨by rw [signals.scalars, Tbl.get_set_same], signals.entry⟩
  · rw [signals.scalars, Tbl.get_set_ne _ _ _ fun same => other (congrArg some same)]
    rfl

theorem barWait_does (issues : Issues i s) (met : BarrierMet s lvl) {r : Nat}
    (meaning : exec i s = word i s fun s => barWait s lvl n ((readS s r).getLsbD 0)) :
    BarrierWordDoes i lvl n none (some r) s := by
  have next := exec_word issues meaning
  refine ⟨fun fault => next.trans (congrArg _ (barrierWord_fault met fault _)), (fun no => by cases no), fun k same free => ?_⟩
  cases same
  let s1 := if lvl = 0 then s else ineligible s (curWarp s).blk
  have kept : { s1 with blocks := s.blocks } = s := by
    dsimp only [s1]; unfold ineligible
    split
    · rfl
    · split <;> rfl
  have barrier (key : Nat) : barrierOf s1 lvl key n = barrierOf s lvl key n := by
    dsimp only [s1]
    split
    · rfl
    · next above => exact barrierOf_ineligible s above ..
  have warp : curWarp s1 = curWarp s := by have same := congrArg curWarp kept; exact same
  have entry : curEntry s1 = curEntry s := by have same := congrArg curEntry kept; exact same
  have mem : s1.mem = s.mem := by have same := congrArg State.mem kept; exact same
  obtain ⟨x, here⟩ : ∃ x, barrierOf s lvl (barrierKey s lvl (curWarp s).blk) n = x := ⟨_, rfl⟩
  have step : barWait s lvl n ((readS s r).getLsbD 0) =
      if x.phase ≠ (readS s r).getLsbD 0 then s1 else parkAtBarrier s1 lvl n ((readS s r).getLsbD 0) :=
    (barrierWord_met met free _).trans (by rw [here])
  rw [step] at next
  by_cases moved : x.phase = (readS s r).getLsbD 0
  · rw [if_neg (by simpa using moved)] at next
    refine ⟨_, next, ?_, fun away => absurd (here ▸ moved) away, fun _ => ?_, ?_, fun a => by rw [← mem]; rfl⟩
    · exact barrier _
    · rw [here, moved, ← entry]; exact curEntry_setFrag ..
    · rw [← warp]; exact (setFrag_only s1 _).2.1
  · rw [if_pos moved] at next
    exact ⟨_, next, barrier _, fun _ => entry, fun same => absurd (here ▸ same) moved, by rw [warp], fun a => by rw [mem]⟩

end

/-- Settles O27: each of the nine words is one of the three forms, and the condition of R175 is that of `barrierFault`. -/
theorem barrierWords : Obligations.BarrierWords := by
  unfold Obligations.BarrierWords
  refine ⟨?_, fun s lvl n arrives => ⟨fun service => barrierFault_service service .., fun tenant => barrierFault_tenant tenant ..⟩⟩
  intro level dest source i lvl n s word issues rolling replay
  have met : BarrierMet s lvl := ⟨rolling, replay⟩
  dsimp only [level] at word
  split at word <;> cases word
  · exact barArrive_does issues met rfl
  · exact barArrive_does issues met rfl
  · exact barArrive_does issues met rfl
  · exact barSignal_does issues met rfl
  · exact barSignal_does issues met rfl
  · exact barSignal_does issues met rfl
  · exact barWait_does issues met rfl
  · exact barWait_does issues met rfl
  · exact barWait_does issues met rfl

end Sys2Proof.Machine
end

section
/-! SUPPORT. What an access of a block's wait leaves unchanged (R151, R190, R193, R219): the other warps, the cluster groups, and the
status of every block. -/

namespace Sys2Proof.Machine

/-! ### Accesses -/

theorem crossInner_blocks (s : State) (l : List Nat) : (l.foldl crossInner s).blocks = s.blocks :=
  foldl_preserves (P := fun t : State => t.blocks = s.blocks) (by exact fun _ _ same => same) l rfl

theorem pmonCount_blocks (s : State) (t code n : Nat) : (pmonCount s t code n).blocks = s.blocks := by
  unfold pmonCount
  dsimp only
  split <;> rfl

theorem l2Alloc_blocks (s : State) (mask : BitVec 32) (line : Nat) : (l2Alloc s mask line).blocks = s.blocks := by
  unfold l2Alloc
  dsimp only
  split
  · rfl
  · split
    · rfl
    · split <;> rfl

theorem l2Use_blocks (s : State) (t d pa : Nat) : (l2Use s t d pa).blocks = s.blocks := by
  unfold l2Use
  dsimp only
  split
  · exact crossInner_blocks s _
  · rw [l2Alloc_blocks, pmonCount_blocks]
    split
    · exact crossInner_blocks s _
    · exact crossInner_blocks s _

theorem homeUse_blocks (s : State) (k : Nat) (up leafM : Bool) (pa : Nat) : (homeUse s k up leafM pa).blocks = s.blocks := by
  unfold homeUse
  dsimp only
  split
  · rfl
  · split
    · exact crossInner_blocks s _
    · exact l2Use_blocks ..

theorem noteLines_blocks (s : State) (k : Nat) (m m' : Memory) (l : List SLine) : (noteLines s k m m' l).blocks = s.blocks := by
  unfold noteLines
  split
  · rfl
  · refine foldl_preserves (P := fun t : State => t.blocks = s.blocks) (fun t x same => ?_) _ rfl
    refine Eq.trans ?_ same
    unfold noteAudit
    split <;> rfl

/-- Every warp, every cluster group and the status of every block stays as it is. -/
structure Undisturbed (s t : State) : Prop where
  warps : t.warps = s.warps
  groups : t.groups = s.groups
  status : ∀ k, (blockOf t k).status = (blockOf s k).status

namespace Undisturbed

theorem refl (s : State) : Undisturbed s s := ⟨rfl, rfl, fun _ => rfl⟩

theorem trans {s t u : State} (first : Undisturbed s t) (second : Undisturbed t u) : Undisturbed s u :=
  ⟨second.warps.trans first.warps, second.groups.trans first.groups, fun k => (second.status k).trans (first.status k)⟩

theorem of_traffic {s t : State} (h : TrafficOnly s t) (blocks : t.blocks = s.blocks) : Undisturbed s t :=
  ⟨h.warps, by have same := congrArg State.groups h; exact same, fun k => by rw [blockOf, blocks]; rfl⟩

/-- A block replaced by one of the same status. -/
theorem setBlock (s : State) (k : Nat) {b : Block} (same : b.status = (blockOf s k).status) : Undisturbed s (setBlock s k b) := by
  refine ⟨rfl, rfl, fun j => ?_⟩
  rw [blockOf_setBlock]
  split
  · next here => rw [← here, same]
  · rfl

end Undisturbed

theorem noteLines_undisturbed (s : State) (k : Nat) (m m' : Memory) (l : List SLine) : Undisturbed s (noteLines s k m m' l) :=
  .of_traffic (noteLines_traffic ..) (noteLines_blocks ..)

theorem snoopBy_undisturbed (own : Nat) (s : State) (skip : Option (Nat × Nat × Bool)) (a n : Nat) (drop : Bool) :
    Undisturbed s (snoopBy own s skip a n drop) := by
  have noted (m m' : Memory) (l : List (Nat × Block)) (f : Nat × Block → List SLine) :
      Undisturbed s (l.foldl (fun t e => noteLines t e.1 m m' (f e)) s) :=
    foldl_preserves (P := Undisturbed s) (by exact fun t e so => so.trans (noteLines_undisturbed ..)) l (.refl s)
  refine ⟨(noted ..).warps, (noted ..).groups, fun k => ?_⟩
  rw [blockOf, snoopBy_blocks]
  refine Tbl.get_map_values (fun b : Block => b.status) _ (fun j b => ?_) _ _ _
  unfold snoopedBlock
  split <;> rfl

theorem dropLines_undisturbed (s : State) (k : Nat) (p : SLine → Bool) (wb : Bool) : Undisturbed s (dropLines s k p wb) := by
  have noted (m' : Memory) (l : List SLine) : Undisturbed s (noteLines s k s.mem m' l) := noteLines_undisturbed ..
  refine ⟨(noted ..).warps, (noted ..).groups, fun j => ?_⟩
  unfold dropLines
  dsimp only
  rw [blockOf_setBlock]
  split
  · next here => rw [← here]
  · exact (noted ..).status j

theorem fillLine_undisturbed (s : State) (k : Nat) (u : MUnit) : Undisturbed s (fillLine s k u) := by
  unfold fillLine
  dsimp only
  split
  · exact .refl s
  · exact (snoopBy_undisturbed ..).trans ((Undisturbed.of_traffic (homeUse_traffic ..) (homeUse_blocks ..)).trans (.setBlock _ _ rfl))

theorem dropReplaced_undisturbed (s : State) (k : Nat) (u : MUnit) : Undisturbed s (dropReplaced s k u) := by
  unfold dropReplaced
  dsimp only
  split
  · exact dropLines_undisturbed ..
  · exact .refl s

theorem unitBytes_undisturbed (s : State) (k : Nat) (u : MUnit) : Undisturbed s (unitBytes s k u).1 := by
  unfold unitBytes
  dsimp only
  split
  · split
    · exact (fillLine_undisturbed s k u).trans (dropReplaced_undisturbed ..)
    · exact fillLine_undisturbed s k u
  · exact snoopBy_undisturbed ..

/-- A read of a unit, at its home or in the stash. -/
theorem unitRead_undisturbed (s : State) (k : Nat) (u : MUnit) : Undisturbed s (unitRead s k u).1 := by
  unfold unitRead
  dsimp only
  split
  · exact unitBytes_undisturbed ..
  · exact (unitBytes_undisturbed s k u).trans (.of_traffic (homeUse_traffic ..) (homeUse_blocks ..))

/-! ### The warp that waits -/

/-- The same, and warp `w` may change. -/
structure OnlyWaiter (w : Nat) (s t : State) : Prop where
  others : ∀ k, k ≠ w → warpOf t k = warpOf s k
  groups : t.groups = s.groups
  status : ∀ k, (blockOf t k).status = (blockOf s k).status

namespace OnlyWaiter
variable {w : Nat}

theorem refl (s : State) : OnlyWaiter w s s := ⟨fun _ _ => rfl, rfl, fun _ => rfl⟩

theorem trans {s t u : State} (first : OnlyWaiter w s t) (second : OnlyWaiter w t u) : OnlyWaiter w s u :=
  ⟨fun k other => (second.others k other).trans (first.others k other), second.groups.trans first.groups,
    fun k => (second.status k).trans (first.status k)⟩

theorem of_undisturbed {s t : State} (h : Undisturbed s t) : OnlyWaiter w s t :=
  ⟨fun k _ => by rw [warpOf, h.warps]; rfl, h.groups, h.status⟩

theorem setWarp (s : State) (v : Warp) : OnlyWaiter w s (setWarp s w v) :=
  ⟨fun _ other => by simp [warpOf_setWarp, Ne.symm other], rfl, fun _ => rfl⟩

theorem setSvc (s : State) (k : Nat) (c : SvcCore) : OnlyWaiter w s (setSvc s k c) := ⟨fun _ _ => rfl, rfl, fun _ => rfl⟩

theorem foldl {α : Type} {f : State → α → State} (step : ∀ t x, OnlyWaiter w t (f t x)) (s : State) (l : List α) :
    OnlyWaiter w s (l.foldl f s) :=
  foldl_preserves (P := fun t => OnlyWaiter w s t) (by exact fun t x so => so.trans (step t x)) l (refl s)

end OnlyWaiter

theorem queuePacket_onlyWaiter (w : Nat) (s : State) (pa : Nat) (p : Packet) : OnlyWaiter w s (queuePacket s pa p) := by
  unfold queuePacket
  split
  · exact .refl s
  · exact ⟨fun _ _ => rfl, rfl, fun _ => rfl⟩

theorem wakeFragment_onlyWaiter (s : State) (w e : Nat) : OnlyWaiter w s (wakeFragment s w e) := .setWarp ..

theorem endParked_onlyWaiter (s : State) (w e : Nat) : OnlyWaiter w s (endParked s w e) :=
  (OnlyWaiter.setWarp s _).trans (wakeFragment_onlyWaiter ..)

theorem dropReads_onlyWaiter (s : State) (w e : Nat) : OnlyWaiter w s (dropReads s w e) := .setWarp ..

/-- A pair of the waiting warp is written, which is now the current one. -/
theorem writeP_onlyWaiter {s : State} {w : Nat} (cur : s.cur = w) (n : Nat) (v : Dword) : OnlyWaiter w s (writeP s n v) := by
  subst cur
  exact (OnlyWaiter.setWarp s _).trans (.setWarp (writeS s n _) _)

theorem asWarp_onlyWaiter (s : State) (w e : Nat) : OnlyWaiter w s (asWarp s w e) := ⟨fun _ _ => rfl, rfl, fun _ => rfl⟩

theorem endMwait_onlyWaiter (s : State) (w e d : Nat) (v : Dword) : OnlyWaiter w s (endMwait s w e d v) :=
  (dropReads_onlyWaiter s w e).trans ((asWarp_onlyWaiter _ w e).trans
    ((writeP_onlyWaiter (s := asWarp (dropReads s w e) w e) rfl d v).trans (endParked_onlyWaiter ..)))

/-! ### Traps of the warp that waits -/

/-- A resolution changes instruction stores only (R159). -/
theorem resolve_onlyWaiter (w : Nat) (s : State) (sid : Nat) (r : Runner) (self : Nat × Nat) (c : Dword) :
    OnlyWaiter w s (resolve s sid r self c).1 := by
  have slots (t : Tbl Slot) : OnlyWaiter w s (setSlots s sid t) := by
    unfold setSlots
    split
    · exact .setSvc ..
    · exact ⟨fun _ _ => rfl, rfl, fun _ => rfl⟩
  unfold resolve
  split
  · exact .refl s
  · split
    · dsimp only
      split <;> exact slots _
    · unfold demandReload
      split
      · exact .refl s
      · exact .refl s
      · dsimp only
        split
        · exact .refl s
        · split
          · exact .refl s
          · split
            · exact .refl s
            · exact .refl s
            · exact slots _

theorem svcEnter_onlyWaiter (s : State) (k : Nat) (resume : Dword) (cause : Bool → Word) (value : Dword) (n : Nat) :
    OnlyWaiter k s (svcEnter s k resume cause value n) := by
  induction n generalizing s cause value with
  | zero => exact .refl s
  | succ n ih =>
    unfold svcEnter
    dsimp only
    split
    · exact (OnlyWaiter.setSvc s k _).trans (.setWarp ..)
    · have entered (c : SvcCore) (v : Warp) (r : Runner) : OnlyWaiter k s
          (resolve (setWarp (setSvc s k c) k v) k r (k, 0) handlerRef).1 :=
        (OnlyWaiter.setSvc s k _).trans ((OnlyWaiter.setWarp _ _).trans (resolve_onlyWaiter ..))
      split
      · next resolved => exact (resolved ▸ entered _ _ _).trans (.setWarp ..)
      · next resolved => exact (resolved ▸ entered _ _ _).trans (.setWarp ..)
      · next resolved => exact (resolved ▸ entered _ _ _).trans (ih ..)

/-- A trap of a warp stops that warp, and may note an erroneous location of its block (R314, R318, R323). -/
theorem raiseTrap_onlyWaiter (s : State) (k : Nat) (t : Trap) : OnlyWaiter k s (raiseTrap s k t) := by
  have bare (u : State) : OnlyWaiter k u (raiseBare u k t) := by
    unfold raiseBare
    split
    · exact svcEnter_onlyWaiter ..
    · dsimp only
      split <;> exact .setWarp ..
  have noted (b : Block) (same : b.status = (blockOf s (warpOf s k).blk).status) : OnlyWaiter k s (setBlock s (warpOf s k).blk b) :=
    .of_undisturbed (.setBlock _ _ same)
  unfold raiseTrap
  dsimp only
  split
  · refine OnlyWaiter.trans (noted _ ?_) (bare _)
    rfl
  · exact bare s

/-! ### The end of an `MWAIT` (R219) -/

theorem mwaitBad_onlyWaiter (s : State) (w e cause : Nat) (va : Dword) : OnlyWaiter w s (mwaitBad s w e cause va) :=
  (dropReads_onlyWaiter s w e).trans ((endParked_onlyWaiter ..).trans (raiseTrap_onlyWaiter ..))

theorem monSend_onlyWaiter (s : State) (w e : Nat) (x : MUnit) (fill : Bool) : OnlyWaiter w s (monSend s w e x fill) := by
  unfold monSend
  dsimp only
  split
  · exact .refl s
  · exact (OnlyWaiter.setWarp s _).trans (queuePacket_onlyWaiter ..)

/-- The state that a read of an `MWAIT` leaves, if it leaves one, differs from `s` in warp `w` only. -/
def MonRead.Within (w : Nat) (s : State) : MonRead → Prop
  | .wait t => OnlyWaiter w s t
  | .bad _ _ => True
  | .value t _ => OnlyWaiter w s t

theorem monRead_within (s : State) (w e : Nat) : (monRead s w e).Within w s := by
  unfold monRead
  dsimp only
  split
  · exact OnlyWaiter.refl s
  · trivial
  · split
    · exact OnlyWaiter.refl s
    · split
      · trivial
      · split
        · exact monSend_onlyWaiter ..
        · split
          · exact monSend_onlyWaiter ..
          · split
            · exact OnlyWaiter.refl s
            · exact OnlyWaiter.of_undisturbed (unitRead_undisturbed ..)

theorem mwaitEnds_onlyWaiter (s : State) (w e : Nat) : OnlyWaiter w s (mwaitEnds s w e) := by
  have within := monRead_within s w e
  unfold mwaitEnds
  split
  · exact endMwait_onlyWaiter ..
  · split
    · next read => rw [read] at within; exact within
    · exact mwaitBad_onlyWaiter ..
    · next read => rw [read] at within; exact OnlyWaiter.trans within (endMwait_onlyWaiter ..)
  · exact .refl s

end Sys2Proof.Machine
end

section
/-! SUPPORT. Blocks that are asked to halt, the passes and the choice of a quantum's end, world latches and the ages of a group
(R147, R149 to R152, R286, R329). -/

namespace Sys2Proof.Machine

/-! ### Halting (R151, R152) -/

theorem haltParked_onlyWaiter (s : State) (k : Nat) : OnlyWaiter k s (haltParked s k) := by
  unfold haltParked
  dsimp only
  split
  · exact .refl s
  · split
    · exact .refl s
    · next e _ =>
      split
      · exact .refl s
      · split
        · split
          · exact mwaitEnds_onlyWaiter ..
          · exact (mwaitEnds_onlyWaiter s k e).trans (.setWarp ..)
        · exact .setWarp ..

/-- Blocks may have been asked to halt: no group changes, and a block keeps its status or goes from RUNNING to HALTING. -/
structure HaltAsked (s t : State) : Prop where
  groups : t.groups = s.groups
  status : ∀ k, (blockOf t k).status = (blockOf s k).status ∨
    ((blockOf s k).status = .running ∧ (blockOf t k).status = .halting)

namespace HaltAsked

theorem refl (s : State) : HaltAsked s s := ⟨rfl, fun _ => .inl rfl⟩

theorem of_onlyWaiter {w : Nat} {s t : State} (h : OnlyWaiter w s t) : HaltAsked s t := ⟨h.groups, fun k => .inl (h.status k)⟩

theorem of_blocks {s t : State} (groups : t.groups = s.groups) (blocks : t.blocks = s.blocks) : HaltAsked s t :=
  ⟨groups, fun k => .inl (by rw [blockOf, blocks]; rfl)⟩

theorem trans {s t u : State} (first : HaltAsked s t) (second : HaltAsked t u) : HaltAsked s u := by
  refine ⟨second.groups.trans first.groups, fun k => ?_⟩
  rcases second.status k with same | ⟨ran, halts⟩
  · rw [same]; exact first.status k
  · rcases first.status k with before | ⟨_, halted⟩
    · exact .inr ⟨before ▸ ran, halts⟩
    · rw [halted] at ran; cases ran

theorem foldl {α : Type} {f : State → α → State} (step : ∀ t x, HaltAsked t (f t x)) (s : State) (l : List α) :
    HaltAsked s (l.foldl f s) :=
  foldl_preserves (P := fun t => HaltAsked s t) (by exact fun t x so => so.trans (step t x)) l (refl s)

/-- A block that halts goes on to halt. -/
theorem halting {s t : State} (h : HaltAsked s t) {k : Nat} (halts : (blockOf s k).status = .halting) :
    (blockOf t k).status = .halting := by
  rcases h.status k with same | ⟨ran, _⟩
  · exact same.trans halts
  · rw [halts] at ran; cases ran

end HaltAsked

/-- The warps of a block that is no longer running are asked to halt, and those that are PARKED halt. -/
theorem haltWarps_asked (s : State) (l : List Nat) : HaltAsked s (l.foldl haltParked (l.foldl (fun t w =>
    if (warpOf t w).status = .running then setWarp t w { warpOf t w with status := .halting } else t) s)) := by
  refine (HaltAsked.foldl (fun t w => ?_) s l).trans (.foldl (fun t w => .of_onlyWaiter (haltParked_onlyWaiter t w)) _ l)
  split
  · exact .of_onlyWaiter (.setWarp (w := w) ..)
  · exact .refl t

theorem haltBlock_asked (s : State) (k : Nat) : HaltAsked s (haltBlock s k) ∧
    ((blockOf s k).status = .running → (blockOf (haltBlock s k) k).status = .halting) := by
  unfold haltBlock
  dsimp only
  split
  · next idle => exact ⟨.refl s, fun runs => absurd runs idle⟩
  · next runs =>
    have begun : HaltAsked s (setBlock s k { blockOf s k with status := .halting }) := by
      refine ⟨rfl, fun j => ?_⟩
      rw [blockOf_setBlock]
      split
      · next here => exact .inr ⟨here ▸ not_not.mp runs, rfl⟩
      · exact .inl rfl
    have warps := haltWarps_asked (setBlock s k { blockOf s k with status := .halting }) (blockOf s k).warps
    exact ⟨begun.trans warps, fun _ => warps.halting (by rw [blockOf_setBlock_same])⟩

/-- What a table lists is what it gives at a number where that is not blank. -/
theorem Tbl.mem_of_get_ne {α : Type} {b : α} {t : Tbl α} {k : Nat} (listed : Tbl.get b t k ≠ b) : (k, Tbl.get b t k) ∈ t := by
  induction t with
  | nil => exact absurd rfl listed
  | cons e t ih =>
    obtain ⟨j, x⟩ := e
    simp only [Tbl.get] at listed ⊢
    split
    · next same => subst same; exact List.mem_cons_self
    · next other => rw [if_neg other] at listed; exact List.mem_cons_of_mem _ (ih listed)

theorem mem_blocks_of_live {s : State} {k : Nat} (live : isLive (blockOf s k) = true) : (k, blockOf s k) ∈ s.blocks :=
  Tbl.mem_of_get_ne fun blank => by
    have dead : isLive Block.blank = true := by rw [← blank]; exact live
    cases dead

theorem mem_clusterOf_self {s : State} {k : Nat} (live : isLive (blockOf s k) = true) : k ∈ clusterOf s k :=
  List.mem_map.mpr ⟨(k, blockOf s k), List.mem_filter.mpr ⟨mem_blocks_of_live live, by simp [live]⟩, rfl⟩

theorem isLive_of_running {b : Block} (runs : b.status = .running) : isLive b = true := by
  rw [isLive, isResident, runs]; rfl

/-- Of a run of requests each of which may ask blocks to halt, one asks block `k`. -/
theorem foldl_halts {α : Type} {f : State → α → State} {k : Nat} (step : ∀ t x, HaltAsked t (f t x)) {l : List α} {a : α} (asked : a ∈ l)
    (halts : ∀ t, (blockOf t k).status = .running → (blockOf (f t a) k).status = .halting) {s : State}
    (runs : (blockOf s k).status = .running) : (blockOf (l.foldl f s) k).status = .halting := by
  induction l generalizing s with
  | nil => cases asked
  | cons x l ih =>
    rw [List.foldl_cons]
    rcases (step s x).status k with same | ⟨_, halting⟩
    · rcases List.mem_cons.mp asked with here | later
      · subst here; exact (HaltAsked.foldl step _ l).halting (halts s runs)
      · exact ih later (same.trans runs)
    · exact (HaltAsked.foldl step _ l).halting halting

theorem haltBlocks_asked (s : State) (l : List Nat) : HaltAsked s (haltBlocks s l) :=
  .foldl (fun t _ => .foldl (fun u j => (haltBlock_asked u j).1) t _) s l

/-- A running block among those that are asked is halting then. -/
theorem haltBlocks_halts {s : State} {l : List Nat} {k : Nat} (asked : k ∈ l) (runs : (blockOf s k).status = .running) :
    (blockOf (haltBlocks s l) k).status = .halting :=
  foldl_halts (fun t _ => .foldl (fun u i => (haltBlock_asked u i).1) t _) asked
    (fun _ ran => foldl_halts (fun u i => (haltBlock_asked u i).1) (mem_clusterOf_self (isLive_of_running ran))
      (fun _ still => (haltBlock_asked _ k).2 still) ran) runs

/-! ### World latches (R286, R308) -/

theorem foldl_setPend_rest (bit : Nat) (l : List Nat) (s : State) :
    { l.foldl (fun t k => setPend t k bit) s with svcs := s.svcs } = s :=
  foldl_preserves (P := fun t : State => { t with svcs := s.svcs } = s) (by exact fun _ _ same => same) l rfl

/-- Bit 2 of the pending causes is set at the service cores of a list, and no other core changes. -/
theorem svcOf_foldl_setPend (l : List Nat) (s : State) (k : Nat) :
    ((k ∈ l ∨ (svcOf s k).pend.getLsbD 2 = true) → (svcOf (l.foldl (fun t k => setPend t k 2) s) k).pend.getLsbD 2 = true) ∧
      (k ∉ l → svcOf (l.foldl (fun t k => setPend t k 2) s) k = svcOf s k) := by
  induction l generalizing s with
  | nil => simp
  | cons j l ih =>
    rw [List.foldl_cons]
    have told := ih (setPend s j 2)
    have here : svcOf (setPend s j 2) k =
        if j = k then { svcOf s j with pend := (svcOf s j).pend ||| BitVec.ofNat 4 (2 ^ 2) } else svcOf s k := svcOf_setSvc ..
    refine ⟨fun some => told.1 ?_, fun away => (told.2 fun later => away (List.mem_cons_of_mem _ later)).trans ?_⟩
    · rw [here]
      by_cases same : j = k
      · rw [if_pos same]
        exact .inr (by simp)
      · rw [if_neg same]
        exact some.imp_left fun listed => (List.mem_cons.mp listed).resolve_left (Ne.symm same)
    · rw [here, if_neg fun same : j = k => away (same ▸ List.mem_cons_self)]

theorem setPend_asked (s : State) (k bit : Nat) : HaltAsked s (setPend s k bit) := .of_blocks rfl rfl

theorem startLatch_asked (s : State) (x world : Nat) (asker : List Nat) : HaltAsked s (startLatch s x world asker) := by
  unfold startLatch
  dsimp only
  split
  · split
    · exact .foldl (fun t k => setPend_asked ..) s asker
    · exact HaltAsked.trans (t := setCore s x _) (.of_blocks rfl rfl) (haltBlocks_asked ..)
  · exact .of_blocks rfl rfl

theorem latchGroup_asked (s : State) (g world : Nat) : HaltAsked s (latchGroup s g world) := by
  refine .foldl (fun t i => ?_) s _
  dsimp only
  split
  · exact .refl t
  · exact startLatch_asked ..

theorem Tbl.get_foldl_set {α : Type} (b : α) (f : Nat → α) (l : List Nat) (t : Tbl α) (k : Nat) :
    Tbl.get b (l.foldl (fun t i => Tbl.set t i (f i)) t) k = if k ∈ l then f k else Tbl.get b t k := by
  induction l generalizing t with
  | nil => rfl
  | cons j l ih =>
    rw [List.foldl_cons, ih, Tbl.get_set]
    by_cases same : j = k
    · subst same; simp
    · simp [same, Ne.symm same]

/-- The slots of a cleared core: each is empty, one generation on (R286). -/
theorem slotAt_clearCore (c : CoreSt) {i : Nat} (number : i < 16) :
    slotAt (clearCore c).slots i = { Slot.blank with gen := (slotAt c.slots i).gen + 1 } := by
  exact (Tbl.get_foldl_set Slot.blank _ _ _ i).trans (if_pos (List.mem_range.mpr number))

end Sys2Proof.Machine
end

section
/-! SUPPORT. The end of a quantum (R147, R149, R150): the passes, the records in force, and the tenant that runs next. -/

namespace Sys2Proof.Machine

/-! ### What makes a tenant runnable (R149) -/

/-- A tenant has work for a group, whatever its record there says. -/
def hasWork (s : State) (t g : Nat) : Bool :=
  (s.dies.any fun d => d.2.audits.any fun a => a.tenant == t && auditWaits s a) ||
    s.blocks.any (fun e => e.2.tenant == t && isLive e.2 && e.2.group == g) ||
    s.grids.any fun e => e.1 / 2 ^ 32 == t && blockFor s e.1 e.2 g

theorem runnable_eq (s : State) (t g : Nat) : runnable s t g = ((recIn s g t).getLsbD g && hasWork s t g) := rfl

theorem hasWork_iff {s : State} {t g : Nat} : hasWork s t g = true ↔
    (∃ e ∈ s.blocks, e.2.tenant = t ∧ isLive e.2 = true ∧ e.2.group = g) ∨
      (∃ e ∈ s.grids, e.1 / 2 ^ 32 = t ∧ e.2.live = true ∧ e.2.dispatched = true ∧ e.2.placed < e.2.cmd.grid ∧
        (clusterElsewhere s e.1 e.2.cmd e.2.placed g = false ∨
          (e.2.placed / max 1 e.2.cmd.cluster + 1) * max 1 e.2.cmd.cluster < e.2.cmd.grid)) ∨
      ∃ d ∈ s.dies, ∃ a ∈ d.2.audits, a.tenant = t ∧ auditWaits s a = true := by
  simp only [hasWork, blockFor, Bool.or_eq_true, List.any_eq_true, Bool.and_eq_true, beq_iff_eq, decide_eq_true_eq,
    Bool.not_eq_true', and_assoc]
  constructor
  · rintro ((audit | block) | grid)
    · exact .inr (.inr audit)
    · exact .inl block
    · exact .inr (.inl grid)
  · rintro (block | grid | audit)
    · exact .inl (.inr block)
    · exact .inr grid
    · exact .inl (.inl audit)

/-! ### Passes (R149) -/

/-- Nothing changes but passes of groups. -/
structure OnlyPasses (s t : State) : Prop where
  rest : { t with groups := s.groups } = s
  groups : ∀ g, { groupOf t g with pass := (groupOf s g).pass } = groupOf s g

namespace OnlyPasses

theorem refl (s : State) : OnlyPasses s s := ⟨rfl, fun _ => rfl⟩

theorem trans {s t u : State} (first : OnlyPasses s t) (second : OnlyPasses t u) : OnlyPasses s u := by
  refine ⟨?_, fun g => ?_⟩
  · have same := congrArg (fun v : State => { v with groups := s.groups }) second.rest
    exact same.trans first.rest
  · have same := congrArg (fun x : Group => { x with pass := (groupOf s g).pass }) (second.groups g)
    exact same.trans (first.groups g)

theorem setPass (s : State) (g : Nat) (p : Tbl (BitVec 64)) : OnlyPasses s (setGroup s g { groupOf s g with pass := p }) := by
  refine ⟨rfl, fun j => ?_⟩
  rw [groupOf_setGroup]
  split
  · next here => rw [← here]
  · rfl

theorem running {s t : State} (h : OnlyPasses s t) (g : Nat) : (groupOf t g).running = (groupOf s g).running := by
  have same := congrArg Group.running (h.groups g)
  exact same

theorem recs {s t : State} (h : OnlyPasses s t) (g : Nat) : (groupOf t g).recs = (groupOf s g).recs := by
  have same := congrArg Group.recs (h.groups g)
  exact same

theorem recAt {s t : State} (h : OnlyPasses s t) (d u : Nat) : recAt t d u = Machine.recAt s d u := by
  have same := congrArg (fun v => Machine.recAt v d u) h.rest
  exact same

end OnlyPasses

theorem chargePass_only (s : State) (g used : Nat) : OnlyPasses s (chargePass s g used) := by
  unfold chargePass
  dsimp only
  split
  · exact .refl s
  · split
    · exact .refl s
    · exact .setPass ..

theorem chargePass_running {s : State} {g r : Nat} (runs : (groupOf s g).running = some r)
    (weighs : 0 < weightOf (Tbl.get 0 (groupOf s g).recs r)) (used : Nat) :
    Tbl.get 0 (groupOf (chargePass s g used) g).pass r = Tbl.get 0 (groupOf s g).pass r +
      BitVec.ofNat 64 (2 ^ 20 / weightOf (Tbl.get 0 (groupOf s g).recs r) * used / max 1 (quantumOf (Tbl.get 0 (groupOf s g).recs r))) := by
  unfold chargePass
  dsimp only
  rw [runs]
  dsimp only
  rw [if_neg (by omega), groupOf_setGroup_same, Tbl.get_set_same]
  rfl

/-- A raise changes the pass of its tenant in its group alone. -/
theorem raisePass_only (s : State) (g t : Nat) : OnlyPasses s (raisePass s g t) ∧
    ∀ h u, h ≠ g ∨ u ≠ t → Tbl.get 0 (groupOf (raisePass s g t) h).pass u = Tbl.get 0 (groupOf s h).pass u := by
  unfold raisePass
  dsimp only
  split
  · exact ⟨.refl s, fun _ _ _ => rfl⟩
  · split
    · refine ⟨.setPass .., fun h u other => ?_⟩
      rw [groupOf_setGroup]
      split
      · next same =>
        subst same
        exact Tbl.get_set_ne _ _ _ (Ne.symm (other.resolve_left fun no => no rfl))
      · rfl
    · exact ⟨.refl s, fun _ _ _ => rfl⟩

/-- Raises change passes, and not that of a tenant that was runnable before. -/
theorem raiseNew_only (old s : State) : OnlyPasses s (raiseNew old s) ∧ ∀ g r, runnable old r g = true →
    Tbl.get 0 (groupOf (raiseNew old s) g).pass r = Tbl.get 0 (groupOf s g).pass r := by
  let Raised (u : State) : Prop := OnlyPasses s u ∧ ∀ g r, runnable old r g = true →
    Tbl.get 0 (groupOf u g).pass r = Tbl.get 0 (groupOf s g).pass r
  refine foldl_preserves (P := Raised) (fun u h before => ?_) _ ⟨.refl s, fun _ _ _ => rfl⟩
  refine List.foldlRecOn (motive := Raised) _ _ before fun v raised t listed => ?_
  obtain ⟨only, others⟩ := raisePass_only v h t
  refine ⟨raised.1.trans only, fun g r ran => (others g r ?_).trans (raised.2 g r ran)⟩
  by_cases same : g = h
  · refine .inr fun tenant => ?_
    subst same tenant
    have new := (List.mem_filter.mp listed).2
    rw [ran] at new
    cases new
  · exact .inl same

/-! ### Records in force (R147) -/

theorem Tbl.get_filterMap_range (n : Nat) (f : Nat → BitVec 128) {k : Nat} (number : k < n) :
    Tbl.get 0 ((List.range n).filterMap fun t => if f t = 0 then none else some (t, f t)) k = f k := by
  have read (l : List Nat) : Tbl.get 0 (l.filterMap fun t => if f t = 0 then none else some (t, f t)) k = if k ∈ l then f k else 0 := by
    induction l with
    | nil => rfl
    | cons j l ih =>
      by_cases blank : f j = 0
      · rw [List.filterMap_cons_none (by rw [if_pos blank]), ih]
        by_cases same : k = j
        · subst same; simp [blank]
        · simp [same]
      · rw [List.filterMap_cons_some (by rw [if_neg blank]), Tbl.get, ih]
        by_cases same : j = k
        · subst same; simp
        · simp [same, Ne.symm same]
  rw [read, if_pos (List.mem_range.mpr number)]

theorem recs_takeRecords (s : State) (g : Nat) {u : Nat} (tenant : u < 64) :
    Tbl.get 0 (groupOf (takeRecords s g) g).recs u = (recAt s (g / 5) u).sched := by
  rw [takeRecords, groupOf_setGroup_same]
  exact Tbl.get_filterMap_range 64 (fun t => (recAt s (g / 5) t).sched) tenant

/-- The state in which the next tenant is chosen: the pass is charged, the records are in force, and passes are raised. -/
def quantumCharged (s : State) (g used : Nat) : State := raiseNew s (takeRecords (chargePass s g used) g)

section
variable (s : State) (g used : Nat)

theorem quantumCharged_rest : { quantumCharged s g used with groups := s.groups } = s := by
  have raised := (raiseNew_only s (takeRecords (chargePass s g used) g)).1.rest
  have all := congrArg (fun v : State => { v with groups := s.groups }) raised
  exact all.trans (chargePass_only s g used).rest

theorem quantumCharged_recAt (d u : Nat) : recAt (quantumCharged s g used) d u = recAt s d u := by
  have same := congrArg (fun v => recAt v d u) (quantumCharged_rest s g used)
  exact same

theorem quantumCharged_running : (groupOf (quantumCharged s g used) g).running = (groupOf s g).running := by
  have taken : (groupOf (takeRecords (chargePass s g used) g) g).running = (groupOf (chargePass s g used) g).running := by
    rw [takeRecords, groupOf_setGroup_same]
  exact ((raiseNew_only ..).1.running g).trans (taken.trans ((chargePass_only s g used).running g))

theorem quantumCharged_recs {u : Nat} (tenant : u < 64) :
    Tbl.get 0 (groupOf (quantumCharged s g used) g).recs u = (recAt s (g / 5) u).sched := by
  rw [quantumCharged, (raiseNew_only ..).1.recs, recs_takeRecords _ _ tenant, (chargePass_only s g used).recAt]

theorem quantumCharged_recIn {u : Nat} (tenant : u < 64) : recIn (quantumCharged s g used) g u = (recAt s (g / 5) u).sched := by
  unfold recIn
  split
  · rw [quantumCharged_recAt]
  · exact quantumCharged_recs s g used tenant

theorem mem_runnables_quantumCharged {u : Nat} : u ∈ runnables (quantumCharged s g used) g ↔
    u < 64 ∧ (recAt s (g / 5) u).sched.getLsbD g = true ∧ hasWork s u g = true := by
  have work : hasWork (quantumCharged s g used) u g = hasWork s u g := by
    have same := congrArg (fun v => hasWork v u g) (quantumCharged_rest s g used)
    exact same
  simp only [runnables, List.mem_filter, List.mem_range, runnable_eq, work, Bool.and_eq_true]
  exact and_congr_right fun tenant => by rw [quantumCharged_recIn s g used tenant]

theorem quantumCharged_pass {r : Nat} (runs : (groupOf s g).running = some r) (ready : runnable s r g = true)
    (weighs : 0 < weightOf (Tbl.get 0 (groupOf s g).recs r)) :
    Tbl.get 0 (groupOf (quantumCharged s g used) g).pass r = Tbl.get 0 (groupOf s g).pass r +
      BitVec.ofNat 64 (2 ^ 20 / weightOf (Tbl.get 0 (groupOf s g).recs r) * used / max 1 (quantumOf (Tbl.get 0 (groupOf s g).recs r))) := by
  rw [quantumCharged, (raiseNew_only s _).2 g r ready, takeRecords, groupOf_setGroup_same]
  exact chargePass_running runs weighs used

end

/-! ### The choice (R149) -/

theorem leastPass_eq_none {x : Group} {l : List Nat} : leastPass x l = none ↔ l = [] := by
  cases l with
  | nil => simp [leastPass]
  | cons t l =>
    simp only [leastPass, reduceCtorEq, iff_false]
    split
    · exact Option.some_ne_none _
    · split <;> exact Option.some_ne_none _

/-- The tenant of least pass among those listed in rising order; the lower number of two of equal pass. -/
theorem leastPass_least {x : Group} {l : List Nat} (sorted : l.Pairwise (· < ·)) {u : Nat} (least : leastPass x l = some u) :
    u ∈ l ∧ ∀ v ∈ l, (Tbl.get 0 x.pass u).toNat < (Tbl.get 0 x.pass v).toNat ∨
      ((Tbl.get 0 x.pass u).toNat = (Tbl.get 0 x.pass v).toNat ∧ u ≤ v) := by
  induction l generalizing u with
  | nil => cases least
  | cons t l ih =>
    obtain ⟨first, rest⟩ := List.pairwise_cons.mp sorted
    rw [leastPass] at least
    cases tail : leastPass x l with
    | none =>
      rw [tail] at least
      cases least
      rw [leastPass_eq_none.mp tail]
      simp
    | some v =>
      rw [tail] at least
      obtain ⟨listed, below⟩ := ih rest tail
      dsimp only at least
      split at least <;> cases least
      · next less =>
        refine ⟨List.mem_cons_of_mem _ listed, fun w member => ?_⟩
        rcases List.mem_cons.mp member with here | later
        · subst here; exact .inl less
        · exact below w later
      · next less =>
        refine ⟨List.mem_cons_self, fun w member => ?_⟩
        rcases List.mem_cons.mp member with here | later
        · subst here; exact .inr ⟨rfl, le_rfl⟩
        · have := below w later
          have := first w later
          omega

theorem runnables_sorted (s : State) (g : Nat) : (runnables s g).Pairwise (· < ·) := List.pairwise_lt_range.filter _

theorem chooseTenant_eq_none {s : State} {g : Nat} : chooseTenant s g = none ↔ runnables s g = [] := by
  unfold chooseTenant
  dsimp only
  split
  · exact leastPass_eq_none
  · next some =>
    rw [leastPass_eq_none]
    refine ⟨fun empty => absurd (by rw [empty]; rfl) some, fun empty => by rw [empty]; rfl⟩

/-- The chosen tenant is runnable, of positive weight if one is, and of the least pass among those. -/
theorem chooseTenant_least {s : State} {g u : Nat} (chosen : chooseTenant s g = some u) : u ∈ runnables s g ∧
    ∀ v ∈ runnables s g, (0 < weightOf (recIn s g v) → 0 < weightOf (recIn s g u)) ∧
      (0 < weightOf (recIn s g v) ∨ weightOf (recIn s g u) = 0 →
        (Tbl.get 0 (groupOf s g).pass u).toNat < (Tbl.get 0 (groupOf s g).pass v).toNat ∨
        ((Tbl.get 0 (groupOf s g).pass u).toNat = (Tbl.get 0 (groupOf s g).pass v).toNat ∧ u ≤ v)) := by
  unfold chooseTenant at chosen
  dsimp only at chosen
  split at chosen
  · next light =>
    obtain ⟨listed, least⟩ := leastPass_least (runnables_sorted s g) chosen
    refine ⟨listed, fun v member => ⟨fun weighs => ?_, fun _ => least v member⟩⟩
    have heavy : v ∈ (runnables s g).filter fun t => decide (0 < weightOf (recIn s g t)) :=
      List.mem_filter.mpr ⟨member, decide_eq_true weighs⟩
    rw [List.isEmpty_iff.mp light] at heavy
    cases heavy
  · obtain ⟨listed, least⟩ := leastPass_least ((runnables_sorted s g).filter _) chosen
    obtain ⟨runs, weighs⟩ := List.mem_filter.mp listed
    have positive : 0 < weightOf (recIn s g u) := of_decide_eq_true weighs
    refine ⟨runs, fun v member => ⟨fun _ => positive, fun some => least v (List.mem_filter.mpr ⟨member, ?_⟩)⟩⟩
    exact decide_eq_true (some.resolve_right (Nat.ne_of_gt positive))

/-! ### The end of a quantum (R149 to R151) -/

/-- The group as the choice leaves it. -/
def chosenGroup (s : State) (g used : Nat) : Group :=
  let s1 := quantumCharged s g used
  match chooseTenant s1 g with
  | none => { groupOf s1 g with running := none }
  | some t => { groupOf s1 g with
      running := some t, masks := Tbl.set (groupOf s1 g).masks t (recAt s1 (g / 5) t).slotmask }

/-- The end of a quantum in steps: the choice, the halt of the blocks of the tenant that leaves, and the latches. -/
def leavingHalted (s : State) (g used : Nat) : State :=
  let s2 := setGroup (quantumCharged s g used) g (chosenGroup s g used)
  match (groupOf s g).running with
  | some r => if (chosenGroup s g used).running = some r then s2 else haltBlocks s2 (blocksIn s2 g r)
  | none => s2

theorem endQuantum_eq (s : State) (g used : Nat) : endQuantum s g used = match chooseTenant (quantumCharged s g used) g with
    | none => leavingHalted s g used
    | some t => latchGroup (leavingHalted s g used) g (tenantOf (leavingHalted s g used) t).world.toNat := by
  unfold endQuantum leavingHalted chosenGroup
  dsimp only
  rw [← quantumCharged_running s g used, quantumCharged]
  obtain ⟨s1, charged⟩ : ∃ s1, raiseNew s (takeRecords (chargePass s g used) g) = s1 := ⟨_, rfl⟩
  rw [charged]
  obtain ⟨o, chosen⟩ : ∃ o, chooseTenant s1 g = o := ⟨_, rfl⟩
  cases o with
  | none =>
    simp only [chosen]
    cases (groupOf s1 g).running <;> rfl
  | some t =>
    simp only [chosen]
    cases (groupOf s1 g).running with
    | none => rfl
    | some r =>
      by_cases same : r = t
      · subst same; simp
      · simp [same, Ne.symm same]

theorem leavingHalted_asked (s : State) (g used : Nat) :
    HaltAsked (setGroup (quantumCharged s g used) g (chosenGroup s g used)) (leavingHalted s g used) := by
  unfold leavingHalted
  dsimp only
  split
  · split
    · exact .refl _
    · exact haltBlocks_asked ..
  · exact .refl _

theorem endQuantum_asked (s : State) (g used : Nat) : HaltAsked (leavingHalted s g used) (endQuantum s g used) := by
  rw [endQuantum_eq]
  split
  · exact .refl _
  · exact latchGroup_asked ..

theorem groupOf_endQuantum (s : State) (g used : Nat) : groupOf (endQuantum s g used) g = chosenGroup s g used := by
  rw [groupOf, ((leavingHalted_asked s g used).trans (endQuantum_asked s g used)).groups]
  exact groupOf_setGroup_same ..

/-- A running block of the tenant that leaves the group halts (R150). -/
theorem endQuantum_halts {s : State} {g used r k : Nat} (ran : (groupOf s g).running = some r)
    (leaves : (chosenGroup s g used).running ≠ some r) (runs : (blockOf s k).status = .running) (tenant : (blockOf s k).tenant = r)
    (group : (blockOf s k).group = g) : (blockOf (endQuantum s g used) k).status = .halting := by
  let s2 := setGroup (quantumCharged s g used) g (chosenGroup s g used)
  have blocks : s2.blocks = s.blocks := by
    have same := congrArg State.blocks (quantumCharged_rest s g used)
    exact same
  have same : blockOf s2 k = blockOf s k := by rw [blockOf, blocks]; rfl
  have listed : k ∈ blocksIn s2 g r := by
    refine List.mem_map.mpr ⟨(k, blockOf s k), List.mem_filter.mpr ⟨?_, ?_⟩, rfl⟩
    · rw [blocks]; exact mem_blocks_of_live (isLive_of_running runs)
    · simp [tenant, group, isResident, runs]
  have halted : leavingHalted s g used = haltBlocks s2 (blocksIn s2 g r) := by
    unfold leavingHalted
    dsimp only
    rw [ran]
    exact if_neg leaves
  refine (endQuantum_asked s g used).halting ?_
  rw [halted]
  exact haltBlocks_halts listed (by rw [same]; exact runs)

/-! ### The forced-save timeout (R152) -/

theorem forceWarp_onlyWaiter (s : State) (w : Nat) : OnlyWaiter w s (forceWarp s w) := by
  unfold forceWarp
  dsimp only
  split
  · have ended := OnlyWaiter.foldl (fun t e => mwaitEnds_onlyWaiter t w e) s
      ((List.range 8).filter fun i => (entryOf (warpOf s w) i).state == .parked)
    split
    · exact ended.trans (.setWarp ..)
    · exact ended
  · exact .refl s

theorem forceWarp_stops (s : State) (w : Nat) :
    (warpOf (forceWarp s w) w).status ≠ .running ∧ (warpOf (forceWarp s w) w).status ≠ .halting := by
  unfold forceWarp
  dsimp only
  split
  · split
    · rw [warpOf_setWarp_same]; exact ⟨(fun no => by cases no), (fun no => by cases no)⟩
    · next stopped => exact not_or.mp stopped
  · next stopped => exact not_or.mp stopped

/-- Every warp of a list is forced to stop; the other warps, and the status of every block, stay as they are. -/
structure Forced (l : List Nat) (s t : State) : Prop where
  others : ∀ w, w ∉ l → warpOf t w = warpOf s w
  stopped : ∀ w ∈ l, (warpOf t w).status ≠ .running ∧ (warpOf t w).status ≠ .halting
  status : ∀ k, (blockOf t k).status = (blockOf s k).status

theorem foldl_forceWarp (s : State) (l : List Nat) : Forced l s (l.foldl forceWarp s) := by
  induction l generalizing s with
  | nil => exact ⟨fun _ _ => rfl, (fun _ no => by cases no), fun _ => rfl⟩
  | cons w l ih =>
    have first := forceWarp_onlyWaiter s w
    have rest := ih (forceWarp s w)
    refine ⟨fun v away => ?_, fun v listed => ?_, fun k => (rest.status k).trans (first.status k)⟩
    · exact (rest.others v fun later => away (List.mem_cons_of_mem _ later)).trans
        (first.others v fun here => away (here ▸ List.mem_cons_self))
    · by_cases later : v ∈ l
      · exact rest.stopped v later
      · rw [List.foldl_cons, rest.others v later, (List.mem_cons.mp listed).resolve_right later]
        exact forceWarp_stops s w

/-! ### The ages of a group (R329) -/

theorem Tbl.get_map_keyed {α : Type} {b : α} (f : Nat → α → α) (t : Tbl α) (k : Nat) :
    Tbl.get b (t.map fun e => (e.1, f e.1 e.2)) k = f k (Tbl.get b t k) ∨
      (Tbl.get b t k = b ∧ Tbl.get b (t.map fun e => (e.1, f e.1 e.2)) k = b) := by
  induction t with
  | nil => exact .inr ⟨rfl, rfl⟩
  | cons e t ih =>
    obtain ⟨j, x⟩ := e
    simp only [List.map_cons, Tbl.get]
    split
    · next same => subst same; exact .inl rfl
    · exact ih

theorem entryOf_rebuildWarp (stamp : Nat) (w : Warp) (e : Nat) :
    { entryOf (rebuildWarp stamp w) e with readyAt := (entryOf w e).readyAt } = entryOf w e := by
  rcases Tbl.get_map_keyed (b := Entry.blank) (fun _ x => { x with readyAt := stamp }) w.split e with kept | ⟨blank, same⟩
  · rw [entryOf, rebuildWarp]
    dsimp only
    rw [kept]
    rfl
  · rw [entryOf, rebuildWarp]
    dsimp only
    rw [same, entryOf, blank]

/-- A warp of a rebuilt group: its promotion ends and its ages start again; every other warp is as before. -/
theorem warpOf_schedulerRebuild (s : State) (g k : Nat) :
    let t : State := { s with
      warps := s.warps.map fun e => (e.1, if 16 ≤ e.1 ∧ groupOfCore e.2.core = g then rebuildWarp s.stamp e.2 else e.2) }
    (16 ≤ k → (warpOf s k).core / 8 = g → warpOf t k = rebuildWarp s.stamp (warpOf s k) ∨
      (warpOf s k = Warp.blank ∧ warpOf t k = Warp.blank)) ∧
    (k < 16 ∨ (warpOf s k).core / 8 ≠ g → warpOf t k = warpOf s k) := by
  intro t
  have read := Tbl.get_map_keyed (b := Warp.blank) (fun j w => if 16 ≤ j ∧ groupOfCore w.core = g then rebuildWarp s.stamp w else w)
    s.warps k
  refine ⟨fun tenant group => ?_, fun other => ?_⟩
  · exact read.imp_left fun same => same.trans (if_pos ⟨tenant, group⟩)
  · rcases read with same | ⟨blank, same⟩
    · exact same.trans (if_neg fun both => by
        obtain ⟨tenant, group⟩ := both
        rcases other with service | away
        · omega
        · exact away group)
    · exact same.trans blank.symm

end Sys2Proof.Machine
end

section
/-! SUPPORT. The parts of the statement about sharing cores, one event each. -/

namespace Sys2Proof.Machine

/-- What an idle group, or the tenant that a group runs next, has to be among the tenants that have work there and may run. -/
theorem chosenGroup_running_none {s : State} {g used : Nat} : (chosenGroup s g used).running = none ↔
    ∀ u, u < 64 → ¬ ((recAt s (g / 5) u).sched.getLsbD g = true ∧ hasWork s u g = true) := by
  have none : (chosenGroup s g used).running = none ↔ chooseTenant (quantumCharged s g used) g = none := by
    unfold chosenGroup
    dsimp only
    split
    · next no => simp [no]
    · next chosen => simp [chosen]
  rw [none, chooseTenant_eq_none, List.eq_nil_iff_forall_not_mem]
  exact forall_congr' fun u => by rw [mem_runnables_quantumCharged]; tauto

theorem chosenGroup_running_some {s : State} {g used u : Nat} (runs : (chosenGroup s g used).running = some u) :
    chooseTenant (quantumCharged s g used) g = some u ∧
      Tbl.get 0 (chosenGroup s g used).masks u = (recAt s (g / 5) u).slotmask := by
  unfold chosenGroup at runs ⊢
  dsimp only at runs ⊢
  split at runs
  · cases runs
  · next t chosen =>
    cases runs
    exact ⟨chosen, by dsimp only; rw [Tbl.get_set_same, quantumCharged_recAt]⟩

/-- The choice leaves the records in force and every pass. -/
theorem chosenGroup_rest (s : State) (g used : Nat) :
    (chosenGroup s g used).recs = (groupOf (quantumCharged s g used) g).recs ∧
      (chosenGroup s g used).pass = (groupOf (quantumCharged s g used) g).pass := by
  unfold chosenGroup
  dsimp only
  split <;> exact ⟨rfl, rfl⟩

theorem worldLatchDrained_clears {s : State} {x : Nat} (draining : (coreOf s x).latch = .draining) (empty : blocksOn s x = []) :
    ∃ t, exec (.worldLatchDrained x) s = .next t ∧
      { t with cores := s.cores, caches := s.caches } = s ∧ (∀ j, j ≠ x → coreOf t j = coreOf s j) ∧ coreOf t x = clearCore (coreOf s x) ∧
      (∀ line, l1Has t x line = false) ∧ (∀ y line, y ≠ x → l1Has t y line = l1Has s y line) ∧ t.caches.l2 = s.caches.l2 := by
  let u := setCore s x (clearCore (coreOf s x))
  have step : exec (.worldLatchDrained x) s =
      .next { u with caches := { u.caches with l1 := u.caches.l1.filter fun e => e.1 != x } } := by
    show Host.Outcome.next _ = _
    dsimp only
    rw [draining]
    exact congrArg Host.Outcome.next (if_pos (List.isEmpty_iff.mpr empty))
  refine ⟨_, step, rfl, fun j other => ?_, ?_, fun line => ?_, fun y line other => ?_, rfl⟩
  · show coreOf u j = _
    rw [coreOf_setCore, if_neg (Ne.symm other)]
  · exact coreOf_setCore_same ..
  · exact List.contains_eq_any_beq.trans (List.any_eq_false.mpr fun e listed => by
      have away := (List.mem_filter.mp listed).2
      simp only [bne_iff_ne, ne_eq] at away
      simp only [Bool.not_eq_true, beq_eq_false_iff_ne, ne_eq]
      exact fun here => away (here ▸ rfl))
  · show List.contains (List.filter _ s.caches.l1) (y, line) = List.contains s.caches.l1 (y, line)
    rw [Bool.eq_iff_iff, List.contains_iff_mem, List.contains_iff_mem, List.mem_filter]
    simp [other]

theorem worldLatchDrained_waits {s : State} {x : Nat}
    (waits : (coreOf s x).latch = .latched ∨ ((coreOf s x).latch = .draining ∧ blocksOn s x ≠ [])) :
    exec (.worldLatchDrained x) s = .next s := by
  show Host.Outcome.next _ = _
  dsimp only
  rcases waits with latched | ⟨draining, some⟩
  · rw [latched]
  · rw [draining]
    exact congrArg Host.Outcome.next (if_neg fun empty => some (List.isEmpty_iff.mp empty))

theorem worldLatchDrained_latches {s : State} {x : Nat} (clearing : (coreOf s x).latch = .clearing) :
    ∃ t, exec (.worldLatchDrained x) s = .next t ∧ { t with cores := s.cores, svcs := s.svcs } = s ∧
      coreOf t x = { coreOf s x with latch := .latched, world := (coreOf s x).target, askers := [] } ∧
      (∀ k ∈ (coreOf s x).askers, (svcOf t k).pend.getLsbD 2 = true) ∧ ∀ k, k ∉ (coreOf s x).askers → svcOf t k = svcOf s k := by
  let u := setCore s x { coreOf s x with latch := .latched, world := (coreOf s x).target, askers := [] }
  have step : exec (.worldLatchDrained x) s = .next ((coreOf s x).askers.foldl (fun t k => setPend t k 2) u) := by
    show Host.Outcome.next _ = _
    dsimp only
    rw [clearing]
  have rest := foldl_setPend_rest 2 (coreOf s x).askers u
  refine ⟨_, step, ?_, ?_, fun k asks => (svcOf_foldl_setPend _ u k).1 (.inl asks), fun k quiet => (svcOf_foldl_setPend _ u k).2 quiet⟩
  · have same := congrArg (fun v : State => { v with cores := s.cores }) rest
    exact same
  · have same := congrArg (fun v => coreOf v x) rest
    exact same.trans (coreOf_setCore_same ..)

/-- Settles O50: a quantum's end is its charge, its choice (`chosenGroup`) and the halt of the blocks that leave. -/
theorem sharingCores : Obligations.SharingCores := by
  unfold Obligations.SharingCores
  refine ⟨fun s g used beyond => congrArg Host.Outcome.next (if_pos beyond), ?_, ?_, ?_, ?_, ?_⟩
  · intro s g used inside record weight runs
    have works (u : Nat) : runs u ↔ (record u).sched.getLsbD g = true ∧ hasWork s u g = true := and_congr_right fun _ => hasWork_iff.symm
    have step : exec (.quantumEnd g used) s = .next (endQuantum s g used) := congrArg Host.Outcome.next (if_neg (by omega))
    refine ⟨_, step, ?_, fun u runner => ?_, fun u tenant => ?_, fun r ran tenant ready weighs => ?_,
      fun r k ran leaves running tenant group => ?_⟩
    · rw [groupOf_endQuantum, chosenGroup_running_none]
      exact forall_congr' fun u => by rw [works]
    · rw [groupOf_endQuantum] at runner ⊢
      obtain ⟨chosen, mask⟩ := chosenGroup_running_some runner
      obtain ⟨listed, least⟩ := chooseTenant_least chosen
      obtain ⟨tenant, may⟩ := (mem_runnables_quantumCharged s g used).mp listed
      refine ⟨tenant, (works u).mpr may, mask, fun v other runsV => ?_⟩
      have below := least v ((mem_runnables_quantumCharged s g used).mpr ⟨other, (works v).mp runsV⟩)
      rw [quantumCharged_recIn s g used tenant, quantumCharged_recIn s g used other] at below
      rw [(chosenGroup_rest s g used).2]
      exact below
    · rw [groupOf_endQuantum, (chosenGroup_rest s g used).1]
      exact quantumCharged_recs s g used tenant
    · rw [groupOf_endQuantum, (chosenGroup_rest s g used).2]
      exact quantumCharged_pass s g used ran ready weighs
    · rw [groupOf_endQuantum] at leaves
      exact endQuantum_halts ran leaves running tenant group
  · intro s k b stopped
    refine ⟨fun unrolled still => ?_, fun halting moves => ?_, fun rolling => ?_⟩
    · exact congrArg Host.Outcome.next ((if_neg unrolled).trans (if_pos still))
    · have forced := foldl_forceWarp (setBlock s k { b with status := .forced }) b.warps
      have unrolled : b.status ≠ .rolling := by rw [halting]; exact fun no => by cases no
      have moving : ¬ (b.status ≠ .halting ∨ blockStill s k = true) := by simp [halting, moves]
      refine ⟨_, congrArg Host.Outcome.next ((if_neg unrolled).trans (if_neg moving)), ?_, forced.others, forced.stopped⟩
      · rw [forced.status, blockOf_setBlock_same]
    · have forced := foldl_forceWarp s b.warps
      exact ⟨_, congrArg Host.Outcome.next (if_pos rolling), (forced.status k).trans rolling, forced.others, forced.stopped⟩
  · intro s x c
    refine ⟨fun waits => ?_, fun draining empty => ?_, worldLatchDrained_latches⟩
    · exact worldLatchDrained_waits waits
    · obtain ⟨t, step, rest, others, core, l1, l1s, l2⟩ := worldLatchDrained_clears draining empty
      refine ⟨t, step, rest, others, ?_, l1, l1s, l2, ?_, ?_, ?_, fun i number => ?_⟩
      all_goals rw [core]
      · rfl
      · rfl
      · rfl
      · rfl
      · exact slotAt_clearCore _ number
  · intro s w v ready
    have found : (v.split.any fun e => clauseStands s w e.1) = true ↔ ready := List.any_eq_true
    refine ⟨fun idle => congrArg Host.Outcome.next (if_neg fun some => idle (found.mp some)), fun some => ?_⟩
    refine ⟨_, congrArg Host.Outcome.next (if_pos (found.mpr some)), rfl, fun k other => ?_, warpOf_setWarp_same ..⟩
    rw [warpOf_setWarp, if_neg (Ne.symm other)]
  · intro s g
    refine ⟨_, rfl, rfl, fun k tenant group => ?_, fun k other => (warpOf_schedulerRebuild s g k).2 other⟩
    rcases (warpOf_schedulerRebuild s g k).1 tenant group with rebuilt | ⟨blank, same⟩
    · rw [rebuilt]
      exact ⟨rfl, rfl, fun e => entryOf_rebuildWarp s.stamp (warpOf s k) e⟩
    · rw [same, blank]
      exact ⟨rfl, rfl, fun e => rfl⟩

end Sys2Proof.Machine
end

section
/-! SUPPORT. A rollback whose halt reads poison (R219, R323, R324): the state in which the statement about saving and killing fails. -/

namespace Sys2Proof.Machine

/-- The location that an `MWAIT` of the checkpoint reads: the first bytes of memory. -/
def poisonedSpot : MUnit := leafUnit noLane 0 8 0 ⟨0, true, true, false, false, false, false, []⟩ false false [] []

/-- A checkpoint of one warp that stood PARKED at an `MWAIT`. -/
def waitingCheckpoint : Checkpoint :=
  ⟨[⟨0, [], [], Ctl.blank, { Entry.blank with state := .parked, wait := .mwait 0 1 none false 0, spot := some poisonedSpot }⟩], []⟩

/-- A block is rolled back to that checkpoint, its warp stopped and drained, after the line has been poisoned and a quantum has ended. -/
def poisonedRollback : State := { State.reset with
  poison := [0]
  warps := [(16, { Warp.blank with status := .stopped, blk := 1 })]
  blocks := [(1, { Block.blank with status := .rolling, warps := [16], checkpoint := some waitingCheckpoint })] }

/-- The rollback ends: the block, which must halt, reads the location and has an erroneous one again. -/
theorem poisonedRollback_bad : (blockOf (finishRollback poisonedRollback 1) 1).bad = [(0, 7, 0)] := by decide

/-- Refutes O51: the halt that follows a rollback when the group runs another tenant ends an `MWAIT` in which the checkpoint stands,
whose location is poisoned by then, so that the erroneous locations of the block are not empty. -/
theorem not_savingAndKilling : ¬ Obligations.SavingAndKilling := by
  unfold Obligations.SavingAndKilling
  intro all
  obtain ⟨_, _, _, rollback⟩ := all
  obtain ⟨_, _, _, _, _, rolledBack⟩ := rollback poisonedRollback 1
  obtain ⟨t, step, _, _, _, bad, _⟩ := rolledBack waitingCheckpoint rfl (by decide) rfl (by decide) (by decide)
  have ended : t = finishRollback poisonedRollback 1 := by
    have done : exec (.blockRollback 1) poisonedRollback = .next (finishRollback poisonedRollback 1) := rfl
    exact (Host.Outcome.next.inj (done.symm.trans step)).symm
  rw [ended, poisonedRollback_bad] at bad
  cases bad

end Sys2Proof.Machine
end

section
/-! SUPPORT. A ring whose NOTIFY stands in a table of its own translations (R193, R228, R328): the state in which the statement about
rings and launch fails. -/

namespace Sys2Proof.Machine

/-- The level-1 table of the tenant, the last frame below 512 MiB; its last line holds NOTIFY and the entries 8176 to 8191. -/
def ringTable : Nat := 8191 * 65536

/-- Addresses of 512 MiB from index 8183 on are mapped to the frames from 0 on: NOTIFY, whose address is the last word there, stands
in the last word of the table itself. HEAD and ERROR follow in the range of index 8184, which is mapped behind the table. -/
def ringMemory : Memory :=
  Memory.wr (Memory.wr (Memory.wr [] 65536 8 (1 + 65536 * 8191)) (ringTable + 8 * 8183) 8 0x33) (ringTable + 8 * 8184) 8
    (0x33 + 65536 * 8192)

/-- Another block has the last line of the table in its stash, dirty: in it, index 8184 is mapped to host memory. -/
def ringTableLine : SLine :=
  ⟨0, ringTable + 65408, true, true, List.replicate 56 0 ++ leBytes 8 0x33 ++ leBytes 8 (0x33 + 2 ^ 44) ++ List.replicate 56 0, 0,
    false, false, false, []⟩

/-- A replay whose ring has stopped with ERROR zero, and which has stored NOTIFY. -/
def ringReplay : State := { State.reset with
  mem := ringMemory
  tenants := [(0, { Tenant.blank with root := 1 })]
  warps := [(16, { Warp.blank with status := .running, blk := 1 })]
  blocks := [
    (1, { Block.blank with
      status := .running, warps := [16], replay := true, cmd := { Command.blank with ring := 16 }
      regions := [(15, ⟨0, 9, 2 ^ 29 * 8184 - 516⟩)], ring := { Ring.blank with stored := true, stopped := true, skip := true } }),
    (2, { Block.blank with status := .running, lines := [ringTableLine] })] }

/-- NOTIFY, HEAD and ERROR are read as zero. -/
theorem ringReplay_words : (ringGet ringReplay 1 512).2 = some 0 ∧ (ringGet ringReplay 1 516).2 = some 0 ∧
    (ringGet ringReplay 1 520).2 = some 0 := by decide +kernel

/-- The state after the engine has read NOTIFY and gone on. -/
def ringReplayed : State := match execRingNotify 1 ringReplay with
  | .next t => t
  | _ => ringReplay

/-- The read of NOTIFY writes the dirty line back, so that HEAD lies in host memory then: its write ends the replay. -/
theorem ringReplayed_stops : (warpOf ringReplayed 16).status = .stopped := by decide +kernel

/-- Refutes O49: the read of `NOTIFY` may write back a line that holds the translation of `HEAD`, and in a replay the write of `HEAD`
that follows then stops the block's warps. -/
theorem not_ringsAndLaunch : ¬ Obligations.RingsAndLaunch := by
  unfold Obligations.RingsAndLaunch
  intro all
  obtain ⟨rings, _⟩ := all
  obtain ⟨_, notified, _⟩ := rings ringReplay 1
  obtain ⟨words, heads, errors⟩ := ringReplay_words
  obtain ⟨t, step, kept, _⟩ := notified 0 0 0 (by decide) rfl words heads errors
  have notify : exec (.ringNotify 1) ringReplay = .next ringReplayed := rfl
  have same : t = ringReplayed := (Host.Outcome.next.inj (notify.symm.trans step)).symm
  have runs : (warpOf ringReplayed 16).status = .running := by rw [← same, kept 16]; rfl
  rw [ringReplayed_stops] at runs
  cases runs

end Sys2Proof.Machine
end

section
/-! SUPPORT. What a store from outside a warp leaves as it is (R193, R239, R327, R328), the bytes that it leaves at a place, and
the fields of a type entry (R273). -/

namespace Sys2Proof.Machine

/-! ### The frame of a store -/

/-- State `t` with what the stores of an agent outside the warps may change as it stands in `s`. -/
def withStoresOf (s t : State) : State :=
  { t with mem := s.mem, blocks := s.blocks, dies := s.dies, caches := s.caches, poison := s.poison, tierKept := s.tierKept }

/-- Nothing has changed but bytes of memory, the copies of them, and the audits that note them. -/
structure OnlyStored (s t : State) : Prop where
  dies : ∀ d, { dieOf t d with audits := (dieOf s d).audits } = dieOf s d
  rest : withStoresOf s t = s

namespace OnlyStored

theorem refl (s : State) : OnlyStored s s := ⟨fun _ => rfl, rfl⟩

theorem trans {s t u : State} (first : OnlyStored s t) (second : OnlyStored t u) : OnlyStored s u where
  dies d := by
    have same := congrArg (fun x : Die => { x with audits := (dieOf s d).audits }) (second.dies d)
    exact same.trans (first.dies d)
  rest := by
    have same := congrArg (withStoresOf s) second.rest
    exact same.trans first.rest

/-- Bytes, blocks, caches and poison written over make no difference. -/
theorem rewritten {s t : State} (h : OnlyStored s t) (m : Memory) (b : Tbl Block) (c : Caches) (p : List Nat)
    (k : Option (List Nat)) : OnlyStored s { t with mem := m, blocks := b, caches := c, poison := p, tierKept := k } :=
  ⟨h.dies, h.rest⟩

theorem foldl {α : Type} {f : State → α → State} (step : ∀ t x, OnlyStored t (f t x)) (s : State) (l : List α) :
    OnlyStored s (l.foldl f s) :=
  foldl_preserves (P := OnlyStored s) (fun t x so => so.trans (step t x)) l (.refl s)

section
variable {s t : State} (h : OnlyStored s t)
include h

theorem warps : t.warps = s.warps := by have same := congrArg State.warps h.rest; exact same
theorem types : t.types = s.types := by have same := congrArg State.types h.rest; exact same
theorem tenants : t.tenants = s.tenants := by have same := congrArg State.tenants h.rest; exact same
theorem plat : t.plat = s.plat := by have same := congrArg State.plat h.rest; exact same
theorem part : t.part = s.part := by have same := congrArg State.part h.rest; exact same
theorem out : t.out = s.out := by have same := congrArg State.out h.rest; exact same
theorem keys : t.keys = s.keys := by have same := congrArg State.keys h.rest; exact same
theorem leaving : t.leaving = s.leaving := by have same := congrArg State.leaving h.rest; exact same
theorem admissions : t.admissions = s.admissions := by have same := congrArg State.admissions h.rest; exact same

theorem warpOf (k : Nat) : warpOf t k = Machine.warpOf s k := by rw [Machine.warpOf, h.warps]; rfl
theorem typeOf (f : Nat) : typeOf t f = Machine.typeOf s f := by rw [Machine.typeOf, h.types]; rfl
theorem tenantOf (k : Nat) : tenantOf t k = Machine.tenantOf s k := by rw [Machine.tenantOf, h.tenants]; rfl
theorem keyOf (k : Nat) : keyOf t k = Machine.keyOf s k := by rw [Machine.keyOf, h.keys]; rfl

theorem live (d : Nat) : (dieOf t d).live = (dieOf s d).live := by have same := congrArg Die.live (h.dies d); exact same
theorem gone (d : Nat) : (dieOf t d).out = (dieOf s d).out := by have same := congrArg Die.out (h.dies d); exact same
theorem tcbOf (d : Nat) : tcbOf t d = Machine.tcbOf s d := by have same := congrArg Die.tcb (h.dies d); exact same
theorem diesOf : diesOf t = Machine.diesOf s := by rw [Machine.diesOf, h.part]; rfl

theorem isTier (pa : Nat) : isTier t pa = Machine.isTier s pa := by
  unfold Machine.isTier; rw [h.part, h.plat]

theorem underKey (slot pa : Nat) : underKey t slot pa = Machine.underKey s slot pa := by
  rw [Machine.underKey, h.isTier, h.typeOf]; rfl

theorem hasType (f : Nat) : hasType t f = Machine.hasType s f := by
  have hbm : isHbm t (f * 65536) = isHbm s (f * 65536) := by unfold isHbm; rw [h.part]
  have row : hbmRow t (f * 65536) = hbmRow s (f * 65536) := by unfold hbmRow stackCount; rw [h.part]
  have host : inHostRegion t f = inHostRegion s f := by unfold inHostRegion; rw [h.tenants]
  unfold Machine.hasType
  dsimp only
  rw [hbm, row, host, h.isTier, h.isTier]

end

end OnlyStored

theorem noteAudit_stored (s : State) (k : Nat) (m m' : Memory) (a n : Nat) : OnlyStored s (noteAudit s k m m' a n) := by
  unfold noteAudit
  split
  · exact .refl s
  · refine ⟨fun d => ?_, rfl⟩
    rw [dieOf_setDie]
    split
    · next same => subst same; rfl
    · rfl

theorem noteLines_stored (s : State) (k : Nat) (m m' : Memory) (l : List SLine) : OnlyStored s (noteLines s k m m' l) := by
  unfold noteLines
  split
  · exact .refl s
  · exact .foldl (fun t x => noteAudit_stored t ..) _ _

theorem snoopBy_stored (own : Nat) (s : State) (skip : Option (Nat × Nat × Bool)) (a n : Nat) (drop : Bool) :
    OnlyStored s (snoopBy own s skip a n drop) :=
  (OnlyStored.foldl (fun t _ => noteLines_stored t ..) s _).rewritten ..

theorem dropLines_stored (s : State) (k : Nat) (p : SLine → Bool) (wb : Bool) : OnlyStored s (dropLines s k p wb) :=
  (noteLines_stored s k s.mem _ _).rewritten ..

theorem dropStale_stored (s : State) (a : Admission) (all : Bool) : OnlyStored s (dropStale s a all) :=
  .foldl (fun t _ => dropLines_stored t ..) s _

theorem dropKeyLines_stored (s : State) (slot : Nat) (wb : Bool) : OnlyStored s (dropKeyLines s slot wb) :=
  .foldl (fun t _ => dropLines_stored t ..) s _

theorem noteRings_stored (s : State) (a n : Nat) : OnlyStored s (noteRings s a n) := (OnlyStored.refl s).rewritten ..

theorem writeBytes_stored (s : State) (a : Nat) (d : List Byte) : OnlyStored s (writeBytes s a d) :=
  ((noteRings_stored s a d.length).trans (snoopBy_stored ..)).rewritten ..

theorem zeroFrame_stored (s : State) (f : Nat) : OnlyStored s (zeroFrame s f) := (OnlyStored.refl s).rewritten ..

theorem eraseFrame_stored (s : State) (f : Nat) : OnlyStored s (eraseFrame s f) := by
  unfold eraseFrame
  split
  · exact writeBytes_stored ..
  · exact zeroFrame_stored ..

/-! ### What a place holds -/

/-- No dirty line of a block that runs holds a byte of the range; the lines of a replay meet no other agent (R327). -/
def Unheld (s : State) (a n : Nat) : Prop :=
  ∀ e ∈ s.blocks, e.2.replay = false → ∀ l ∈ e.2.lines, l.dirty = true → a + n ≤ l.pa ∨ l.pa + 128 ≤ a

/-- An agent outside reads the value `v` in the `n` bytes from `a` on, in memory itself. -/
structure Holds (s : State) (a n v : Nat) : Prop where
  unheld : Unheld s a n
  value : s.mem.rd a n = v

theorem NoDirtyLine.unheld {s : State} {a n : Nat} (h : NoDirtyLine s a n) : Unheld s a n := fun e listed _ => h e listed

namespace Unheld

theorem within {s : State} {a n b m : Nat} (h : Unheld s a n) (low : a ≤ b) (high : b + m ≤ a + n) : Unheld s b m := by
  intro e listed run l line dirty
  have apart := h e listed run l line dirty
  omega

/-- Lines of a map over the blocks that leaves no new dirty line are where they were. -/
theorem map_blocks {s t : State} {a n : Nat} (h : Unheld s a n) {f : Nat → Block → Block}
    (blocks : t.blocks = s.blocks.map fun e => (e.1, f e.1 e.2)) (run : ∀ k b, (f k b).replay = b.replay)
    (fewer : ∀ k b, ∀ l ∈ (f k b).lines, l.dirty = true → l ∈ b.lines) : Unheld t a n := by
  intro e listed runs l line dirty
  rw [blocks] at listed
  obtain ⟨old, before, rfl⟩ := List.mem_map.mp listed
  exact h old before ((run ..).symm.trans runs) l (fewer _ _ l line dirty) dirty

/-- A snoop of bytes that no such line holds leaves every byte of memory. -/
theorem snoop_mem {s : State} {a n : Nat} (h : Unheld s a n) (drop : Bool) : (snoop s none a n drop).mem = s.mem := by
  refine foldl_keeps fun e listed => foldl_keeps fun l line => wbLine_clean s _ ?_
  obtain ⟨before, run⟩ := List.mem_filter.mp listed
  obtain ⟨line, hit⟩ := List.mem_filter.mp line
  simp only [snoopHit, Bool.and_eq_true, decide_eq_true_eq] at hit
  by_contra dirty
  have apart := h e before (by simpa using run) l line (by simpa using dirty)
  omega

theorem noteRings {s : State} {a n : Nat} (h : Unheld s a n) (b m : Nat) : Unheld (noteRings s b m) a n := by
  refine h.map_blocks (f := fun _ x => if hitsNotify s x b m then { x with ring := { x.ring with stored := true } } else x)
    rfl (fun _ _ => ?_) fun _ _ l line _ => ?_
  · dsimp only; split <;> rfl
  · split at line <;> exact line

theorem snoop {s : State} {a n : Nat} (h : Unheld s a n) (skip : Option (Nat × Nat × Bool)) (b m : Nat) (drop : Bool) :
    Unheld (snoop s skip b m drop) a n :=
  h.map_blocks (snoopBy_blocks 0 s skip b m drop) (snoopedBlock_replay 0 skip b m drop) (snoopedBlock_fewer 0 skip b m drop)

theorem writeBytes {s : State} {a n : Nat} (h : Unheld s a n) (b : Nat) (d : List Byte) : Unheld (writeBytes s b d) a n :=
  (h.noteRings b d.length).snoop none b d.length true

end Unheld

/-- What an outside agent has written, no line of a block that runs holds. -/
theorem unheld_snoop (s : State) (a n : Nat) : Unheld (snoop s none a n true) a n := by
  intro e listed run l line _
  rw [snoop, snoopBy_blocks] at listed
  obtain ⟨old, -, rfl⟩ := List.mem_map.mp listed
  have runs : old.2.replay = false := (snoopedBlock_replay ..).symm.trans run
  have missed : snoopHit none a n old.1 l = false := by
    unfold snoopedBlock at line
    split at line
    · simpa using (List.mem_filter.mp line).2
    · next none =>
      simp only [runs, Bool.not_false, Bool.true_and, List.any_eq_true, not_exists, not_and] at none
      simpa using none l line
  simp [snoopHit] at missed
  omega

theorem unheld_writeBytes (s : State) (a : Nat) (d : List Byte) : Unheld (writeBytes s a d) a d.length :=
  unheld_snoop (noteRings s a d.length) a d.length

theorem writeBytes_mem {s : State} {a : Nat} {d : List Byte} (h : Unheld s a d.length) :
    (writeBytes s a d).mem = Memory.writes s.mem a d :=
  congrArg (fun m => Memory.writes m a d) ((h.noteRings a d.length).snoop_mem true)

theorem Memory.reads_congr {m m' : Memory} {a n : Nat} (same : ∀ x, a ≤ x → x < a + n → Memory.byte m x = Memory.byte m' x) :
    m.reads a n = m'.reads a n := by
  refine List.map_congr_left fun i number => same (a + i) (by omega) ?_
  have := List.mem_range.mp number
  omega

/-- Bytes read within a run of writes are those written. -/
theorem Memory.reads_writes (m : Memory) (a : Nat) (d : List Byte) {i n : Nat} (within : i + n ≤ d.length) :
    (Memory.writes m a d).reads (a + i) n = (d.drop i).take n := by
  refine List.ext_getElem (by simp [Memory.reads]; omega) fun j read _ => ?_
  simp only [Memory.reads, List.length_map, List.length_range] at read
  simp only [Memory.reads, List.getElem_map, List.getElem_range, List.getElem_take, List.getElem_drop]
  rw [Memory.byte_writes, if_pos (by omega), show a + i + j - a = i + j by omega, List.getD_eq_getElem]

theorem leNat_leBytes (n v : Nat) : leNat (leBytes n v) = v % 256 ^ n := by
  induction n generalizing v with
  | zero => simp [leBytes, leNat, Nat.mod_one]
  | succ n ih =>
    rw [leBytes, leNat, ih, pow_succ, mul_comm (256 ^ n), Nat.mod_mul]
    simp

namespace Holds

theorem physGet {s : State} {a n v : Nat} (h : Holds s a n v) : physGet s a n = v := by
  rw [Machine.physGet, readBytes, h.unheld.snoop_mem]
  exact h.value

theorem congr {s t : State} {a n v : Nat} (h : Holds s a n v) (mem : t.mem = s.mem) (blocks : t.blocks = s.blocks) :
    Holds t a n v := ⟨by unfold Unheld; rw [blocks]; exact h.unheld, by rw [mem]; exact h.value⟩

/-- A write of other bytes that no line holds leaves it. -/
theorem writeBytes {s : State} {a n v : Nat} (h : Holds s a n v) {b : Nat} {d : List Byte} (unheld : Unheld s b d.length)
    (apart : a + n ≤ b ∨ b + d.length ≤ a) : Holds (writeBytes s b d) a n v := by
  refine ⟨h.unheld.writeBytes b d, ?_⟩
  rw [Memory.rd, writeBytes_mem unheld, ← h.value, Memory.rd]
  exact congrArg leNat (Memory.reads_congr fun x low high => Memory.byte_writes_out _ _ _ _ (by omega))

end Holds

/-- The bytes just written are there. -/
theorem writeBytes_holds (s : State) (a : Nat) (d : List Byte) {i n : Nat} (within : i + n ≤ d.length) :
    Holds (writeBytes s a d) (a + i) n (leNat ((d.drop i).take n)) :=
  ⟨(unheld_writeBytes s a d).within (by omega) (by omega), congrArg leNat (Memory.reads_writes _ a d within)⟩

theorem writeBytes_value_holds (s : State) (a n v : Nat) : Holds (writeBytes s a (leBytes n v)) a n (v % 256 ^ n) := by
  have written := writeBytes_holds s a (leBytes n v) (i := 0) (n := n) (by simp)
  rwa [List.drop_zero, List.take_of_length_le (by simp), leNat_leBytes] at written

/-! ### A frame of zeros -/

/-- What a drop of cached copies leaves of one block. -/
def droppedBlock (a n k : Nat) (b : Block) : Block :=
  if !b.replay && b.lines.any (snoopHit none a n k) then
    { b with
      lines := b.lines.filter fun l => !snoopHit none a n k l
      eligible := b.eligible && !(b.lines.any fun l => snoopHit none a n k l && b.slog.any fun e => e.1 == l.va) }
  else b

theorem zeroFrame_blocks (s : State) (f : Nat) : (zeroFrame s f).blocks =
    (noteRings s (f * 65536) 65536).blocks.map fun e => (e.1, droppedBlock (f * 65536) 65536 e.1 e.2) := rfl

theorem droppedBlock_replay (a n k : Nat) (b : Block) : (droppedBlock a n k b).replay = b.replay := by
  unfold droppedBlock
  split <;> rfl

theorem Unheld.zeroFrame {s : State} {a n : Nat} (h : Unheld s a n) (f : Nat) : Unheld (zeroFrame s f) a n := by
  refine (h.noteRings (f * 65536) 65536).map_blocks (zeroFrame_blocks s f) (droppedBlock_replay _ _) fun k b l line _ => ?_
  unfold droppedBlock at line
  split at line
  · exact (List.mem_filter.mp line).1
  · exact line

theorem unheld_zeroFrame (s : State) (f : Nat) : Unheld (zeroFrame s f) (f * 65536) 65536 := by
  intro e listed run l line _
  rw [zeroFrame_blocks] at listed
  obtain ⟨old, -, rfl⟩ := List.mem_map.mp listed
  have runs : old.2.replay = false := (droppedBlock_replay ..).symm.trans run
  have missed : snoopHit none (f * 65536) 65536 old.1 l = false := by
    unfold droppedBlock at line
    split at line
    · simpa using (List.mem_filter.mp line).2
    · next none =>
      simp only [runs, Bool.not_false, Bool.true_and, List.any_eq_true, not_exists, not_and] at none
      simpa using none l line
  simp [snoopHit] at missed
  omega

theorem leNat_zeros (n : Nat) : leNat (List.replicate n (0 : Byte)) = 0 := by
  induction n with
  | zero => rfl
  | succ n ih => rw [List.replicate_succ, leNat, ih]; rfl

theorem zeroFrame_holds (s : State) (f : Nat) {a n : Nat} (low : f * 65536 ≤ a) (high : a + n ≤ f * 65536 + 65536) :
    Holds (zeroFrame s f) a n 0 := by
  refine ⟨(unheld_zeroFrame s f).within low high, ?_⟩
  have zeros : (zeroFrame s f).mem.reads a n = List.replicate n 0 := by
    refine List.ext_getElem (by simp [Memory.reads]) fun i read _ => ?_
    simp only [Memory.reads, List.length_map, List.length_range] at read
    simp only [Memory.reads, List.getElem_map, List.getElem_range, List.getElem_replicate]
    exact (Memory.byte_zeroRange _ _ _ _).trans (if_pos (by simp only [frameBytes]; omega))
  rw [Memory.rd, zeros, leNat_zeros]

theorem Holds.zeroFrame {s : State} {a n v : Nat} (h : Holds s a n v) {f : Nat} (apart : a + n ≤ f * 65536 ∨ f * 65536 + 65536 ≤ a) :
    Holds (zeroFrame s f) a n v := by
  refine ⟨h.unheld.zeroFrame f, ?_⟩
  rw [← h.value, Memory.rd, Memory.rd]
  exact congrArg leNat (Memory.reads_congr fun x low high =>
    (Memory.byte_zeroRange _ _ _ _).trans (if_neg (by simp only [frameBytes]; omega)))

/-! ### Type entries -/

section
variable (ty owner world count gen key : Nat) (grant : Dword)

open BitVec in
theorem teType_mkType : teType (mkType ty owner world count gen key grant) = ty % 16 := by
  rw [teType, mkType, extractLsb'_append_eq_of_add_le (by decide), extractLsb'_eq_self, toNat_ofNat]

open BitVec in
theorem teOwner_mkType : teOwner (mkType ty owner world count gen key grant) = owner % 64 := by
  rw [teOwner, mkType, extractLsb'_append_eq_of_le (by decide), extractLsb'_append_eq_of_le (by decide),
    extractLsb'_append_eq_of_add_le (by decide), extractLsb'_eq_self, toNat_ofNat]

open BitVec in
theorem teWorld_mkType : teWorld (mkType ty owner world count gen key grant) = world % 256 := by
  rw [teWorld, mkType, extractLsb'_append_eq_of_le (by decide), extractLsb'_append_eq_of_le (by decide),
    extractLsb'_append_eq_of_le (by decide), extractLsb'_append_eq_of_add_le (by decide), extractLsb'_eq_self, toNat_ofNat]

open BitVec in
theorem teCount_mkType : teCount (mkType ty owner world count gen key grant) = count % 2 ^ 24 := by
  rw [teCount, mkType, extractLsb'_append_eq_of_le (by decide), extractLsb'_append_eq_of_le (by decide),
    extractLsb'_append_eq_of_le (by decide), extractLsb'_append_eq_of_le (by decide),
    extractLsb'_append_eq_of_add_le (by decide), extractLsb'_eq_self, toNat_ofNat]

end

theorem teCount_lt (v : BitVec 128) : teCount v < 2 ^ 24 := (v.extractLsb' 24 24).isLt

theorem typeOf_countAdd_ne (s : State) {f g : Nat} (n : Int) (other : g ≠ f) : typeOf (countAdd s f n) g = typeOf s g := by
  rw [countAdd, typeOf_setType, if_neg (Ne.symm other)]

theorem teCount_countAdd (s : State) (f : Nat) (n : Int) :
    teCount (typeOf (countAdd s f n) f) = ((teCount (typeOf s f) : Int) + n).toNat % 2 ^ 24 := by
  rw [countAdd, typeOf_setType_same, teSetCount, teCount_mkType]

theorem teCount_countAdd_one {s : State} {f : Nat} (room : teCount (typeOf s f) < 0xFFFFFF) :
    teCount (typeOf (countAdd s f 1) f) = teCount (typeOf s f) + 1 := by
  rw [teCount_countAdd]; omega

theorem teCount_countAdd_neg_one (s : State) (f : Nat) :
    teCount (typeOf (countAdd s f (-1)) f) = teCount (typeOf s f) - 1 := by
  have := teCount_lt (typeOf s f)
  rw [teCount_countAdd]; omega

end Sys2Proof.Machine
end

section
/-! SUPPORT. The replication of a change of the records (R330), and the records that it carries (R139, R147, R148, R191, R270, R276,
R291). -/

namespace Sys2Proof.Machine

/-! ### Replication -/

/-- The instances that acknowledge are told by the dies and the leader alone. -/
theorem ackers_congr {s u : State} (part : u.part = s.part) (leader : u.plat.leader = s.plat.leader)
    (live : ∀ d, (dieOf u d).live = (dieOf s d).live) (gone : ∀ d, (dieOf u d).out = (dieOf s d).out) : ackers u = ackers s := by
  unfold ackers diesOf
  simp only [part, leader, live, gone]

theorem OnlyStored.ackers {s t : State} (h : OnlyStored s t) : ackers t = Machine.ackers s :=
  ackers_congr h.part (by rw [h.plat]) h.live h.gone

/-- State `u` answers and replicates as `s` does. -/
structure SameLeader (s u : State) : Prop where
  ackers : ackers u = ackers s
  out : u.out = s.out
  plat : u.plat = s.plat

theorem OnlyStored.sameLeader {s t : State} (h : OnlyStored s t) : SameLeader s t := ⟨h.ackers, h.out, h.plat⟩

theorem SameLeader.trans {s t u : State} (h : SameLeader s t) (k : SameLeader t u) : SameLeader s u :=
  ⟨k.ackers.trans h.ackers, k.out.trans h.out, k.plat.trans h.plat⟩

/-- A closed change answers; the record of its tenant is marked anew. -/
theorem closeChange_eq (s : State) (k : Option Nat) (r : Reply) (l : List Nat) (x : Option TenRec) (y : List (Nat × World))
    (z : List (Nat × KeySlot)) : closeChange s ⟨k, some r, l, x, y, z⟩ = match k with
      | none => reply s r
      | some t => if s.plat.changes.any (fun c => c.tenant == some t) then reply s r
          else setTenant (reply s r) t { tenantOf s t with modified := false } := by
  cases k <;> rfl

/-- What a replicated change does beside the records: an answer or a pending change, and the mark of the tenant. -/
theorem announce_rest (s u : State) (k : Option Nat) (r : Reply) :
    { announce s u k r with out := u.out, plat := u.plat, tenants := u.tenants } = u := by
  unfold announce
  dsimp only
  split
  · unfold changeFrom
    rw [closeChange_eq]
    split
    · rfl
    · split <;> rfl
  · rfl

theorem announce_none_rest (s u : State) (r : Reply) : { announce s u none r with out := u.out, plat := u.plat } = u := by
  unfold announce
  dsimp only
  split <;> rfl

theorem announce_announced {s u : State} (same : SameLeader s u) (k : Option Nat) (r : Reply) :
    Announced k r s (announce s u k r) := by
  unfold announce
  dsimp only
  constructor
  · intro alone
    rw [if_pos (by simp [changeFrom, same.ackers, alone]), changeFrom, closeChange_eq, ← same.out, ← same.plat]
    cases k with
    | none => exact ⟨rfl, rfl⟩
    | some t => dsimp only; split <;> exact ⟨rfl, rfl⟩
  · intro waits
    rw [if_neg (by simpa [changeFrom, same.ackers] using waits)]
    refine ⟨same.out, ?_⟩
    rw [← same.plat, ← same.ackers]
    rfl

theorem tenantOf_announce_ne (s u : State) {k j : Nat} (r : Reply) (other : j ≠ k) :
    tenantOf (announce s u (some k) r) j = tenantOf u j := by
  unfold announce
  dsimp only
  split
  · unfold changeFrom
    rw [closeChange_eq]
    dsimp only
    split
    · rfl
    · rw [tenantOf_setTenant, if_neg (Ne.symm other)]; rfl
  · rfl

/-- A tenant whose record has changed stays marked while some change of it is not acknowledged. -/
theorem tenantOf_announce {s u : State} (same : SameLeader s u) {k : Nat} (r : Reply) (modified : (tenantOf u k).modified = true) :
    tenantOf (announce s u (some k) r) k = { tenantOf u k with modified := stillModified s k } := by
  have marked : { tenantOf u k with modified := true } = tenantOf u k := by rw [← modified]
  unfold announce stillModified
  dsimp only [changeFrom]
  rw [same.ackers]
  split
  · next alone =>
    rw [closeChange_eq, alone]
    dsimp only
    rw [same.plat]
    split
    · next more => rw [more]; exact marked.symm
    · next last => rw [tenantOf_setTenant_same, Bool.eq_false_iff.mpr last]; rfl
  · next waits => rw [Bool.eq_false_iff.mpr waits]; exact marked.symm

section
variable (s u : State) (k : Option Nat) (r : Reply)

theorem announce_warps : (announce s u k r).warps = u.warps := by
  have same := congrArg State.warps (announce_rest s u k r); exact same

theorem announce_types : (announce s u k r).types = u.types := by
  have same := congrArg State.types (announce_rest s u k r); exact same

theorem announce_mem : (announce s u k r).mem = u.mem := by
  have same := congrArg State.mem (announce_rest s u k r); exact same

theorem announce_blocks : (announce s u k r).blocks = u.blocks := by
  have same := congrArg State.blocks (announce_rest s u k r); exact same

theorem announce_admissions : (announce s u k r).admissions = u.admissions := by
  have same := congrArg State.admissions (announce_rest s u k r); exact same

theorem warpOf_announce (j : Nat) : warpOf (announce s u k r) j = warpOf u j := by rw [warpOf, announce_warps]; rfl

theorem typeOf_announce (f : Nat) : typeOf (announce s u k r) f = typeOf u f := by rw [typeOf, announce_types]; rfl

theorem Holds.announce {s u : State} {k : Option Nat} {r : Reply} {a n v : Nat} (h : Holds u a n v) : Holds (announce s u k r) a n v :=
  h.congr (announce_mem ..) (announce_blocks ..)

end

theorem tenantOf_changeTenant_same (s : State) (k : Nat) (x : Tenant) : tenantOf (changeTenant s k x) k = { x with modified := true } :=
  tenantOf_setTenant_same ..

theorem tenantOf_changeTenant_ne (s : State) {k j : Nat} (x : Tenant) (other : j ≠ k) : tenantOf (changeTenant s k x) j = tenantOf s j :=
  (tenantOf_setTenant ..).trans (if_neg (Ne.symm other))

theorem sameLeader_changeTenant (s : State) (k : Nat) (x : Tenant) : SameLeader s (changeTenant s k x) := ⟨rfl, rfl, rfl⟩

/-- A changed record of one tenant is accepted. -/
theorem tenantAccepted_of {i : Instr} {k v : Nat} {x : Tenant} {s : State}
    (exec : exec i s = .next (announce s (changeTenant s k x) (some k) (.accepted k v))) : TenantAccepted i k v x s := by
  have same := sameLeader_changeTenant s k x
  have now := tenantOf_changeTenant_same s k x
  refine ⟨_, exec, ?_, announce_announced same .., fun j other => ?_, ?_⟩
  · rw [tenantOf_announce same _ (by rw [now]), now]
  · exact (tenantOf_announce_ne _ _ _ other).trans (tenantOf_changeTenant_ne _ _ other)
  · have rest := congrArg (fun u : State => { u with tenants := s.tenants }) (announce_rest s (changeTenant s k x) (some k) (.accepted k v))
    exact rest

/-! ### Scheduling, isolation and queue tables -/

theorem isTenant_iff {t : Nat} : isTenant t = true ↔ t < 64 := decide_eq_true_iff

theorem isTenant_eq_false {t : Nat} : isTenant t = false ↔ 64 ≤ t := by simp [isTenant]

theorem quantumOf_eq_zero {v : BitVec 128} : quantumOf v = 0 ↔ v.extractLsb' 56 20 = 0#20 :=
  ⟨fun zero => BitVec.eq_of_toNat_eq zero, fun zero => congrArg BitVec.toNat zero⟩

/-- The fields of a scheduling record as it reads back. -/
structure ReadsBack (s : State) (v r : BitVec 128) : Prop where
  groups : r.extractLsb' 0 20 = v.extractLsb' 0 20
  reserved : r.extractLsb' 20 20 = 0#20
  weight : r.extractLsb' 40 16 = v.extractLsb' 40 16
  quantum : r.extractLsb' 56 20 = BitVec.ofNat 20 (effectiveQuantum s v)
  limit : r.extractLsb' 76 20 = v.extractLsb' 76 20
  save : r.extractLsb' 96 32 = v.extractLsb' 96 32

open BitVec in
theorem schedRecord_readsBack (s : State) (v : BitVec 128) : ReadsBack s v (schedRecord s v) where
  groups := by rw [schedRecord, extractLsb'_append_eq_of_add_le (by decide), extractLsb'_eq_self]
  reserved := by
    rw [schedRecord, extractLsb'_append_eq_of_le (by decide), extractLsb'_append_eq_of_add_le (by decide), extractLsb'_eq_self]
  weight := by
    rw [schedRecord, extractLsb'_append_eq_of_le (by decide), extractLsb'_append_eq_of_le (by decide),
      extractLsb'_append_eq_of_add_le (by decide), extractLsb'_eq_self]
  quantum := by
    rw [schedRecord, extractLsb'_append_eq_of_le (by decide), extractLsb'_append_eq_of_le (by decide),
      extractLsb'_append_eq_of_le (by decide), extractLsb'_append_eq_of_add_le (by decide), extractLsb'_eq_self]
  limit := by
    rw [schedRecord, extractLsb'_append_eq_of_le (by decide), extractLsb'_append_eq_of_le (by decide),
      extractLsb'_append_eq_of_le (by decide), extractLsb'_append_eq_of_le (by decide),
      extractLsb'_append_eq_of_add_le (by decide), extractLsb'_eq_self]
  save := by
    rw [schedRecord, extractLsb'_append_eq_of_le (by decide), extractLsb'_append_eq_of_le (by decide),
      extractLsb'_append_eq_of_le (by decide), extractLsb'_append_eq_of_le (by decide),
      extractLsb'_append_eq_of_le (by decide), extractLsb'_eq_self]

theorem schedRecordWrite_rejects {s : State} {tn : Nat} {v : BitVec 128} (bad : 64 ≤ tn ∨ v.extractLsb' 56 20 = 0#20) :
    OnlyReplies (.schedRecordWrite tn v) (.error tn) s := by
  rw [← isTenant_eq_false, ← quantumOf_eq_zero] at bad
  exact congrArg Host.Outcome.next (if_pos bad)

theorem schedRecordWrite_accepts {s : State} {tn : Nat} {v : BitVec 128} (tenant : tn < 64) (some : v.extractLsb' 56 20 ≠ 0#20) :
    TenantAccepted (.schedRecordWrite tn v) tn (effectiveQuantum s v % 2 ^ 20) { tenantOf s tn with sched := schedRecord s v } s := by
  refine tenantAccepted_of (congrArg Host.Outcome.next ((if_neg ?_).trans ?_))
  · rw [isTenant_eq_false, quantumOf_eq_zero]
    exact not_or.mpr ⟨by omega, some⟩
  · have quantum : quantumOf (schedRecord s v) = effectiveQuantum s v % 2 ^ 20 := by
      rw [quantumOf, (schedRecord_readsBack s v).quantum, BitVec.toNat_ofNat]
    rw [← quantum]

theorem isolationRecordWrite_rejects {s : State} {tn : Nat} {v : BitVec 64}
    (bad : 64 ≤ tn ∨ (v.extractLsb' 56 8 ≠ (tenantOf s tn).world ∧ ownsFrame s tn = true)) :
    OnlyReplies (.isolationRecordWrite tn v) (.error tn) s := by
  rw [← isTenant_eq_false] at bad
  exact congrArg Host.Outcome.next (if_pos bad)

theorem isolationRecordWrite_accepts {s : State} {tn : Nat} {v : BitVec 64} (tenant : tn < 64)
    (good : v.extractLsb' 56 8 = (tenantOf s tn).world ∨ ownsFrame s tn = false) : TenantAccepted (.isolationRecordWrite tn v) tn 0
      { tenantOf s tn with world := v.extractLsb' 56 8, slotmask := v.extractLsb' 32 16 } s := by
  refine tenantAccepted_of (congrArg Host.Outcome.next (if_neg ?_))
  rw [isTenant_eq_false]
  rintro (high | ⟨moved, owns⟩)
  · omega
  · exact good.elim moved fun none => by rw [owns] at none; cases none

end Sys2Proof.Machine
end

section
/-! SUPPORT. What Headland tells the Tidemarks of a tenant (R341), and a tenant's queue table, root and host regions (R139, R191, R276,
R291). -/

namespace Sys2Proof.Machine

/-! ### The control blocks -/

/-- What the control block of a die is told of a tenant: its doorbell frame, queue table and journal frame. -/
def toldBytes (x : Tenant) : List Byte := leBytes 8 (x.dbell * 65536) ++ leBytes 8 x.qtab ++ leBytes 8 (x.jframe * 65536)

@[simp] theorem toldBytes_length (x : Tenant) : (toldBytes x).length = 24 := by simp [toldBytes]

/-- The Tidemark of one die is told of a tenant. -/
def tellDie (x : Tenant) (s : State) (d : Nat) : State :=
  if tcbOf s d = 0 then s else writeBytes s (tcbOf s d + 8) (toldBytes x)

theorem tellTenant_eq (s : State) (k : Nat) :
    tellTenant s k = (List.range (diesOf s)).foldl (tellDie (tenantOf s k)) s := rfl

theorem tellDie_stored (x : Tenant) (s : State) (d : Nat) : OnlyStored s (tellDie x s d) := by
  unfold tellDie
  split
  · exact .refl s
  · exact writeBytes_stored ..

theorem tellTenant_stored (s : State) (k : Nat) : OnlyStored s (tellTenant s k) := .foldl (tellDie_stored _) s _

theorem tellTenant_of_none {s : State} (none : ∀ d, d < diesOf s → tcbOf s d = 0) (k : Nat) : tellTenant s k = s :=
  foldl_keeps fun d listed => if_pos (none d (List.mem_range.mp listed))

/-- No line of a block that runs holds a byte of what is told. -/
def TcbsUnheld (s u : State) : Prop := ∀ d, d < diesOf s → tcbOf s d ≠ 0 → Unheld u (tcbOf s d + 8) 24

theorem TcbsUnheld.tellDie {s u : State} (h : TcbsUnheld s u) (x : Tenant) (d : Nat) : TcbsUnheld s (tellDie x u d) := by
  intro j die block
  unfold Machine.tellDie
  split
  · exact h j die block
  · exact (h j die block).writeBytes _ _

/-- What is told leaves the value of a place apart from it. -/
theorem Holds.foldl_tellDie {s u : State} {a n v : Nat} (x : Tenant) {l : List Nat} (dies : ∀ d ∈ l, d < diesOf s)
    (apart : ∀ d ∈ l, tcbOf s d ≠ 0 → a + n ≤ tcbOf s d + 8 ∨ tcbOf s d + 32 ≤ a) (stored : OnlyStored s u)
    (unheld : TcbsUnheld s u) (h : Holds u a n v) : Holds (l.foldl (tellDie x) u) a n v := by
  induction l generalizing u with
  | nil => exact h
  | cons d l ih =>
    refine ih (fun j listed => dies j (List.mem_cons_of_mem _ listed)) (fun j listed => apart j (List.mem_cons_of_mem _ listed))
      (stored.trans (tellDie_stored x u d)) (unheld.tellDie x d) ?_
    unfold tellDie
    rw [stored.tcbOf]
    split
    · exact h
    · next block =>
      have away := apart d List.mem_cons_self block
      refine h.writeBytes ?_ (by rw [toldBytes_length]; omega)
      rw [toldBytes_length]
      exact unheld d (dies d List.mem_cons_self) block

/-- The control block of a die, at `b`, says what the record `x` says of its tenant. -/
structure BlockTold (x : Tenant) (b : Nat) (s : State) : Prop where
  dbell : Holds s (b + 8) 8 (x.dbell * 65536 % 2 ^ 64)
  qtab : Holds s (b + 0x10) 8 (x.qtab % 2 ^ 64)
  jframe : Holds s (b + 0x18) 8 (x.jframe * 65536 % 2 ^ 64)

theorem leNat_leBytes_eight (v : Nat) : leNat (leBytes 8 v) = v % 2 ^ 64 := by rw [leNat_leBytes]; norm_num

theorem writeBytes_told (x : Tenant) (s : State) (b : Nat) : BlockTold x b (writeBytes s (b + 8) (toldBytes x)) where
  dbell := by
    have word := writeBytes_holds s (b + 8) (toldBytes x) (i := 0) (n := 8) (by simp)
    rw [show ((toldBytes x).drop 0).take 8 = leBytes 8 (x.dbell * 65536) by simp [toldBytes], leNat_leBytes_eight] at word
    exact word
  qtab := by
    have word := writeBytes_holds s (b + 8) (toldBytes x) (i := 8) (n := 8) (by simp)
    rw [show ((toldBytes x).drop 8).take 8 = leBytes 8 x.qtab by simp [toldBytes], leNat_leBytes_eight] at word
    exact word
  jframe := by
    have word := writeBytes_holds s (b + 8) (toldBytes x) (i := 16) (n := 8) (by simp)
    rw [show ((toldBytes x).drop 16).take 8 = leBytes 8 (x.jframe * 65536) by
      rw [toldBytes, List.drop_left' (by simp), List.take_of_length_le (by simp)], leNat_leBytes_eight] at word
    exact word

/-- The control block of a die that no other meets is told of the tenant. -/
theorem tellTenant_told {s : State} {k d : Nat} (die : d < diesOf s) (block : tcbOf s d ≠ 0) (unheld : TcbsUnheld s s)
    (apart : ∀ j, j < diesOf s → tcbOf s j ≠ 0 → j ≠ d → tcbOf s j + 24 ≤ tcbOf s d ∨ tcbOf s d + 24 ≤ tcbOf s j) :
    BlockTold (tenantOf s k) (tcbOf s d) (tellTenant s k) := by
  obtain ⟨l, m, split⟩ := List.append_of_mem (List.mem_range.mpr die)
  have once : d ∉ m := by
    have distinct : (l ++ d :: m).Nodup := split ▸ List.nodup_range
    exact (List.nodup_cons.mp (List.nodup_append.mp distinct).2.1).1
  have dies (j : Nat) (listed : j ∈ m) : j < diesOf s := List.mem_range.mp (split ▸ by simp [listed])
  obtain ⟨stored, clear⟩ : OnlyStored s (l.foldl (tellDie (tenantOf s k)) s) ∧ TcbsUnheld s (l.foldl (tellDie (tenantOf s k)) s) :=
    ⟨.foldl (tellDie_stored _) s l, foldl_preserves (fun _ _ h => h.tellDie _ _) l unheld⟩
  rw [tellTenant_eq, split, List.foldl_append, List.foldl_cons]
  have told : BlockTold (tenantOf s k) (tcbOf s d) (tellDie (tenantOf s k) (l.foldl (tellDie (tenantOf s k)) s) d) := by
    rw [tellDie, stored.tcbOf, if_neg block]
    exact writeBytes_told ..
  have keeps {a v : Nat} (low : tcbOf s d + 8 ≤ a) (high : a + 8 ≤ tcbOf s d + 32)
      (h : Holds (tellDie (tenantOf s k) (l.foldl (tellDie (tenantOf s k)) s) d) a 8 v) :
      Holds (m.foldl (tellDie (tenantOf s k)) (tellDie (tenantOf s k) (l.foldl (tellDie (tenantOf s k)) s) d)) a 8 v := by
    refine h.foldl_tellDie _ dies (fun j listed other => ?_) (stored.trans (tellDie_stored ..)) (clear.tellDie _ _)
    have := apart j (dies j listed) other fun same => once (same ▸ listed)
    omega
  exact ⟨keeps (by omega) (by omega) told.dbell, keeps (by omega) (by omega) told.qtab, keeps (by omega) (by omega) told.jframe⟩

/-- A replicated state in which the Tidemarks have been told of a tenant. -/
theorem told_of_tellTenant {s u t : State} {k : Nat} (dies : diesOf u = diesOf s) (tcbs : ∀ d, tcbOf u d = tcbOf s d)
    (unheld : ∀ d, d < diesOf s → tcbOf s d ≠ 0 → NoDirtyLine s (tcbOf s d + 8) 24 → Unheld u (tcbOf s d + 8) 24)
    (mem : t.mem = (tellTenant u k).mem) (lines : t.blocks = (tellTenant u k).blocks)
    (dbell : (tenantOf t k).dbell = (tenantOf u k).dbell) (qtab : (tenantOf t k).qtab = (tenantOf u k).qtab)
    (jframe : (tenantOf t k).jframe = (tenantOf u k).jframe) : Told s t k := by
  intro d die block clear
  have told : BlockTold (tenantOf u k) (tcbOf u d) (tellTenant u k) := by
    refine tellTenant_told (by rwa [dies]) (by rwa [tcbs]) (fun j number other => ?_) fun j number other away => ?_
    · rw [tcbs] at other ⊢
      rw [dies] at number
      exact unheld j number other (clear j number other).1
    · rw [tcbs] at other ⊢
      rw [dies] at number
      rw [tcbs]
      exact (clear j number other).2 away
  rw [dbell, qtab, jframe, ← tcbs]
  exact ⟨(told.dbell.congr mem lines).physGet, (told.qtab.congr mem lines).physGet, (told.jframe.congr mem lines).physGet⟩

/-! ### Queue tables -/

/-- The tenant whose queue table is set, told to the Tidemarks. -/
def queueTableTold (s : State) (tn addr : Nat) : State :=
  tellTenant (changeTenant s tn { tenantOf s tn with qtab := addr }) tn

theorem queueTableWrite_rejects {s : State} {tn : Nat} (addr : Nat) (bad : 64 ≤ tn) :
    OnlyReplies (.queueTableWrite tn addr) (.error tn) s :=
  congrArg Host.Outcome.next (if_pos (isTenant_eq_false.mpr bad))

theorem exec_queueTableWrite {s : State} {tn : Nat} (addr : Nat) (tenant : tn < 64) : exec (.queueTableWrite tn addr) s =
    .next (announce s (queueTableTold s tn addr) (some tn) (.accepted tn 0)) :=
  congrArg Host.Outcome.next (if_neg (by simp [isTenant_eq_false, tenant]))

theorem queueTableWrite_accepts {s : State} {tn : Nat} (addr : Nat) (tenant : tn < 64)
    (none : ∀ d, d < diesOf s → tcbOf s d = 0) :
    TenantAccepted (.queueTableWrite tn addr) tn 0 { tenantOf s tn with qtab := addr } s := by
  refine tenantAccepted_of ((exec_queueTableWrite addr tenant).trans ?_)
  rw [queueTableTold, tellTenant_of_none]
  exact none

/-- What an accepted queue table leaves. -/
structure QueueTableSet (s : State) (tn addr : Nat) (t : State) : Prop where
  announced : Announced (some tn) (.accepted tn 0) s t
  warps : WarpsKept s t
  tenant : tenantOf t tn = { tenantOf s tn with qtab := addr, modified := stillModified s tn }
  others : ∀ k, k ≠ tn → tenantOf t k = tenantOf s k
  told : Told s t tn

theorem queueTableTold_set (s : State) (tn addr : Nat) :
    QueueTableSet s tn addr (announce s (queueTableTold s tn addr) (some tn) (.accepted tn 0)) := by
  have stored : OnlyStored (changeTenant s tn { tenantOf s tn with qtab := addr }) (queueTableTold s tn addr) :=
    tellTenant_stored ..
  have same : SameLeader s (queueTableTold s tn addr) := (sameLeader_changeTenant ..).trans stored.sameLeader
  have now : tenantOf (queueTableTold s tn addr) tn = { tenantOf s tn with qtab := addr, modified := true } :=
    (stored.tenantOf tn).trans (tenantOf_changeTenant_same ..)
  have tenant : tenantOf (announce s (queueTableTold s tn addr) (some tn) (.accepted tn 0)) tn =
      { tenantOf s tn with qtab := addr, modified := stillModified s tn } := by
    rw [tenantOf_announce same _ (by rw [now]), now]
  refine ⟨announce_announced same .., fun k => (warpOf_announce ..).trans (stored.warpOf k), tenant, fun k other => ?_, ?_⟩
  · rw [tenantOf_announce_ne _ _ _ other, stored.tenantOf, tenantOf_changeTenant_ne _ _ other]
  · refine told_of_tellTenant (u := changeTenant s tn { tenantOf s tn with qtab := addr }) rfl (fun _ => rfl)
      (fun _ _ _ clear => clear.unheld) (announce_mem ..) (announce_blocks ..) ?_ ?_ ?_
    all_goals rw [tenant, tenantOf_changeTenant_same]

end Sys2Proof.Machine
end

section
/-! SUPPORT. Memory records and host regions (R191, R276, R291), worlds, key slots and link keys (R271, R288 to R290). -/

namespace Sys2Proof.Machine

/-! ### A move of ROOT -/

theorem countRoot_rest (s : State) (f : Nat) (n : Int) : { countRoot s f n with types := s.types } = s := by
  unfold countRoot
  split <;> rfl

theorem tenants_countRoot (s : State) (f : Nat) (n : Int) : (countRoot s f n).tenants = s.tenants := by
  have same := congrArg State.tenants (countRoot_rest s f n); exact same

theorem typeOf_countRoot_ne (s : State) {f g : Nat} (n : Int) (other : g ≠ f) : typeOf (countRoot s f n) g = typeOf s g := by
  unfold countRoot
  split
  · exact typeOf_countAdd_ne s n other
  · rfl

theorem countRoot_typed {s : State} {f : Nat} (typed : hasType s f = true) (n : Int) : countRoot s f n = countAdd s f n := if_pos typed

/-- A warp as a committed admission leaves its waits. -/
def spottedWarp (s : State) (a : Admission) (w : Warp) : Warp :=
  if (blockOf s w.blk).tenant = a.tenant then { w with split := w.split.map fun x => (x.1, staleSpot a x.2) } else w

theorem warpOf_staleSpots (s : State) (a : Admission) (k : Nat) : warpOf (staleSpots s a) k = spottedWarp s a (warpOf s k) :=
  Tbl.get_map (f := spottedWarp s a) (by unfold spottedWarp; split <;> rfl) s.warps k

/-- A warp but for the lines that its waits read. -/
def SpotsOnly (w v : Warp) : Prop :=
  { v with split := w.split } = w ∧ ∀ e, { entryOf v e with spot := (entryOf w e).spot } = entryOf w e

theorem spottedWarp_spotsOnly (s : State) (a : Admission) (w : Warp) : SpotsOnly w (spottedWarp s a w) := by
  unfold spottedWarp
  split
  · refine ⟨rfl, fun e => ?_⟩
    rw [show entryOf { w with split := w.split.map fun x => (x.1, staleSpot a x.2) } e = staleSpot a (entryOf w e) from
      Tbl.get_map rfl w.split e]
    rfl
  · exact ⟨rfl, fun _ => rfl⟩

/-- The state in which a tenant has a new ROOT, which is counted, and the move of the old one waits. -/
def rootLeft (s : State) (tn : Nat) (root : BitVec 32) : State :=
  setTenant { countRoot s root.toNat 1 with
    nextAdm := s.nextAdm + 1, admissions := s.admissions ++ [rootMove s tn (tenantOf s tn).root.toNat] } tn
    { tenantOf s tn with root := root }

theorem moveRoot_eq {s : State} {tn : Nat} {root : BitVec 32} (moved : root ≠ (tenantOf s tn).root) : moveRoot s tn root =
    staleSpots (dropStale (rootLeft s tn root) (rootMove s tn (tenantOf s tn).root.toNat) true)
      (rootMove s tn (tenantOf s tn).root.toNat) := if_neg moved

/-- What a move of ROOT leaves at once. -/
structure RootMoved (s : State) (tn : Nat) (root : BitVec 32) (t : State) : Prop where
  leader : SameLeader s t
  tenant : tenantOf t tn = { tenantOf s tn with root := root }
  others : ∀ k, k ≠ tn → tenantOf t k = tenantOf s k
  warps : ∀ k, SpotsOnly (warpOf s k) (warpOf t k)
  admissions : t.admissions = s.admissions ++ [rootMove s tn (tenantOf s tn).root.toNat]
  types : ∀ f, f ≠ root.toNat → typeOf t f = typeOf s f
  count : hasType s root.toNat = true → teCount (typeOf s root.toNat) < 0xFFFFFF →
    teCount (typeOf t root.toNat) = teCount (typeOf s root.toNat) + 1

theorem moveRoot_moved {s : State} {tn : Nat} {root : BitVec 32} (moved : root ≠ (tenantOf s tn).root) :
    RootMoved s tn root (moveRoot s tn root) := by
  rw [moveRoot_eq moved]
  have dropped := dropStale_stored (rootLeft s tn root) (rootMove s tn (tenantOf s tn).root.toNat) true
  have rest := countRoot_rest s root.toNat 1
  have typed (f : Nat) : typeOf (dropStale (rootLeft s tn root) (rootMove s tn (tenantOf s tn).root.toNat) true) f =
      typeOf (countRoot s root.toNat 1) f := dropped.typeOf f
  have leader : SameLeader s (rootLeft s tn root) := by
    have part := congrArg State.part rest
    have plat := congrArg State.plat rest
    have dies := congrArg State.dies rest
    have out := congrArg State.out rest
    have same (d : Nat) : dieOf (rootLeft s tn root) d = dieOf s d := congrArg (fun t => Tbl.get Die.blank t d) dies
    exact ⟨ackers_congr part (congrArg Platform.leader plat) (fun d => by rw [same]) fun d => by rw [same], out, plat⟩
  refine ⟨(leader.trans dropped.sameLeader).trans ⟨rfl, rfl, rfl⟩, ?_, fun k other => ?_, fun k => ?_, dropped.admissions, fun f other => ?_, fun has room => ?_⟩
  · exact (dropped.tenantOf tn).trans (tenantOf_setTenant_same ..)
  · refine (dropped.tenantOf k).trans ((tenantOf_setTenant ..).trans ((if_neg (Ne.symm other)).trans ?_))
    exact congrArg (fun t => Tbl.get Tenant.blank t k) (tenants_countRoot s root.toNat 1)
  · rw [warpOf_staleSpots, dropped.warpOf]
    have warps := congrArg State.warps rest
    have same : warpOf (rootLeft s tn root) k = warpOf s k := congrArg (fun t => Tbl.get Warp.blank t k) warps
    rw [same]
    exact spottedWarp_spotsOnly ..
  · exact (typed f).trans (typeOf_countRoot_ne s 1 other)
  · refine (congrArg teCount (typed root.toNat)).trans ?_
    rw [countRoot_typed has, teCount_countAdd_one room]

/-! ### Memory records -/

/-- A tenant with the fields of a memory record. -/
def memoryRecord (x : Tenant) (v : BitVec 128) : Tenant :=
  { x with
    root := v.extractLsb' 96 32, leaselim := BitVec.ofNat 13 (min 4096 (v.extractLsb' 32 13).toNat), waymask := v.extractLsb' 0 32 }

theorem memoryRecordWrite_rejects {s : State} {tn : Nat} (v : BitVec 128) (bad : 64 ≤ tn) :
    OnlyReplies (.memoryRecordWrite tn v) (.error tn) s :=
  congrArg Host.Outcome.next (if_pos (isTenant_eq_false.mpr bad))

theorem exec_memoryRecordWrite {s : State} {tn : Nat} (v : BitVec 128) (tenant : tn < 64) : exec (.memoryRecordWrite tn v) s =
    .next (announce s (changeTenant (moveRoot s tn (v.extractLsb' 96 32)) tn
      { tenantOf (moveRoot s tn (v.extractLsb' 96 32)) tn with
        leaselim := BitVec.ofNat 13 (min 4096 (v.extractLsb' 32 13).toNat), waymask := v.extractLsb' 0 32 }) (some tn)
      (.accepted tn 0)) :=
  congrArg Host.Outcome.next (if_neg (by simp [isTenant_eq_false, tenant]))

theorem memoryRecordWrite_accepts {s : State} {tn : Nat} {v : BitVec 128} (tenant : tn < 64)
    (stays : v.extractLsb' 96 32 = (tenantOf s tn).root) :
    TenantAccepted (.memoryRecordWrite tn v) tn 0 (memoryRecord (tenantOf s tn) v) s := by
  refine tenantAccepted_of ((exec_memoryRecordWrite v tenant).trans ?_)
  rw [show moveRoot s tn (v.extractLsb' 96 32) = s from if_pos stays, memoryRecord, stays]

/-- What a memory record that moves ROOT leaves. -/
structure RootWritten (s : State) (tn : Nat) (v : BitVec 128) (t : State) : Prop where
  announced : Announced (some tn) (.accepted tn 0) s t
  tenant : tenantOf t tn = { memoryRecord (tenantOf s tn) v with modified := stillModified s tn }
  others : ∀ k, k ≠ tn → tenantOf t k = tenantOf s k
  warps : ∀ k, SpotsOnly (warpOf s k) (warpOf t k)
  admissions : t.admissions = s.admissions ++ [rootMove s tn (tenantOf s tn).root.toNat]
  types : ∀ f, f ≠ (v.extractLsb' 96 32).toNat → typeOf t f = typeOf s f
  count : hasType s (v.extractLsb' 96 32).toNat = true → teCount (typeOf s (v.extractLsb' 96 32).toNat) < 0xFFFFFF →
    teCount (typeOf t (v.extractLsb' 96 32).toNat) = teCount (typeOf s (v.extractLsb' 96 32).toNat) + 1

theorem memoryRecordWrite_moves {s : State} {tn : Nat} {v : BitVec 128} (tenant : tn < 64)
    (moved : v.extractLsb' 96 32 ≠ (tenantOf s tn).root) :
    ∃ t, exec (.memoryRecordWrite tn v) s = .next t ∧ RootWritten s tn v t := by
  obtain ⟨leader, here, others, warps, admissions, types, count⟩ := moveRoot_moved moved
  refine ⟨_, exec_memoryRecordWrite v tenant, announce_announced (leader.trans (sameLeader_changeTenant ..)) .., ?_, fun k other => ?_,
    fun k => ?_, ?_, fun f other => ?_, fun has room => ?_⟩
  · rw [tenantOf_announce (leader.trans (sameLeader_changeTenant ..)) _ (by rw [tenantOf_changeTenant_same]),
      tenantOf_changeTenant_same, here]
    rfl
  · rw [tenantOf_announce_ne _ _ _ other, tenantOf_changeTenant_ne _ _ other, others k other]
  · rw [warpOf_announce]; exact warps k
  · rw [announce_admissions]; exact admissions
  · rw [typeOf_announce]; exact types f other
  · rw [typeOf_announce]; exact count has room

/-! ### Host regions -/

theorem mem_regionFrames {r : HostRegion} {f : Nat} : f ∈ regionFrames r ↔ r.first ≤ f ∧ f < r.first + r.len := by
  simp only [regionFrames, List.mem_map, List.mem_range]
  constructor
  · rintro ⟨i, number, rfl⟩; omega
  · rintro ⟨low, high⟩; exact ⟨f - r.first, by omega, by omega⟩

theorem foldl_setType_rest (e : BitVec 128) (l : List Nat) (s : State) :
    { l.foldl (fun u f => setType u f e) s with types := s.types } = s :=
  foldl_preserves (P := fun t : State => { t with types := s.types } = s) (by exact fun _ _ same => same) l rfl

theorem typeOf_foldl_setType (e : BitVec 128) (l : List Nat) (s : State) (f : Nat) :
    typeOf (l.foldl (fun u f => setType u f e) s) f = if f ∈ l then e else typeOf s f := by
  induction l generalizing s with
  | nil => rfl
  | cons j l ih =>
    rw [List.foldl_cons, ih, typeOf_setType]
    by_cases same : j = f
    · subst same; simp
    · simp [same, Ne.symm same]

/-- Frames that all get one type entry leave the leader as it was. -/
theorem sameLeader_foldl_setType (e : BitVec 128) (l : List Nat) (s : State) :
    SameLeader s (l.foldl (fun u f => setType u f e) s) :=
  foldl_preserves (P := SameLeader s) (by exact fun _ _ same => ⟨same.ackers, same.out, same.plat⟩) l ⟨rfl, rfl, rfl⟩

theorem tenantOf_foldl_setType (e : BitVec 128) (l : List Nat) (s : State) (k : Nat) :
    tenantOf (l.foldl (fun u f => setType u f e) s) k = tenantOf s k :=
  foldl_preserves (P := fun t => tenantOf t k = tenantOf s k) (by exact fun _ _ same => same) l rfl

theorem hostRegionAdd_rejects {s : State} {tn i first len type : Nat} (grant : BitVec 64)
    (bad : hostRegionBad s tn i first len type = true) : OnlyReplies (.hostRegionAdd tn i first len type grant) (.error tn) s :=
  congrArg Host.Outcome.next (if_pos bad)

/-- What a host region given to a tenant leaves. -/
structure RegionAdded (s : State) (tn i : Nat) (r : HostRegion) (e : BitVec 128) (t : State) : Prop where
  tenant : tenantOf t tn = { tenantOf s tn with hosts := Tbl.set (tenantOf s tn).hosts i r, modified := stillModified s tn }
  inside : ∀ f, r.first ≤ f → f < r.first + r.len → typeOf t f = e
  outside : ∀ f, (f < r.first ∨ r.first + r.len ≤ f) → typeOf t f = typeOf s f
  announced : Announced (some tn) (.accepted tn 0) s t
  rest : OnlyTenant tn s { t with types := s.types, out := s.out, plat := s.plat }

/-- The state in which a tenant has a region, whose frames have the type entry `e`. -/
def regionGiven (s : State) (tn i : Nat) (r : HostRegion) (e : BitVec 128) : State :=
  (regionFrames r).foldl (fun u f => setType u f e)
    (changeTenant s tn { tenantOf s tn with hosts := Tbl.set (tenantOf s tn).hosts i r })

theorem regionGiven_added (s : State) (tn i : Nat) (r : HostRegion) (e : BitVec 128) :
    RegionAdded s tn i r e (announce s (regionGiven s tn i r e) (some tn) (.accepted tn 0)) := by
  have leader : SameLeader s (regionGiven s tn i r e) := (sameLeader_changeTenant ..).trans (sameLeader_foldl_setType ..)
  have here : tenantOf (regionGiven s tn i r e) tn = { tenantOf s tn with hosts := Tbl.set (tenantOf s tn).hosts i r, modified := true } :=
    (tenantOf_foldl_setType ..).trans (tenantOf_changeTenant_same ..)
  refine ⟨?_, fun f low high => ?_, fun f away => ?_, announce_announced leader .., fun j other => ?_, ?_⟩
  · rw [tenantOf_announce leader _ (by rw [here]), here]
  · rw [typeOf_announce, regionGiven, typeOf_foldl_setType, if_pos (mem_regionFrames.mpr ⟨low, high⟩)]
  · rw [typeOf_announce, regionGiven, typeOf_foldl_setType, if_neg (by rw [mem_regionFrames]; omega)]; rfl
  · exact (tenantOf_announce_ne _ _ _ other).trans ((tenantOf_foldl_setType ..).trans (tenantOf_changeTenant_ne _ _ other))
  · have announced := congrArg (fun u : State => { u with types := s.types, tenants := s.tenants, out := s.out, plat := s.plat })
      (announce_rest s (regionGiven s tn i r e) (some tn) (.accepted tn 0))
    have typed := congrArg (fun u : State => { u with tenants := s.tenants, out := s.out, plat := s.plat })
      (foldl_setType_rest e (regionFrames r) (changeTenant s tn { tenantOf s tn with hosts := Tbl.set (tenantOf s tn).hosts i r }))
    exact announced.trans typed

theorem hostRegionAdd_accepts {s : State} {tn i first len type : Nat} (grant : BitVec 64)
    (good : hostRegionBad s tn i first len type = false) : ∃ t, exec (.hostRegionAdd tn i first len type grant) s = .next t ∧
      RegionAdded s tn i ⟨first, len, type, grant⟩
        (mkType type tn (tenantOf s tn).world.toNat 0 0 0 (if type = 7 then grant else 0)) t :=
  ⟨_, congrArg Host.Outcome.next (if_neg (Bool.eq_false_iff.mp good)), regionGiven_added ..⟩

/-- A frame of the region is counted. -/
def RegionCounted (s : State) (r : HostRegion) : Prop := ∃ f, r.first ≤ f ∧ f < r.first + r.len ∧ teCount (typeOf s f) ≠ 0

theorem any_counted_iff {s : State} {r : HostRegion} :
    ((regionFrames r).any fun f => teCount (typeOf s f) != 0) = true ↔ RegionCounted s r := by
  simp only [List.any_eq_true, mem_regionFrames, bne_iff_ne, RegionCounted, and_assoc]

theorem hostRegionRemove_rejects {s : State} {tn i : Nat}
    (bad : (Tbl.get ⟨0, 0, 0, 0⟩ (tenantOf s tn).hosts i).len = 0 ∨ RegionCounted s (Tbl.get ⟨0, 0, 0, 0⟩ (tenantOf s tn).hosts i)) :
    OnlyReplies (.hostRegionRemove tn i) (.error tn) s := by
  rw [← any_counted_iff] at bad
  exact congrArg Host.Outcome.next (if_pos bad)

/-- What a host region taken from a tenant leaves. -/
structure RegionRemoved (s : State) (tn i : Nat) (r : HostRegion) (t : State) : Prop where
  tenant : tenantOf t tn = { tenantOf s tn with hosts := Tbl.del (tenantOf s tn).hosts i, modified := stillModified s tn }
  inside : ∀ f, r.first ≤ f → f < r.first + r.len → typeOf t f = 0
  outside : ∀ f, (f < r.first ∨ r.first + r.len ≤ f) → typeOf t f = typeOf s f
  announced : Announced (some tn) (.accepted tn 0) s t

/-- The state in which a tenant has a region no longer. -/
def regionTaken (s : State) (tn i : Nat) (r : HostRegion) : State :=
  changeTenant ((regionFrames r).foldl (fun u f => setType u f 0) s) tn
    { tenantOf s tn with hosts := Tbl.del (tenantOf s tn).hosts i }

theorem regionTaken_removed (s : State) (tn i : Nat) (r : HostRegion) :
    RegionRemoved s tn i r (announce s (regionTaken s tn i r) (some tn) (.accepted tn 0)) := by
  have leader : SameLeader s (regionTaken s tn i r) := (sameLeader_foldl_setType ..).trans (sameLeader_changeTenant ..)
  have here : tenantOf (regionTaken s tn i r) tn = { tenantOf s tn with hosts := Tbl.del (tenantOf s tn).hosts i, modified := true } :=
    tenantOf_changeTenant_same ..
  have typed (f : Nat) : typeOf (regionTaken s tn i r) f = if f ∈ regionFrames r then 0 else typeOf s f := typeOf_foldl_setType ..
  refine ⟨?_, fun f low high => ?_, fun f away => ?_, announce_announced leader ..⟩
  · rw [tenantOf_announce leader _ (by rw [here]), here]
  · rw [typeOf_announce, typed, if_pos (mem_regionFrames.mpr ⟨low, high⟩)]
  · rw [typeOf_announce, typed, if_neg (by rw [mem_regionFrames]; omega)]

theorem hostRegionRemove_accepts {s : State} {tn i : Nat} (given : (Tbl.get ⟨0, 0, 0, 0⟩ (tenantOf s tn).hosts i).len ≠ 0)
    (free : ¬ RegionCounted s (Tbl.get ⟨0, 0, 0, 0⟩ (tenantOf s tn).hosts i)) : ∃ t, exec (.hostRegionRemove tn i) s = .next t ∧
      RegionRemoved s tn i (Tbl.get ⟨0, 0, 0, 0⟩ (tenantOf s tn).hosts i) t := by
  rw [← any_counted_iff] at free
  exact ⟨_, congrArg Host.Outcome.next (if_neg (not_or.mpr ⟨given, free⟩)), regionTaken_removed ..⟩

/-! ### Worlds -/

theorem worldCreate_rejects {s : State} {wd slot tn : Nat} (roster : BitVec 64) (bad : wd = 0 ∨ 255 < wd ∨ (worldOf s wd).live = true ∨
    slot = 0 ∨ 255 < slot ∨ (keyOf s slot).state ≠ .empty ∨ 64 ≤ tn) :
    OnlyReplies (.worldCreate wd roster slot tn) (.error wd) s := by
  rw [← isTenant_eq_false] at bad
  exact congrArg Host.Outcome.next (if_pos bad)

/-- What a new world leaves. -/
structure WorldCreated (s : State) (wd : Nat) (roster : BitVec 64) (slot tn : Nat) (t : State) : Prop where
  world : worldOf t wd = ⟨true, roster⟩
  key : keyOf t slot = ⟨.active, tn, none⟩
  keys : ∀ k, k ≠ slot → keyOf t k = keyOf s k
  worlds : ∀ k, k ≠ wd → worldOf t k = worldOf s k
  announced : Announced none (.accepted wd 0) s t
  rest : { t with worlds := s.worlds, keys := s.keys, out := s.out, plat := s.plat } = s

theorem keyOf_setKey (s : State) (k j : Nat) (x : KeySlot) : keyOf (setKey s k x) j = if k = j then x else keyOf s j := Tbl.get_set ..

theorem worldOf_announce (s u : State) (k : Option Nat) (r : Reply) (j : Nat) : worldOf (announce s u k r) j = worldOf u j := by
  have same := congrArg (fun t => worldOf t j) (announce_rest s u k r); exact same

theorem keyOf_announce (s u : State) (k : Option Nat) (r : Reply) (j : Nat) : keyOf (announce s u k r) j = keyOf u j := by
  have same := congrArg (fun t => keyOf t j) (announce_rest s u k r); exact same

/-- The state with a world, or with its new roster. -/
def rostered (s : State) (wd : Nat) (roster : BitVec 64) : State := { s with worlds := Tbl.set s.worlds wd ⟨true, roster⟩ }

theorem worldOf_rostered (s : State) (wd : Nat) (roster : BitVec 64) (k : Nat) :
    worldOf (rostered s wd roster) k = if wd = k then ⟨true, roster⟩ else worldOf s k := Tbl.get_set ..

theorem worldCreate_accepts {s : State} {wd slot tn : Nat} (roster : BitVec 64) (good : ¬ (wd = 0 ∨ 255 < wd ∨
    (worldOf s wd).live = true ∨ slot = 0 ∨ 255 < slot ∨ (keyOf s slot).state ≠ .empty ∨ 64 ≤ tn)) :
    ∃ t, exec (.worldCreate wd roster slot tn) s = .next t ∧ WorldCreated s wd roster slot tn t := by
  rw [← isTenant_eq_false] at good
  refine ⟨announce s (setKey (rostered s wd roster) slot ⟨.active, tn, none⟩) none (.accepted wd 0),
    congrArg Host.Outcome.next (if_neg good), ?_, ?_, fun k other => ?_, fun k other => ?_, announce_announced (by exact ⟨rfl, rfl, rfl⟩) .., ?_⟩
  · exact (worldOf_announce ..).trans ((worldOf_rostered ..).trans (if_pos rfl))
  · exact (keyOf_announce ..).trans ((keyOf_setKey ..).trans (if_pos rfl))
  · exact (keyOf_announce ..).trans ((keyOf_setKey ..).trans (if_neg (Ne.symm other)))
  · exact (worldOf_announce ..).trans ((worldOf_rostered ..).trans (if_neg (Ne.symm other)))
  · have rest := congrArg (fun u : State => { u with worlds := s.worlds, keys := s.keys })
      (announce_none_rest s (setKey (rostered s wd roster) slot ⟨.active, tn, none⟩) (.accepted wd 0))
    exact rest

theorem rosterWrite_rejects {s : State} {wd : Nat} (roster : BitVec 64) (dead : (worldOf s wd).live = false) :
    OnlyReplies (.rosterWrite wd roster) (.error wd) s := congrArg Host.Outcome.next (if_pos dead)

/-- What a new roster leaves. -/
structure RosterWritten (s : State) (wd : Nat) (roster : BitVec 64) (t : State) : Prop where
  world : worldOf t wd = ⟨true, roster⟩
  worlds : ∀ k, k ≠ wd → worldOf t k = worldOf s k
  announced : Announced none (.accepted wd 0) s t
  rest : { t with worlds := s.worlds, out := s.out, plat := s.plat } = s

theorem rosterWrite_accepts {s : State} {wd : Nat} (roster : BitVec 64) (live : (worldOf s wd).live = true) :
    ∃ t, exec (.rosterWrite wd roster) s = .next t ∧ RosterWritten s wd roster t := by
  refine ⟨announce s (rostered s wd roster) none (.accepted wd 0), congrArg Host.Outcome.next (if_neg (by simp [live])), ?_,
    fun k other => ?_, announce_announced (by exact ⟨rfl, rfl, rfl⟩) .., ?_⟩
  · exact (worldOf_announce ..).trans ((worldOf_rostered ..).trans (if_pos rfl))
  · exact (worldOf_announce ..).trans ((worldOf_rostered ..).trans (if_neg (Ne.symm other)))
  · have rest := congrArg (fun u : State => { u with worlds := s.worlds }) (announce_none_rest s (rostered s wd roster) (.accepted wd 0))
    exact rest

/-! ### Key slots -/

theorem keySlotAssign_rejects {s : State} {slot tn : Nat} (bad : slot = 0 ∨ 255 < slot ∨ (keyOf s slot).state ≠ .empty ∨ 64 ≤ tn) :
    OnlyReplies (.keySlotAssign slot tn) (.error tn) s := by
  rw [← isTenant_eq_false] at bad
  exact congrArg Host.Outcome.next (if_pos bad)

/-- What an assigned key slot leaves. -/
structure KeyAssigned (s : State) (slot tn : Nat) (t : State) : Prop where
  key : keyOf t slot = ⟨.active, tn, none⟩
  keys : ∀ k, k ≠ slot → keyOf t k = keyOf s k
  announced : Announced none (.accepted tn slot) s t
  rest : { t with keys := s.keys, out := s.out, plat := s.plat } = s

theorem keySlotAssign_accepts {s : State} {slot tn : Nat} (low : 0 < slot) (high : slot ≤ 255) (empty : (keyOf s slot).state = .empty)
    (tenant : tn < 64) : ∃ t, exec (.keySlotAssign slot tn) s = .next t ∧ KeyAssigned s slot tn t := by
  have good : ¬ (slot = 0 ∨ 255 < slot ∨ (keyOf s slot).state ≠ .empty ∨ isTenant tn = false) := by
    rw [isTenant_eq_false]
    rintro (no | no | no | no)
    · omega
    · omega
    · exact no empty
    · omega
  refine ⟨announce s (setKey s slot ⟨.active, tn, none⟩) none (.accepted tn slot), congrArg Host.Outcome.next (if_neg good), ?_,
    fun k other => ?_, announce_announced (by exact ⟨rfl, rfl, rfl⟩) .., ?_⟩
  · exact (keyOf_announce ..).trans ((keyOf_setKey ..).trans (if_pos rfl))
  · exact (keyOf_announce ..).trans ((keyOf_setKey ..).trans (if_neg (Ne.symm other)))
  · have rest := congrArg (fun u : State => { u with keys := s.keys })
      (announce_none_rest s (setKey s slot ⟨.active, tn, none⟩) (.accepted tn slot))
    exact rest

theorem keyDestroy_waits {s : State} {slot : Nat} (waits : (keyOf s slot).state ≠ .revoked ∨ ∃ e ∈ s.types, teKey e.2 = slot) :
    exec (.keyDestroy slot) s = .next s :=
  congrArg Host.Outcome.next (if_pos (waits.imp_right fun named => by simpa using named))

theorem exec_keyDestroy {s : State} {slot : Nat} (revoked : (keyOf s slot).state = .revoked) (unnamed : ∀ e ∈ s.types, teKey e.2 ≠ slot) :
    exec (.keyDestroy slot) s = .next (setKey s slot KeySlot.blank) :=
  congrArg Host.Outcome.next (if_neg (not_or.mpr ⟨not_not_intro revoked, by simpa using unnamed⟩))

/-! ### The lines under a key -/

/-- No line of block `k` satisfies `p`. -/
def NoLine (s : State) (p : SLine → Bool) (k : Nat) : Prop := ∀ l ∈ (blockOf s k).lines, p l = false

theorem blockOf_dropLines (s : State) (k : Nat) (p : SLine → Bool) (wb : Bool) (j : Nat) : blockOf (dropLines s k p wb) j =
    if k = j then { blockOf s k with lines := (blockOf s k).lines.filter fun l => !p l } else blockOf s j := by
  refine (blockOf_setBlock ..).trans ?_
  split
  · rfl
  · exact congrArg (fun t => Tbl.get Block.blank t j) (noteLines_blocks ..)

theorem NoLine.dropLines {s : State} {p : SLine → Bool} {j : Nat} (h : NoLine s p j) (k : Nat) (q : SLine → Bool) (wb : Bool) :
    NoLine (dropLines s k q wb) p j := by
  intro l line
  rw [blockOf_dropLines] at line
  split at line
  · next same => exact h l (same ▸ (List.mem_filter.mp line).1)
  · exact h l line

/-- No line of any block lies under the slot once the lines under it are dropped. -/
theorem dropKeyLines_none (s : State) (slot : Nat) (wb : Bool) (k : Nat) : NoLine (dropKeyLines s slot wb) (fun l => underKey s slot l.pa) k := by
  have drops {u : State} (stored : OnlyStored s u) (l : List Nat) (start : k ∈ l ∨ NoLine u (fun l => underKey s slot l.pa) k) :
      NoLine (l.foldl (fun t k => dropLines t k (fun l => underKey t slot l.pa) wb) u) (fun l => underKey s slot l.pa) k := by
    induction l generalizing u with
    | nil => exact start.resolve_left (by simp)
    | cons j l ih =>
      refine ih (stored.trans (dropLines_stored ..)) ?_
      by_cases later : k ∈ l
      · exact .inl later
      refine .inr ?_
      by_cases same : j = k
      · intro x line
        rw [blockOf_dropLines, if_pos same] at line
        have missed := (List.mem_filter.mp line).2
        rw [stored.underKey] at missed
        simpa using missed
      · exact (start.resolve_left fun listed => (List.mem_cons.mp listed).elim (fun here => same here.symm) later).dropLines _ _ _
  by_cases listed : k ∈ s.blocks.map Prod.fst
  · exact drops (.refl s) _ (.inl listed)
  · refine drops (.refl s) _ (.inr fun l line => ?_)
    have blank : blockOf s k = Block.blank := by
      by_contra other
      exact listed (List.mem_map.mpr ⟨_, Tbl.mem_of_get_ne other, rfl⟩)
    rw [blank] at line
    cases line

/-- What a flushed slot leaves. -/
structure SlotFlushed (s : State) (slot : Nat) (t : State) : Prop where
  key : keyOf t slot = { keyOf s slot with state := .revoked, asker := none }
  keys : ∀ k, k ≠ slot → keyOf t k = keyOf s k
  warps : WarpsKept s t
  told : ∀ k, (keyOf s slot).asker = some k → (svcOf t k).pend.getLsbD 3 = true
  lines : ∀ k, ∀ l ∈ (blockOf t k).lines, underKey s slot l.pa = false

theorem keySlotFlushed_waits {s : State} {slot : Nat} (other : (keyOf s slot).state ≠ .flushing) :
    exec (.keySlotFlushed slot) s = .next s := congrArg Host.Outcome.next (if_pos other)

theorem keySlotFlushed_flushes {s : State} {slot : Nat} (flushing : (keyOf s slot).state = .flushing) :
    ∃ t, exec (.keySlotFlushed slot) s = .next t ∧ SlotFlushed s slot t := by
  have stored := dropKeyLines_stored s slot true
  have clear := dropKeyLines_none s slot true
  have key (k : Nat) : keyOf (setKey (dropKeyLines s slot true) slot { keyOf s slot with state := .revoked, asker := none }) k =
      if slot = k then { keyOf s slot with state := .revoked, asker := none } else keyOf s k := by
    rw [keyOf_setKey, stored.keyOf]
  refine ⟨_, congrArg Host.Outcome.next (if_neg (not_not_intro flushing)), ?_⟩
  cases asked : (keyOf s slot).asker with
  | none =>
    exact ⟨(key slot).trans (if_pos rfl), fun k other => (key k).trans (if_neg (Ne.symm other)), stored.warpOf,
      (fun k asker => by rw [asked] at asker; cases asker), clear⟩
  | some j =>
    refine ⟨(key slot).trans (if_pos rfl), fun k other => (key k).trans (if_neg (Ne.symm other)), stored.warpOf, fun k asker => ?_, clear⟩
    obtain rfl : j = k := by rw [asked] at asker; exact Option.some.inj asker
    refine (congrArg (fun c : SvcCore => c.pend.getLsbD 3) (svcOf_setSvc_same ..)).trans ?_
    simp

/-! ### Link keys -/

theorem innerOf_setInner (s : State) (k j : Nat) (x : Inner) : innerOf (setInner s k x) j = if k = j then x else innerOf s j :=
  Tbl.get_set ..

/-- What fresh keys on a link inside the package leave. -/
structure InnerRekeyed (s : State) (k : Nat) (t : State) : Prop where
  rest : { t with inner := s.inner } = s
  link : innerOf t k = { innerOf s k with keyOut := 0, keyIn := 0 }
  others : ∀ j, j ≠ k → innerOf t j = innerOf s j

theorem linkRekey_inner (s : State) {k : Nat} (inside : 128 ≤ k) : ∃ t, exec (.linkRekey k) s = .next t ∧ InnerRekeyed s k t :=
  ⟨_, congrArg Host.Outcome.next (if_pos inside), rfl, (innerOf_setInner ..).trans (if_pos rfl),
    fun _ other => (innerOf_setInner ..).trans (if_neg (Ne.symm other))⟩

theorem linkRekey_unbound {s : State} {k : Nat} (strand : k < 128) (unbound : (linkOf s k).bound = false) :
    exec (.linkRekey k) s = .next s :=
  congrArg Host.Outcome.next ((if_neg (by simp only [innerLinks]; omega)).trans (if_neg (by simp [unbound])))

theorem exec_linkRekey {s : State} {k : Nat} (strand : k < 128) (bound : (linkOf s k).bound = true) :
    exec (.linkRekey k) s = .next (setLink s k (rekey (linkOf s k))) :=
  congrArg Host.Outcome.next ((if_neg (by simp only [innerLinks]; omega)).trans (if_pos bound))

theorem onlyLink_setLink (s : State) (k : Nat) (x : Link) : OnlyLink k s (setLink s k x) :=
  ⟨fun _ other => (linkOf_setLink ..).trans (if_neg (Ne.symm other)), rfl⟩

end Sys2Proof.Machine
end

section
/-! SUPPORT. The creation of a tenant: its frames, its table window and its control blocks (R142, R144, R272, R276, R311, R341). -/

namespace Sys2Proof.Machine

/-! ### The frame of a creation -/

/-- Nothing has changed but type entries and what a store may change. -/
def OnlyTyped (s t : State) : Prop := OnlyStored s { t with types := s.types }

theorem OnlyStored.withTypes {s t : State} (h : OnlyStored s t) (l : Tbl (BitVec 128)) :
    OnlyStored { s with types := l } { t with types := l } := by
  have same := congrArg (fun u : State => { u with types := l }) h.rest
  exact ⟨h.dies, same⟩

namespace OnlyTyped

theorem refl (s : State) : OnlyTyped s s := OnlyStored.refl s

theorem trans {s t u : State} (first : OnlyTyped s t) (second : OnlyTyped t u) : OnlyTyped s u := by
  have later := OnlyStored.withTypes second s.types
  exact OnlyStored.trans first later

theorem of_stored {s t : State} (h : OnlyStored s t) : OnlyTyped s t := h.withTypes s.types

theorem setType (s : State) (f : Nat) (v : BitVec 128) : OnlyTyped s (setType s f v) := OnlyStored.refl s

theorem countRoot (s : State) (f : Nat) (n : Int) : OnlyTyped s (countRoot s f n) := by
  have rest := countRoot_rest s f n
  unfold OnlyTyped
  rw [rest]
  exact .refl s

section
variable {s t : State} (h : OnlyTyped s t)
include h

theorem warpOf (k : Nat) : warpOf t k = Machine.warpOf s k := OnlyStored.warpOf h k
theorem tenantOf (k : Nat) : tenantOf t k = Machine.tenantOf s k := OnlyStored.tenantOf h k
theorem tcbOf (d : Nat) : tcbOf t d = Machine.tcbOf s d := OnlyStored.tcbOf h d
theorem diesOf : diesOf t = Machine.diesOf s := OnlyStored.diesOf (t := { t with types := s.types }) h
theorem hasType (f : Nat) : hasType t f = Machine.hasType s f := OnlyStored.hasType h f
theorem sameLeader : SameLeader s t := by
  have leader := OnlyStored.sameLeader h
  exact ⟨leader.ackers, leader.out, leader.plat⟩

end

end OnlyTyped

/-! ### Frames with a type -/

theorem allocFrame_typed (s : State) (tn f ty count changes : Nat) : OnlyTyped s (allocFrame s tn f ty count changes) :=
  (OnlyTyped.of_stored (zeroFrame_stored s f)).trans (.setType ..)

theorem typeOf_allocFrame_ne (s : State) (tn : Nat) {f g : Nat} (ty count changes : Nat) (other : g ≠ f) :
    typeOf (allocFrame s tn f ty count changes) g = typeOf s g :=
  (typeOf_setType ..).trans ((if_neg (Ne.symm other)).trans ((zeroFrame_stored s f).typeOf g))

/-- A type entry of a frame that a tenant has been given, with the number, type and new references of the frame. -/
structure FrameGiven (s : State) (tn : Nat) (e : Nat × Nat × Nat) (v : BitVec 128) : Prop where
  type : teType v = e.2.1
  owner : teOwner v = tn
  world : teWorld v = (tenantOf s tn).world.toNat
  count : teCount v = (teCount (typeOf s e.1) + e.2.2) % 2 ^ 24

theorem allocFrame_given {s u : State} {tn f ty : Nat} (count changes : Nat) (typed : OnlyTyped s u) (same : typeOf u f = typeOf s f)
    (tenant : tn < 64) (small : ty < 16) : FrameGiven s tn (f, ty, count) (typeOf (allocFrame u tn f ty count changes) f) := by
  have here : typeOf (allocFrame u tn f ty count changes) f = mkType ty tn (tenantOf u tn).world.toNat
      (teCount (typeOf u f) + count) ((teGen (typeOf u f) + changes) % 256) 0 0 := typeOf_setType_same ..
  rw [here, same, typed.tenantOf]
  exact ⟨(teType_mkType ..).trans (Nat.mod_eq_of_lt small), (teOwner_mkType ..).trans (Nat.mod_eq_of_lt tenant),
    (teWorld_mkType ..).trans (Nat.mod_eq_of_lt (BitVec.isLt _)), teCount_mkType ..⟩

/-! ### Tables -/

/-- The words of a table frame. -/
def Table (s : State) (f : Nat) (w : Nat → Nat) : Prop := ∀ i, i < 8192 → Holds s (f * 65536 + 8 * i) 8 (w i)

theorem allocFrame_table (s : State) (tn f ty count changes : Nat) : Table (allocFrame s tn f ty count changes) f fun _ => 0 :=
  fun i number => (zeroFrame_holds s f (a := f * 65536 + 8 * i) (n := 8) (by omega) (by omega)).congr rfl rfl

namespace Table

theorem allocFrame {s : State} {f g : Nat} {w : Nat → Nat} (h : Table s f w) (other : f ≠ g) (tn ty count changes : Nat) :
    Table (allocFrame s tn g ty count changes) f w :=
  fun i number => ((h i number).zeroFrame (f := g) (by omega)).congr rfl rfl

/-- A word is written into the table. -/
theorem write {s : State} {f n v : Nat} {w : Nat → Nat} (h : Table s f w) (number : n < 8192) (small : v < 2 ^ 64) :
    Table (writeBytes s (f * 65536 + 8 * n) (leBytes 8 v)) f (Function.update w n v) := by
  intro i below
  by_cases same : i = n
  · subst same
    rw [Function.update_self]
    have written := writeBytes_value_holds s (f * 65536 + 8 * i) 8 v
    rwa [Nat.mod_eq_of_lt (by simpa using small)] at written
  · rw [Function.update_of_ne same]
    exact (h i below).writeBytes (by rw [leBytes_length]; exact (h n number).unheld) (by rw [leBytes_length]; omega)

/-- A word is written into another table. -/
theorem writeOther {s : State} {f g n : Nat} {w x : Nat → Nat} (h : Table s f w) (k : Table s g x) (other : f ≠ g) (number : n < 8192)
    (v : Nat) : Table (writeBytes s (g * 65536 + 8 * n) (leBytes 8 v)) f w := by
  intro i below
  exact (h i below).writeBytes (by rw [leBytes_length]; exact (k n number).unheld) (by rw [leBytes_length]; omega)

end Table

/-- The table window of a new tenant over three empty tables. -/
structure Window (s : State) (root l1 l0 : Nat) : Prop where
  top : Table s root (Function.update (fun _ => 0) 0x1C00 (1 + 65536 * l1))
  middle : Table s l1 (Function.update (fun _ => 0) 0 (1 + 65536 * l0))
  bottom : Table s l0 (Function.update (Function.update (Function.update (fun _ => 0) 0 (0x63 + 65536 * root)) 1 (0x63 + 65536 * l1)) 2
    (0x63 + 65536 * l0))

section
variable {s : State} {root l1 l0 : Nat}

theorem tableWindow_window (h : Table s root fun _ => 0) (h1 : Table s l1 fun _ => 0) (h0 : Table s l0 fun _ => 0)
    (distinct : root ≠ l1 ∧ root ≠ l0 ∧ l1 ≠ l0) (small : root < 2 ^ 32 ∧ l1 < 2 ^ 32 ∧ l0 < 2 ^ 32) :
    Window (tableWindow s root l1 l0) root l1 l0 := by
  obtain ⟨ne1, ne0, ne⟩ := distinct
  obtain ⟨below, below1, below0⟩ := small
  have a := h.write (n := 0x1C00) (v := 1 + 65536 * l1) (by omega) (by omega)
  have a1 := h1.writeOther h (n := 0x1C00) ne1.symm (by omega) (1 + 65536 * l1)
  have a0 := h0.writeOther h (n := 0x1C00) ne0.symm (by omega) (1 + 65536 * l1)
  have b := a.writeOther a1 (n := 0) ne1 (by omega) (1 + 65536 * l0)
  have b1 := a1.write (n := 0) (v := 1 + 65536 * l0) (by omega) (by omega)
  have b0 := a0.writeOther a1 (n := 0) ne.symm (by omega) (1 + 65536 * l0)
  have c := b.writeOther b0 (n := 0) ne0 (by omega) (0x63 + 65536 * root)
  have c1 := b1.writeOther b0 (n := 0) ne (by omega) (0x63 + 65536 * root)
  have c0 := b0.write (n := 0) (v := 0x63 + 65536 * root) (by omega) (by omega)
  have d := c.writeOther c0 (n := 1) ne0 (by omega) (0x63 + 65536 * l1)
  have d1 := c1.writeOther c0 (n := 1) ne (by omega) (0x63 + 65536 * l1)
  have d0 := c0.write (n := 1) (v := 0x63 + 65536 * l1) (by omega) (by omega)
  exact ⟨d.writeOther d0 (n := 2) ne0 (by omega) (0x63 + 65536 * l0), d1.writeOther d0 (n := 2) ne (by omega) (0x63 + 65536 * l0),
    d0.write (n := 2) (v := 0x63 + 65536 * l0) (by omega) (by omega)⟩

theorem tableWindow_stored (s : State) (root l1 l0 : Nat) : OnlyStored s (tableWindow s root l1 l0) :=
  (((writeBytes_stored ..).trans (writeBytes_stored ..)).trans (writeBytes_stored ..)).trans
    ((writeBytes_stored ..).trans (writeBytes_stored ..))

theorem Unheld.tableWindow {a n : Nat} (h : Unheld s a n) (root l1 l0 : Nat) : Unheld (tableWindow s root l1 l0) a n :=
  ((((h.writeBytes _ _).writeBytes _ _).writeBytes _ _).writeBytes _ _).writeBytes _ _

end

/-! ### The frames of a tenant -/

/-- Frames that a tenant is given one after the other, each with its type, references and changes of type. -/
def allocFrames (s : State) (tn : Nat) (l : List (Nat × Nat × Nat × Nat)) : State :=
  l.foldl (fun u e => allocFrame u tn e.1 e.2.1 e.2.2.1 e.2.2.2) s

/-- A property that the allocation of each frame keeps. -/
theorem allocFrames_keeps {P : State → Prop} {tn : Nat} {l : List (Nat × Nat × Nat × Nat)}
    (step : ∀ u, ∀ e ∈ l, P u → P (allocFrame u tn e.1 e.2.1 e.2.2.1 e.2.2.2)) {s : State} (start : P s) : P (allocFrames s tn l) := by
  induction l generalizing s with
  | nil => exact start
  | cons e l ih => exact ih (fun u x listed => step u x (List.mem_cons_of_mem _ listed)) (step s e List.mem_cons_self start)

theorem allocFrames_typed (s : State) (tn : Nat) (l : List (Nat × Nat × Nat × Nat)) : OnlyTyped s (allocFrames s tn l) :=
  allocFrames_keeps (fun _ _ _ h => h.trans (allocFrame_typed ..)) (OnlyTyped.refl s)

theorem typeOf_allocFrames_ne (s : State) (tn : Nat) {l : List (Nat × Nat × Nat × Nat)} {f : Nat} (other : f ∉ l.map Prod.fst) :
    typeOf (allocFrames s tn l) f = typeOf s f :=
  allocFrames_keeps (P := fun u => typeOf u f = typeOf s f) (fun _ _ listed h => (typeOf_allocFrame_ne _ _ _ _ _
    (ne_of_mem_of_not_mem (List.mem_map_of_mem listed) other).symm).trans h) rfl

theorem Unheld.allocFrames {s : State} {a n : Nat} (h : Unheld s a n) (tn : Nat) (l : List (Nat × Nat × Nat × Nat)) :
    Unheld (allocFrames s tn l) a n :=
  allocFrames_keeps (P := fun u => Unheld u a n) (fun _ e _ h => h.zeroFrame e.1) h

/-- What distinct frames are once a tenant has been given them: each has its type, and is zero. -/
theorem allocFrames_given {s u : State} {tn : Nat} (tenant : tn < 64) {l : List (Nat × Nat × Nat × Nat)} (types : ∀ e ∈ l, e.2.1 < 16)
    (distinct : (l.map Prod.fst).Nodup) (typed : OnlyTyped s u) (before : ∀ e ∈ l, typeOf u e.1 = typeOf s e.1) : ∀ e ∈ l,
      FrameGiven s tn (e.1, e.2.1, e.2.2.1) (typeOf (allocFrames u tn l) e.1) ∧ Table (allocFrames u tn l) e.1 fun _ => 0 := by
  induction l generalizing u with
  | nil => simp
  | cons e l ih =>
    rw [List.map_cons, List.nodup_cons] at distinct
    obtain ⟨fresh, distinct⟩ := distinct
    rw [List.forall_mem_cons] at types before ⊢
    have away (x : Nat × Nat × Nat × Nat) (listed : x ∈ l) : x.1 ≠ e.1 := ne_of_mem_of_not_mem (List.mem_map_of_mem listed) fresh
    refine ⟨⟨?_, ?_⟩, ih types.2 distinct (typed.trans (allocFrame_typed ..)) fun x listed => ?_⟩
    · rw [allocFrames, List.foldl_cons, ← allocFrames, typeOf_allocFrames_ne _ _ fresh]
      exact allocFrame_given _ _ typed before.1 tenant types.1
    · exact allocFrames_keeps (P := fun u => Table u e.1 fun _ => 0)
        (fun _ x listed h => h.allocFrame (away x listed).symm _ _ _ _) (allocFrame_table _ _ _ _ _ _)
    · exact (typeOf_allocFrame_ne _ _ _ _ _ (away x listed)).trans (before.2 x listed)

/-! ### A new tenant -/

/-- The six frames of a new tenant with their types, the references that its table window makes to them, and their changes. -/
def newFrames (root l1 l0 jf jc db : Nat) : List (Nat × Nat × Nat × Nat) :=
  [(root, 5, 2, 2), (l1, 4, 2, 2), (l0, 3, 2, 2), (jf, 6, 0, 1), (jc, 6, 0, 1), (db, 1, 0, 1)]

section
variable (s : State) (tn root l1 l0 jf jc db : Nat)

/-- The state in which a tenant has its frames and its table window. -/
def windowed : State := tableWindow (allocFrames s tn (newFrames root l1 l0 jf jc db)) root l1 l0

/-- The record of a new tenant. -/
def newTenant (x : Tenant) : Tenant :=
  { x with
    created := true, modified := true, root := BitVec.ofNat 32 root, jframe := jf, jcopy := jc, dbell := db, vlog := [], spaces := 2 }

/-- The state with the record of the new tenant. -/
def created : State :=
  setTenant (windowed s tn root l1 l0 jf jc db) tn (newTenant root jf jc db (tenantOf (windowed s tn root l1 l0 jf jc db) tn))

/-- The state in which the Tidemarks have been told of it, and an earlier root has lost its one. -/
def createdTold : State := countRoot (tellTenant (created s tn root l1 l0 jf jc db) tn) (tenantOf s tn).root.toNat (-1)

theorem windowed_typed : OnlyTyped s (windowed s tn root l1 l0 jf jc db) :=
  (allocFrames_typed ..).trans (.of_stored (tableWindow_stored ..))

end

theorem length_dedup_ne_six {l : List Nat} (six : l.length = 6) : (l.dedup.length != 6) = true ↔ ¬ l.Nodup := by
  rw [bne_iff_ne, not_iff_not, ← six]
  exact ⟨fun same => List.dedup_eq_self.mp ((List.dedup_sublist l).eq_of_length same), fun distinct => by rw [distinct.dedup]⟩

theorem createBad_iff {s : State} {tn root l1 l0 jf jc db : Nat} : createBad s tn root l1 l0 jf jc db = true ↔
    64 ≤ tn ∨ (tenantOf s tn).created = true ∨ (tenantOf s tn).erasure.isSome = true ∨
      (∃ f ∈ createFrames root l1 l0 jf jc db, frameAvailable s f = false) ∨ ¬ (createFrames root l1 l0 jf jc db).Nodup ∨
      ¬ (isHbm s (db * 65536) = true ∧ isHbm s (jf * 65536) = true ∧ isHbm s (jc * 65536) = true ∧
        hbmStack s (jf * 65536) ≠ hbmStack s (jc * 65536)) := by
  unfold createBad
  simp only [Bool.or_eq_true, length_dedup_ne_six (l := createFrames root l1 l0 jf jc db) rfl, Bool.not_eq_true', isTenant_eq_false,
    List.any_eq_true, beq_iff_eq, not_and_or, or_assoc, Bool.not_eq_true, not_not]

theorem tenantCreate_rejects {s : State} {tn root l1 l0 jf jc db : Nat} (bad : createBad s tn root l1 l0 jf jc db = true) :
    OnlyReplies (.tenantCreate tn root l1 l0 (jf, jc) db) (.error tn) s := congrArg Host.Outcome.next (if_pos bad)

theorem exec_tenantCreate {s : State} {tn root l1 l0 jf jc db : Nat} (good : createBad s tn root l1 l0 jf jc db = false) :
    exec (.tenantCreate tn root l1 l0 (jf, jc) db) s =
      .next (announce s (createdTold s tn root l1 l0 jf jc db) (some tn) (.accepted tn 0)) :=
  congrArg Host.Outcome.next (if_neg (Bool.eq_false_iff.mp good))

/-- A test of the values of a table does not see a value written over that passes as the old one does. -/
theorem Tbl.any_set {α : Type} {b : α} {q : α → Bool} (blank : q b = false) {t : Tbl α} {k : Nat} {v : α}
    (same : q v = q (Tbl.get b t k)) : ((Tbl.set t k v).any fun e => q e.2) = t.any fun e => q e.2 := by
  have listed {t : Tbl α} (passes : q (Tbl.get b t k) = true) : (t.any fun e => q e.2) = true :=
    List.any_eq_true.mpr ⟨_, Tbl.mem_of_get_ne (fun gone => by rw [gone, blank] at passes; cases passes), passes⟩
  induction t with
  | nil => rw [Tbl.set, List.any_cons, same]; simp [Tbl.get, blank]
  | cons e t ih =>
    obtain ⟨j, x⟩ := e
    rw [Tbl.set]
    simp only [Tbl.get] at same
    split
    · next here => rw [if_pos here] at same; simp only [List.any_cons, same]
    · next away =>
      rw [if_neg away] at same
      split
      · rw [List.any_cons, same]
        cases passes : q (Tbl.get b t k) with
        | false => rfl
        | true => rw [List.any_cons, listed passes]; simp
      · rw [List.any_cons, ih same, List.any_cons]

/-- A tenant's record with the same host regions leaves the frames that have a type entry. -/
theorem hasType_setTenant (s : State) {k : Nat} {x : Tenant} (hosts : x.hosts = (tenantOf s k).hosts) (f : Nat) :
    hasType (setTenant s k x) f = hasType s f := by
  have host : inHostRegion (setTenant s k x) f = inHostRegion s f :=
    Tbl.any_set (b := Tenant.blank) (q := fun x => x.hosts.any fun r => decide (r.2.first ≤ f ∧ f < r.2.first + r.2.len)) rfl
      (by rw [hosts]; rfl)
  unfold hasType
  rw [host]
  rfl

section
variable {s : State} {tn root l1 l0 jf jc db : Nat}

theorem sameLeader_setTenant (s : State) (k : Nat) (x : Tenant) : SameLeader s (setTenant s k x) := ⟨rfl, rfl, rfl⟩

theorem createdTold_typed : OnlyTyped (created s tn root l1 l0 jf jc db) (createdTold s tn root l1 l0 jf jc db) :=
  (OnlyTyped.of_stored (tellTenant_stored (created s tn root l1 l0 jf jc db) tn)).trans
    (OnlyTyped.countRoot (tellTenant (created s tn root l1 l0 jf jc db) tn) _ (-1))

theorem created_leader : SameLeader s (createdTold s tn root l1 l0 jf jc db) :=
  ((windowed_typed s tn root l1 l0 jf jc db).sameLeader.trans (sameLeader_setTenant ..)).trans createdTold_typed.sameLeader

theorem tenantOf_created : tenantOf (created s tn root l1 l0 jf jc db) tn = newTenant root jf jc db (tenantOf s tn) := by
  rw [created, tenantOf_setTenant_same, (windowed_typed ..).tenantOf]

theorem tenantOf_createdTold : tenantOf (createdTold s tn root l1 l0 jf jc db) tn = newTenant root jf jc db (tenantOf s tn) := by
  rw [createdTold_typed.tenantOf, tenantOf_created]

theorem newTenant_hosts (x : Tenant) : (newTenant root jf jc db x).hosts = x.hosts := rfl

theorem tcbOf_setTenant (s : State) (k : Nat) (x : Tenant) (d : Nat) : tcbOf (setTenant s k x) d = tcbOf s d := rfl

theorem diesOf_setTenant (s : State) (k : Nat) (x : Tenant) : diesOf (setTenant s k x) = diesOf s := rfl

theorem tcbOf_created (d : Nat) : tcbOf (created s tn root l1 l0 jf jc db) d = tcbOf s d := by
  rw [created, tcbOf_setTenant, (windowed_typed ..).tcbOf]

theorem diesOf_created : diesOf (created s tn root l1 l0 jf jc db) = diesOf s := by
  rw [created, diesOf_setTenant, (windowed_typed ..).diesOf]

theorem Holds.setTenant {s : State} {a n v : Nat} (h : Holds s a n v) (k : Nat) (x : Tenant) : Holds (setTenant s k x) a n v :=
  h.congr rfl rfl

theorem Unheld.setTenant {s : State} {a n : Nat} (h : Unheld s a n) (k : Nat) (x : Tenant) : Unheld (setTenant s k x) a n := h

theorem Unheld.created {a n : Nat} (h : Unheld s a n) : Unheld (created s tn root l1 l0 jf jc db) a n := by
  rw [Machine.created, windowed]
  exact ((h.allocFrames _ _).tableWindow _ _ _).setTenant _ _

theorem countRoot_mem (s : State) (f : Nat) (n : Int) : (countRoot s f n).mem = s.mem := by
  have same := congrArg State.mem (countRoot_rest s f n); exact same

theorem countRoot_blocks (s : State) (f : Nat) (n : Int) : (countRoot s f n).blocks = s.blocks := by
  have same := congrArg State.blocks (countRoot_rest s f n); exact same

theorem Holds.countRoot {s : State} {a n v : Nat} (h : Holds s a n v) (f : Nat) (m : Int) : Holds (countRoot s f m) a n v :=
  h.congr (countRoot_mem ..) (countRoot_blocks ..)

theorem hasType_tellCreated (f : Nat) : hasType (tellTenant (created s tn root l1 l0 jf jc db) tn) f = hasType s f := by
  rw [(tellTenant_stored ..).hasType, created, hasType_setTenant _ (newTenant_hosts _), (windowed_typed ..).hasType]

theorem typeOf_tellCreated (f : Nat) : typeOf (tellTenant (created s tn root l1 l0 jf jc db) tn) f =
    typeOf (allocFrames s tn (newFrames root l1 l0 jf jc db)) f := by
  rw [(tellTenant_stored ..).typeOf, created, typeOf_setTenant, windowed, (tableWindow_stored ..).typeOf]

/-- Words of a table frame that the control blocks do not meet are as they were before the Tidemarks were told. -/
theorem Table.createdTold {f : Nat} {w : Nat → Nat} (h : Table (windowed s tn root l1 l0 jf jc db) f w)
    (unheld : ∀ d, d < diesOf s → tcbOf s d ≠ 0 → Unheld s (tcbOf s d + 8) 24)
    (apart : ∀ d, d < diesOf s → tcbOf s d ≠ 0 → tcbOf s d + 32 ≤ f * 65536 ∨ (f + 1) * 65536 ≤ tcbOf s d) (k : Option Nat) (r : Reply)
    {i : Nat} (number : i < 8192) :
    physGet (announce s (createdTold s tn root l1 l0 jf jc db) k r) (f * 65536 + 8 * i) 8 = w i := by
  have told : Holds (tellTenant (created s tn root l1 l0 jf jc db) tn) (f * 65536 + 8 * i) 8 (w i) := by
    rw [tellTenant_eq]
    refine Holds.foldl_tellDie (s := created s tn root l1 l0 jf jc db) _ (fun d listed => List.mem_range.mp listed)
      (fun d listed block => ?_) (.refl _) (fun d die block => ?_) ((h i number).setTenant ..)
    · rw [tcbOf_created] at block ⊢
      rw [diesOf_created] at listed
      have := apart d (List.mem_range.mp listed) block
      omega
    · rw [tcbOf_created] at block ⊢
      rw [diesOf_created] at die
      exact (unheld d die block).created
  exact (told.countRoot ..).announce.physGet

theorem tenantOf_announce_createdTold (r : Reply) :
    tenantOf (announce s (createdTold s tn root l1 l0 jf jc db) (some tn) r) tn =
      { newTenant root jf jc db (tenantOf s tn) with modified := stillModified s tn } := by
  rw [tenantOf_announce created_leader _ (by rw [tenantOf_createdTold]; rfl), tenantOf_createdTold]

theorem createdTold_told (r : Reply) : Told s (announce s (createdTold s tn root l1 l0 jf jc db) (some tn) r) tn := by
  refine told_of_tellTenant (u := created s tn root l1 l0 jf jc db) diesOf_created tcbOf_created
    (fun d _ _ clear => clear.unheld.created) (by rw [announce_mem, createdTold, countRoot_mem])
    (by rw [announce_blocks, createdTold, countRoot_blocks]) ?_ ?_ ?_
  all_goals rw [tenantOf_announce_createdTold, tenantOf_created]

/-- The table window over the frames of a new tenant. -/
theorem created_window (tenant : tn < 64) (distinct : (createFrames root l1 l0 jf jc db).Nodup)
    (small : ∀ f ∈ createFrames root l1 l0 jf jc db, f < 2 ^ 32) : Window (windowed s tn root l1 l0 jf jc db) root l1 l0 := by
  have given := allocFrames_given (s := s) tenant (l := newFrames root l1 l0 jf jc db) (by simp [newFrames]) distinct (.refl s)
    fun _ _ => rfl
  simp only [newFrames, List.forall_mem_cons] at given
  obtain ⟨⟨-, zero⟩, ⟨-, zero1⟩, ⟨-, zero0⟩, -⟩ := given
  simp only [createFrames, List.nodup_cons, List.mem_cons, not_or] at distinct
  obtain ⟨⟨ne1, ne0, -⟩, ⟨ne, -⟩, -⟩ := distinct
  simp only [createFrames, List.forall_mem_cons] at small
  obtain ⟨below, below1, below0, -⟩ := small
  exact tableWindow_window zero zero1 zero0 ⟨ne1, ne0, ne⟩ ⟨below, below1, below0⟩

end

/-- What the creation of a tenant leaves. -/
structure TenantMade (s : State) (tn root l1 l0 jf jc db : Nat) (t : State) : Prop where
  warps : WarpsKept s t
  announced : Announced (some tn) (.accepted tn 0) s t
  tenant : { tenantOf t tn with modified := true } = newTenant root jf jc db (tenantOf s tn)
  given : ∀ e ∈ newFrames root l1 l0 jf jc db, FrameGiven s tn (e.1, e.2.1, e.2.2.1) (typeOf t e.1)
  types : ∀ f, f ∉ createFrames root l1 l0 jf jc db → f ≠ (tenantOf s tn).root.toNat → typeOf t f = typeOf s f
  told : Told s t tn
  left : hasType s (tenantOf s tn).root.toNat = true →
    teCount (typeOf t (tenantOf s tn).root.toNat) = teCount (typeOf s (tenantOf s tn).root.toNat) - 1
  top : ∀ i, i < 8192 → physGet t (root * 65536 + 8 * i) 8 = if i = 0x1C00 then 1 + 65536 * l1 else 0
  middle : ∀ i, i < 8192 → physGet t (l1 * 65536 + 8 * i) 8 = if i = 0 then 1 + 65536 * l0 else 0
  bottom : ∀ i, i < 8192 → physGet t (l0 * 65536 + 8 * i) 8 = if i = 0 then 0x63 + 65536 * root
    else if i = 1 then 0x63 + 65536 * l1 else if i = 2 then 0x63 + 65536 * l0 else 0

theorem tenantCreate_creates {s : State} {tn root l1 l0 jf jc db : Nat} (good : createBad s tn root l1 l0 jf jc db = false)
    (small : ∀ f ∈ createFrames root l1 l0 jf jc db, f < 2 ^ 32)
    (old : (tenantOf s tn).root.toNat ∉ createFrames root l1 l0 jf jc db)
    (blocks : ∀ d, d < diesOf s → tcbOf s d ≠ 0 → NoDirtyLine s (tcbOf s d + 8) 24 ∧
      ∀ f ∈ createFrames root l1 l0 jf jc db, tcbOf s d + 32 ≤ f * 65536 ∨ (f + 1) * 65536 ≤ tcbOf s d) :
    ∃ t, exec (.tenantCreate tn root l1 l0 (jf, jc) db) s = .next t ∧ TenantMade s tn root l1 l0 jf jc db t := by
  have tenant : tn < 64 := by
    by_contra high
    rw [createBad_iff.mpr (.inl (by omega))] at good
    cases good
  have distinct : (createFrames root l1 l0 jf jc db).Nodup := by
    by_contra twice
    rw [createBad_iff.mpr (.inr (.inr (.inr (.inr (.inl twice)))))] at good
    cases good
  have given := allocFrames_given tenant (l := newFrames root l1 l0 jf jc db) (by simp [newFrames]) distinct (.refl s)
    fun _ _ => rfl
  have typed (f : Nat) (other : f ≠ (tenantOf s tn).root.toNat) :
      typeOf (announce s (createdTold s tn root l1 l0 jf jc db) (some tn) (.accepted tn 0)) f =
        typeOf (allocFrames s tn (newFrames root l1 l0 jf jc db)) f := by
    rw [typeOf_announce, createdTold, typeOf_countRoot_ne _ _ other, typeOf_tellCreated]
  have window := created_window (s := s) tenant distinct small
  have words {f : Nat} (mine : f ∈ createFrames root l1 l0 jf jc db) {w : Nat → Nat} (h : Table (windowed s tn root l1 l0 jf jc db) f w)
      {i : Nat} (number : i < 8192) : physGet (announce s (createdTold s tn root l1 l0 jf jc db) (some tn) (.accepted tn 0))
        (f * 65536 + 8 * i) 8 = w i :=
    h.createdTold (fun d die block => (blocks d die block).1.unheld) (fun d die block => (blocks d die block).2 f mine) _ _ number
  refine ⟨_, exec_tenantCreate good, ?_⟩
  exact {
    warps := fun k => by
      rw [warpOf_announce, createdTold_typed.warpOf, created, warpOf_setTenant, (windowed_typed ..).warpOf]
    announced := announce_announced created_leader ..
    tenant := by rw [tenantOf_announce_createdTold]; rfl
    given := fun e listed => by
      have mine : e.1 ∈ createFrames root l1 l0 jf jc db := List.mem_map_of_mem (f := Prod.fst) listed
      rw [typed e.1 (ne_of_mem_of_not_mem mine old)]
      exact (given e listed).1
    types := fun f other away => by rw [typed f away]; exact typeOf_allocFrames_ne s tn other
    told := createdTold_told _
    left := fun has => by
      rw [typeOf_announce, createdTold, countRoot_typed (by rw [hasType_tellCreated]; exact has), teCount_countAdd_neg_one,
        typeOf_tellCreated, typeOf_allocFrames_ne s tn (by exact old)]
    top := fun i number => by
      rw [words (by simp [createFrames]) window.top number, Function.update_apply]
    middle := fun i number => by
      rw [words (by simp [createFrames]) window.middle number, Function.update_apply]
    bottom := fun i number => by
      rw [words (by simp [createFrames]) window.bottom number]
      simp only [Function.update_apply]
      split_ifs <;> omega }

end Sys2Proof.Machine
end

section
/-! SUPPORT. The admission checker: its turns, a refusal, a commit that replaces nothing, and a retirement (R160, R276 to R281). -/

namespace Sys2Proof.Machine

/-! ### The end of the store -/

/-- The state without an admission. -/
def withoutAdmission (s : State) (n : Nat) : State := { s with admissions := s.admissions.filter fun x => x.id != n }

theorem withoutAdmission_gone (s : State) (n : Nat) : ∀ x ∈ (withoutAdmission s n).admissions, x.id ≠ n := by
  intro x listed
  simpa using (List.mem_filter.mp listed).2

theorem withOp_ended {s : State} {w op : Nat} (k : PendOp → State) (ended : opOf (warpOf s w) op = none) : withOp s w op k = s := by
  unfold withOp
  rw [ended]

theorem admissionAck_ended {s : State} {a : Admission} (ended : opOf (warpOf s a.warp) a.op = none) :
    admissionAck s a = withoutAdmission s a.id := withOp_ended (s := withoutAdmission s a.id) _ ended

/-- An entry that was not valid referenced nothing. -/
theorem targetsOf_invalid (n : Nat) {e : Dword} (invalid : e.getLsbD 0 = false) : targetsOf n e = [] := if_pos (.inl invalid)

theorem codeUnmapped_invalid (n : Nat) {a : Admission} (invalid : a.old.getLsbD 0 = false) : codeUnmapped n a = [] := by
  simp [codeUnmapped, show pteV a.old = false from invalid]

theorem unmappedSlots_nil (s : State) (t : Nat) : unmappedSlots s t [] = [] := by simp [unmappedSlots]

/-- The retirement of a store over an entry that was not valid ends the store, and no more. -/
theorem admissionRetire_invalid {s : State} {a : Admission} (store : a.root = none) (invalid : a.old.getLsbD 0 = false) :
    admissionRetire s a = admissionAck s a := by
  unfold admissionRetire
  rw [store]
  dsimp only
  rw [codeUnmapped_invalid _ invalid, unmappedSlots_nil, targetsOf_invalid _ invalid]
  rfl

/-! ### Turns at the checker -/

/-- No older store to the same table frame waits. -/
def FirstAtFrame (s : State) (a : Admission) : Prop :=
  ∀ x ∈ s.admissions, x.id < a.id → x.root = none → x.addr / 65536 ≠ a.addr / 65536

theorem firstAtFrame_iff {s : State} {a : Admission} : FirstAtFrame s a ↔
    (s.admissions.any fun x => decide (x.id < a.id) && x.root.isNone && x.addr / 65536 == a.addr / 65536) = false := by
  simp only [List.any_eq_false, Bool.and_eq_true, decide_eq_true_eq, Option.isNone_iff_eq_none, beq_iff_eq, not_and, and_imp]
  rfl

section
variable {s : State} {a : Admission} (found : s.admissions.find? (fun x => x.id == a.id) = some a)
include found

theorem admissionCheck_waits (waits : a.committed = true ∨ ¬ FirstAtFrame s a ∨ homeFree s a.warp a.op a.addr = false) :
    exec (.admissionCheck a.id) s = .next s := by
  show Host.Outcome.next _ = _
  dsimp only
  rw [found]
  dsimp only
  congr 1
  split
  · rfl
  · next turn =>
    simp only [Bool.or_eq_true, not_or, Bool.not_eq_true, ← firstAtFrame_iff] at turn
    refine if_pos ((waits.resolve_left ?_).resolve_left (not_not_intro turn.2))
    rw [turn.1]; simp

theorem exec_admissionCheck {n : Nat} (open_ : a.committed = false) (first : FirstAtFrame s a)
    (free : homeFree s a.warp a.op a.addr = true) (sound : isPoison s a.addr = false) (level : tableLevel s a.addr = some n) :
    exec (.admissionCheck a.id) s = .next (if admissionCode s a.tenant n a.new = 0 then admissionCommit s n a
      else admissionRefuse s a (admissionCode s a.tenant n a.new)) := by
  show Host.Outcome.next _ = _
  dsimp only
  rw [found]
  dsimp only
  rw [open_, firstAtFrame_iff.mp first, free, sound, level]
  rfl

theorem admissionRetire_waits (waits : a.committed = false ∨ (∃ w ∈ a.waits, stillUses s a w = true) ∨
    ∃ e ∈ unmappedSlots s a.tenant (codeUnmapped ((tableLevel s a.addr).getD 0) a), slotHolds s a.tenant e = true) :
    exec (.admissionRetire a.id) s = .next s := by
  show Host.Outcome.next _ = _
  dsimp only
  rw [found]
  dsimp only
  rw [if_pos]
  simpa only [List.any_eq_true] using waits

theorem exec_admissionRetire (committed : a.committed = true) (still : a.waits = []) (invalid : a.old.getLsbD 0 = false) :
    exec (.admissionRetire a.id) s = .next (admissionRetire (dropStale s a false) a) := by
  show Host.Outcome.next _ = _
  dsimp only
  rw [found]
  dsimp only
  rw [if_neg]
  simp [committed, still, codeUnmapped_invalid _ invalid, unmappedSlots_nil]

end

/-! ### Retirement -/

/-- What the retirement of a store leaves. -/
theorem admissionRetire_store {s : State} {a : Admission} (found : s.admissions.find? (fun x => x.id == a.id) = some a)
    (committed : a.committed = true) (still : a.waits = []) (invalid : a.old.getLsbD 0 = false) (store : a.root = none)
    (ended : opOf (warpOf s a.warp) a.op = none) : ∃ t, exec (.admissionRetire a.id) s = .next t ∧
      (∀ x ∈ t.admissions, x.id ≠ a.id) ∧ t.types = s.types ∧ WarpsKept s t := by
  have dropped := dropStale_stored s a false
  refine ⟨withoutAdmission (dropStale s a false) a.id, (exec_admissionRetire found committed still invalid).trans ?_,
    withoutAdmission_gone _ _, dropped.types, dropped.warpOf⟩
  rw [admissionRetire_invalid store invalid, admissionAck_ended (by rw [dropped.warpOf]; exact ended)]

/-- What the retirement of an old root leaves. -/
structure RootRetired (s : State) (n f : Nat) (t : State) : Prop where
  gone : ∀ x ∈ t.admissions, x.id ≠ n
  warps : WarpsKept s t
  count : teCount (typeOf t f) = teCount (typeOf s f) - 1
  types : ∀ g, g ≠ f → typeOf t g = typeOf s g

theorem countDrop_stays {s : State} {f : Nat} (stays : f ∉ s.leaving) : countDrop s f = countAdd s f (-1) :=
  if_neg fun leaves => stays (by simpa using leaves.1)

theorem admissionRetire_root {s : State} {a : Admission} (found : s.admissions.find? (fun x => x.id == a.id) = some a)
    (committed : a.committed = true) (still : a.waits = []) (invalid : a.old.getLsbD 0 = false) {f : Nat} (root : a.root = some f)
    (stays : f ∉ s.leaving) (typed : hasType s f = true) :
    ∃ t, exec (.admissionRetire a.id) s = .next t ∧ RootRetired s a.id f t := by
  have dropped := dropStale_stored s a false
  have counted : admissionRetire (dropStale s a false) a = countAdd (withoutAdmission (dropStale s a false) a.id) f (-1) := by
    unfold admissionRetire
    rw [root]
    dsimp only
    rw [← withoutAdmission, if_pos (show hasType (withoutAdmission (dropStale s a false) a.id) f = true from
      (dropped.hasType f).trans typed)]
    exact countDrop_stays (show f ∉ (dropStale s a false).leaving by rwa [dropped.leaving])
  refine ⟨_, (exec_admissionRetire found committed still invalid).trans (congrArg Host.Outcome.next counted),
    withoutAdmission_gone _ _, dropped.warpOf, ?_, fun g other => ?_⟩
  · rw [teCount_countAdd_neg_one, show typeOf (withoutAdmission (dropStale s a false) a.id) f = typeOf s f from dropped.typeOf f]
  · exact (typeOf_countAdd_ne _ _ other).trans (dropped.typeOf g)

/-! ### Refusal -/

theorem pmonCount_rest (s : State) (t code n : Nat) : { pmonCount s t code n with tenants := s.tenants } = s := by
  unfold pmonCount
  dsimp only
  split <;> rfl

theorem vlog_pmonCount (s : State) (t code n k : Nat) : (tenantOf (pmonCount s t code n) k).vlog = (tenantOf s k).vlog := by
  unfold pmonCount
  dsimp only
  split
  · rfl
  · rw [tenantOf_setTenant]
    split
    · next same => subst same; rfl
    · rfl

/-- The newest entry of a violation log comes first. -/
theorem vlogPush_first (l : Tbl Dword) (v : Dword) : Tbl.get 0 (vlogPush l v) 0 = v := by
  refine List.foldlRecOn (motive := fun m => Tbl.get 0 m 0 = v) _ _ (Tbl.get_set_same ..) fun m first i listed => ?_
  have := List.mem_range.mp listed
  rw [Tbl.get_set_ne _ _ _ (by omega)]
  exact first

/-- The warp whose store is refused. -/
def refusedWarp (w : Warp) (code : Nat) (va : Dword) : Warp :=
  let v := warpEvent w .refused
  { v with
    ctl := { v.ctl with wstat := v.ctl.wstat ||| BitVec.ofNat 32 (2 ^ (15 + code)) }
    refN := min 255 (v.refN + 1)
    refVA := if v.refVA.length < 6 then v.refVA ++ [va] else v.refVA }

/-- What a refused store leaves. -/
structure StoreRefused (s : State) (wk t code : Nat) (va : Dword) (u : State) : Prop where
  warp : warpOf u wk = refusedWarp (warpOf s wk) code va
  log : Tbl.get 0 (tenantOf u t).vlog 0 = vlogEntry code va
  types : u.types = s.types
  mem : u.mem = s.mem

theorem refuseStore_refused (s : State) (wk t code : Nat) (va : Dword) : StoreRefused s wk t code va (refuseStore s wk t code va) := by
  unfold refuseStore
  dsimp only
  generalize logged : setTenant _ t _ = u
  have rest := pmonCount_rest u t 6 1
  have warps := congrArg State.warps rest
  have types := congrArg State.types rest
  have mem := congrArg State.mem rest
  subst logged
  refine ⟨?_, ?_, types, mem⟩
  · refine (congrArg (fun l => Tbl.get Warp.blank l wk) warps).trans ?_
    exact warpOf_setWarp_same s wk (refusedWarp (warpOf s wk) code va)
  · rw [vlog_pmonCount, tenantOf_setTenant_same]
    dsimp only
    rw [vlogPush_first]

/-- What the refusal of a page-table store leaves. -/
structure AdmissionRefused (s : State) (a : Admission) (code : Nat) (t : State) : Prop where
  gone : ∀ x ∈ t.admissions, x.id ≠ a.id
  types : t.types = s.types
  mem : t.mem = s.mem
  record : (warpOf t a.warp).ctl.fSys.refused = true
  log : Tbl.get 0 (tenantOf t a.tenant).vlog 0 = vlogEntry code a.va

theorem admissionRefuse_refused {s : State} {a : Admission} (code : Nat) (ended : opOf (warpOf s a.warp) a.op = none) :
    AdmissionRefused s a code (admissionRefuse s a code) := by
  obtain ⟨warp, log, types, mem⟩ := refuseStore_refused s a.warp a.tenant code a.va
  have acked : admissionRefuse s a code = withoutAdmission (refuseStore s a.warp a.tenant code a.va) a.id :=
    admissionAck_ended (by rw [warp]; exact ended)
  rw [acked]
  exact ⟨withoutAdmission_gone _ _, types, mem, (congrArg (fun w : Warp => w.ctl.fSys.refused) warp).trans rfl, log⟩

/-! ### Commit -/

/-- The gathers of a tenant keep their numbers. -/
theorem keepOld_id (addr : Nat) (old : Dword) (o : PendOp) : (keepOld addr old o).id = o.id := by
  unfold keepOld
  split
  · split <;> rfl
  · rfl

theorem opOf_keepOlds {s : State} {w op : Nat} (ended : opOf (warpOf s w) op = none) (t addr : Nat) (old : Dword) :
    opOf (warpOf (keepOlds s t addr old) w) op = none := by
  refine foldl_preserves (P := fun u => opOf (warpOf u w) op = none) (fun u x still => ?_) _ ended
  rw [warpOf_setWarp]
  split
  · next same =>
    subst same
    simp only [opOf, List.find?_eq_none, List.mem_map, forall_exists_index, and_imp] at still ⊢
    rintro _ o listed rfl
    rw [keepOld_id]
    exact still o listed
  · exact still

theorem keepOlds_rest (s : State) (t addr : Nat) (old : Dword) : { keepOlds s t addr old with warps := s.warps } = s :=
  foldl_preserves (P := fun u : State => { u with warps := s.warps } = s) (by exact fun _ _ same => same) _ rfl

theorem typeOf_keepOlds (s : State) (t addr : Nat) (old : Dword) (f : Nat) : typeOf (keepOlds s t addr old) f = typeOf s f := by
  have same := congrArg (fun u => typeOf u f) (keepOlds_rest s t addr old); exact same

/-- Frames that each have room for one more reference gain it. -/
theorem teCount_foldl_countAdd {l : List Nat} (distinct : l.Nodup) {s : State} (room : ∀ f ∈ l, teCount (typeOf s f) < 0xFFFFFF) (f : Nat) :
    teCount (typeOf (l.foldl (fun u f => countAdd u f 1) s) f) = teCount (typeOf s f) + (if f ∈ l then 1 else 0) := by
  induction l generalizing s with
  | nil => rfl
  | cons g l ih =>
    obtain ⟨fresh, distinct⟩ := List.nodup_cons.mp distinct
    have away (x : Nat) (listed : x ∈ l) : typeOf (countAdd s g 1) x = typeOf s x :=
      typeOf_countAdd_ne _ _ (ne_of_mem_of_not_mem listed fresh)
    rw [List.foldl_cons, ih distinct fun x listed => by rw [away x listed]; exact room x (List.mem_cons_of_mem _ listed)]
    by_cases same : f = g
    · subst same
      rw [if_neg fresh, teCount_countAdd_one (room f List.mem_cons_self), if_pos List.mem_cons_self]
    · rw [typeOf_countAdd_ne _ _ same]
      simp [same]

theorem foldl_countAdd_rest (l : List Nat) (s : State) : { l.foldl (fun u f => countAdd u f 1) s with types := s.types } = s :=
  foldl_preserves (P := fun u : State => { u with types := s.types } = s) (by exact fun _ _ same => same) l rfl

/-- A store that passes the checks finds room in the counts of what it references. -/
theorem room_of_admitted {s : State} {t n : Nat} {e : Dword} (admitted : admissionCode s t n e = 0) :
    ∀ f ∈ targetsOf n e, teCount (typeOf s f) < 0xFFFFFF := by
  intro f target
  unfold admissionCode at admitted
  dsimp only at admitted
  split at admitted
  · next invalid => rw [targetsOf_invalid n invalid] at target; cases target
  split at admitted
  · next window =>
    rw [Bool.and_eq_true] at window
    rw [show targetsOf n e = [] from if_pos (.inr window.2)] at target
    cases target
  split at admitted
  · cases admitted
  split at admitted
  · cases admitted
  split at admitted
  · cases admitted
  split at admitted
  · cases admitted
  split at admitted
  · cases admitted
  split at admitted
  · cases admitted
  · next room =>
    simp only [List.any_eq_true, decide_eq_true_eq, not_exists, not_and] at room
    have := room f target
    omega

theorem Tbl.mem_set {α : Type} {t : Tbl α} {k : Nat} {v : α} {e : Nat × α} (listed : e ∈ Tbl.set t k v) : e ∈ t ∨ e = (k, v) := by
  induction t with
  | nil => exact .inr (List.mem_singleton.mp listed)
  | cons x t ih =>
    obtain ⟨j, w⟩ := x
    rw [Tbl.set] at listed
    split at listed
    · exact (List.mem_cons.mp listed).symm.imp_left (List.mem_cons_of_mem _)
    · split at listed
      · exact (List.mem_cons.mp listed).symm
      · rcases List.mem_cons.mp listed with same | later
        · exact .inl (same ▸ List.mem_cons_self)
        · exact (ih later).imp_left (List.mem_cons_of_mem _)

/-- A block replaced by one with the same lines, as much a replay as it was. -/
theorem Unheld.setBlock {s : State} {a n k : Nat} (h : Unheld s a n) {b : Block} (lines : b.lines = (blockOf s k).lines)
    (run : b.replay = (blockOf s k).replay) : Unheld (setBlock s k b) a n := by
  intro e listed runs l line dirty
  rcases Tbl.mem_set listed with before | rfl
  · exact h e before runs l line dirty
  · dsimp only at runs line
    rw [lines] at line
    rw [run] at runs
    have known : blockOf s k ≠ Block.blank := by
      intro blank
      rw [blank] at line
      cases line
    exact h (k, blockOf s k) (Tbl.mem_of_get_ne known) runs l line dirty

/-- A committed entry stands at its place. -/
theorem commitWrite_holds (s : State) (k a v : Nat) : Holds (commitWrite s k a (leBytes 8 v)) a 8 (v % 2 ^ 64) := by
  have written : Holds (writeBytes s a (leBytes 8 v)) a 8 (v % 2 ^ 64) := by
    have now := writeBytes_value_holds s a 8 v
    norm_num at now ⊢
    exact now
  have noted : Holds (noteAudit (writeBytes s a (leBytes 8 v)) k (snoop s none a (leBytes 8 v).length true).mem
      (writeBytes s a (leBytes 8 v)).mem a (leBytes 8 v).length) a 8 (v % 2 ^ 64) := by
    unfold noteAudit
    split
    · exact written
    · exact written.congr rfl rfl
  unfold commitWrite
  dsimp only
  split
  · exact noted
  · exact ⟨noted.unheld.setBlock rfl rfl, noted.value⟩

theorem commitWrite_stored (s : State) (k a : Nat) (d : List Byte) : OnlyStored s (commitWrite s k a d) := by
  have noted := (writeBytes_stored s a d).trans (noteAudit_stored (writeBytes s a d) k (snoop s none a d.length true).mem
    (writeBytes s a d).mem a d.length)
  unfold commitWrite
  dsimp only
  split
  · exact noted
  · exact noted.rewritten ..

/-- What a commit over an entry that was zero leaves. -/
structure AdmissionCommitted (s : State) (n : Nat) (a : Admission) (t : State) : Prop where
  value : physGet t a.addr 8 = a.new.toNat
  gone : ∀ x ∈ t.admissions, x.id ≠ a.id
  counts : (targetsOf n a.new).Nodup → ∀ f, teCount (typeOf t f) =
    teCount (typeOf s f) + (if f ∈ targetsOf n a.new then 1 else 0)

theorem admissionCommit_fresh {s : State} {a : Admission} (n : Nat) (store : a.root = none) (empty : physGet s a.addr 8 = 0)
    (ended : opOf (warpOf s a.warp) a.op = none) (room : ∀ f ∈ targetsOf n a.new, teCount (typeOf s f) < 0xFFFFFF) :
    AdmissionCommitted s n a (admissionCommit s n a) := by
  unfold admissionCommit
  dsimp only
  rw [empty]
  generalize kept : keepOlds s a.tenant a.addr (BitVec.ofNat 64 0) = u
  have ended' : opOf (warpOf u a.warp) a.op = none := kept ▸ opOf_keepOlds ended ..
  have types (f : Nat) : typeOf u f = typeOf s f := kept ▸ typeOf_keepOlds ..
  generalize counted : (targetsOf n a.new).foldl (fun u f => countAdd u f 1) u = v
  have counts (distinct : (targetsOf n a.new).Nodup) (f : Nat) : teCount (typeOf v f) =
      teCount (typeOf s f) + (if f ∈ targetsOf n a.new then 1 else 0) := by
    rw [← counted, teCount_foldl_countAdd distinct fun f target => by rw [types]; exact room f target, types]
  have warps : warpOf v a.warp = warpOf u a.warp := by
    have same := congrArg (fun t => warpOf t a.warp) (foldl_countAdd_rest (targetsOf n a.new) u)
    rw [counted] at same
    exact same
  have stored := commitWrite_stored v (warpOf v a.warp).blk a.addr (leBytes 8 a.new.toNat)
  have holds := commitWrite_holds v (warpOf v a.warp).blk a.addr a.new.toNat
  generalize commitWrite v (warpOf v a.warp).blk a.addr (leBytes 8 a.new.toNat) = t at stored holds ⊢
  have late : opOf (warpOf t a.warp) a.op = none := by rw [stored.warpOf, warps]; exact ended'
  rw [withOp_ended _ late, if_neg (fun valid => by simp [pteV] at valid), admissionRetire_invalid (by exact store) (by simp),
    admissionAck_ended (by exact late)]
  refine ⟨?_, withoutAdmission_gone _ _, fun distinct f => ?_⟩
  · rw [(holds.congr (t := withoutAdmission t a.id) rfl rfl).physGet, Nat.mod_eq_of_lt a.new.isLt]
  · rw [← counts distinct f, ← stored.typeOf f]
    rfl

end Sys2Proof.Machine
end

section
/-! SUPPORT. The erasure of a tenant, step by step (R290, R295, R296), and the selection of a tenant's monitors (R367). -/

namespace Sys2Proof.Machine

/-! ### The request (step 1) -/

theorem tenantOf_stopQueues (s : State) (tn k : Nat) : tenantOf (stopQueues s tn) k = if tn = k then
    { tenantOf s tn with pending := [], completed := [], stopped := [], halted := [], marks := [], bells := [] }
  else tenantOf s k := tenantOf_setTenant ..

theorem erasureRequest_rejects {s : State} {tn : Nat} (nonce : BitVec 256) (bad : 64 ≤ tn) :
    OnlyReplies (.erasureRequest tn nonce) (.error tn) s := congrArg Host.Outcome.next (if_neg (by rw [isTenant_iff]; omega))

theorem exec_erasureRequest {s : State} {tn : Nat} (nonce : BitVec 256) (tenant : tn < 64) :
    exec (.erasureRequest tn nonce) s = .next (startErasure s tn nonce) :=
  congrArg Host.Outcome.next (if_pos (isTenant_iff.mpr tenant))

/-- A tenant at the start of its erasure. -/
def erasedTenant (x : Tenant) (nonce : BitVec 256) : Tenant :=
  { x with
    pending := [], completed := [], stopped := [], halted := [], marks := [], bells := []
    created := false, sched := x.sched &&& ~~~ 0xFFFFF#128, erasure := some ⟨1, nonce, x.world.toNat, 0, 0, 0, 0⟩ }

theorem startErasure_idle {s : State} {tn : Nat} (idle : tenantBlocks s tn = []) (nonce : BitVec 256) :
    startErasure s tn nonce = setTenant (stopQueues s tn) tn (erasedTenant (tenantOf s tn) nonce) := by
  unfold startErasure
  rw [idle]
  dsimp only [List.foldl_nil]
  rw [tenantOf_stopQueues, if_pos rfl]
  rfl

theorem getLsbD_erased_groups (v : BitVec 128) {g : Nat} (group : g < 20) : (v &&& ~~~ 0xFFFFF#128).getLsbD g = false := by
  have set : (0xFFFFF#128).getLsbD g = true := by
    have table : ∀ g : Fin 20, (0xFFFFF#128).getLsbD g = true := by decide
    exact table ⟨g, group⟩
  rw [BitVec.getLsbD_and, BitVec.getLsbD_not, set]
  simp

/-- What an erasure that meets no live block leaves at its start. -/
structure ErasureStarted (s : State) (tn : Nat) (nonce : BitVec 256) (t : State) : Prop where
  tenant : tenantOf t tn = erasedTenant (tenantOf s tn) nonce
  others : ∀ k, k ≠ tn → tenantOf t k = tenantOf s k
  warps : WarpsKept s t
  mem : t.mem = s.mem

theorem erasureRequest_starts {s : State} {tn : Nat} (nonce : BitVec 256) (tenant : tn < 64) (idle : tenantBlocks s tn = []) :
    ∃ t, exec (.erasureRequest tn nonce) s = .next t ∧ ErasureStarted s tn nonce t := by
  refine ⟨_, (exec_erasureRequest nonce tenant).trans (congrArg Host.Outcome.next (startErasure_idle idle nonce)), ?_, fun k other => ?_,
    fun _ => rfl, rfl⟩
  · rw [tenantOf_setTenant_same]
  · rw [tenantOf_setTenant, if_neg (Ne.symm other), tenantOf_stopQueues, if_neg (Ne.symm other)]

/-! ### Steps 1 and 2: the work has stopped, the keys are revoked -/

section
variable {s : State} {tn : Nat} {e : Erasure} (erasing : (tenantOf s tn).erasure = some e)
include erasing

theorem erasureStep_fails : OnlyReplies (.erasureStepComplete tn false) (.error tn) s := by
  show Host.Outcome.next _ = _
  dsimp only
  rw [erasing]
  rfl

theorem erasureStep_works (first : e.step = 1) (works : tenantBlocks s tn ≠ []) :
    exec (.erasureStepComplete tn true) s = .next s := by
  show Host.Outcome.next _ = _
  dsimp only
  rw [erasing]
  dsimp only
  rw [if_neg (by simp), if_pos first, if_neg (by simpa using works)]

/-- The state in which the erasure of a tenant is at `f`. -/
def erasureAt (s : State) (tn : Nat) (f : Erasure) : State := setTenant s tn { tenantOf s tn with erasure := some f }

theorem exec_erasureStep_one (first : e.step = 1) (idle : tenantBlocks s tn = []) : exec (.erasureStepComplete tn true) s =
    .next (erasureAt ((tenantKeys s tn).foldl (fun u k => revokeKey u k true none) s) tn
      { e with step := 2, slots := slotBits (tenantKeys s tn) }) := by
  show Host.Outcome.next _ = _
  dsimp only
  rw [erasing]
  dsimp only
  rw [if_neg (by simp), if_pos first, if_pos (by simp [idle])]
  rfl

theorem exec_erasureStep_two (second : e.step = 2) : exec (.erasureStepComplete tn true) s = .next (erasureAt s tn { e with step := 3 }) := by
  show Host.Outcome.next _ = _
  dsimp only
  rw [erasing]
  dsimp only
  rw [if_neg (by simp), if_neg (by omega), if_pos second]
  rfl

theorem erasureStep_busy (third : e.step = 3) (busy : framesBusy s tn = true) : exec (.erasureStepComplete tn true) s = .next s := by
  show Host.Outcome.next _ = _
  dsimp only
  rw [erasing]
  dsimp only
  rw [if_neg (by simp), if_neg (by omega), if_neg (by omega), if_pos third, if_pos busy]

theorem exec_erasureStep_three (third : e.step = 3) (free : framesBusy s tn = false) : exec (.erasureStepComplete tn true) s =
    .next (eraseFrames (setTenant s tn { tenantOf s tn with spaces := 0 }) tn { e with spaces := (tenantOf s tn).spaces }) := by
  show Host.Outcome.next _ = _
  dsimp only
  rw [erasing]
  dsimp only
  rw [if_neg (by simp), if_neg (by omega), if_neg (by omega), if_pos third, if_neg (by simp [free])]

theorem exec_erasureStep_four (fourth : e.step = 4) : exec (.erasureStepComplete tn true) s = .next (finishFrames s tn e) := by
  show Host.Outcome.next _ = _
  dsimp only
  rw [erasing]
  dsimp only
  rw [if_neg (by simp), if_neg (by omega), if_neg (by omega), if_neg (by omega), if_pos fourth]

theorem exec_erasureStep_five (fifth : e.step = 5) : exec (.erasureStepComplete tn true) s =
    .next (announce s (changeTenant (writeReceipt s tn e) tn (tenantOf (writeReceipt s tn e) tn)) (some tn) (.accepted tn 0)) := by
  show Host.Outcome.next _ = _
  dsimp only
  rw [erasing]
  dsimp only
  rw [if_neg (by simp), if_neg (by omega), if_neg (by omega), if_neg (by omega), if_neg (by omega)]

end

theorem tenantOf_erasureAt (s : State) (tn : Nat) (f : Erasure) : tenantOf (erasureAt s tn f) tn = { tenantOf s tn with erasure := some f } :=
  tenantOf_setTenant_same ..

theorem keyOf_revokeKey (s : State) (slot k : Nat) : keyOf (revokeKey s slot true none) k =
    if slot = k then { keyOf s slot with state := .revoked, asker := none } else keyOf s k := by
  have stored := dropKeyLines_stored s slot false
  refine (keyOf_setKey ..).trans ?_
  rw [stored.keyOf]

/-- Key slots of a list are revoked, whatever they were. -/
theorem foldl_revokeKey_revoked {l : List Nat} {s : State} {k : Nat} (start : k ∈ l ∨ (keyOf s k).state = .revoked) :
    (keyOf (l.foldl (fun u k => revokeKey u k true none) s) k).state = .revoked := by
  induction l generalizing s with
  | nil => exact start.resolve_left (by simp)
  | cons j l ih =>
    refine ih ?_
    by_cases later : k ∈ l
    · exact .inl later
    refine .inr ?_
    rw [keyOf_revokeKey]
    split
    · rfl
    · next other => exact start.resolve_left fun listed => (List.mem_cons.mp listed).elim (fun same => other same.symm) later

theorem mem_tenantKeys {s : State} {tn k : Nat} (slot : k ≠ 0) (mine : (keyOf s k).tenant = tn) (used : (keyOf s k).state ≠ .empty) :
    k ∈ tenantKeys s tn := by
  have listed : (k, keyOf s k) ∈ s.keys := Tbl.mem_of_get_ne fun blank => used (congrArg KeySlot.state blank)
  exact List.mem_map.mpr ⟨_, List.mem_filter.mpr ⟨listed, by simp [mine, used, slot]⟩, rfl⟩

/-! ### Step 3: nothing uses the frames; they are zeroed (step 4) -/

/-- A release of regions changes the regions of one tenant. -/
theorem tenantOf_releaseRegions (s : State) (tn k : Nat) :
    { tenantOf (releaseRegions s tn) k with hosts := (tenantOf s k).hosts } = tenantOf s k := by
  unfold releaseRegions
  dsimp only
  rw [tenantOf_setTenant]
  split
  · next same => subst same; rfl
  · rfl

/-- Every tenant keeps its address spaces. -/
def SpacesKept (s t : State) : Prop := ∀ k, (tenantOf t k).spaces = (tenantOf s k).spaces

namespace SpacesKept

theorem refl (s : State) : SpacesKept s s := fun _ => rfl

theorem trans {s t u : State} (first : SpacesKept s t) (second : SpacesKept t u) : SpacesKept s u :=
  fun k => (second k).trans (first k)

theorem of_stored {s t : State} (h : OnlyStored s t) : SpacesKept s t := fun k => by rw [h.tenantOf k]

theorem foldl {α : Type} {f : State → α → State} (step : ∀ t x, SpacesKept t (f t x)) (s : State) (l : List α) :
    SpacesKept s (l.foldl f s) :=
  foldl_preserves (P := SpacesKept s) (fun t x so => so.trans (step t x)) l (.refl s)

theorem releaseRegions (s : State) (tn : Nat) : SpacesKept s (releaseRegions s tn) := fun k => by
  have same := congrArg Tenant.spaces (tenantOf_releaseRegions s tn k)
  exact same

theorem countDrop (s : State) (f : Nat) : SpacesKept s (countDrop s f) := by
  unfold Machine.countDrop
  dsimp only
  split
  · split
    · exact fun k => SpacesKept.releaseRegions _ _ k
    · intro k
      rw [tenantOf_setType, (zeroFrame_stored ..).tenantOf]
      rfl
  · exact fun _ => rfl

theorem countRoot (s : State) (f : Nat) (n : Int) : SpacesKept s (countRoot s f n) := fun k => by
  rw [(OnlyTyped.countRoot s f n).tenantOf]

theorem dropTables (s : State) (tn : Nat) (own : List Nat) : SpacesKept s (dropTables s tn own) := by
  refine (countRoot s _ _).trans (foldl (fun t f => ?_) _ _)
  split
  · exact fun _ => rfl
  · exact countDrop t f

theorem leaveSlots (s : State) (tn : Nat) : SpacesKept s (leaveSlots s tn) := foldl (f := fun u e => leaveSlot u tn e) (fun _ _ _ => rfl) s _

theorem releaseFrame (s : State) (f : Nat) : SpacesKept s (releaseFrame s f) := by
  unfold Machine.releaseFrame
  dsimp only
  split
  · exact .refl s
  · split <;> exact fun _ => rfl

end SpacesKept

/-- A tenant whose frames are being erased has no root. -/
theorem tenantOf_eraseFrames (s : State) (tn : Nat) (e : Erasure) : ∃ n, (tenantOf (eraseFrames s tn e) tn).erasure =
      some { e with step := 4, frames := n } ∧ (tenantOf (eraseFrames s tn e) tn).root = 0 ∧
    (tenantOf (eraseFrames s tn e) tn).spaces = (tenantOf s tn).spaces := by
  have zeroed : SpacesKept s ((ownedFrames s tn).foldl eraseFrame (dropTables (leaveSlots s tn) tn (ownedFrames s tn))) :=
    ((SpacesKept.leaveSlots s tn).trans (.dropTables _ _ _)).trans (.foldl (fun t f => .of_stored (eraseFrame_stored t f)) _ _)
  have released := zeroed.trans (.foldl SpacesKept.releaseFrame _ ((ownedFrames s tn).filter fun f => !isHost (f * 65536)))
  refine ⟨(ownedFrames s tn).length, ?_, ?_, ?_⟩ <;> rw [eraseFrames, tenantOf_setTenant_same]
  exact released tn

/-! ### Step 4: the frames are released, the keys destroyed -/

/-- Type entries, regions of one tenant and key slots change, and nothing that a program sees. -/
structure Finishing (tn : Nat) (s t : State) : Prop where
  others : ∀ k, k ≠ tn → tenantOf t k = tenantOf s k
  mem : t.mem = s.mem
  warps : t.warps = s.warps

namespace Finishing

variable {tn : Nat}

theorem refl (s : State) : Finishing tn s s := ⟨fun _ _ => rfl, rfl, rfl⟩

theorem trans {s t u : State} (first : Finishing tn s t) (second : Finishing tn t u) : Finishing tn s u :=
  ⟨fun k other => (second.others k other).trans (first.others k other), second.mem.trans first.mem, second.warps.trans first.warps⟩

theorem foldl {α : Type} {f : State → α → State} (step : ∀ t x, Finishing tn t (f t x)) (s : State) (l : List α) :
    Finishing tn s (l.foldl f s) :=
  foldl_preserves (P := Finishing tn s) (fun t x so => so.trans (step t x)) l (.refl s)

theorem setTenant (s : State) (x : Tenant) : Finishing tn s (setTenant s tn x) :=
  ⟨fun _ other => (tenantOf_setTenant ..).trans (if_neg (Ne.symm other)), rfl, rfl⟩

theorem releaseFrame (s : State) (f : Nat) : Finishing tn s (releaseFrame s f) := by
  unfold Machine.releaseFrame
  dsimp only
  split
  · exact .refl s
  · split <;> exact ⟨fun _ _ => rfl, rfl, rfl⟩

theorem destroyKeys (s : State) (l : List Nat) : Finishing tn s (destroyKeys s l) := by
  refine .foldl (fun t k => ?_) s l
  split
  · exact ⟨fun _ _ => rfl, rfl, rfl⟩
  · exact .refl t

end Finishing

theorem finishFrames_finishing (s : State) (tn : Nat) (e : Erasure) : Finishing tn s (finishFrames s tn e) := by
  have released : Finishing tn s ((ownedFrames s tn).foldl (fun u f => if isHost (f * 65536) then releaseFrame u f else u) s) := by
    refine .foldl (fun t f => ?_) s _
    split
    · exact .releaseFrame t f
    · exact .refl t
  exact ((released.trans (.setTenant ..)).trans (.destroyKeys ..)).trans (.setTenant ..)

/-- A tenant whose frames are released has an empty log, and no world. -/
theorem tenantOf_finishFrames (s : State) (tn : Nat) (e : Erasure) : ∃ f : Erasure, f.step = 5 ∧
    (tenantOf (finishFrames s tn e) tn).erasure = some f ∧ (tenantOf (finishFrames s tn e) tn).vlog = [] ∧
    (tenantOf (finishFrames s tn e) tn).world = 0 := by
  unfold finishFrames
  dsimp only
  rw [tenantOf_setTenant_same]
  exact ⟨_, rfl, rfl, rfl, rfl⟩

/-! ### Step 5: the receipt -/

theorem tenantOf_writeReceipt (s : State) (tn : Nat) (e : Erasure) :
    tenantOf (writeReceipt s tn e) tn = { tenantOf s tn with erasure := none } := tenantOf_setTenant_same ..

/-- The receipt is no part of the records that are replicated. -/
theorem announce_writeReceipt (s u : State) (tn : Nat) (e : Erasure) (r : Reply) :
    announce s u (some tn) r = announce (writeReceipt s tn e) u (some tn) r := by
  have record : tenRec (tenantOf (writeReceipt s tn e) tn) = tenRec (tenantOf s tn) := by rw [tenantOf_writeReceipt]; rfl
  have change : changeFrom (writeReceipt s tn e) u (some tn) r (ackers u) = changeFrom s u (some tn) r (ackers u) := by
    unfold changeFrom
    rw [Option.map_some, Option.map_some, record]
    rfl
  unfold announce
  rw [change]

/-- What the last step of an erasure leaves. -/
structure ErasureEnded (s : State) (tn : Nat) (e : Erasure) (t : State) : Prop where
  done : (tenantOf t tn).erasure = none
  seq : t.plat.seq = s.plat.seq + 1
  receipt : t.plat.receipt = signed (receiptBytes tn (s.plat.seq + 1) e)
  announced : Announced (some tn) (.accepted tn 0) (writeReceipt s tn e) t

theorem erasureStep_ends {s : State} {tn : Nat} {e : Erasure} (erasing : (tenantOf s tn).erasure = some e) (fifth : e.step = 5) :
    ∃ t, exec (.erasureStepComplete tn true) s = .next t ∧ ErasureEnded s tn e t := by
  have leader := sameLeader_changeTenant (writeReceipt s tn e) tn (tenantOf (writeReceipt s tn e) tn)
  have announced := announce_announced leader (some tn) (.accepted tn 0)
  refine ⟨_, (exec_erasureStep_five erasing fifth).trans (congrArg Host.Outcome.next (announce_writeReceipt s _ tn e _)), ?_, ?_, ?_,
    announced⟩
  · rw [tenantOf_announce leader _ (by rw [tenantOf_changeTenant_same]), tenantOf_changeTenant_same, tenantOf_writeReceipt]
  all_goals
    by_cases alone : ackers (writeReceipt s tn e) = []
    · rw [(announced.alone alone).2]; rfl
    · rw [(announced.waits alone).2]; rfl

/-! ### Monitors -/

theorem pmonSelectWrite_rejects {s : State} {tn : Nat} (v : BitVec 32) (bad : 64 ≤ tn) :
    OnlyReplies (.pmonSelectWrite tn v) (.error tn) s := congrArg Host.Outcome.next (if_neg (by rw [isTenant_iff]; omega))

theorem exec_pmonSelectWrite {s : State} {tn : Nat} (v : BitVec 32) (tenant : tn < 64) :
    exec (.pmonSelectWrite tn v) s = .next (setTenant s tn { tenantOf s tn with pmsel := v }) :=
  congrArg Host.Outcome.next (if_pos (isTenant_iff.mpr tenant))

end Sys2Proof.Machine
end

section
/-! SUPPORT. The clauses of `RecordsAndErasure`, each assembled from the rules of its event, and the statement itself. -/

namespace Sys2Proof.Machine

/-- A refused page-table store, in the words of the statement. -/
theorem admissionCheck_refuses {s : State} {a : Admission} {n : Nat} (found : s.admissions.find? (fun x => x.id == a.id) = some a)
    (waiting : a.committed = false) (first : FirstAtFrame s a) (free : homeFree s a.warp a.op a.addr = true)
    (sound : isPoison s a.addr = false) (level : tableLevel s a.addr = some n) (bad : admissionCode s a.tenant n a.new ≠ 0)
    (ended : opOf (warpOf s a.warp) a.op = none) : ∃ t, exec (.admissionCheck a.id) s = .next t ∧
      AdmissionRefused s a (admissionCode s a.tenant n a.new) t :=
  ⟨_, (exec_admissionCheck found waiting first free sound level).trans (congrArg Host.Outcome.next (if_neg bad)),
    admissionRefuse_refused _ ended⟩

/-- A store that passes the checks over an entry that was zero. -/
theorem admissionCheck_commits {s : State} {a : Admission} {n : Nat} (found : s.admissions.find? (fun x => x.id == a.id) = some a)
    (waiting : a.committed = false) (first : FirstAtFrame s a) (free : homeFree s a.warp a.op a.addr = true)
    (sound : isPoison s a.addr = false) (level : tableLevel s a.addr = some n) (good : admissionCode s a.tenant n a.new = 0)
    (store : a.root = none) (empty : physGet s a.addr 8 = 0) (ended : opOf (warpOf s a.warp) a.op = none) :
    ∃ t, exec (.admissionCheck a.id) s = .next t ∧ AdmissionCommitted s n a t :=
  ⟨_, (exec_admissionCheck found waiting first free sound level).trans (congrArg Host.Outcome.next (if_pos good)),
    admissionCommit_fresh n store empty ended (room_of_admitted good)⟩

/-- The first step of an erasure ends with the tenant's keys revoked. -/
theorem erasureStep_revokes {s : State} {tn : Nat} {e : Erasure} (erasing : (tenantOf s tn).erasure = some e) (first : e.step = 1)
    (idle : tenantBlocks s tn = []) : ∃ t, exec (.erasureStepComplete tn true) s = .next t ∧
      ((tenantOf t tn).erasure.map fun x => x.step) = some 2 ∧
      ∀ k, k ≠ 0 → (keyOf s k).tenant = tn → (keyOf s k).state ≠ .empty → (keyOf t k).state = .revoked := by
  refine ⟨_, exec_erasureStep_one erasing first idle, ?_, fun k slot mine used => ?_⟩
  · rw [tenantOf_erasureAt]; rfl
  · exact foldl_revokeKey_revoked (.inl (mem_tenantKeys slot mine used))

/-- Settles O52, clause by clause: a rejected request answers and changes nothing; an accepted one changes the records that its event
names and is announced; the rest holds by what stores from outside the warps leave as it is. -/
theorem recordsAndErasure : Obligations.RecordsAndErasure := by
  unfold Obligations.RecordsAndErasure
  refine ⟨fun s tn v => ⟨schedRecordWrite_rejects, fun tenant some => ?sched, memoryRecordWrite_rejects v, fun tenant =>
      ⟨memoryRecordWrite_accepts tenant, fun moved => ?memory⟩⟩,
    fun s tn v => ⟨isolationRecordWrite_rejects, isolationRecordWrite_accepts⟩,
    fun s tn addr => ⟨queueTableWrite_rejects addr, queueTableWrite_accepts addr, fun tenant => ?queue⟩,
    fun s tn i first len type grant => ⟨hostRegionAdd_rejects grant, fun good => ?add⟩,
    fun s tn i => ⟨hostRegionRemove_rejects, fun given free => ?remove⟩,
    fun s tn root l1 l0 jf jc db => ⟨fun bad => tenantCreate_rejects (createBad_iff.mpr bad),
      fun tenant fresh whole frames distinct hbm old blocks => ?create⟩,
    fun s wd roster slot tn => ⟨worldCreate_rejects roster, fun good => ?world, rosterWrite_rejects roster, fun live => ?roster⟩,
    fun s slot tn => ⟨keySlotAssign_rejects, fun low high empty tenant => ?assign, keySlotFlushed_waits, fun flushing => ?flush,
      keyDestroy_waits, fun revoked unnamed => ?destroy⟩,
    fun s k inside => ?inner,
    fun s k strand => ⟨linkRekey_unbound strand, fun bound => ⟨_, exec_linkRekey strand bound, onlyLink_setLink .., linkOf_setLink_same ..⟩⟩,
    fun s a found => ⟨admissionCheck_waits found, fun n waiting first free sound level =>
        ⟨fun bad tenant ended => ?refuse, fun good store empty ended => ?commit⟩,
      admissionRetire_waits found, fun committed still invalid => ⟨admissionRetire_store found committed still invalid,
        fun f root stays typed => ?retire⟩⟩,
    fun s tn nonce => ⟨erasureRequest_rejects nonce, fun tenant idle => ?request⟩,
    fun s tn e erasing => ⟨erasureStep_fails erasing, erasureStep_works erasing, erasureStep_revokes erasing, fun second => ?two,
      erasureStep_busy erasing, fun third free => ?three, fun fourth => ?four, fun fifth => ?five⟩,
    fun s tn v => ⟨fun tenant => ⟨_, exec_pmonSelectWrite v tenant, onlyTenant_setTenant .., tenantOf_setTenant_same ..⟩,
      pmonSelectWrite_rejects v⟩⟩
  case sched =>
    obtain ⟨groups, reserved, weight, quantum, limit, save⟩ := schedRecord_readsBack s v
    exact ⟨schedRecord s v, groups, reserved, weight, quantum, limit, save, schedRecordWrite_accepts tenant some⟩
  case memory =>
    obtain ⟨t, exec, announced, record, others, warps, admissions, types, count⟩ := memoryRecordWrite_moves tenant moved
    exact ⟨t, exec, announced, record, others, warps, admissions, types, count⟩
  case queue =>
    obtain ⟨announced, warps, record, others, told⟩ := queueTableTold_set s tn addr
    exact ⟨_, exec_queueTableWrite addr tenant, announced, warps, record, others, told⟩
  case add =>
    obtain ⟨t, exec, record, inside, outside, announced, rest⟩ := hostRegionAdd_accepts grant good
    exact ⟨t, exec, record, inside, outside, announced, rest⟩
  case remove =>
    obtain ⟨t, exec, record, inside, outside, announced⟩ := hostRegionRemove_accepts given free
    exact ⟨t, exec, record, inside, outside, announced⟩
  case create =>
    have good : createBad s tn root l1 l0 jf jc db = false := by
      rw [← Bool.not_eq_true, createBad_iff]
      rintro (high | already | erasing | ⟨f, mine, gone⟩ | twice | away)
      · omega
      · rw [fresh] at already; cases already
      · rw [whole] at erasing; cases erasing
      · rw [(frames f mine).1] at gone; cases gone
      · exact twice distinct
      · exact away hbm
    obtain ⟨t, exec, warps, announced, record, given, types, told, left, top, middle, bottom⟩ :=
      tenantCreate_creates good (fun f mine => (frames f mine).2) old blocks
    have field {α : Type} (f : Tenant → α) (mark : ∀ x : Tenant, f { x with modified := true } = f x) :
        f (tenantOf t tn) = f (newTenant root jf jc db (tenantOf s tn)) := (mark _).symm.trans (congrArg f record)
    refine ⟨t, exec, warps, announced, field Tenant.jcopy fun _ => rfl, field Tenant.vlog fun _ => rfl, field Tenant.created fun _ => rfl,
      field Tenant.root fun _ => rfl, field Tenant.jframe fun _ => rfl, field Tenant.dbell fun _ => rfl, field Tenant.world fun _ => rfl,
      ?_, types, told, left, top, middle, bottom⟩
    intro e listed
    obtain ⟨x, mine, rfl⟩ : ∃ x ∈ newFrames root l1 l0 jf jc db, (x.1, x.2.1, x.2.2.1) = e :=
      List.mem_map.mp (show e ∈ (newFrames root l1 l0 jf jc db).map fun x => (x.1, x.2.1, x.2.2.1) from listed)
    obtain ⟨type, owner, world, count⟩ := given x mine
    exact ⟨type, owner, world, count⟩
  case world =>
    obtain ⟨t, exec, world, key, keys, worlds, announced, rest⟩ := worldCreate_accepts roster good
    exact ⟨t, exec, world, key, keys, worlds, announced, rest⟩
  case roster =>
    obtain ⟨t, exec, world, worlds, announced, rest⟩ := rosterWrite_accepts roster live
    exact ⟨t, exec, world, worlds, announced, rest⟩
  case assign =>
    obtain ⟨t, exec, key, keys, announced, rest⟩ := keySlotAssign_accepts low high empty tenant
    exact ⟨t, exec, key, keys, announced, rest⟩
  case flush =>
    obtain ⟨t, exec, key, keys, warps, told, lines⟩ := keySlotFlushed_flushes flushing
    exact ⟨t, exec, key, keys, warps, told, lines⟩
  case destroy =>
    refine ⟨_, exec_keyDestroy revoked unnamed, ?_, fun k other => ?_, rfl⟩
    · rw [keyOf_setKey, if_pos rfl]; rfl
    · rw [keyOf_setKey, if_neg (Ne.symm other)]
  case inner =>
    obtain ⟨t, exec, rest, link, others⟩ := linkRekey_inner s inside
    exact ⟨t, exec, rest, link, others⟩
  case refuse =>
    obtain ⟨t, exec, gone, types, mem, record, log⟩ := admissionCheck_refuses found waiting first free sound level bad ended
    exact ⟨t, exec, gone, types, mem, record, log⟩
  case commit =>
    obtain ⟨t, exec, value, gone, counts⟩ := admissionCheck_commits found waiting first free sound level good store empty ended
    exact ⟨t, exec, value, gone, counts⟩
  case retire =>
    obtain ⟨t, exec, gone, warps, count, types⟩ := admissionRetire_root found committed still invalid root stays typed
    exact ⟨t, exec, gone, warps, count, types⟩
  case request =>
    obtain ⟨t, exec, record, others, warps, mem⟩ := erasureRequest_starts nonce tenant idle
    refine ⟨t, exec, ?_, ?_, ?_, fun g group => ?_, ?_, others, warps, mem⟩
    all_goals rw [record]
    · rfl
    · rfl
    · rfl
    · exact getLsbD_erased_groups _ group
    · exact ⟨_, rfl, rfl, rfl, rfl⟩
  case two =>
    refine ⟨_, exec_erasureStep_two erasing second, ?_, onlyTenant_setTenant ..⟩
    exact congrArg (fun x : Tenant => x.erasure.map fun f => f.step) (tenantOf_erasureAt ..)
  case three =>
    obtain ⟨n, erasure, root, spaces⟩ := tenantOf_eraseFrames (setTenant s tn { tenantOf s tn with spaces := 0 }) tn
      { e with spaces := (tenantOf s tn).spaces }
    refine ⟨_, exec_erasureStep_three erasing third free, ?_, ?_, root⟩
    · exact congrArg (Option.map fun x => x.step) erasure
    · rw [spaces, tenantOf_setTenant_same]
  case four =>
    obtain ⟨f, fifth, erasure, log, world⟩ := tenantOf_finishFrames s tn e
    obtain ⟨others, mem, warps⟩ := finishFrames_finishing s tn e
    refine ⟨_, exec_erasureStep_four erasing fourth, ?_, log, world, others, mem, fun k => ?_⟩
    · exact (congrArg (Option.map fun x => x.step) erasure).trans (congrArg some fifth)
    · rw [warpOf, warps]; rfl
  case five =>
    obtain ⟨t, exec, done, seq, receipt, announced⟩ := erasureStep_ends erasing fifth
    exact ⟨t, exec, done, seq, receipt, announced⟩

end Sys2Proof.Machine
end

section
/-! SUPPORT. Control words: transfers within an overlay (R43, R164, R165), the window base (R169), a trap of a tenant's warp (R314),
and service requests with their replies (R170). -/

namespace Sys2Proof.Machine

/-! ### Transfers within an overlay (R43, R164) -/

/-- Scalars of the current warp are as the scalars that it has. -/
theorem readS_congr {s t : State} (same : (curWarp t).scalars = (curWarp s).scalars) (n : Nat) : readS t n = readS s n := by
  rw [readS, same]; rfl

theorem goTo_moved (s : State) (pc : Dword) : Moved pc none s (goTo s pc) := by
  obtain ⟨entry, others, warp, outside⟩ := setFrag_onlyEntry s { curEntry s with pc := pc, left := 0 }
  have scalars : (curWarp (goTo s pc)).scalars = (curWarp s).scalars := by rw [goTo, setFrag, curWarp_setCur]; rfl
  refine ⟨congrArg Entry.pc entry, congrArg Entry.left entry, ?_, others, nofun, fun n _ => readS_congr scalars n, ?_, outside⟩
  · exact congrArg (fun x : Entry => { x with pc := (curEntry s).pc, left := (curEntry s).left }) entry
  · exact congrArg (fun w : Warp => { w with scalars := (curWarp s).scalars }) warp

theorem transferOff_moves {s : State} {off : Nat} (good : goodTarget (curSlot s) off = true) :
    Moved (refAt (curEntry s).pc (BitVec.ofNat 16 off)) none s (transferOff s off none) := by
  rw [transferOff, if_pos good]
  exact goTo_moved ..

theorem transferOff_bad {s : State} {off : Nat} (bad : goodTarget (curSlot s) off = false) (link : Option Dword) :
    transferOff s off link = takeTrap s 5 255 (refAt (curEntry s).pc (BitVec.ofNat 16 off)) 0 := by
  rw [transferOff, if_neg (by simp [bad])]; rfl

/-! ### BR (R164, R165) -/

section
variable {s : State} {n : BitVec 1} {m : BitVec 3} {o : BitVec 21} (issues : Issues (.br n m o) s)
include issues

theorem exec_br : exec (.br n m o) s = .next (branchWord s n m o) := exec_word (effect := fun s => branchWord s n m o) issues rfl

/-- Every active lane takes the branch, or no lane is active and the branch names no lanes. -/
theorem exec_br_taken (all : (execMask s ≠ 0 ∧ takenLanes s n m = execMask s) ∨ (execMask s = 0 ∧ m = 0#3 ∧ n = 0#1)) :
    exec (.br n m o) s = .next (transferOff s (labelOff s o) none) := by
  rw [exec_br issues, branchWord]
  rcases all with ⟨active, taken⟩ | ⟨empty, plain⟩
  · rw [if_neg active, if_pos taken]
  · rw [if_pos empty, if_pos plain]

/-- No active lane takes the branch. -/
theorem exec_br_untaken (none : (execMask s ≠ 0 ∧ takenLanes s n m = 0) ∨ (execMask s = 0 ∧ ¬ (m = 0#3 ∧ n = 0#1))) :
    exec (.br n m o) s = .next s := by
  rw [exec_br issues, branchWord]
  rcases none with ⟨active, untaken⟩ | ⟨empty, named⟩
  · rw [if_neg active, if_neg (fun all => active (all.symm.trans untaken)), if_pos untaken]
  · rw [if_pos empty, if_neg named]

end

theorem branchDiverges_bad {s : State} {off : Nat} (bad : goodTarget (curSlot s) off = false) (taken : Dword) :
    branchDiverges s taken off = takeTrap s 5 255 (refAt (curEntry s).pc (BitVec.ofNat 16 off)) 0 := if_pos bad

theorem branchDiverges_splits {s : State} {off : Nat} (good : goodTarget (curSlot s) off = true) {taken : Dword} {w : Warp}
    (splits : diverge (curWarp s) s.stamp s.frag taken (refAt (curEntry s).pc (BitVec.ofNat 16 off)) (branchRcv (curEntry s)) =
      some w) : branchDiverges s taken off = setCur s w := by
  rw [branchDiverges, if_neg (by simp [good]), splits]

theorem branchDiverges_full {s : State} {off : Nat} (good : goodTarget (curSlot s) off = true) {taken : Dword}
    (full : diverge (curWarp s) s.stamp s.frag taken (refAt (curEntry s).pc (BitVec.ofNat 16 off)) (branchRcv (curEntry s)) =
      none) : branchDiverges s taken off = takeTrap s 6 255 0 0 := by
  rw [branchDiverges, if_neg (by simp [good]), full]
  exact rfl

/-- Settles O21, by the taken set of the branch: all of `EXEC`, none of it, or some of it. -/
theorem branchRules : Obligations.BranchRules := by
  unfold Obligations.BranchRules
  intro n m o s issues off ref taken
  refine ⟨fun all => ⟨fun good => ?_, fun bad => ?_⟩, exec_br_untaken issues, fun active some_ divided => ⟨fun bad => ?_, fun good => ?_⟩⟩
  · exact ⟨_, exec_br_taken issues all, transferOff_moves good⟩
  · rw [exec_br_taken issues all, transferOff_bad bad]
  · rw [exec_br_diverges issues active some_ divided, branchDiverges_bad bad]
  · rw [exec_br_diverges issues active some_ divided]
    exact ⟨fun w splits => by rw [branchDiverges_splits good splits], fun full => by rw [branchDiverges_full good full]⟩

end Sys2Proof.Machine
end

section
/-! SUPPORT. A service core whose warp names a block in replay (R170, R318, R328): the state in which the statement about the control
group fails. -/

namespace Sys2Proof.Machine

/-- A `SYSCALL` of a warp that names a block in replay abandons the replay, on a service core too (R328). -/
theorem exec_syscall_replay {p : Option Prefix} {a : BitVec 7} {s : State} (issues : Issues (.syscall p a) s)
    (replay : (curBlock s).replay = true) : exec (.syscall p a) s = .next (abandonReplay s (curWarp s).blk) := by
  rw [exec_word (effect := fun s => unlessReplay s fun s => syscallWord s (scaA s p a)) issues rfl]
  exact congrArg _ (if_pos replay)

theorem abandonReplay_killing (s : State) (k : Nat) : (blockOf (abandonReplay s k) k).status = .killing := by
  simp only [abandonReplay, blockOf_setBlock_same]

theorem takeTrap_status (s : State) (cause lane : Nat) (value : Dword) (aux : Word) (k : Nat) :
    (blockOf (takeTrap s cause lane value aux) k).status = (blockOf s k).status := (raiseTrap_onlyWaiter s s.cur _).status k

/-- Service core 0 is at a word, and the block that its warp names, number 0, is the replay of an audited one. -/
def replayingService : State := { State.reset with cur := 0, frag := 0, blocks := [(0, { Block.blank with replay := true })] }

theorem replayingService_issues : Issues (.syscall none 0) replayingService := by
  constructor
  · decide
  · decide

/-- Refutes O24: a `SYSCALL` of service core 0, whose warp names a block in replay, ends the replay where the statement has trap 19. -/
theorem not_controlGroup : ¬ Obligations.ControlGroup := by
  unfold Obligations.ControlGroup
  intro holds
  obtain ⟨-, -, -, -, -, -, service, -⟩ := holds
  have traps := service none 0 replayingService replayingService_issues (by decide)
  rw [exec_syscall_replay replayingService_issues (by decide)] at traps
  injection traps with same
  have killing := abandonReplay_killing replayingService 0
  rw [show abandonReplay replayingService 0 = _ from same, takeTrap_status] at killing
  exact absurd killing (by decide)

end Sys2Proof.Machine
end

section
/-! SUPPORT. Instruction stores (R160 to R163) and the resolution of a code reference on a READY overlay (R159). -/

namespace Sys2Proof.Machine

/-! ### The slots of a store -/

/-- A store stands in its service core or in its tenant core, and nowhere else. -/
theorem setSlots_eq (s : State) (sid : Nat) (t : Tbl Slot) : ∃ c v, setSlots s sid t = { s with cores := c, svcs := v } := by
  unfold setSlots
  split
  · exact ⟨s.cores, _, rfl⟩
  · exact ⟨_, s.svcs, rfl⟩

theorem setSlots_rest (s : State) (sid : Nat) (t : Tbl Slot) : { setSlots s sid t with cores := s.cores, svcs := s.svcs } = s := by
  obtain ⟨c, v, eq⟩ := setSlots_eq s sid t
  rw [eq]

@[simp] theorem slotsOf_setSlots (s : State) (sid : Nat) (t : Tbl Slot) : slotsOf (setSlots s sid t) sid = t := by
  unfold setSlots slotsOf
  split
  · rw [svcOf_setSvc_same]
  · rw [coreOf_setCore_same]

@[simp] theorem warpOf_setSlots (s : State) (sid : Nat) (t : Tbl Slot) (k : Nat) : warpOf (setSlots s sid t) k = warpOf s k := by
  obtain ⟨c, v, eq⟩ := setSlots_eq s sid t
  rw [eq]; rfl

@[simp] theorem setSlots_mem (s : State) (sid : Nat) (t : Tbl Slot) : (setSlots s sid t).mem = s.mem := by
  obtain ⟨c, v, eq⟩ := setSlots_eq s sid t
  rw [eq]

@[simp] theorem setSlots_cur (s : State) (sid : Nat) (t : Tbl Slot) : (setSlots s sid t).cur = s.cur := by
  obtain ⟨c, v, eq⟩ := setSlots_eq s sid t
  rw [eq]

@[simp] theorem setSlots_frag (s : State) (sid : Nat) (t : Tbl Slot) : (setSlots s sid t).frag = s.frag := by
  obtain ⟨c, v, eq⟩ := setSlots_eq s sid t
  rw [eq]

@[simp] theorem setSlots_stamp (s : State) (sid : Nat) (t : Tbl Slot) : (setSlots s sid t).stamp = s.stamp := by
  obtain ⟨c, v, eq⟩ := setSlots_eq s sid t
  rw [eq]

@[simp] theorem setSlots_warps (s : State) (sid : Nat) (t : Tbl Slot) : (setSlots s sid t).warps = s.warps := by
  obtain ⟨c, v, eq⟩ := setSlots_eq s sid t
  rw [eq]

@[simp] theorem curWarp_setSlots (s : State) (sid : Nat) (t : Tbl Slot) : curWarp (setSlots s sid t) = curWarp s := by
  rw [curWarp, setSlots_cur, warpOf_setSlots]; rfl

@[simp] theorem curEntry_setSlots (s : State) (sid : Nat) (t : Tbl Slot) : curEntry (setSlots s sid t) = curEntry s := by
  rw [curEntry, curWarp_setSlots, setSlots_frag]; rfl

/-- The store of a service core keeps all of the core but its slots. -/
theorem svcOf_setSlots (s : State) {k : Nat} (service : k < 16) (t : Tbl Slot) :
    svcOf (setSlots s k t) k = { svcOf s k with slots := t } := by
  rw [setSlots, if_pos service, svcOf_setSvc_same]

/-- Any store keeps the shelves of every service core. -/
theorem svcOf_setSlots_rest (s : State) (sid k : Nat) (t : Tbl Slot) :
    { svcOf (setSlots s sid t) k with slots := (svcOf s k).slots } = svcOf s k := by
  unfold setSlots
  split
  · rw [svcOf_setSvc]
    split
    · next same => subst same; rfl
    · rfl
  · rfl

theorem slotAt_set (t : Tbl Slot) (i j : Nat) (x : Slot) : slotAt (Tbl.set t i x) j = if i = j then x else slotAt t j := Tbl.get_set ..

/-- A slot that takes a sharer changes in nothing else (R159). -/
theorem slotAt_useSlot (t : Tbl Slot) (i tenant : Nat) : ∃ g, slotAt (useSlot t i tenant) i = { slotAt t i with sharers := g } := by
  unfold useSlot
  dsimp only
  split
  · exact ⟨_, rfl⟩
  · exact ⟨_, (slotAt_set ..).trans (if_pos rfl)⟩

/-! ### Runs of slots (R160, R162) -/

/-- A run of slots after each has been replaced by a function of what it held. -/
theorem slotAt_foldl_run (h : Nat → Slot → Slot) (t : Tbl Slot) (i n k : Nat) :
    slotAt ((List.range n).foldl (fun m j => Tbl.set m (i + j) (h j (slotAt m (i + j)))) t) k =
      if i ≤ k ∧ k < i + n then h (k - i) (slotAt t k) else slotAt t k := by
  induction n with
  | zero => exact (if_neg (by omega)).symm
  | succ n ih =>
    rw [List.range_succ, List.foldl_append, List.foldl_cons, List.foldl_nil, slotAt_set]
    by_cases last : i + n = k
    · subst last
      rw [if_pos rfl, ih, if_neg (by omega), if_pos (by omega), Nat.add_sub_cancel_left]
    · rw [if_neg last, ih]
      exact if_congr (by omega) rfl rfl

/-- The overlay leaves its slots; every slot keeps its generation. -/
theorem gen_evict (t : Tbl Slot) (i k : Nat) : (slotAt (evict t i) k).gen = (slotAt t k).gen := by
  rw [evict, slotAt_foldl_run (fun _ x => { Slot.blank with gen := x.gen, used := x.used })]
  split <;> rfl

theorem count_evict {t : Tbl Slot} {i : Nat} (held : (slotAt t i).count ≠ 0) : (slotAt (evict t i) i).count = 0 := by
  rw [evict, slotAt_foldl_run (fun _ x => { Slot.blank with gen := x.gen, used := x.used }), if_pos (by omega)]
  rfl

/-- The slots of an overlay that has been filled are used now, and no other slot changes (R162). -/
theorem slotAt_noteFill (t : Tbl Slot) (i n stamp k : Nat) :
    slotAt (noteFill t i n stamp) k = if i ≤ k ∧ k < i + n then { slotAt t k with used := stamp } else slotAt t k :=
  slotAt_foldl_run (fun _ x => { x with used := stamp }) t i n k

theorem allocate_eq (s : State) (sid f k : Nat) (r : Runner) (id : Nat) : ∃ t, allocate s sid f k r id = setSlots s sid t := ⟨_, rfl⟩

/-- The first slot of an allocated run: LOADING, for `k` slots, under a new generation. -/
structure RunLoading (t : Tbl Slot) (f k id : Nat) (x : Slot) : Prop where
  state : x.state = .loading
  gen : x.gen = (slotAt t f).gen + 1
  id : x.id = id
  count : x.count = k

theorem allocate_loading (s : State) (sid f : Nat) {k : Nat} (some : 0 < k) (r : Runner) (id : Nat) :
    RunLoading (slotsOf s sid) f k id (slotAt (slotsOf (allocate s sid f k r id) sid) f) := by
  let clear (m : Tbl Slot) (j : Nat) : Tbl Slot :=
    if (slotAt m (f + j)).count = 0 then m else evict m (slotAt m (f + j)).first
  have cleared : ∀ l, (slotAt ((List.range k).foldl clear (slotsOf s sid)) l).gen = (slotAt (slotsOf s sid) l).gen := by
    refine foldl_preserves (P := fun m : Tbl Slot => ∀ l, (slotAt m l).gen = (slotAt (slotsOf s sid) l).gen)
      (fun m j same l => ?_) _ fun _ => rfl
    refine Eq.trans ?_ (same l)
    by_cases free : (slotAt m (f + j)).count = 0
    · rw [show clear m j = m from if_pos free]
    · rw [show clear m j = evict m _ from if_neg free, gen_evict]
  rw [allocate, slotsOf_setSlots, slotAt_foldl_run (fun j x => ⟨.loading, x.gen + 1, f, if j = 0 then k else 1, id,
    imagePieces s r id k, r.world, [r.tenant], 0, [], x.used, if j = 0 then 1 else 0⟩), if_pos (by omega)]
  exact ⟨rfl, congrArg (· + 1) (cleared f), rfl, if_pos (Nat.sub_self f)⟩

/-! ### Resolution (R159) -/

section
variable {s : State} {sid : Nat} {r : Runner} {self : Nat × Nat} {c : Dword}

/-- A resolution changes at most the store that it is made on. -/
theorem resolve_state : (resolve s sid r self c).1 = s ∨ ∃ t, (resolve s sid r self c).1 = setSlots s sid t := by
  unfold resolve
  split
  · exact .inl rfl
  · split
    · next n _ =>
      refine .inr ⟨useSlot (slotsOf s sid) n r.tenant, ?_⟩
      dsimp only
      split <;> rfl
    · unfold demandReload
      split
      · exact .inl rfl
      · exact .inl rfl
      · dsimp only
        split
        · exact .inl rfl
        · split
          · exact .inl rfl
          · split
            · exact .inl rfl
            · exact .inl rfl
            · exact .inr (allocate_eq ..)

theorem resolve_bad (bad : refBad c = true) : resolve s sid r self c = (s, .trap 5 0 c) := if_pos bad

theorem applyOff_useSlot (t : Tbl Slot) (i tenant : Nat) : applyOff (useSlot t i tenant) i c = applyOff t i c := by
  obtain ⟨g, used⟩ := slotAt_useSlot t i tenant
  unfold applyOff
  rw [used]
  rfl

/-- A reference to a READY overlay: it takes the runner as a sharer, and the offset is applied. -/
theorem resolve_ready {n : Nat} (good : refBad c = false) (found : findSlot s (slotsOf s sid) r c = some n)
    (ready : (slotAt (slotsOf s sid) n).state = .ready) : resolve s sid r self c =
      (setSlots s sid (useSlot (slotsOf s sid) n r.tenant), applyOff (slotsOf s sid) n c) := by
  obtain ⟨g, used⟩ := slotAt_useSlot (slotsOf s sid) n r.tenant
  have state : (slotAt (useSlot (slotsOf s sid) n r.tenant) n).state = .ready := by rw [used]; exact ready
  rw [resolve, if_neg (by simp [good]), found]
  dsimp only
  rw [state, applyOff_useSlot]

theorem resolve_absent (good : refBad c = false) (absent : findSlot s (slotsOf s sid) r c = none) :
    resolve s sid r self c = demandReload s sid r self c := by
  rw [resolve, if_neg (by simp [good]), absent]

section
variable {l : Leaf} (image : imageByte s r (refId c) 0 = .leaf l) (clean : isPoison s l.pa = false)
  (low : 17 ≤ leNat (readBytes s (l.pa + 4) 4)) (high : leNat (readBytes s (l.pa + 4) 4) ≤ 16384)
include image clean low high

/-- The header of an image that can be read gives the slots of its load; every run of them is pinned (R157, R159, R162). -/
theorem demandReload_pinned
    (pinned : chooseRun (parkedState s self) sid r.mask ((leNat (readBytes s (l.pa + 4) 4) + 4095) / 4096) = .pinned) :
    demandReload s sid r self c = (s, .park) := by
  rw [demandReload, image]
  dsimp only
  rw [if_neg (by simp [clean]), if_neg (by omega), pinned]

/-- A run of slots is free for the load of the image. -/
theorem demandReload_run {f : Nat}
    (free : chooseRun (parkedState s self) sid r.mask ((leNat (readBytes s (l.pa + 4) 4) + 4095) / 4096) = .run f) :
    demandReload s sid r self c =
      (allocate s sid f ((leNat (readBytes s (l.pa + 4) 4) + 4095) / 4096) r (refId c), .park) := by
  rw [demandReload, image]
  dsimp only
  rw [if_neg (by simp [clean]), if_neg (by omega), free]

end

/-- The offset of a reference names an entry of the overlay, or a clause of it (R43, R157). -/
theorem applyOff_go {t : Tbl Slot} {i : Nat}
    (entry : (refOff c).toNat < 16 → (refOff c).toNat < (wordAt (slotAt t i) 2).toNat % 256)
    (good : goodTarget (slotAt t i)
      (if (refOff c).toNat < 16 then headerHalf (slotAt t i) (16 + 2 * (refOff c).toNat) else (refOff c).toNat) = true) :
    applyOff t i c = .go (mkRef (slotAt t i).id i (slotAt t i).gen (BitVec.ofNat 16
      (if (refOff c).toNat < 16 then headerHalf (slotAt t i) (16 + 2 * (refOff c).toNat) else (refOff c).toNat))) := by
  unfold applyOff
  dsimp only
  rw [if_neg]
  rintro (⟨low, beyond⟩ | bad)
  · exact absurd (entry low) (by omega)
  · rw [good] at bad; cases bad

end

end Sys2Proof.Machine
end

section
/-! SUPPORT. Overlay words (R177 to R179): the `CO` operation of an `OVLD` (R178, R224), eviction, and the status of a reference. -/

namespace Sys2Proof.Machine

/-! ### The operation of an OVLD -/

theorem readP_congr {s t : State} (same : (curWarp t).scalars = (curWarp s).scalars) (n : Nat) : readP t n = readP s n := by
  rw [readP, readP, readS_congr same, readS_congr same]

theorem usedEntries_congr {v w : Warp} (same : ∀ i, (entryOf v i).state = (entryOf w i).state) : usedEntries v = usedEntries w :=
  List.filter_congr fun i _ => by rw [same]

/-- The operation under `CO` that an `OVLD` enters (R178). -/
def loadOp (s : State) (slot : Nat) (begins : Bool) : PendOp :=
  { newOp s (.ovload slot begins) with counter := some 1, flag := 15 }

/-- What the operation's entry changes of the warp; its fragments are as before but for what their clause has left to issue. -/
theorem pushLoad_warp (s : State) (slot : Nat) (begins : Bool) : ∃ g x, curWarp (pushLoad s slot begins) = { curWarp s with
      counters := Tbl.set (curWarp s).counters 1 (counterOf (curWarp s) 1 + 1), flags := g
      pend := (curWarp s).pend ++ [loadOp s slot begins], nextOp := (curWarp s).nextOp + 1, split := x } ∧
    usedEntries (curWarp (pushLoad s slot begins)) = usedEntries (curWarp s) := by
  let counted := setCur s (counterAdd (curWarp s) 1)
  obtain ⟨g, h, pushed, -⟩ := pushOp_warp counted .a true { newOp s (.ovload slot begins) with counter := some 1 }
  obtain ⟨a, b, issued⟩ := remIssued_entry (curEntry counted) .a
  have warp : curWarp counted = counterAdd (curWarp s) 1 := curWarp_setCur ..
  have entry : curEntry counted = curEntry s := by rw [curEntry, warp]; rfl
  have eq : curWarp (pushLoad s slot begins) = _ := pushed
  rw [warp, issued, entry] at eq
  refine ⟨g, _, eq, ?_⟩
  rw [eq]
  refine usedEntries_congr fun i => ?_
  rw [entryOf_setEntry]
  split
  · next here => subst here; rfl
  · rfl

theorem pushLoad_outside (s : State) (slot : Nat) (begins : Bool) : OnlyWarp s (pushLoad s slot begins) :=
  (onlyWarp_setCur ..).trans (pushOp_outside ..)

/-- The reference of an `OVLD` is in its pair, and its operation is under way: all but the current warp and its scalars. -/
structure LoadEntered (d : Nat) (ref : Dword) (slot : Nat) (begins : Bool) (s t : State) : Prop where
  ref : readP t d = ref
  scalars : ∀ m, m ≠ d → m ≠ d + 1 → readS t m = readS s m
  pending : (curWarp t).pend = (curWarp s).pend ++ [loadOp s slot begins]
  counter : counterOf (curWarp t) 1 = counterOf (curWarp s) 1 + 1
  entries : usedEntries (curWarp t) = usedEntries (curWarp s)
  outside : OnlyWarp s t

theorem loadEntered (s : State) (d : Nat) (ref : Dword) (slot : Nat) (begins : Bool) :
    LoadEntered d ref slot begins s (writeP (pushLoad s slot begins) d ref) := by
  obtain ⟨value, others, warp, outside⟩ := writeP_result (pushLoad s slot begins) d ref
  obtain ⟨g, x, pushed, entries⟩ := pushLoad_warp s slot begins
  have scalars : (curWarp (pushLoad s slot begins)).scalars = (curWarp s).scalars := by rw [pushed]
  have pend := congrArg Warp.pend warp
  have counters := congrArg (counterOf · 1) warp
  have split := congrArg usedEntries warp
  refine ⟨value, fun m ne ne' => (others m ne ne').trans (readS_congr scalars m), ?_, ?_, split.trans entries,
    (pushLoad_outside ..).trans outside⟩
  · exact pend.trans (by rw [pushed])
  · exact counters.trans (by rw [pushed]; exact Tbl.get_set_same ..)

/-! ### Counted operations that leave (R224) -/

/-- The oldest operations of a class leave the list, the flags and the counters; nothing else of the warp changes. -/
theorem retireClass_warp (w : Warp) (c n : Nat) : ∃ p k g, retireClass w c n = { w with pend := p, counters := k, flags := g } ∧
    ∀ o ∈ p, o ∈ w.pend := by
  induction n generalizing w with
  | zero => exact ⟨_, _, _, rfl, fun _ listed => listed⟩
  | succ n ih =>
    unfold retireClass
    split
    · next o _ =>
      split
      · obtain ⟨g, dropped, -⟩ := dropOp_warp w o
        obtain ⟨p, k, f, eq, fewer⟩ := ih (counterSub (dropOp w o) c)
        refine ⟨p, k, f, ?_, fun q listed => ?_⟩
        · rw [eq, counterSub, dropped]
        · have kept := fewer q listed
          rw [counterSub, dropped] at kept
          exact List.mem_of_mem_filter ((List.dropWhile_suffix _).subset kept)
      · exact ⟨_, _, _, rfl, fun _ listed => listed⟩
    · exact ⟨_, _, _, rfl, fun _ listed => listed⟩

/-- Behind an older operation that has not completed nothing leaves. -/
theorem retireClass_behind {w : Warp} {c : Nat} {o : PendOp} (older : w.pend.find? (fun x => x.counter == some c) = some o)
    (unfinished : o.finished = false) (n : Nat) : retireClass w c n = w := by
  cases n with
  | zero => rfl
  | succ n => rw [retireClass, older]; exact if_neg (by simp [unfinished])

theorem retireClass_none {w : Warp} {c : Nat} (none : w.pend.find? (fun x => x.counter == some c) = none) (n : Nat) :
    retireClass w c n = w := by
  cases n with
  | zero => rfl
  | succ n => rw [retireClass, none]

/-- The one operation of its class, which stands last and has completed, leaves. -/
theorem retireClass_alone {w : Warp} {c : Nat} {o : PendOp} {l : List PendOp} (pend : w.pend = l ++ [o]) (counter : o.counter = some c)
    (finished : o.finished = true) (alone : l.find? (fun x => x.counter == some c) = none) (fresh : ∀ x ∈ l, x.id ≠ o.id) (n : Nat) :
    counterOf (retireClass w c (n + 1)) c = counterOf w c - 1 ∧ ∀ x ∈ (retireClass w c (n + 1)).pend, x ∈ l := by
  obtain ⟨g, dropped, -⟩ := dropOp_warp w o
  have first : w.pend.find? (fun x => x.counter == some c) = some o := by
    rw [pend, List.find?_append, alone]
    simp [counter]
  have rest : w.pend.filter (fun x => x.id != o.id) = l := by
    rw [pend, List.filter_append, List.filter_eq_self.mpr fun x listed => by simpa using fresh x listed]
    simp
  have left : ((dropOp w o).pend).find? (fun x => x.counter == some c) = none := by
    rw [dropped, List.find?_eq_none]
    intro x listed
    refine List.find?_eq_none.mp alone x ?_
    rw [← rest]
    exact (List.dropWhile_suffix _).subset listed
  have eq : retireClass w c (n + 1) = counterSub (dropOp w o) c := by
    rw [retireClass, first]
    exact (if_pos finished).trans (retireClass_none (w := counterSub (dropOp w o) c) left n)
  rw [eq]
  refine ⟨(Tbl.get_set_same ..).trans ?_, fun x listed => ?_⟩
  · rw [dropped]; rfl
  · rw [← rest]
    rw [counterSub, dropped] at listed
    exact (List.dropWhile_suffix _).subset listed

/-! ### An OVLD that completes at once -/

/-- The newest operation of the current warp as completed. -/
def newestDone (w : Warp) (o : PendOp) : Warp := setOp w { o with finished := true }

/-- With a fragment left, the newest operation completes, and nothing ends. -/
theorem finishNewest_eq {s : State} {l : List PendOp} {o : PendOp} {c : Nat} (pend : (curWarp s).pend = l ++ [o])
    (counter : o.counter = some c) (runs : (usedEntries (curWarp s)).isEmpty = false) : finishNewest s =
      setCur s (retireClass (newestDone (curWarp s) o) c (l.length + 1)) := by
  have newest : (curWarp s).pend.getLast? = some o := by rw [pend]; simp
  have length : (newestDone (curWarp s) o).pend.length = l.length + 1 := by simp [newestDone, setOp, pend]
  obtain ⟨p, k, g, retired, -⟩ := retireClass_warp (newestDone (curWarp s) o) c (l.length + 1)
  have ends : finishNewest s = warpEnd (setCur s (retireClass (newestDone (curWarp s) o) c (newestDone (curWarp s) o).pend.length)) s.cur := by
    rw [finishNewest, newest]
    dsimp only
    unfold finishCounted
    split
    · next none => rw [counter] at none; cases none
    · next found => rw [counter] at found; cases found; rfl
  rw [ends, length]
  refine if_pos (warpOver_of_entries ?_)
  rw [show warpOf (setCur s _) s.cur = _ from curWarp_setCur .., retired]
  exact runs

/-- A newest operation whose number no other has, completed, stands last in the list. -/
theorem newestDone_pend {w : Warp} {l : List PendOp} {o : PendOp} (pend : w.pend = l ++ [o]) (fresh : ∀ x ∈ l, x.id ≠ o.id) :
    (newestDone w o).pend = l ++ [{ o with finished := true }] := by
  have kept : l.map (fun x => if x.id == o.id then { o with finished := true } else x) = l := by
    conv_rhs => rw [← List.map_id l]
    exact List.map_congr_left fun x listed => if_neg (by simpa using fresh x listed)
  simp only [newestDone, setOp, pend, List.map_append, kept, List.map_cons, List.map_nil, beq_self_eq_true, if_true]

/-- An `OVLD` that begins no load has completed: its reference is in its pair, and it has left the list if no older operation of its
class stands before it (R178, R224). -/
structure LoadAtOnce (d : Nat) (ref : Dword) (s t : State) : Prop where
  ref : readP t d = ref
  scalars : ∀ m, m ≠ d → m ≠ d + 1 → readS t m = readS s m
  alone : (∀ o ∈ (curWarp s).pend, o.id ≠ (curWarp s).nextOp) → (curWarp s).pend.find? (fun o => o.counter == some 1) = none →
    counterOf (curWarp t) 1 = counterOf (curWarp s) 1 ∧ ∀ o ∈ (curWarp t).pend, o ∈ (curWarp s).pend
  behind : (∀ o ∈ (curWarp s).pend, o.id ≠ (curWarp s).nextOp) → ∀ o, (curWarp s).pend.find? (fun o => o.counter == some 1) = some o →
    o.finished = false → counterOf (curWarp t) 1 = counterOf (curWarp s) 1 + 1
  outside : OnlyWarp s t

theorem finishNewest_atOnce {d slot : Nat} {ref : Dword} {s u : State} (runs : StillRuns s s.cur)
    (entered : LoadEntered d ref slot false s u) : LoadAtOnce d ref s (finishNewest u) := by
  obtain ⟨value, scalars, pend, counter, entries, outside⟩ := entered
  have eq := finishNewest_eq (s := u) (c := 1) pend rfl (by rw [entries]; exact runs)
  obtain ⟨p, k, g, retired, fewer⟩ := retireClass_warp (newestDone (curWarp u) (loadOp s slot false)) 1 ((curWarp s).pend.length + 1)
  have same : (curWarp (finishNewest u)).scalars = (curWarp u).scalars := by rw [eq, curWarp_setCur, retired]; rfl
  refine ⟨(readP_congr same d).trans value, fun m ne ne' => (readS_congr same m).trans (scalars m ne ne'), fun fresh alone => ?_,
    fun fresh o older unfinished => ?_, outside.trans (eq ▸ onlyWarp_setCur ..)⟩
  · obtain ⟨less, listed⟩ := retireClass_alone (newestDone_pend pend fresh) rfl rfl alone fresh (curWarp s).pend.length
    rw [eq, curWarp_setCur]
    refine ⟨less.trans ?_, listed⟩
    exact (congrArg (· - 1) counter).trans (Nat.add_sub_cancel ..)
  · have first : (newestDone (curWarp u) (loadOp s slot false)).pend.find? (fun o => o.counter == some 1) = some o := by
      rw [newestDone_pend pend fresh, List.find?_append, older]; rfl
    rw [eq, curWarp_setCur, retireClass_behind first unfinished]
    exact counter

end Sys2Proof.Machine
end

section
/-! SUPPORT. What an overlay word does (R177 to R179), how a load of a slot ends (R157, R160, R161), and how a waiting fragment goes on
(R159). -/

namespace Sys2Proof.Machine

/-! ### OVLD (R178) -/

/-- The store of the current warp, and its slots. -/
abbrev ownStore (s : State) : Nat := storeOf s.cur (curWarp s)
abbrev ownSlots (s : State) : Tbl Slot := slotsOf s (ownStore s)

/-- The overlay and the slots that an `OVLD` asks for. -/
def askedId (v : Word) : Nat := (v.extractLsb' 0 20).toNat
def askedCount (v : Word) : Nat := (v.extractLsb' 20 2).toNat + 1

/-- The warp's tenant shares the overlay in slot `i`. -/
def shared (s : State) (i : Nat) : State := setSlots s (ownStore s) (useSlot (ownSlots s) i (runnerOf s s.cur).tenant)

section
variable {s : State} {d : Nat} {v : Word}

/-- What an `OVLD` of a held overlay enters. -/
def heldLoad (s : State) (d : Nat) (v : Word) (i : Nat) : State :=
  writeP (pushLoad (shared s i) i false) d (mkRef (askedId v) i (slotAt (ownSlots s) i).gen 0)

theorem ovloadWord_held {i : Nat} (found : findSlot s (ownSlots s) (runnerOf s s.cur) (mkRef (askedId v) 0xFE 0 0) = some i) :
    ovloadWord s d v = if (slotAt (ownSlots s) i).state = .loading then heldLoad s d v i else finishNewest (heldLoad s d v i) := by
  obtain ⟨g, used⟩ := slotAt_useSlot (ownSlots s) i (runnerOf s s.cur).tenant
  have slot : slotAt (slotsOf (shared s i) (ownStore s)) i = { slotAt (ownSlots s) i with sharers := g } := by
    rw [shared, slotsOf_setSlots, used]
  unfold ovloadWord
  dsimp only
  rw [show findSlot s (slotsOf s (storeOf s.cur (curWarp s))) (runnerOf s s.cur) (noSlotRef (v.extractLsb' 0 20).toNat) = some i from found]
  dsimp only
  rw [show slotAt (slotsOf (setSlots s (storeOf s.cur (curWarp s)) (useSlot (slotsOf s (storeOf s.cur (curWarp s))) i
    (runnerOf s s.cur).tenant)) (storeOf s.cur (curWarp s))) i = _ from slot]
  rfl

theorem heldLoad_entered (i : Nat) :
    LoadEntered d (mkRef (askedId v) i (slotAt (ownSlots s) i).gen 0) i false (shared s i) (heldLoad s d v i) := loadEntered ..

section
variable (absent : findSlot s (ownSlots s) (runnerOf s s.cur) (mkRef (askedId v) 0xFE 0 0) = none)
include absent

theorem ovloadWord_run {f : Nat} (free : chooseRun s (ownStore s) (runnerOf s s.cur).mask (askedCount v) = .run f) :
    ovloadWord s d v = writeP (pushLoad (allocate s (ownStore s) f (askedCount v) (runnerOf s s.cur) (askedId v)) f true) d
      (mkRef (askedId v) f ((slotAt (ownSlots s) f).gen + 1) 0) := by
  obtain ⟨-, gen, -, -⟩ := allocate_loading s (ownStore s) f (k := askedCount v) (Nat.succ_pos _) (runnerOf s s.cur) (askedId v)
  rw [← show _ = (slotAt (ownSlots s) f).gen + 1 from gen]
  unfold ovloadWord
  dsimp only
  rw [show findSlot s (slotsOf s (storeOf s.cur (curWarp s))) (runnerOf s s.cur) (noSlotRef (v.extractLsb' 0 20).toNat) = none from absent]
  dsimp only
  rw [show chooseRun s (storeOf s.cur (curWarp s)) (runnerOf s s.cur).mask ((v.extractLsb' 20 2).toNat + 1) = .run f from free]
  rfl

theorem ovloadWord_full (full : chooseRun s (ownStore s) (runnerOf s s.cur).mask (askedCount v) = .none ∨
      chooseRun s (ownStore s) (runnerOf s s.cur).mask (askedCount v) = .pinned) : ovloadWord s d v =
    finishNewest (writeP (pushLoad s 0xFE false) d (mkRef (askedId v) 0xFE 0 0)) := by
  unfold ovloadWord
  dsimp only
  rw [show findSlot s (slotsOf s (storeOf s.cur (curWarp s))) (runnerOf s s.cur) (noSlotRef (v.extractLsb' 0 20).toNat) = none from absent]
  dsimp only
  rcases full with none | pinned
  · rw [show chooseRun s (storeOf s.cur (curWarp s)) (runnerOf s s.cur).mask ((v.extractLsb' 20 2).toNat + 1) = .none from none]
    rfl
  · rw [show chooseRun s (storeOf s.cur (curWarp s)) (runnerOf s s.cur).mask ((v.extractLsb' 20 2).toNat + 1) = .pinned from pinned]
    rfl

end

end

theorem exec_ovld {p : Option Prefix} {d a : BitVec 7} {s : State} (issues : Issues (.ovld p d a) s) :
    exec (.ovld p d a) s = .next (ovloadWord s (numD p d) (readS s (numA p a))) :=
  exec_word (effect := fun s => ovloadWord s (numD p d) (scaA s p a)) issues rfl

/-! A change of the store alone leaves the registers of the current warp, and a change of the warp leaves the store. -/

theorem readS_setSlots (s : State) (sid : Nat) (t : Tbl Slot) (m : Nat) : readS (setSlots s sid t) m = readS s m :=
  readS_congr (by rw [curWarp_setSlots]) m

theorem slotsOf_onlyWarp {s t : State} (only : OnlyWarp s t) (sid : Nat) : slotsOf t sid = slotsOf s sid := by
  have svcs : t.svcs = s.svcs := by have same := congrArg State.svcs only.rest; exact same
  have cores : t.cores = s.cores := by have same := congrArg State.cores only.rest; exact same
  rw [slotsOf, svcOf, coreOf, svcs, cores]
  rfl

/-! ### OVEVICT and OVQ (R177, R179) -/

section
variable {s : State} {c : Dword}

theorem refWord_bad (bad : refBad c = true) (k : State) :
    refWord s c k = takeTrap s 1 255 ((codeWord s (curEntry s).here).setWidth 64) 0 := if_pos bad

theorem refWord_good (good : refBad c = false) (k : State) : refWord s c k = k := if_neg (by simp [good])

/-- The reference is current, and its overlay is not pinned. -/
def Evictable (s : State) (c : Dword) : Prop :=
  isCurrent (ownSlots s) (runnerOf s s.cur) c = true ∧ isPinned s (ownStore s) (refSlot c) = false

theorem evictWord_kept (kept : ¬ Evictable s c) : evictWord s c = s := by
  refine if_neg fun both => kept ?_
  simpa [Evictable] using both

theorem evictWord_evicts (live : Evictable s c) : evictWord s c = setSlots s (ownStore s) (evict (ownSlots s) (refSlot c)) := by
  refine if_pos ?_
  simpa [Evictable] using live

/-- The slot of a current reference is that of an overlay (R159). -/
theorem count_of_current {t : Tbl Slot} {r : Runner} (current : isCurrent t r c = true) : (slotAt t (refSlot c)).count ≠ 0 := by
  simp only [isCurrent, heldInMask, Bool.and_eq_true, bne_iff_ne] at current
  exact current.1.1.1.2.1.1

theorem exec_ovevict {p : Option Prefix} {a : BitVec 7} (issues : Issues (.ovevict p a) s) :
    exec (.ovevict p a) s = .next (refWord s (readP s (numA p a)) (evictWord s (readP s (numA p a)))) :=
  exec_word (effect := fun s => refWord s (pairA s p a) (evictWord s (pairA s p a))) issues rfl

theorem exec_ovq {p : Option Prefix} {d a : BitVec 7} (issues : Issues (.ovq p d a) s) : exec (.ovq p d a) s =
    .next (refWord s (readP s (numA p a)) (writeS s (numD p d) (ovqStatus s (readP s (numA p a))))) :=
  exec_word (effect := fun s => refWord s (pairA s p a) (writeS s (numD p d) (ovqStatus s (pairA s p a)))) issues rfl

theorem ovqStatus_stale (stale : isCurrent (ownSlots s) (runnerOf s s.cur) c = false) :
    ovqStatus s c = if refSlot c = 0xFE then 3 else 2 := if_neg (by simp [stale])

/-- The status code of a current overlay (R179). -/
def statusCode (x : Slot) : Nat :=
  match x.state with
  | .ready => 0
  | .loading => 1
  | .poison => 7
  | .failed => x.code
  | .free => 2

theorem ovqStatus_current (current : isCurrent (ownSlots s) (runnerOf s s.cur) c = true) :
    ovqStatus s c = BitVec.ofNat 32 (256 * refSlot c + statusCode (slotAt (ownSlots s) (refSlot c))) := if_pos current

end

end Sys2Proof.Machine
end

section
/-! SUPPORT. Overlay loads that end (R157, R160, R161, R311, R343), and fragments that wait for one (R159). -/

namespace Sys2Proof.Machine

/-! ### The end of a load -/

/-- No fragment waits for an overlay, and no `OVLD` waits for slot `i`. -/
def NoneWaits (s : State) (i : Nat) : Prop :=
  ∀ w ∈ s.warps, (∀ e ∈ w.2.split, ∀ c l o q, e.2.wait ≠ .reload c l o q) ∧ ∀ o ∈ w.2.pend, ∀ q, o.kind ≠ .ovload i q

theorem waitersFor_none {s : State} {i : Nat} (none : NoneWaits s i) (sid : Nat) : waitersFor s sid i = [] := by
  rw [waitersFor, List.flatMap_eq_nil_iff]
  intro w listed
  split
  · rw [List.map_eq_nil_iff, List.filter_eq_nil_iff]
    intro e entry
    split
    · next waits => exact absurd waits ((none w listed).1 e entry _ _ _ _)
    · simp
  · rfl

theorem loadsFor_none {s : State} {i : Nat} (none : NoneWaits s i) (sid : Nat) : loadsFor s sid i = [] := by
  rw [loadsFor, List.flatMap_eq_nil_iff]
  intro w listed
  split
  · rw [List.map_eq_nil_iff, List.filter_eq_nil_iff]
    intro o pending
    split
    · next kind =>
      have other := (none w listed).2 o pending
      simp only [Bool.and_eq_true, beq_iff_eq, not_and]
      rintro - rfl
      exact other _ kind
    · simp
  · rfl

/-- The load of slot `i` has ended with `y` in the slot; no warp and no byte of memory changes (R161, R162). -/
structure LoadEnded (sid i : Nat) (y : Slot) (s t : State) : Prop where
  slot : slotAt (slotsOf t sid) i =
    { y with loads := 0, used := if y.state = .ready then s.stamp + 1 else (slotAt (slotsOf s sid) i).used }
  slots : ∀ k, k ≠ i → slotAt (slotsOf t sid) k =
    if y.state = .ready ∧ i < k ∧ k < i + (slotAt (slotsOf s sid) i).count then
      { slotAt (slotsOf s sid) k with used := s.stamp + 1 } else slotAt (slotsOf s sid) k
  warps : ∀ k, warpOf t k = warpOf s k
  memory : ∀ a, Memory.byte t.mem a = Memory.byte s.mem a

section
variable {s : State} {sid i : Nat} {y : Slot}

/-- The slots after a load that has ended. -/
def endedSlots (s : State) (sid i : Nat) (y : Slot) : Tbl Slot :=
  let t := Tbl.set (slotsOf s sid) i { y with loads := 0 }
  if y.state = .ready then noteFill t i y.count (s.stamp + 1) else t

theorem loadEnds_eq (none : NoneWaits s i) : loadEnds s sid i y = setSlots { s with stamp := s.stamp + 1 } sid (endedSlots s sid i y) := by
  have quiet : NoneWaits (setSlots { s with stamp := s.stamp + 1 } sid (endedSlots s sid i y)) i := by
    intro w listed
    rw [setSlots_warps] at listed
    exact none w listed
  have waiters := waitersFor_none quiet sid
  have loads := loadsFor_none quiet sid
  have eq : loadEnds s sid i y = (waitersFor (setSlots { s with stamp := s.stamp + 1 } sid (endedSlots s sid i y)) sid i).foldl
      (fun t e => resumeReload t e.1 e.2) ((loadsFor (setSlots { s with stamp := s.stamp + 1 } sid (endedSlots s sid i y)) sid i).foldl
        (fun t e => finishCounted t e.1 e.2) (setSlots { s with stamp := s.stamp + 1 } sid (endedSlots s sid i y))) := rfl
  rw [eq, waiters, loads]
  rfl

theorem slotAt_endedSlots (k : Nat) : slotAt (endedSlots s sid i y) k =
    if y.state = .ready ∧ i ≤ k ∧ k < i + y.count then
      { (if i = k then { y with loads := 0 } else slotAt (slotsOf s sid) k) with used := s.stamp + 1 }
    else if i = k then { y with loads := 0 } else slotAt (slotsOf s sid) k := by
  unfold endedSlots
  dsimp only
  by_cases ready : y.state = .ready
  · rw [if_pos ready, slotAt_noteFill, slotAt_set]
    exact if_congr (by simp [ready]) rfl rfl
  · rw [if_neg ready, if_neg (fun both => ready both.1), slotAt_set]

theorem loadEnds_ends (none : NoneWaits s i) (count : y.count = (slotAt (slotsOf s sid) i).count) (held : y.count ≠ 0)
    (used : y.used = (slotAt (slotsOf s sid) i).used) : LoadEnded sid i y s (loadEnds s sid i y) := by
  rw [loadEnds_eq none]
  refine ⟨?_, fun k other => ?_, fun k => warpOf_setSlots .., fun a => by rw [setSlots_mem]⟩
  · rw [slotsOf_setSlots, slotAt_endedSlots, if_pos rfl]
    by_cases ready : y.state = .ready
    · rw [if_pos ⟨ready, by omega⟩, if_pos ready]
    · rw [if_neg (fun both => ready both.1), if_neg ready, ← used]
  · rw [slotsOf_setSlots, slotAt_endedSlots, if_neg (Ne.symm other), count]
    exact if_congr (and_congr_right fun _ => by omega) rfl rfl

end

/-! ### The events of a slot -/

section
variable {s : State} {sid i : Nat} (first : (slotAt (slotsOf s sid) i).first = i) (held : (slotAt (slotsOf s sid) i).count ≠ 0)

theorem exec_slotLoadComplete_other (other : (slotAt (slotsOf s sid) i).state ≠ .loading) :
    exec (.slotLoadComplete sid i) s = .next s := by
  have meaning : exec (.slotLoadComplete sid i) s = execSlotLoadComplete sid i s := rfl
  rw [meaning, execSlotLoadComplete]
  exact congrArg _ (if_pos (.inl other))

theorem exec_slotReloadComplete_held (waits : reloadHeld s sid = true) : exec (.slotReloadComplete sid i) s = .next s := by
  have meaning : exec (.slotReloadComplete sid i) s = execSlotReloadComplete sid i s := rfl
  rw [meaning, execSlotReloadComplete]
  exact congrArg _ (if_pos (.inr (.inr (.inr waits))))

include first held

section
variable (none : NoneWaits s i) (loading : (slotAt (slotsOf s sid) i).state = .loading)
include none loading

theorem slotLoadComplete_met : ¬ ((slotAt (slotsOf s sid) i).state ≠ .loading ∨ (slotAt (slotsOf s sid) i).first ≠ i ∨
    (slotAt (slotsOf s sid) i).count = 0 ∨ loadWaits s sid i = true) := by
  have waits : loadWaits s sid i = false := by rw [loadWaits, loadsFor_none none]; rfl
  simp [loading, first, held, waits]

theorem exec_slotLoadComplete_ok {ws : List Word}
    (image : loadImage s (loaderOf sid (slotAt (slotsOf s sid) i)) (slotAt (slotsOf s sid) i) = .ok ws) :
    exec (.slotLoadComplete sid i) s = .next (loadEnds s sid i { slotAt (slotsOf s sid) i with state := .ready, words := ws }) := by
  have meaning : exec (.slotLoadComplete sid i) s = execSlotLoadComplete sid i s := rfl
  rw [meaning, execSlotLoadComplete]
  dsimp only
  rw [if_neg (slotLoadComplete_met first held none loading), image]

theorem exec_slotLoadComplete_error {e : Nat}
    (image : loadImage s (loaderOf sid (slotAt (slotsOf s sid) i)) (slotAt (slotsOf s sid) i) = .error e) :
    exec (.slotLoadComplete sid i) s = .next (loadEnds s sid i { slotAt (slotsOf s sid) i with state := .failed, code := e }) := by
  have meaning : exec (.slotLoadComplete sid i) s = execSlotLoadComplete sid i s := rfl
  rw [meaning, execSlotLoadComplete]
  dsimp only
  rw [if_neg (slotLoadComplete_met first held none loading), image]

end

/-- The store with slot `i` POISON and its reload begun. -/
def poisoned (s : State) (sid i : Nat) : State :=
  setSlots s sid (Tbl.set (slotsOf s sid) i { slotAt (slotsOf s sid) i with state := .poison, loads := 1 })

theorem exec_slotError (ready : (slotAt (slotsOf s sid) i).state = .ready) : exec (.slotError sid i) s = .next
    (if isTideStore sid && (svcOf s sid).running then
      stopCore (setSvc (poisoned s sid i) sid { svcOf (poisoned s sid i) sid with failing := true }) sid
    else poisoned s sid i) := by
  have meaning : exec (.slotError sid i) s = execSlotError sid i s := rfl
  rw [meaning, execSlotError]
  exact congrArg _ (if_neg (by simp [ready, first, held]))

section
variable (poison : (slotAt (slotsOf s sid) i).state = .poison) (free : reloadHeld s sid = false)
include poison free

theorem slotReloadComplete_met : ¬ ((slotAt (slotsOf s sid) i).state ≠ .poison ∨ (slotAt (slotsOf s sid) i).first ≠ i ∨
    (slotAt (slotsOf s sid) i).count = 0 ∨ reloadHeld s sid = true) := by simp [poison, first, held, free]

theorem exec_slotReloadComplete_some {ws : List Word} (words : reloadWords s (slotAt (slotsOf s sid) i)
      (slotAt (slotsOf s sid) i).words.length (((slotAt (slotsOf s sid) i).words.length + 31) / 32) = some ws) :
    exec (.slotReloadComplete sid i) s = .next (loadEnds s sid i { slotAt (slotsOf s sid) i with state := .ready, words := ws }) := by
  have meaning : exec (.slotReloadComplete sid i) s = execSlotReloadComplete sid i s := rfl
  rw [meaning, execSlotReloadComplete]
  dsimp only
  rw [if_neg (slotReloadComplete_met first held poison free), words]

theorem exec_slotReloadComplete_none (words : reloadWords s (slotAt (slotsOf s sid) i)
      (slotAt (slotsOf s sid) i).words.length (((slotAt (slotsOf s sid) i).words.length + 31) / 32) = none) :
    exec (.slotReloadComplete sid i) s = .next (loadEnds s sid i { slotAt (slotsOf s sid) i with state := .failed, code := 8 }) := by
  have meaning : exec (.slotReloadComplete sid i) s = execSlotReloadComplete sid i s := rfl
  rw [meaning, execSlotReloadComplete]
  dsimp only
  rw [if_neg (slotReloadComplete_met first held poison free), words]

end

end

end Sys2Proof.Machine
end

section
namespace Sys2Proof.Machine

/-! ### A fragment that waits for its overlay (R159) -/

section
variable {s : State} {w e : Nat} {c : Dword} {link : Option Dword} {own : BitVec 16} {pop : Bool}
  (waits : (entryOf (warpOf s w) e).wait = .reload c link own pop) (between : (entryOf (warpOf s w) e).left = 0)
include waits between

theorem demandReloadRetry_parks {t : State}
    (parks : resolve (asWarp s w e) (storeOf w (warpOf s w)) (runnerOf s w) (w, e) c = (t, .park)) :
    exec (.demandReloadRetry w e) s = .next t := by
  have pc : resolvePc (asWarp s w e) (storeOf w (curWarp (asWarp s w e))) (runnerOf (asWarp s w e) w) (w, e)
      (curEntry (asWarp s w e)).left c = (t, .park) := (if_pos between).trans parks
  have meaning : exec (.demandReloadRetry w e) s = .next (resumeReload s w e) := rfl
  rw [meaning, resumeReload, waits]
  dsimp only
  rw [pc]

/-- An entry that waited for its overlay goes on at `pc`. -/
def goesOn (x : Entry) (pc : Dword) (stamp : Nat) : Entry :=
  { x with state := .leaf, wait := .none, pc := pc, fresh := false, aside := x.left != 0, readyAt := stamp }

/-- Fragment `s.frag` of the current warp goes on at `pc`, with the shelf popped and the link written. -/
def wentOn (s : State) (pc : Dword) (link : Option Dword) (pop : Bool) : State :=
  let t := writeLink (if pop then popShelf s s.cur else s) link
  setFrag t (goesOn (curEntry t) pc t.stamp)

theorem demandReloadRetry_goes {t : State} {pc : Dword}
    (goes : resolve (asWarp s w e) (storeOf w (warpOf s w)) (runnerOf s w) (w, e) c = (t, .go pc)) (cur : t.cur = w) :
    exec (.demandReloadRetry w e) s = .next (wentOn t pc link pop) := by
  have resolved : resolvePc (asWarp s w e) (storeOf w (curWarp (asWarp s w e))) (runnerOf (asWarp s w e) w) (w, e)
      (curEntry (asWarp s w e)).left c = (t, .go pc) := (if_pos between).trans goes
  have meaning : exec (.demandReloadRetry w e) s = .next (resumeReload s w e) := rfl
  subst cur
  rw [meaning, resumeReload, waits]
  dsimp only
  rw [resolved]
  rfl

end

/-- A shelf that is popped leaves its service core, with HOLD and PRIV restored, and nothing else changes (R304). -/
theorem popShelf_pops (s : State) (k : Nat) : (∃ v, popShelf s k = { s with svcs := v }) ∧
    (svcOf (popShelf s k) k).shelves = (svcOf s k).shelves.tail := by
  unfold popShelf
  dsimp only
  split
  · next empty => exact ⟨⟨s.svcs, rfl⟩, by rw [empty]; rfl⟩
  · next shelves => exact ⟨⟨_, rfl⟩, by rw [svcOf_setSvc_same, shelves]; rfl⟩

/-- The link pair is written if there is a link, and no more of the warp changes (R167). -/
structure LinkWritten (link : Option Dword) (s t : State) : Prop where
  linked : ∀ v, link = some v → readP t 190 = v
  scalars : ∀ m, (link = none ∨ (m ≠ 190 ∧ m ≠ 191)) → readS t m = readS s m
  warp : { curWarp t with scalars := (curWarp s).scalars } = curWarp s
  outside : OnlyWarp s t

theorem writeLink_written (s : State) (link : Option Dword) : LinkWritten link s (writeLink s link) := by
  cases link with
  | none => exact ⟨nofun, fun _ _ => rfl, rfl, .refl s⟩
  | some v =>
    obtain ⟨value, others, warp, outside⟩ := writeP_result s 190 v
    exact ⟨fun x same => by cases same; exact value, fun m ne => others m (ne.resolve_left nofun).1 (ne.resolve_left nofun).2, warp, outside⟩

theorem OnlyWarp.cur {s t : State} (h : OnlyWarp s t) : t.cur = s.cur := by have same := congrArg State.cur h.rest; exact same
theorem OnlyWarp.frag {s t : State} (h : OnlyWarp s t) : t.frag = s.frag := by have same := congrArg State.frag h.rest; exact same
theorem OnlyWarp.stamp {s t : State} (h : OnlyWarp s t) : t.stamp = s.stamp := by have same := congrArg State.stamp h.rest; exact same
theorem OnlyWarp.svcs {s t : State} (h : OnlyWarp s t) : t.svcs = s.svcs := by have same := congrArg State.svcs h.rest; exact same
theorem OnlyWarp.cores {s t : State} (h : OnlyWarp s t) : t.cores = s.cores := by have same := congrArg State.cores h.rest; exact same

/-- What a fragment that goes on leaves of the state in which its reference was resolved. -/
structure WentOn (pc : Dword) (link : Option Dword) (pop : Bool) (s t : State) : Prop where
  entry : curEntry t = goesOn (curEntry s) pc s.stamp
  shelves : (svcOf t s.cur).shelves = if pop then (svcOf s s.cur).shelves.tail else (svcOf s s.cur).shelves
  linked : ∀ v, link = some v → readP t 190 = v
  scalars : ∀ m, (link = none ∨ (m ≠ 190 ∧ m ≠ 191)) → readS t m = readS s m
  cur : t.cur = s.cur
  frag : t.frag = s.frag
  warps : ∀ k, k ≠ s.cur → warpOf t k = warpOf s k
  memory : ∀ a, Memory.byte t.mem a = Memory.byte s.mem a

theorem wentOn_goes (s : State) (pc : Dword) (link : Option Dword) (pop : Bool) : WentOn pc link pop s (wentOn s pc link pop) := by
  let u := if pop then popShelf s s.cur else s
  have popped : (∃ v, u = { s with svcs := v }) ∧
      (svcOf u s.cur).shelves = if pop then (svcOf s s.cur).shelves.tail else (svcOf s s.cur).shelves := by
    cases pop with
    | false => exact ⟨⟨s.svcs, rfl⟩, rfl⟩
    | true => exact popShelf_pops s s.cur
  obtain ⟨⟨v, only⟩, shelves⟩ := popped
  obtain ⟨linked, scalars, warp, outside⟩ := writeLink_written u link
  obtain ⟨entry, -, rest, moved⟩ := setFrag_onlyEntry (writeLink u link) (goesOn (curEntry (writeLink u link)) pc (writeLink u link).stamp)
  have all := outside.trans moved
  have same : (curWarp (wentOn s pc link pop)).scalars = (curWarp (writeLink u link)).scalars := by
    have kept := congrArg Warp.scalars rest; exact kept
  have before : curEntry (writeLink u link) = curEntry s := by
    have split : (curWarp (writeLink u link)).split = (curWarp u).split := by
      have kept := congrArg Warp.split warp; exact kept
    rw [curEntry, entryOf, split, outside.frag, only]
    rfl
  have stamp : (writeLink u link).stamp = s.stamp := outside.stamp.trans (by rw [only])
  refine ⟨?_, ?_, fun x some => (readP_congr same 190).trans (linked x some),
    fun m free => (readS_congr same m).trans ((scalars m free).trans (by rw [only]; rfl)), all.cur.trans (by rw [only]),
    all.frag.trans (by rw [only]), fun k other => (all.others k (by rw [only]; exact other)).trans (by rw [only]; rfl),
    fun a => (all.memory a).trans (by rw [only])⟩
  · exact entry.trans (by rw [before, stamp])
  · rw [svcOf, show (wentOn s pc link pop).svcs = u.svcs from all.svcs]
    exact shelves

/-! The resolution of a waiting fragment sees the state as it stands: only the fragment in execution is named anew. -/

section
variable {s : State} {w e : Nat} {c : Dword} (good : refBad c = false)
include good

theorem resolve_asWarp_ready {n : Nat} (found : findSlot s (slotsOf s (storeOf w (warpOf s w))) (runnerOf s w) c = some n)
    (ready : (slotAt (slotsOf s (storeOf w (warpOf s w))) n).state = .ready) :
    resolve (asWarp s w e) (storeOf w (warpOf s w)) (runnerOf s w) (w, e) c =
      (setSlots (asWarp s w e) (storeOf w (warpOf s w)) (useSlot (slotsOf s (storeOf w (warpOf s w))) n (runnerOf s w).tenant),
        applyOff (slotsOf s (storeOf w (warpOf s w))) n c) :=
  resolve_ready (s := asWarp s w e) good found ready

variable (absent : findSlot s (slotsOf s (storeOf w (warpOf s w))) (runnerOf s w) c = none) {l : Leaf}
  (image : imageByte s (runnerOf s w) (refId c) 0 = .leaf l) (clean : isPoison s l.pa = false)
  (low : 17 ≤ leNat (readBytes s (l.pa + 4) 4)) (high : leNat (readBytes s (l.pa + 4) 4) ≤ 16384)
include absent image clean low high

theorem resolve_asWarp_pinned (pinned : chooseRun (parkedState s (w, e)) (storeOf w (warpOf s w)) (runnerOf s w).mask
      ((leNat (readBytes s (l.pa + 4) 4) + 4095) / 4096) = .pinned) :
    resolve (asWarp s w e) (storeOf w (warpOf s w)) (runnerOf s w) (w, e) c = (asWarp s w e, .park) :=
  (resolve_absent (s := asWarp s w e) good absent).trans
    (demandReload_pinned (s := asWarp s w e) image clean low high pinned)

theorem resolve_asWarp_run {f : Nat} (free : chooseRun (parkedState s (w, e)) (storeOf w (warpOf s w)) (runnerOf s w).mask
      ((leNat (readBytes s (l.pa + 4) 4) + 4095) / 4096) = .run f) :
    resolve (asWarp s w e) (storeOf w (warpOf s w)) (runnerOf s w) (w, e) c =
      (allocate (asWarp s w e) (storeOf w (warpOf s w)) f ((leNat (readBytes s (l.pa + 4) 4) + 4095) / 4096) (runnerOf s w)
        (refId c), .park) :=
  (resolve_absent (s := asWarp s w e) good absent).trans
    (demandReload_run (s := asWarp s w e) image clean low high free)

end

end Sys2Proof.Machine
end

section
/-! SUPPORT. The clauses of `OverlayLoads`, and the statement itself. -/

namespace Sys2Proof.Machine

/-- An `OVLD` that completes later leaves its operation under `CO` and the reference in its pair. -/
theorem ovld_loading {p : Option Prefix} {d a : BitVec 7} {s : State} (issues : Issues (.ovld p d a) s) {i : Nat}
    (found : findSlot s (ownSlots s) (runnerOf s s.cur) (mkRef (askedId (readS s (numA p a))) 0xFE 0 0) = some i)
    (loading : (slotAt (ownSlots s) i).state = .loading) : ∃ t, exec (.ovld p d a) s = .next t ∧
      readP t (numD p d) = mkRef (askedId (readS s (numA p a))) i (slotAt (ownSlots s) i).gen 0 ∧
      counterOf (curWarp t) 1 = counterOf (curWarp s) 1 + 1 := by
  obtain ⟨ref, -, -, counter, -, -⟩ := heldLoad_entered (s := s) (d := numD p d) (v := readS s (numA p a)) i
  rw [shared, curWarp_setSlots] at counter
  exact ⟨_, (exec_ovld issues).trans (congrArg _ ((ovloadWord_held found).trans (if_pos loading))), ref, counter⟩

/-- An `OVLD` of an overlay whose load is over completes at once (R178, R224). -/
structure OvldHeld (d : Nat) (ref : Dword) (i : Nat) (s t : State) : Prop where
  ref : readP t d = ref
  scalars : ∀ m, m ≠ d → m ≠ d + 1 → readS t m = readS s m
  slots : slotsOf t (ownStore s) = useSlot (ownSlots s) i (runnerOf s s.cur).tenant
  alone : (curWarp s).pend.find? (fun o => o.counter == some 1) = none →
    counterOf (curWarp t) 1 = counterOf (curWarp s) 1 ∧ ∀ o ∈ (curWarp t).pend, o ∈ (curWarp s).pend
  behind : ∀ o, (curWarp s).pend.find? (fun o => o.counter == some 1) = some o → o.finished = false →
    counterOf (curWarp t) 1 = counterOf (curWarp s) 1 + 1
  warps : ∀ k, k ≠ s.cur → warpOf t k = warpOf s k
  memory : ∀ a, Memory.byte t.mem a = Memory.byte s.mem a

theorem ovld_held {p : Option Prefix} {d a : BitVec 7} {s : State} (issues : Issues (.ovld p d a) s) {i : Nat}
    (found : findSlot s (ownSlots s) (runnerOf s s.cur) (mkRef (askedId (readS s (numA p a))) 0xFE 0 0) = some i)
    (ended : (slotAt (ownSlots s) i).state ≠ .loading) (runs : StillRuns s s.cur)
    (fresh : ∀ o ∈ (curWarp s).pend, o.id ≠ (curWarp s).nextOp) : ∃ t, exec (.ovld p d a) s = .next t ∧
      OvldHeld (numD p d) (mkRef (askedId (readS s (numA p a))) i (slotAt (ownSlots s) i).gen 0) i s t := by
  have runs' : StillRuns (shared s i) (shared s i).cur := by
    rw [shared, setSlots_cur]
    exact runs.of_split (by rw [warpOf_setSlots])
  obtain ⟨ref, scalars, alone, behind, outside⟩ :=
    finishNewest_atOnce runs' (heldLoad_entered (s := s) (d := numD p d) (v := readS s (numA p a)) i)
  have warp : curWarp (shared s i) = curWarp s := curWarp_setSlots ..
  rw [warp] at alone behind
  refine ⟨_, (exec_ovld issues).trans (congrArg _ ((ovloadWord_held found).trans (if_neg ended))), ref,
    fun m ne ne' => (scalars m ne ne').trans (readS_setSlots ..), ?_, alone fresh, behind fresh, fun k other => ?_, fun x => ?_⟩
  · rw [slotsOf_onlyWarp outside, shared, slotsOf_setSlots]
  · rw [outside.others k (by rw [shared, setSlots_cur]; exact other), shared, warpOf_setSlots]
  · rw [outside.memory, shared, setSlots_mem]

/-- An `OVLD` that begins a load in the run of slots from `f` on (R162, R178). -/
structure OvldBegun (d : Nat) (v : Word) (f : Nat) (s t : State) : Prop where
  ref : readP t d = mkRef (askedId v) f ((slotAt (ownSlots s) f).gen + 1) 0
  counter : counterOf (curWarp t) 1 = counterOf (curWarp s) 1 + 1
  slot : RunLoading (ownSlots s) f (askedCount v) (askedId v) (slotAt (slotsOf t (ownStore s)) f)
  scalars : ∀ m, m ≠ d → m ≠ d + 1 → readS t m = readS s m
  memory : ∀ a, Memory.byte t.mem a = Memory.byte s.mem a

theorem ovld_begins {p : Option Prefix} {d a : BitVec 7} {s : State} (issues : Issues (.ovld p d a) s)
    (absent : findSlot s (ownSlots s) (runnerOf s s.cur) (mkRef (askedId (readS s (numA p a))) 0xFE 0 0) = none) {f : Nat}
    (free : chooseRun s (ownStore s) (runnerOf s s.cur).mask (askedCount (readS s (numA p a))) = .run f) :
    ∃ t, exec (.ovld p d a) s = .next t ∧ OvldBegun (numD p d) (readS s (numA p a)) f s t := by
  obtain ⟨ref, scalars, -, counter, -, outside⟩ := loadEntered
    (allocate s (ownStore s) f (askedCount (readS s (numA p a))) (runnerOf s s.cur) (askedId (readS s (numA p a)))) (numD p d)
    (mkRef (askedId (readS s (numA p a))) f ((slotAt (ownSlots s) f).gen + 1) 0) f true
  have loading := allocate_loading s (ownStore s) f (k := askedCount (readS s (numA p a))) (Nat.succ_pos _) (runnerOf s s.cur)
    (askedId (readS s (numA p a)))
  obtain ⟨x, store⟩ := allocate_eq s (ownStore s) f (askedCount (readS s (numA p a))) (runnerOf s s.cur) (askedId (readS s (numA p a)))
  refine ⟨_, (exec_ovld issues).trans (congrArg _ (ovloadWord_run absent free)), ref, ?_, ?_, fun m ne ne' => ?_, fun x => ?_⟩
  · rw [counter, store, curWarp_setSlots]
  · rw [slotsOf_onlyWarp outside]; exact loading
  · rw [scalars m ne ne', store, readS_setSlots]
  · rw [outside.memory, store, setSlots_mem]

theorem ovld_full {p : Option Prefix} {d a : BitVec 7} {s : State} (issues : Issues (.ovld p d a) s)
    (absent : findSlot s (ownSlots s) (runnerOf s s.cur) (mkRef (askedId (readS s (numA p a))) 0xFE 0 0) = none)
    (full : chooseRun s (ownStore s) (runnerOf s s.cur).mask (askedCount (readS s (numA p a))) = .none ∨
      chooseRun s (ownStore s) (runnerOf s s.cur).mask (askedCount (readS s (numA p a))) = .pinned) (runs : StillRuns s s.cur) :
    ∃ t, exec (.ovld p d a) s = .next t ∧ readP t (numD p d) = mkRef (askedId (readS s (numA p a))) 0xFE 0 0 ∧
      ∀ m, m ≠ numD p d → m ≠ numD p d + 1 → readS t m = readS s m := by
  obtain ⟨ref, scalars, -, -, -⟩ := finishNewest_atOnce runs (loadEntered s (numD p d)
    (mkRef (askedId (readS s (numA p a))) 0xFE 0 0) 0xFE false)
  exact ⟨_, (exec_ovld issues).trans (congrArg _ (ovloadWord_full absent full)), ref, scalars⟩

/-- What an eviction leaves (R177). -/
structure Evicted (s : State) (c : Dword) (t : State) : Prop where
  slots : slotsOf t (ownStore s) = evict (ownSlots s) (refSlot c)
  free : (slotAt (slotsOf t (ownStore s)) (refSlot c)).count = 0
  gen : (slotAt (slotsOf t (ownStore s)) (refSlot c)).gen = (slotAt (ownSlots s) (refSlot c)).gen
  warps : ∀ k, warpOf t k = warpOf s k
  rest : { t with cores := s.cores, svcs := s.svcs } = s

theorem evictWord_evicted {s : State} {c : Dword} (live : Evictable s c) : Evicted s c (evictWord s c) := by
  have slots : slotsOf (evictWord s c) (ownStore s) = evict (ownSlots s) (refSlot c) := by
    rw [evictWord_evicts live, slotsOf_setSlots]
  refine ⟨slots, ?_, ?_, fun k => ?_, ?_⟩
  · rw [slots]; exact count_evict (count_of_current live.1)
  · rw [slots]; exact gen_evict ..
  · rw [evictWord_evicts live, warpOf_setSlots]
  · rw [evictWord_evicts live]; exact setSlots_rest ..

/-! ### An error in a slot (R160, R311, R343) -/

/-- The core of a Tidemark store begins to stop at an error (R343). -/
structure CoreFailing (sid : Nat) (s t : State) : Prop where
  failing : (svcOf t sid).failing = true
  stopped : (warpOf s sid).status = .running → (warpOf t sid).status = .stopped
  warps : ∀ k, k ≠ sid → warpOf t k = warpOf s k
  rest : { t with svcs := s.svcs, warps := s.warps } = s

theorem stopCore_onlyOne (s : State) (k : Nat) : OnlyOne k s (stopCore s k) := by
  unfold stopCore
  split
  · exact onlyOne_setWarp ..
  · exact ⟨fun _ _ => rfl, rfl⟩

theorem stopCore_stops {s : State} {k : Nat} (runs : (warpOf s k).status = .running) :
    (warpOf (stopCore s k) k).status = .stopped := by
  rw [stopCore, if_pos runs, warpOf_setWarp_same]

/-- The slot is POISON, and its reload has begun. -/
def reloading (x : Slot) : Slot := { x with state := .poison, loads := 1 }

section
variable {s : State} {sid i : Nat}

theorem slotAt_poisoned (s : State) (sid i : Nat) :
    slotAt (slotsOf (poisoned s sid i) sid) i = reloading (slotAt (slotsOf s sid) i) := by
  rw [poisoned, slotsOf_setSlots, slotAt_set, if_pos rfl]
  rfl

theorem poisoned_fails (service : sid < 16) :
    let t := stopCore (setSvc (poisoned s sid i) sid { svcOf (poisoned s sid i) sid with failing := true }) sid
    slotAt (slotsOf t sid) i = reloading (slotAt (slotsOf s sid) i) ∧ CoreFailing sid s t := by
  intro t
  obtain ⟨others, rest⟩ :=
    stopCore_onlyOne (setSvc (poisoned s sid i) sid { svcOf (poisoned s sid i) sid with failing := true }) sid
  have svcs : svcOf t sid = { svcOf (poisoned s sid i) sid with failing := true } := by
    have kept := congrArg (fun u => svcOf u sid) rest
    exact Eq.trans kept (svcOf_setSvc_same ..)
  have store : poisoned s sid i = { s with svcs := (poisoned s sid i).svcs } := by
    rw [poisoned, setSlots, if_pos service]
    rfl
  refine ⟨?_, by rw [svcs], fun runs => stopCore_stops ?_, fun k other => (others k other).trans ?_, ?_⟩
  · rw [← slotAt_poisoned, slotsOf, if_pos service, svcs, slotsOf, if_pos service]
  · rw [warpOf_setSvc, store]; exact runs
  · rw [warpOf_setSvc, store]; rfl
  · have kept := congrArg (fun u : State => ({ u with svcs := s.svcs, warps := s.warps } : State)) rest
    refine Eq.trans (b := ({ poisoned s sid i with svcs := s.svcs, warps := s.warps } : State)) kept ?_
    rw [store]

theorem slotError_ends (first : (slotAt (slotsOf s sid) i).first = i) (held : (slotAt (slotsOf s sid) i).count ≠ 0)
    (ready : (slotAt (slotsOf s sid) i).state = .ready) : ∃ t, exec (.slotError sid i) s = .next t ∧
      slotAt (slotsOf t sid) i = reloading (slotAt (slotsOf s sid) i) ∧
      (16 ≤ sid ∨ sid % 4 < 2 ∨ (svcOf s sid).running = false → { t with cores := s.cores, svcs := s.svcs } = s) ∧
      (sid < 16 → 2 ≤ sid % 4 → (svcOf s sid).running = true → CoreFailing sid s t) := by
  by_cases tide : isTideStore sid = true ∧ (svcOf s sid).running = true
  · have place : sid < 16 ∧ 2 ≤ sid % 4 := of_decide_eq_true tide.1
    obtain ⟨slot, failing⟩ := poisoned_fails (s := s) (i := i) place.1
    refine ⟨_, (exec_slotError first held ready).trans (congrArg _ (if_pos (by rw [tide.1, tide.2]; rfl))), slot,
      fun out => ?_, fun _ _ _ => failing⟩
    rcases out with above | low | still
    · omega
    · omega
    · rw [tide.2] at still; cases still
  · refine ⟨_, (exec_slotError first held ready).trans (congrArg _ (if_neg fun both => tide (by simpa using both))),
      slotAt_poisoned .., fun _ => setSlots_rest .., fun service role runs => absurd ⟨decide_eq_true ⟨service, role⟩, runs⟩ tide⟩

end

/-! ### The digest of an image that has been loaded (R157) -/

theorem loadImage_hash {s : State} {r : Runner} {x : Slot} {ws : List Word} (ok : loadImage s r x = .ok ws) :
    wordBytes ((ws.drop 12).take 4) = imageHash ws := by
  unfold loadImage at ok
  split at ok
  · cases ok
  · dsimp only at ok
    split at ok
    · cases ok
    · split at ok
      · cases ok
      · split at ok
        · next hash => cases ok; exact hash
        · cases ok

/-! ### A fragment that waits -/

/-- A fragment that waited for an overlay which is READY goes on there (R159). -/
structure Retried (w e : Nat) (pc : Dword) (link : Option Dword) (pop : Bool) (s t : State) : Prop where
  entry : entryOf (warpOf t w) e = { entryOf (warpOf s w) e with
    state := .leaf, wait := .none, pc := pc, left := 0, readyAt := s.stamp, fresh := false, aside := false }
  shelves : (svcOf t w).shelves = if pop then (svcOf s w).shelves.tail else (svcOf s w).shelves
  linked : ∀ v, link = some v → readP (asWarp t w e) 190 = v
  scalars : ∀ m, (link = none ∨ (m ≠ 190 ∧ m ≠ 191)) → readS (asWarp t w e) m = readS (asWarp s w e) m
  warps : ∀ k, k ≠ w → warpOf t k = warpOf s k
  memory : ∀ a, Memory.byte t.mem a = Memory.byte s.mem a

theorem demandReloadRetry_ready {s : State} {w e n : Nat} {c : Dword} {link : Option Dword} {own : BitVec 16} {pop : Bool}
    (waits : (entryOf (warpOf s w) e).wait = .reload c link own pop) (good : refBad c = false)
    (between : (entryOf (warpOf s w) e).left = 0)
    (found : findSlot s (slotsOf s (storeOf w (warpOf s w))) (runnerOf s w) c = some n)
    (ready : (slotAt (slotsOf s (storeOf w (warpOf s w))) n).state = .ready) {pc : Dword}
    (goes : applyOff (slotsOf s (storeOf w (warpOf s w))) n c = .go pc) :
    ∃ t, exec (.demandReloadRetry w e) s = .next t ∧ Retried w e pc link pop s t := by
  have resolved := resolve_asWarp_ready (e := e) good found ready
  rw [goes] at resolved
  refine ⟨_, demandReloadRetry_goes waits between resolved (setSlots_cur ..), ?_⟩
  let u := setSlots (asWarp s w e) (storeOf w (warpOf s w))
    (useSlot (slotsOf s (storeOf w (warpOf s w))) n (runnerOf s w).tenant)
  obtain ⟨woken, shelves, linked, scalars, cur, frag, warps, memory⟩ := wentOn_goes u pc link pop
  have here : (wentOn u pc link pop).cur = w := cur.trans (setSlots_cur ..)
  have fragment : (wentOn u pc link pop).frag = e := frag.trans (setSlots_frag ..)
  have same : asWarp (wentOn u pc link pop) w e = wentOn u pc link pop := by
    conv_lhs => rw [← here, ← fragment]
    rfl
  have entry : curEntry (wentOn u pc link pop) = entryOf (warpOf (wentOn u pc link pop) w) e := by
    rw [curEntry, fragment, curWarp, here]
  rw [setSlots_cur] at shelves warps
  have kept : (svcOf u w).shelves = (svcOf s w).shelves := by
    have slots := congrArg SvcCore.shelves (svcOf_setSlots_rest (asWarp s w e) (storeOf w (warpOf s w)) w
      (useSlot (slotsOf s (storeOf w (warpOf s w))) n (runnerOf s w).tenant))
    exact slots
  refine ⟨?_, ?_, fun v some => ?_, fun m free => ?_, fun k other => (warps k other).trans (warpOf_setSlots ..),
    fun a => (memory a).trans (by rw [setSlots_mem]; rfl)⟩
  · rw [← entry, woken, curEntry_setSlots, setSlots_stamp, show curEntry (asWarp s w e) = entryOf (warpOf s w) e from rfl, goesOn,
      between]
    rfl
  · exact shelves.trans (by rw [show (asWarp s w e).cur = w from rfl, kept])
  · rw [same]; exact linked v some
  · rw [same]; exact (scalars m free).trans (readS_setSlots ..)

end Sys2Proof.Machine
end

section
namespace Sys2Proof.Machine

/-- Settles O44, by the words, the events of a slot, and the retry of a waiting fragment. -/
theorem overlayLoads : Obligations.OverlayLoads := by
  unfold Obligations.OverlayLoads
  refine ⟨?load, ?evict, ?ask, ?slot, fun s r x ws ok => loadImage_hash ok, ?absent, ?present⟩
  case load =>
    intro p d a s issues v id k sid r
    refine ⟨fun i found loading => ovld_loading issues found loading, fun i found ended runs fresh => ?_,
      fun absent f free => ?_, fun absent full runs => ovld_full issues absent full runs⟩
    · obtain ⟨t, exec, ref, scalars, slots, alone, behind, warps, memory⟩ := ovld_held issues found ended runs fresh
      exact ⟨t, exec, ref, scalars, slots, alone, behind, warps, memory⟩
    · obtain ⟨t, exec, ref, counter, ⟨state, -, number, count⟩, scalars, memory⟩ := ovld_begins issues absent free
      exact ⟨t, exec, ref, counter, state, number, count, scalars, memory⟩
  case evict =>
    intro p a s issues sid c live
    refine ⟨fun bad => ?_, fun good kept => ?_, fun good lives => ?_⟩
    · rw [exec_ovevict issues, refWord_bad bad]
    · rw [exec_ovevict issues, refWord_good good, evictWord_kept kept]
    · obtain ⟨slots, free, gen, warps, rest⟩ := evictWord_evicted (s := s) (c := c) lives
      exact ⟨_, (exec_ovevict issues).trans (congrArg _ (refWord_good good _)), slots, free, gen, warps, rest⟩
  case ask =>
    intro p d a s issues t c x
    refine ⟨fun bad => by rw [exec_ovq issues, refWord_bad bad], fun good => ?_⟩
    refine ⟨_, _, (exec_ovq issues).trans (congrArg _ (refWord_good good _)), writeS_result .., fun current => ?_, ovqStatus_stale⟩
    have status := ovqStatus_current current
    exact ⟨fun state => status.trans (by rw [statusCode, state]; rfl), fun state => status.trans (by rw [statusCode, state]),
      fun state => status.trans (by rw [statusCode, state]), fun state => status.trans (by rw [statusCode, state])⟩
  case slot =>
    intro s sid i x first held none ends
    have ended {j : Instr} {y : Slot} (exec : exec j s = .next (loadEnds s sid i y)) (count : y.count = x.count) (used : y.used = x.used) :
        ends j y := by
      obtain ⟨slot, slots, warps, memory⟩ := loadEnds_ends (sid := sid) none count (count ▸ held) used
      exact ⟨_, exec, slot, slots, warps, memory⟩
    refine ⟨fun loading ws image => ended (exec_slotLoadComplete_ok first held none loading image) rfl rfl,
      fun loading code image => ended (exec_slotLoadComplete_error first held none loading image) rfl rfl,
      exec_slotLoadComplete_other, fun ready => ?_, fun _ waits => exec_slotReloadComplete_held waits, fun poison free => ?_⟩
    · obtain ⟨t, exec, slot, plain, tide⟩ := slotError_ends first held ready
      refine ⟨t, exec, slot, plain, fun service role runs => ?_⟩
      obtain ⟨failing, stopped, warps, rest⟩ := tide service role runs
      exact ⟨failing, stopped, warps, rest⟩
    · exact ⟨fun ws words => ended (exec_slotReloadComplete_some first held poison free words) rfl rfl,
        fun words => ended (exec_slotReloadComplete_none first held poison free words) rfl rfl⟩
  case absent =>
    intro s w e c link own pop waits good between sid r absent l image clean len k low high
    refine ⟨fun pinned => demandReloadRetry_parks waits between (resolve_asWarp_pinned good absent image clean low high pinned),
      fun f free => ?_⟩
    obtain ⟨state, -, number, count⟩ := allocate_loading (asWarp s w e) sid f (k := k) (by omega) r (refId c)
    obtain ⟨z, store⟩ := allocate_eq (asWarp s w e) sid f k r (refId c)
    refine ⟨_, demandReloadRetry_parks waits between (resolve_asWarp_run good absent image clean low high free), state, number, count,
      fun j => ?_, fun a => ?_⟩
    · rw [store, warpOf_setSlots]; rfl
    · rw [store, setSlots_mem]; rfl
  case present =>
    intro s w e c link own pop n waits good between sid found x off tgt ready entry target
    obtain ⟨t, exec, retried⟩ := demandReloadRetry_ready waits good between found ready (applyOff_go entry target)
    obtain ⟨woken, shelves, linked, scalars, warps, memory⟩ := retried
    exact ⟨t, exec, woken, shelves, linked, scalars, warps, memory⟩

end Sys2Proof.Machine
end

section
/-! SUPPORT. What a request to halt leaves of the cores (R151, R219), and the handler of a service core (R304, R318). -/

namespace Sys2Proof.Machine

/-! ### The entry of a handler (R304, R318) -/

/-- The shelf that an exception pushes, with every cause held at service privilege (R304). -/
def pushShelf (s : State) (k : Nat) (x : Shelf) : State :=
  setSvc s k { svcOf s k with hold := 15, priv := true, shelves := x :: (svcOf s k).shelves }

/-- The warp of a service core at its handler, whose reference is still to be resolved. -/
def handlerWarp (w : Warp) (resume : Dword) : Warp :=
  let v := { stopAt w 0 resume with lease := none }
  setEntry v 0 { entryOf v 0 with state := .leaf, wait := .none }

theorem handlerWarp_scalars (w : Warp) (resume : Dword) : (handlerWarp w resume).scalars = w.scalars := by
  obtain ⟨g, x, stopped⟩ := stopAt_eq w 0 resume
  rw [handlerWarp, stopped]
  rfl

/-- Service core `k` with shelf `x` pushed, after the resolution of its handler on its own store. -/
def atHandler (s : State) (k : Nat) (x : Shelf) : State :=
  let t := setWarp (pushShelf s k x) k (handlerWarp (warpOf s k) x.pc)
  (resolve t k (runnerOf t k) (k, 0) handlerRef).1

section
variable {s : State} {k : Nat} (resume : Dword) (cause : Bool → Word) (value : Dword) (n : Nat)

/-- With four shelves in use the core stops. -/
theorem svcEnter_full (full : 4 ≤ (svcOf s k).shelves.length) : ∃ w, w.scalars = (warpOf s k).scalars ∧
    svcEnter s k resume cause value (n + 1) = setWarp (setSvc s k { svcOf s k with running := false }) k w := by
  obtain ⟨g, x, stopped⟩ := stopAt_eq (warpOf s k) 0 resume
  refine ⟨{ stopAt (warpOf s k) 0 resume with status := .stopped, lease := none }, by rw [stopped], ?_⟩
  rw [svcEnter]
  exact if_pos full

/-- With a shelf free it is pushed and the handler is resolved: its warp goes on there or parks, or a further trap is taken. -/
theorem svcEnter_pushes (free : (svcOf s k).shelves.length < 4) :
    let u := atHandler s k ⟨resume, cause (svcOf s k).priv, value, (svcOf s k).hold⟩
    (∃ w, w.scalars = (warpOf u k).scalars ∧ svcEnter s k resume cause value (n + 1) = setWarp u k w) ∨
      ∃ c v, svcEnter s k resume cause value (n + 1) = svcEnter u k resume c v n := by
  intro u
  let t := setWarp (pushShelf s k ⟨resume, cause (svcOf s k).priv, value, (svcOf s k).hold⟩) k (handlerWarp (warpOf s k) resume)
  have enters : svcEnter s k resume cause value (n + 1) = match resolve t k (runnerOf t k) (k, 0) handlerRef with
      | (s3, .go pc) => setWarp s3 k (setEntry (warpOf s3 k) 0 { entryOf (warpOf s3 k) 0 with pc := pc })
      | (s3, .park) => setWarp s3 k (setEntry (warpOf s3 k) 0
          { entryOf (warpOf s3 k) 0 with state := .parked, wait := .reload handlerRef none (refOff resume) false })
      | (s3, .trap code _ v) => svcEnter s3 k resume (fun p => causeWord p 0 false code) v n := by
    rw [svcEnter]
    exact if_neg (by omega)
  rw [enters, show u = (resolve t k (runnerOf t k) (k, 0) handlerRef).1 from rfl]
  rcases resolve t k (runnerOf t k) (k, 0) handlerRef with ⟨s3, pc | _ | ⟨code, aux, v⟩⟩
  · refine .inl ⟨_, ?_, rfl⟩
    rfl
  · refine .inl ⟨_, ?_, rfl⟩
    rfl
  · exact .inr ⟨_, _, rfl⟩

end

/-! ### Halting changes no core (R151, R152) -/

/-- Latches, worlds, stores and engines of the cores stay as they are. -/
def CoresKept (s t : State) : Prop := t.cores = s.cores

namespace CoresKept

theorem refl (s : State) : CoresKept s s := rfl

theorem trans {s t u : State} (first : CoresKept s t) (second : CoresKept t u) : CoresKept s u := Eq.trans second first

theorem foldl {α : Type} {f : State → α → State} (step : ∀ t x, CoresKept t (f t x)) (s : State) (l : List α) :
    CoresKept s (l.foldl f s) :=
  foldl_preserves (P := fun t => CoresKept s t) (fun t x so => so.trans (step t x)) l (refl s)

theorem coreOf {s t : State} (h : CoresKept s t) (x : Nat) : coreOf t x = Machine.coreOf s x := by
  rw [Machine.coreOf, show t.cores = s.cores from h]
  rfl

end CoresKept

theorem endParked_cores (s : State) (w e : Nat) : CoresKept s (endParked s w e) := rfl

theorem endMwait_cores (s : State) (w e d : Nat) (v : Dword) : CoresKept s (endMwait s w e d v) :=
  CoresKept.trans (t := writeP (asWarp (dropReads s w e) w e) d v) ((writeP_result _ d v).outside.cores) (endParked_cores ..)

theorem queuePacket_cores (s : State) (pa : Nat) (p : Packet) : CoresKept s (queuePacket s pa p) := by
  unfold queuePacket
  split <;> exact rfl

theorem monSend_cores (s : State) (w e : Nat) (x : MUnit) (fill : Bool) : CoresKept s (monSend s w e x fill) := by
  unfold monSend
  dsimp only
  split
  · exact .refl s
  · exact CoresKept.trans (t := setWarp s w _) rfl (queuePacket_cores ..)

/-- A service core resolves its handler on its own store (R318). -/
theorem resolve_cores {s : State} {k : Nat} (service : k < 16) (r : Runner) (self : Nat × Nat) (c : Dword) :
    CoresKept s (resolve s k r self c).1 := by
  rcases resolve_state (s := s) (sid := k) (r := r) (self := self) (c := c) with same | ⟨t, store⟩
  · rw [same]; exact .refl s
  · rw [store, setSlots, if_pos service]; rfl

theorem svcEnter_cores {k : Nat} (service : k < 16) (resume : Dword) (n : Nat) (s : State) (cause : Bool → Word) (value : Dword) :
    CoresKept s (svcEnter s k resume cause value n) := by
  induction n generalizing s cause value with
  | zero => exact .refl s
  | succ n ih =>
    by_cases full : 4 ≤ (svcOf s k).shelves.length
    · obtain ⟨w, -, stops⟩ := svcEnter_full resume cause value n full
      rw [stops]; rfl
    · have entered : CoresKept s (atHandler s k ⟨resume, cause (svcOf s k).priv, value, (svcOf s k).hold⟩) :=
        CoresKept.trans (t := setWarp (pushShelf s k _) k _) rfl (resolve_cores service ..)
      rcases svcEnter_pushes resume cause value n (not_le.mp full) with ⟨w, -, goes⟩ | ⟨c, v, traps⟩
      · rw [goes]; exact entered
      · rw [traps]; exact entered.trans (ih ..)

theorem raiseTrap_cores (s : State) (k : Nat) (t : Trap) : CoresKept s (raiseTrap s k t) := by
  have bare (u : State) : CoresKept u (raiseBare u k t) := by
    unfold raiseBare
    split
    · next service => exact svcEnter_cores service ..
    · dsimp only
      split <;> exact rfl
  unfold raiseTrap
  dsimp only
  split
  · exact CoresKept.trans (t := setBlock s (warpOf s k).blk _) rfl (bare _)
  · exact bare s

theorem mwaitBad_cores (s : State) (w e cause : Nat) (va : Dword) : CoresKept s (mwaitBad s w e cause va) :=
  CoresKept.trans (t := endParked (dropReads s w e) w e) rfl (raiseTrap_cores ..)

/-- The state that a read of an `MWAIT` leaves, if it leaves one, has the cores of `s`. -/
def MonRead.KeepsCores (s : State) : MonRead → Prop
  | .wait t => CoresKept s t
  | .bad _ _ => True
  | .value t _ => CoresKept s t

theorem monRead_cores (s : State) (w e : Nat) : (monRead s w e).KeepsCores s := by
  unfold monRead
  dsimp only
  split
  · exact CoresKept.refl s
  · trivial
  · split
    · exact CoresKept.refl s
    · split
      · trivial
      · split
        · exact monSend_cores ..
        · split
          · exact monSend_cores ..
          · split
            · exact CoresKept.refl s
            · exact (unitRead_keeps ..).cores

theorem mwaitEnds_cores (s : State) (w e : Nat) : CoresKept s (mwaitEnds s w e) := by
  have kept := monRead_cores s w e
  unfold mwaitEnds
  split
  · exact endMwait_cores ..
  · split
    · next read => rw [read] at kept; exact kept
    · exact mwaitBad_cores ..
    · next read => rw [read] at kept; exact CoresKept.trans kept (endMwait_cores ..)
  · exact .refl s

theorem haltParked_cores (s : State) (k : Nat) : CoresKept s (haltParked s k) := by
  unfold haltParked
  dsimp only
  split
  · exact .refl s
  · split
    · exact .refl s
    · split
      · exact .refl s
      · split
        · split
          · exact mwaitEnds_cores ..
          · exact (mwaitEnds_cores ..).trans rfl
        · exact rfl

theorem haltBlock_cores (s : State) (k : Nat) : CoresKept s (haltBlock s k) := by
  unfold haltBlock
  dsimp only
  split
  · exact .refl s
  · refine CoresKept.trans (t := List.foldl _ (setBlock s k _) _) ?_ (.foldl haltParked_cores _ _)
    refine CoresKept.trans (t := setBlock s k _) rfl (.foldl (fun t w => ?_) _ _)
    split
    · exact rfl
    · exact .refl t

theorem haltBlocks_cores (s : State) (l : List Nat) : CoresKept s (haltBlocks s l) :=
  .foldl (fun t _ => .foldl haltBlock_cores t _) s l

/-! ### The handler (R304, R318) -/

/-- A service core may have pushed further shelves and stopped: what it holds and at what privilege it runs stays that of a handler,
and no cause, no scalar and no byte of memory changes. -/
structure HandlerKept (k : Nat) (s t : State) : Prop where
  shelves : ∃ l, (svcOf t k).shelves = l ++ (svcOf s k).shelves
  hold : (svcOf s k).hold = 15 → (svcOf t k).hold = 15
  priv : (svcOf s k).priv = true → (svcOf t k).priv = true
  pend : (svcOf t k).pend = (svcOf s k).pend
  scalars : (warpOf t k).scalars = (warpOf s k).scalars
  memory : t.mem = s.mem

namespace HandlerKept
variable {k : Nat}

theorem refl (s : State) : HandlerKept k s s := ⟨⟨[], rfl⟩, id, id, rfl, rfl, rfl⟩

theorem trans {s t u : State} (first : HandlerKept k s t) (second : HandlerKept k t u) : HandlerKept k s u := by
  obtain ⟨l, here⟩ := first.shelves
  obtain ⟨m, there⟩ := second.shelves
  exact ⟨⟨m ++ l, by rw [there, here, List.append_assoc]⟩, fun h => second.hold (first.hold h), fun h => second.priv (first.priv h),
    second.pend.trans first.pend, second.scalars.trans first.scalars, second.memory.trans first.memory⟩

theorem setWarp (s : State) {w : Warp} (scalars : w.scalars = (warpOf s k).scalars) : HandlerKept k s (setWarp s k w) :=
  ⟨⟨[], rfl⟩, id, id, rfl, by rw [warpOf_setWarp_same, scalars], rfl⟩

theorem stops (s : State) (b : Bool) : HandlerKept k s (setSvc s k { svcOf s k with running := b }) := by
  refine ⟨⟨[], ?_⟩, ?_, ?_, ?_, rfl, rfl⟩
  all_goals rw [svcOf_setSvc_same]
  · rfl
  · exact id
  · exact id

theorem setSlots (s : State) (sid : Nat) (t : Tbl Slot) : HandlerKept k s (setSlots s sid t) := by
  have rest := svcOf_setSlots_rest s sid k t
  have shelves := congrArg SvcCore.shelves rest
  have hold := congrArg SvcCore.hold rest
  have priv := congrArg SvcCore.priv rest
  have pend := congrArg SvcCore.pend rest
  exact ⟨⟨[], shelves⟩, hold.trans, priv.trans, pend, by rw [warpOf_setSlots], setSlots_mem ..⟩

end HandlerKept

theorem pushShelf_kept (s : State) (k : Nat) (x : Shelf) : HandlerKept k s (pushShelf s k x) := by
  refine ⟨⟨[x], ?_⟩, fun _ => ?_, fun _ => ?_, ?_, rfl, rfl⟩
  all_goals rw [pushShelf, svcOf_setSvc_same]
  rfl

theorem atHandler_kept (s : State) (k : Nat) (x : Shelf) : HandlerKept k (pushShelf s k x) (atHandler s k x) := by
  have entered : HandlerKept k (pushShelf s k x) (setWarp (pushShelf s k x) k (handlerWarp (warpOf s k) x.pc)) :=
    .setWarp _ (handlerWarp_scalars ..)
  unfold atHandler
  dsimp only
  rcases resolve_state with same | ⟨t, store⟩
  · rw [same]; exact entered
  · rw [store]; exact entered.trans (.setSlots ..)

theorem svcEnter_kept (k : Nat) (resume : Dword) (n : Nat) (s : State) (cause : Bool → Word) (value : Dword) :
    HandlerKept k s (svcEnter s k resume cause value n) := by
  induction n generalizing s cause value with
  | zero => exact .refl s
  | succ n ih =>
    by_cases full : 4 ≤ (svcOf s k).shelves.length
    · obtain ⟨w, scalars, stops⟩ := svcEnter_full resume cause value n full
      rw [stops]
      exact (HandlerKept.stops s false).trans (.setWarp _ scalars)
    · have entered := (pushShelf_kept s k ⟨resume, cause (svcOf s k).priv, value, (svcOf s k).hold⟩).trans (atHandler_kept ..)
      rcases svcEnter_pushes resume cause value n (not_le.mp full) with ⟨w, scalars, goes⟩ | ⟨c, v, traps⟩
      · rw [goes]; exact entered.trans (.setWarp _ scalars)
      · rw [traps]; exact entered.trans (ih ..)

/-- A service core with a shelf free: what follows the push of that shelf keeps it. -/
theorem svcEnter_pushed {s : State} {k : Nat} (free : (svcOf s k).shelves.length < 4) (resume : Dword) (cause : Bool → Word)
    (value : Dword) (n : Nat) : HandlerKept k (pushShelf s k ⟨resume, cause (svcOf s k).priv, value, (svcOf s k).hold⟩)
      (svcEnter s k resume cause value (n + 1)) := by
  rcases svcEnter_pushes resume cause value n free with ⟨w, scalars, goes⟩ | ⟨c, v, traps⟩
  · rw [goes]; exact (atHandler_kept ..).trans (.setWarp _ scalars)
  · rw [traps]; exact (atHandler_kept ..).trans (svcEnter_kept ..)

end Sys2Proof.Machine
end

section
/-! SUPPORT. ERET, WFI, IPI and the interrupt of a service core (R304, R305), and what WLATCH and KEYREV begin (R286, R290, R308,
R309). -/

namespace Sys2Proof.Machine

/-! ### ERET (R304) -/

section
variable {p : Option Prefix} {s : State}

theorem exec_eret (issues : Issues (.eret p) s) : exec (.eret p) s = .next (trapReturn s) :=
  exec_word (effect := fun s => trapReturn s) issues rfl

theorem trapReturn_none (empty : (svcOf s s.cur).shelves = []) : trapReturn s = takeTrap s 15 255 0 0 := by
  unfold trapReturn
  split
  · rfl
  · next shelves => rw [empty] at shelves; cases shelves

variable {x : Shelf} {rest : List Shelf} (shelves : (svcOf s s.cur).shelves = x :: rest)
include shelves

theorem trapReturn_top : trapReturn s = transferFor s x.pc none true := by
  unfold trapReturn
  split
  · next empty => rw [shelves] at empty; cases empty
  · next top => rw [shelves] at top; cases top; rfl

theorem trapReturn_bad (bad : refBad x.pc = true) : trapReturn s = takeTrap s 5 255 x.pc 0 := by
  rw [trapReturn_top shelves, transferFor, resolve_bad bad]
  exact rfl

theorem popShelf_top : popShelf s s.cur = setSvc s s.cur
    { svcOf s s.cur with hold := x.hold, priv := x.cause.getLsbD 31, shelves := rest } := by
  unfold popShelf
  dsimp only
  split
  · next empty => rw [shelves] at empty; cases empty
  · next top => rw [shelves] at top; cases top; rfl

/-- A return to a READY overlay: the shelf is popped with its HOLD and PRIV, and the fragment goes on at the reference (R159, R304). -/
structure Returned (n : Nat) (x : Shelf) (rest : List Shelf) (pc : Dword) (s t : State) : Prop where
  core : svcOf t s.cur = { svcOf s s.cur with
    hold := x.hold, priv := x.cause.getLsbD 31, shelves := rest
    slots := useSlot (slotsOf s s.cur) n (runnerOf s s.cur).tenant }
  pc : (curEntry t).pc = pc
  left : (curEntry t).left = 0
  entry : { curEntry t with pc := (curEntry s).pc, left := (curEntry s).left } = curEntry s
  warp : { curWarp t with split := (curWarp s).split } = curWarp s
  memory : ∀ a, Memory.byte t.mem a = Memory.byte s.mem a

theorem trapReturn_returns (service : s.cur < 16) (good : refBad x.pc = false) {n : Nat}
    (found : findSlot s (slotsOf s s.cur) (runnerOf s s.cur) x.pc = some n)
    (ready : (slotAt (slotsOf s s.cur) n).state = .ready) {pc : Dword} (goes : applyOff (slotsOf s s.cur) n x.pc = .go pc) :
    Returned n x rest pc s (trapReturn s) := by
  let u := setSlots s s.cur (useSlot (slotsOf s s.cur) n (runnerOf s s.cur).tenant)
  have core : svcOf u u.cur = { svcOf s s.cur with slots := useSlot (slotsOf s s.cur) n (runnerOf s s.cur).tenant } := by
    rw [setSlots_cur]; exact svcOf_setSlots s service _
  have own : storeOf s.cur (curWarp s) = s.cur := if_pos service
  have effect : trapReturn s = goTo (popShelf u u.cur) pc := by
    rw [trapReturn_top shelves, transferFor, own, resolve_ready good found ready, goes]
    rfl
  have popped : popShelf u u.cur = _ := popShelf_top (s := u) (x := x) (rest := rest) (by rw [core]; exact shelves)
  have warp : curWarp (popShelf u u.cur) = curWarp s := by rw [popped]; exact curWarp_setSlots ..
  have entry : curEntry (popShelf u u.cur) = curEntry s := by rw [popped]; exact curEntry_setSlots ..
  have goes : OnlyEntry { curEntry s with pc := pc, left := 0 } (popShelf u u.cur) (goTo (popShelf u u.cur) pc) := by
    rw [← entry]; exact setFrag_onlyEntry ..
  obtain ⟨moved, -, whole, outside⟩ := goes
  rw [effect]
  refine ⟨?_, congrArg Entry.pc moved, congrArg Entry.left moved, ?_, ?_, fun a => (outside.memory a).trans ?_⟩
  · have svcs : (goTo (popShelf u u.cur) pc).svcs = (popShelf u u.cur).svcs := outside.svcs
    have same : svcOf (goTo (popShelf u u.cur) pc) s.cur = svcOf (popShelf u u.cur) u.cur := by
      rw [svcOf, svcs, show u.cur = s.cur from setSlots_cur ..]; rfl
    rw [same, popped, svcOf_setSvc_same, core]
  · exact congrArg (fun y : Entry => { y with pc := (curEntry s).pc, left := (curEntry s).left }) moved
  · rw [warp] at whole
    exact whole
  · rw [popped]; exact congrArg (Memory.byte · a) (setSlots_mem ..)

end

/-! ### WFI and its wake (R305) -/

section
variable {p : Option Prefix} {s : State}

theorem exec_wfi (issues : Issues (.wfi p) s) : exec (.wfi p) s = .next
    (if (svcOf s s.cur).pend ≠ 0 then s else setFrag s { curEntry s with state := .parked, wait := .wfi }) :=
  exec_word (effect := fun s => if (svcOf s s.cur).pend ≠ 0 then s else setFrag s { curEntry s with state := .parked, wait := .wfi })
    issues rfl

theorem exec_wfiWake_none {k : Nat} (none : (svcOf s k).pend = 0) : exec (.wfiWake k) s = .next s := by
  have meaning : exec (.wfiWake k) s = execWfiWake k s := rfl
  rw [meaning, execWfiWake]
  exact congrArg _ (if_neg fun both => both.1 none)

theorem exec_wfiWake_some {k : Nat} (waits : (entryOf (warpOf s k) 0).wait = .wfi) (pending : (svcOf s k).pend ≠ 0) :
    exec (.wfiWake k) s = .next (wakeFragment s k 0) := by
  have meaning : exec (.wfiWake k) s = execWfiWake k s := rfl
  rw [meaning, execWfiWake]
  exact congrArg _ (if_pos ⟨pending, waits⟩)

end

/-! ### Messages (R305) -/

theorem setSvc_setSvc (s : State) (k : Nat) (c d : SvcCore) : setSvc (setSvc s k c) k d = setSvc s k d := by
  unfold setSvc
  rw [Tbl.set_set]

theorem enqueue_eq (s : State) (k : Nat) (m : Word) : enqueue s k m =
    setSvc s k { svcOf s k with msgs := (svcOf s k).msgs ++ [m], pend := (svcOf s k).pend ||| 1 } := by
  rw [enqueue, setPend, svcOf_setSvc_same, setSvc_setSvc]
  rfl

/-- An `IPI` puts its message into the queue of its core, or holds it. -/
def sendMessage (s : State) (k : Nat) (m : Word) : State :=
  if (svcOf s k).msgs.length < 16 ∧ (svcOf s k).held = [] then enqueue s k m
  else setSvc s k { svcOf s k with held := (svcOf s k).held ++ [(s.cur, m)] }

theorem sendMessage_queues {s : State} {k : Nat} (room : (svcOf s k).msgs.length < 16) (none : (svcOf s k).held = []) (m : Word) :
    svcOf (sendMessage s k m) k = { svcOf s k with msgs := (svcOf s k).msgs ++ [m], pend := (svcOf s k).pend ||| 1 } := by
  rw [sendMessage, if_pos ⟨room, none⟩, enqueue_eq, svcOf_setSvc_same]

theorem sendMessage_holds {s : State} {k : Nat} (full : 16 ≤ (svcOf s k).msgs.length ∨ (svcOf s k).held ≠ []) (m : Word) :
    svcOf (sendMessage s k m) k = { svcOf s k with held := (svcOf s k).held ++ [(s.cur, m)] } := by
  rw [sendMessage, if_neg (fun both => full.elim (fun high => by omega) fun some => some both.2), svcOf_setSvc_same]

theorem sendMessage_onlySvc (s : State) (k : Nat) (m : Word) : OnlySvc k s (sendMessage s k m) := by
  unfold sendMessage
  split
  · rw [enqueue_eq]; exact onlySvc_setSvc ..
  · exact onlySvc_setSvc ..

section
variable {p : Option Prefix} {a b : BitVec 7} {s : State}

/-- What an `IPI` of message `m` to core `x` does (R305). -/
def ipiWord (s : State) (x m : Word) : State :=
  if 15 < x.toNat then takeTrap s 15 noLane (x.setWidth 64) 0
  else if diesOf s ≤ x.toNat / 4 then takeTrap s 3 noLane ((codeWord s (curEntry s).here).setWidth 64) 0
  else if m = 0xFFFFFFFF then takeTrap s 15 noLane (m.setWidth 64) 0
  else sendMessage s x.toNat m

theorem exec_ipi (issues : Issues (.ipi p a b) s) :
    exec (.ipi p a b) s = .next (ipiWord s (readS s (numA p a)) (readS s (numB p b))) :=
  exec_word (effect := fun s => ipiWord s (scaA s p a) (scaB s p b)) issues rfl

theorem ipiWord_high {x : Word} (high : 15 < x.toNat) (m : Word) : ipiWord s x m = takeTrap s 15 255 (x.setWidth 64) 0 := if_pos high

variable {x : Word} (core : x.toNat ≤ 15)
include core

theorem ipiWord_absent (absent : diesOf s ≤ x.toNat / 4) (m : Word) :
    ipiWord s x m = takeTrap s 3 255 ((codeWord s (curEntry s).here).setWidth 64) 0 := (if_neg (by omega)).trans (if_pos absent)

variable (present : x.toNat / 4 < diesOf s)
include present

theorem ipiWord_ones : ipiWord s x 0xFFFFFFFF = takeTrap s 15 255 ((0xFFFFFFFF : Word).setWidth 64) 0 := by
  rw [ipiWord, if_neg (by omega), if_neg (by omega), if_pos rfl]
  exact rfl

theorem ipiWord_sends {m : Word} (message : m ≠ 0xFFFFFFFF) : ipiWord s x m = sendMessage s x.toNat m := by
  rw [ipiWord, if_neg (by omega), if_neg (by omega), if_neg message]

end

section
variable {s : State} {k q : Nat} {m : Word} {rest : List (Nat × Word)} (held : (svcOf s k).held = (q, m) :: rest)
include held

theorem exec_ipiDeliver_full (full : 16 ≤ (svcOf s k).msgs.length) : exec (.ipiDeliver k) s = .next s := by
  have meaning : exec (.ipiDeliver k) s = execIpiDeliver k s := rfl
  rw [meaning, execIpiDeliver]
  dsimp only
  rw [held]
  exact congrArg _ (if_neg (by omega))

theorem exec_ipiDeliver_room (room : (svcOf s k).msgs.length < 16) : exec (.ipiDeliver k) s = .next
    (setSvc s k { svcOf s k with held := rest, msgs := (svcOf s k).msgs ++ [m], pend := (svcOf s k).pend ||| 1 }) := by
  have meaning : exec (.ipiDeliver k) s = execIpiDeliver k s := rfl
  rw [meaning, execIpiDeliver]
  dsimp only
  rw [held]
  refine congrArg _ ((if_pos room).trans ?_)
  rw [enqueue_eq, svcOf_setSvc_same, setSvc_setSvc]

end

/-! ### Interrupts (R304, R305) -/

/-- The fields of SHCAUSE of an interrupt. -/
theorem causeWord_interrupt (priv : Bool) {i : Nat} (cause : i < 4) : (causeWord priv i true 0).getLsbD 31 = priv ∧
    ((causeWord priv i true 0).extractLsb' 9 3).toNat = i ∧ (causeWord priv i true 0).getLsbD 8 = true ∧
    (causeWord priv i true 0).extractLsb' 0 8 = 0#8 := by
  interval_cases i
  all_goals cases priv <;> decide

theorem exec_serviceInterrupt {s : State} {k i : Nat} (service : k < 16) (runs : (svcOf s k).running = true)
    (running : (warpOf s k).status = .running) (leaf : (entryOf (warpOf s k) 0).state = .leaf)
    (between : (entryOf (warpOf s k) 0).left = 0) (room : (svcOf s k).shelves.length < 4) (cause : i < 4)
    (pending : (svcOf s k).pend.getLsbD i = true) (free : (svcOf s k).hold.getLsbD i = false)
    (lowest : ∀ j, j < i → (svcOf s k).pend.getLsbD j = true → (svcOf s k).hold.getLsbD j = true) :
    exec (.serviceInterrupt k) s = .next (svcEnter s k (entryOf (warpOf s k) 0).pc (fun q => causeWord q i true 0) 0 5) := by
  have found : (List.range 4).find? (fun i => (svcOf s k).pend.getLsbD i && !(svcOf s k).hold.getLsbD i) = some i := by
    rw [List.find?_range_eq_some]
    refine ⟨by rw [pending, free]; rfl, List.mem_range.mpr cause, fun j below => ?_⟩
    cases set : (svcOf s k).pend.getLsbD j with
    | false => rfl
    | true => rw [lowest j below set]; rfl
  have meaning : exec (.serviceInterrupt k) s = execServiceInterrupt k s := rfl
  rw [meaning, execServiceInterrupt]
  dsimp only
  rw [found]
  exact congrArg _ (if_pos ⟨service, runs, running, leaf, between, room⟩)

/-- Service core `k` has taken interrupt `i` from `pc` with the state of the interrupted code on a shelf (R304). -/
structure InterruptTaken (k i : Nat) (pc : Dword) (s t : State) : Prop where
  shelf : ∃ l, (svcOf t k).shelves =
    l ++ [⟨pc, causeWord (svcOf s k).priv i true 0, 0, (svcOf s k).hold⟩] ++ (svcOf s k).shelves
  hold : (svcOf t k).hold = 15
  priv : (svcOf t k).priv = true
  pend : (svcOf t k).pend = (svcOf s k).pend
  scalars : (warpOf t k).scalars = (warpOf s k).scalars
  warps : ∀ j, j ≠ k → warpOf t j = warpOf s j
  memory : ∀ a, Memory.byte t.mem a = Memory.byte s.mem a

theorem svcEnter_interrupt {s : State} {k : Nat} (room : (svcOf s k).shelves.length < 4) (i : Nat) (pc : Dword) :
    InterruptTaken k i pc s (svcEnter s k pc (fun q => causeWord q i true 0) 0 5) := by
  obtain ⟨⟨l, shelves⟩, hold, priv, pend, scalars, memory⟩ := svcEnter_pushed room pc (fun q => causeWord q i true 0) 0 4
  rw [pushShelf, svcOf_setSvc_same] at shelves hold priv pend
  exact ⟨⟨l, by rw [shelves, List.append_assoc]; rfl⟩, hold rfl, priv rfl, pend, scalars, (svcEnter_onlyWaiter ..).others,
    fun a => by rw [memory]; rfl⟩

/-! ### WLATCH (R286, R308) -/

section
variable {p : Option Prefix} {a b : BitVec 7} {s : State}

/-- The core that the operand of a `WLATCH` names. -/
def latchCore (v : Word) : Nat := 40 * (v.toNat / 64 % 4) + v.toNat % 64

/-- What a `WLATCH` of core operand `v` and world `w` does (R308). -/
def wlatchWord (s : State) (v w : Word) : State :=
  if 39 < v.toNat % 64 then takeTrap s 15 noLane (v.setWidth 64) 0
  else if 255 < w.toNat then takeTrap s 15 noLane (w.setWidth 64) 0
  else if diesOf s ≤ v.toNat / 64 % 4 then takeTrap s 3 noLane ((codeWord s (curEntry s).here).setWidth 64) 0
  else startLatch s (latchCore v) w.toNat [s.cur]

theorem exec_wlatch (issues : Issues (.wlatch p a b) s) :
    exec (.wlatch p a b) s = .next (wlatchWord s (readS s (numA p a)) (readS s (numB p b))) :=
  exec_word (effect := fun s => wlatchWord s (scaA s p a) (scaB s p b)) issues rfl

variable {v w : Word}

theorem wlatchWord_high (high : 39 < v.toNat % 64) : wlatchWord s v w = takeTrap s 15 255 (v.setWidth 64) 0 := if_pos high

variable (core : v.toNat % 64 ≤ 39)
include core

theorem wlatchWord_wide (wide : 255 < w.toNat) : wlatchWord s v w = takeTrap s 15 255 (w.setWidth 64) 0 :=
  (if_neg (by omega)).trans (if_pos wide)

variable (world : w.toNat ≤ 255)
include world

theorem wlatchWord_absent (absent : diesOf s ≤ v.toNat / 64 % 4) :
    wlatchWord s v w = takeTrap s 3 255 ((codeWord s (curEntry s).here).setWidth 64) 0 := by
  rw [wlatchWord, if_neg (by omega), if_neg (by omega), if_pos absent]
  exact rfl

theorem wlatchWord_starts (present : v.toNat / 64 % 4 < diesOf s) : wlatchWord s v w = startLatch s (latchCore v) w.toNat [s.cur] := by
  rw [wlatchWord, if_neg (by omega), if_neg (by omega), if_neg (by omega)]

end

section
variable {s : State} {x world k : Nat}

/-- The core has the world already: the asker is told at once. -/
theorem startLatch_told (latched : (coreOf s x).latch = .latched) (same : (coreOf s x).world = world) :
    startLatch s x world [k] = setPend s k 2 := by
  rw [startLatch]
  exact (if_pos latched).trans (if_pos same)

theorem startLatch_drains (latched : (coreOf s x).latch = .latched) (other : (coreOf s x).world ≠ world) :
    coreOf (startLatch s x world [k]) x = { coreOf s x with latch := .draining, target := world, askers := [k] } := by
  have drains : startLatch s x world [k] = haltBlocks (setCore s x
      { coreOf s x with latch := .draining, target := world, askers := [k] }) (blocksOn s x) := by
    rw [startLatch]
    exact (if_pos latched).trans (if_neg other)
  rw [drains, (haltBlocks_cores ..).coreOf, coreOf_setCore_same]

theorem startLatch_joins (changing : (coreOf s x).latch ≠ .latched) : startLatch s x world [k] =
    setCore s x { coreOf s x with target := world, askers := (coreOf s x).askers ++ [k] } := by
  rw [startLatch]
  exact if_neg changing

end

/-! ### KEYREV (R290, R309) -/

theorem OnlyStored.svcs {s t : State} (h : OnlyStored s t) : t.svcs = s.svcs := by
  have same := congrArg State.svcs h.rest; exact same

/-- Lines that are discarded leave memory as it is. -/
theorem dropKeyLines_mem (s : State) (slot : Nat) : (dropKeyLines s slot false).mem = s.mem := by
  refine foldl_preserves (P := fun t : State => t.mem = s.mem) (fun t k same => ?_) _ rfl
  refine Eq.trans ?_ same
  unfold dropLines
  simp

section
variable {p : Option Prefix} {a b : BitVec 7} {s : State}

/-- What a `KEYREV` of slot `v` in the form `drop` does (R309). -/
def keyrevWord (s : State) (v : Word) (drop : Bool) : State :=
  if v.toNat = 0 ∨ 255 < v.toNat ∨ (keyOf s v.toNat).state ≠ .active then takeTrap s 15 noLane (v.setWidth 64) 0
  else revokeKey s v.toNat drop (some s.cur)

theorem exec_keyrev (issues : Issues (.keyrev p a b) s) :
    exec (.keyrev p a b) s = .next (keyrevWord s (readS s (numA p a)) ((readS s (numB p b)).getLsbD 0)) :=
  exec_word (effect := fun s => keyrevWord s (scaA s p a) ((scaB s p b).getLsbD 0)) issues rfl

/-- A revocation has begun (R290): no other slot and no warp changes. -/
structure RevocationBegun (n k : Nat) (drop : Bool) (s t : State) : Prop where
  flushes : drop = false → keyOf t n = { keyOf s n with state := .flushing, asker := some k }
  drops : drop = true → keyOf t n = { keyOf s n with state := .revoked, asker := none } ∧
    (svcOf t k).pend = (svcOf s k).pend ||| 8 ∧ ∀ a, Memory.byte t.mem a = Memory.byte s.mem a
  keys : ∀ j, j ≠ n → keyOf t j = keyOf s j
  warps : ∀ j, warpOf t j = warpOf s j

theorem revokeKey_begins (s : State) (n k : Nat) (drop : Bool) : RevocationBegun n k drop s (revokeKey s n drop (some k)) := by
  cases drop with
  | false =>
    refine ⟨fun _ => ?_, nofun, fun j other => ?_, fun _ => rfl⟩
    · exact (keyOf_setKey ..).trans (if_pos rfl)
    · exact (keyOf_setKey ..).trans (if_neg (Ne.symm other))
  | true =>
    have stored := dropKeyLines_stored s n false
    refine ⟨nofun, fun _ => ⟨?_, ?_, fun a => ?_⟩, fun j other => ?_, stored.warpOf⟩
    · exact (keyOf_setKey ..).trans (if_pos rfl)
    · have svc : svcOf (dropKeyLines s n false) k = svcOf s k := by rw [svcOf, stored.svcs]; rfl
      rw [← svc]
      exact congrArg SvcCore.pend (svcOf_setSvc_same ..)
    · exact congrArg (Memory.byte · a) (dropKeyLines_mem s n)
    · exact ((keyOf_setKey ..).trans (if_neg (Ne.symm other))).trans (stored.keyOf j)

end

end Sys2Proof.Machine
end

section
/-! O47: ERET, WFI, IPI and the interrupt of a service core, WLATCH and KEYREV. -/

namespace Sys2Proof.Machine

/-- Settles O47: each word acts by its cases; an interrupt pushes its shelf, and what may follow at the handler (R304, R318) keeps it. -/
theorem serviceWords : Obligations.ServiceWords := by
  refine ⟨?none, ?bad, ?top, ?wfi, ?wake, ?ipi, ?deliver, ?interrupt, ?wlatch, ?keyrev⟩
  case none =>
    intro p s issues empty
    rw [exec_eret issues, trapReturn_none empty]
  case bad =>
    intro p s x rest issues shelves bad
    rw [exec_eret issues, trapReturn_bad shelves bad]
  case top =>
    intro p s x rest n issues shelves service good c found y off ready clause target
    have low : ¬ off < 16 := by omega
    have goes : applyOff (slotsOf s s.cur) n x.pc = .go (mkRef y.id n y.gen (refOff x.pc)) := by
      rw [applyOff_go (fun entry => absurd entry low) (by rw [if_neg low]; exact target), if_neg low, BitVec.ofNat_toNat,
        BitVec.setWidth_eq]
    obtain ⟨core, pc, left, entry, warp, memory⟩ := trapReturn_returns shelves service good found ready goes
    exact ⟨_, exec_eret issues, core, pc, left, entry, warp, memory⟩
  case wfi =>
    intro p s issues
    refine ⟨fun pending => (exec_wfi issues).trans (congrArg _ (if_pos pending)), fun idle => ⟨_, exec_wfi issues, ?_⟩⟩
    rw [if_neg (not_not_intro idle)]
    exact setFrag_onlyEntry ..
  case wake =>
    intro k s waits
    refine ⟨exec_wfiWake_none, fun pending => ⟨_, exec_wfiWake_some waits pending, ?_, ?_, onlyOne_setWarp ..⟩⟩
    · rw [wakeFragment, warpOf_setWarp_same, entryOf_setEntry_same]
    · rw [wakeFragment, warpOf_setWarp_same]; rfl
  case ipi =>
    intro p a b s issues k m c
    rw [exec_ipi issues]
    refine ⟨fun high => congrArg _ (ipiWord_high high m), fun core absent => ⟨_, congrArg _ (ipiWord_absent core absent m)⟩,
      fun core present ones => ?_, fun core present message => ⟨_, congrArg _ (ipiWord_sends core present message), ?_⟩⟩
    · rw [show readS s (numB p b) = m from rfl, ones]; exact congrArg _ (ipiWord_ones core present)
    · exact ⟨(sendMessage_queues · · m), (sendMessage_holds · m), sendMessage_onlySvc ..⟩
  case deliver =>
    intro k s q m rest held c
    exact ⟨exec_ipiDeliver_full held, fun room => ⟨_, exec_ipiDeliver_room held room, svcOf_setSvc_same .., onlySvc_setSvc ..⟩⟩
  case interrupt =>
    intro k s i c x service runs running leaf between room cause pending free lowest
    obtain ⟨⟨l, shelf⟩, hold, priv, pend, scalars, warps, memory⟩ := svcEnter_interrupt room i x.pc
    obtain ⟨level, number, kind, code⟩ := causeWord_interrupt c.priv cause
    exact ⟨_, l, _, exec_serviceInterrupt service runs running leaf between room cause pending free lowest, shelf, level, number, kind,
      code, hold, priv, pend, scalars, warps, memory⟩
  case wlatch =>
    intro p a b s issues v world x
    rw [exec_wlatch issues]
    refine ⟨fun high => congrArg _ (wlatchWord_high high), fun core wide => congrArg _ (wlatchWord_wide core wide),
      fun core narrow absent => ⟨_, congrArg _ (wlatchWord_absent core narrow absent)⟩,
      fun core narrow present => ⟨startLatch s x world [s.cur], congrArg _ (wlatchWord_starts core narrow present),
        fun latched same => ?_, startLatch_drains, fun changing => ?_⟩⟩
    · rw [startLatch_told latched same]
      exact ⟨rfl, congrArg SvcCore.pend (svcOf_setSvc_same ..), fun _ => rfl⟩
    · rw [startLatch_joins changing]
      exact ⟨coreOf_setCore_same .., fun _ => rfl⟩
  case keyrev =>
    intro p a b s issues n
    rw [exec_keyrev issues]
    refine ⟨fun bad => congrArg _ (if_pos bad), fun some slot active => ⟨_, congrArg _ (if_neg ?_), ?_⟩⟩
    · rintro (zero | high | other)
      · exact some zero
      · exact absurd high (by omega)
      · exact other active
    · obtain ⟨flushes, drops, keys, warps⟩ := revokeKey_begins s n s.cur ((readS s (numB p b)).getLsbD 0)
      exact ⟨flushes, drops, keys, warps⟩

end Sys2Proof.Machine
end
